-- ==== Sys2Proof/Word.lean ====
section
/-!
DEFINITION. The word types of the block. Every bit vector here is something the manual treats as bits: a
register word, an address while it is computed, a code of a number format, an instruction word.
-/
namespace Sys2Proof

/-- One byte; multi-byte values are little-endian throughout the block (02_number_formats.md). -/
abbrev Byte := BitVec 8
/-- A management register (R403: 32 bits). -/
abbrev Reg32 := BitVec 32
/-- A scalar register, a block address or a code of up to 64 bits (R10, R106). -/
abbrev Word64 := BitVec 64

end Sys2Proof
end

