-- ==== Sys2Proof/Syntax.lean ====
section
/-!
DEFINITION. The commands of the block: one constructor per row of spec/opcode_table.json, and the values each
row's rule lets vary (log 5).
-/
namespace Sys2Proof

/-- The fields of a Quern instruction word but OP, which the row fixes (R127). -/
structure QFields where
  /-- [55:50] destination register. -/
  d : Nat
  /-- [49:44] source A register. -/
  a : Nat
  /-- [43:38] source B register. -/
  b : Nat
  /-- [37:32] source C register. -/
  c : Nat
  /-- [31:28] input format code. -/
  fi : Nat
  /-- [27:24] output format code. -/
  fo : Nat
  /-- [23:22] rounding code. -/
  rnd : Nat
  /-- [21] saturate. -/
  sat : Bool
  /-- [20:18] predicate register. -/
  pred : Nat
  /-- [17:0] modifier. -/
  md : Nat
  deriving DecidableEq, Repr

/-- A message: the header of R321 and its data bytes. -/
structure Msg where
  kind : Nat
  fwd : Bool
  src : Nat
  roleEpoch : Nat
  step : Nat
  attempt : Nat
  addr : Nat
  aux : Nat
  /-- Bit b marks data bytes 64b to 64b + 63 as poisoned. -/
  poison : Nat
  tag : Nat
  data : List Byte
  deriving DecidableEq, Repr

/-- What the block reads of the serial NOR's SFDP tables at reset release (R369). -/
structure NorFind where
  signature : Bool
  fourByte : Bool
  octal : Bool
  deriving DecidableEq, Repr

/-- What the PHYs and devices report at the end of DFI initialisation (R221, R222, R236, R243): channels that
failed initialisation (bit 32 s + c, and 16 g + c), stacks that report an unsupported configuration, mapped
capacity of each stack, the trained rates, and the recorded rows whose hard repair failed. -/
structure DfiIn where
  hrFailed : Nat
  hrAbsent : Nat
  capGib : List Nat
  mpFailed : Nat
  hrRate : Nat
  mpRate : Nat
  hpprFailed : Nat
  deriving DecidableEq, Repr

/-- A work item the Governor dispatches at a boundary (R26, R150): logical index, the entry of the sampled tensor
table, and refresh or update entry. Its elements follow from R153. -/
structure Dispatch where
  logical : Nat
  entry : Nat
  refresh : Bool
  deriving DecidableEq, Repr

/-- What the Governor decides and the hardware reports at a Turn boundary (R19, R23, R26, R120, R121, R290, R313,
R342, R388, R406). -/
structure TurnIn where
  /-- Physical Querns with an internal error, in ascending order (R342). -/
  quernErrors : List Nat
  /-- Work items whose primary and checker ended with different CRCs: logical index and the two CRCs (R350). -/
  checks : List (Nat × Nat × Nat)
  /-- Cluster points the Governor wants, as (cluster, point) (R19). -/
  points : List (Nat × Nat)
  /-- Physical Querns whose context the Governor saves from this boundary, with the context area (R120). -/
  saves : List (Nat × Nat)
  /-- Saved logical indices and the physical Quern that restores each (R121). -/
  restores : List (Nat × Nat)
  /-- Leat engines pre-empted, and engines released (bit e) (R290). -/
  leatPreempt : Nat
  leatRelease : Nat
  /-- Bolter and Tailrace pre-empted or released (R313, R213). -/
  bolPreempt : Bool
  bolRelease : Bool
  trPreempt : Bool
  trRelease : Bool
  /-- Work items dispatched (R26). -/
  dispatch : List Dispatch
  /-- Whether the Governor completes the boundary sequence (R365). -/
  complete : Bool
  deriving DecidableEq, Repr

/-- Readings taken once per Wheel (R22, R224, R237, R407): stack temperatures (none when not valid), and the
Millpond groups one of whose ranks requests more than the base refresh rate (bit g). -/
structure WheelIn where
  stackTemp : List (Option Nat)
  mr4Hot : Nat
  deriving DecidableEq, Repr

/-- One AXI5 transaction on a host data or narrow request port (R397, R399 to R402). -/
structure AxiReq where
  /-- Port number. -/
  port : Nat
  /-- A narrow request port rather than a data port. -/
  narrow : Bool
  addr : Nat
  /-- Bytes of the transaction. -/
  len : Nat
  /-- Write data, least significant byte first, one byte per byte of the transaction. -/
  data : List Byte
  /-- Byte strobes, one per byte. -/
  strb : List Bool
  /-- Poison of each 64-byte granule the transaction touches, in ascending address (R400). -/
  poison : List Bool
  qos : Nat
  /-- The transaction uses an option R399 does not support (FIXED burst, tag, stash, DVM, larger size). -/
  unsupported : Bool
  /-- Atomic operation as R135 codes it (0 to 7 load, 8 swap, 9 compare), and whether it is big-endian. -/
  op : Nat
  bigEndian : Bool
  deriving DecidableEq, Repr

/-- An access a block-internal requester presents to the Sluice (R291): requester code and unit as REQ of R298,
context, virtual address, and whether it writes. -/
structure SlAccess where
  req : Nat
  u : Nat
  ctx : Nat
  va : Nat
  write : Bool
  deriving DecidableEq, Repr

/-- The commands. -/
inductive Instr where
  /-- RESET (R398): Release of hu_rst_n cold-resets the whole block and starts the start-up sequence. -/
  | reset (n : NorFind)
  /-- IMAGE_READ_DONE (R372): Once the Larrix image has been read, the block checks its header, section table and CRCs, and stops start-up on the first failing check. -/
  | imageReadDone (image : List Byte)
  /-- SEC_VERDICT (R374): A change of sec_img_done and sec_img_ok either continues start-up or stops it with error 0x04. -/
  | secVerdict (done ok : Bool)
  /-- MEMORY_FILL_DONE (R377): The Hopper, Quern store, Headrace and Millpond zero fill completes. -/
  | memoryFillDone
  /-- PORTS_OPEN (R377): At the first Turn boundary at which the fill, link bring-up and group formation are settled, the host data ports and narrow request ports open and GOV_BOOT_TURN is recorded. -/
  | portsOpen
  /-- TURN_BOUNDARY (R23): Every 2048 GCLK cycles the block applies, in order, fault hand-over, transaction commit, mode change, pre-emption and context save, the slot-table entry, and dispatch. -/
  | turnBoundary (t : TurnIn)
  /-- WHEEL_BOUNDARY (R22): Every 512 Turns the block performs its per-Wheel actions: thermal step-down, HBM temperature and MR4 reads, Sepia LINK_STATUS and the ledger check. -/
  | wheelBoundary (t : WheelIn)
  /-- OVERRUN_END (R27): A work item that overran the boundary completes, and the boundary actions waiting for its Quern then proceed. -/
  | overrunEnd (q cycles : Nat)
  /-- PM_ACK (R406): The power manager acknowledgement returns the applied voltage or a refusal, and completes the four-phase handshake. -/
  | pmAck (refused : Bool) (volt : Nat)
  /-- PM_ACK_TIMEOUT (R406): With no pm_ack 4096 Turns after pm_req, the block keeps the cluster held and records event class 0xC. -/
  | pmAckTimeout
  /-- TEMP_REPLY (R407): A temperature reply updates the sensor reading and drives the temperature-spread rules. -/
  | tempReply (temp : Nat)
  /-- TEMP_REPLY_TIMEOUT (R407): With no reply 256 GCLK cycles after ts_req, the previous reading stays in force and event class 0xC is recorded. -/
  | tempReplyTimeout
  /-- TURN_NOW_LO_READ (R31): A read of TURN_NOW_LO returns TURN_NOW[31:0] and latches TURN_NOW[47:32] for the reading requester. -/
  | turnNowLoRead (req : Nat)
  /-- REGISTER_WRITE (R7): A management write to a register without a row of its own takes effect, is staged or is refused under its access code. -/
  | registerWrite (req addr value strb : Nat)
  /-- FWR_CNT_CLEAR (R105): Clears the selected FWR counters. -/
  | fwrCntClear (w : Nat)
  /-- QN_RESUME (R118): QN_CMD.RESUME continues a halted work item at its next instruction, or is rejected and counted when the trap permits only DISCARD. -/
  | qnResume (q : Nat)
  /-- QN_DISCARD (R118): QN_CMD.DISCARD ends a halted work item and its sequence and marks the open step faulted. -/
  | qnDiscard (q : Nat)
  /-- CLR_REJ (R126): Clears QN_CMD_REJ of a Quern. -/
  | clrRej (q : Nat)
  /-- CLR_RESCALE (R126): Clears RESCALE_CNT of a Quern. -/
  | clrRescale (q : Nat)
  /-- CLR_UFB (R126): Clears UFB_CNT of a Quern. -/
  | clrUfb (q : Nat)
  /-- FNAN_VALID_CLEAR (R117): A W1C write to FNAN_INFO.FNAN_VALID clears the first-NaN record and re-arms the trap. -/
  | fnanValidClear (q : Nat)
  /-- CONTEXT_SAVE_DONE (R120): A context save completes, and the context may then be restored on the same or another Quern. -/
  | contextSaveDone (q : Nat)
  /-- QUERN_HANG (R342): A work item still incomplete 16 Turns after its overrun began makes the Quern hung, hence failed. -/
  | quernHang (q : Nat)
  /-- NOP (R127): Does nothing. -/
  | nop (q : Nat) (f : QFields)
  /-- ENDI (R132): Ends the work item once every earlier instruction has completed. -/
  | endi (q : Nat) (f : QFields)
  /-- ENDS (R132): Ends the work item and its sequence, and traps if a chain is open. -/
  | ends (q : Nat) (f : QFields)
  /-- BR (R127): Branches forward by the offset in MOD. -/
  | br (q : Nat) (f : QFields)
  /-- BRC (R127): Branches forward if the condition on two scalar registers holds. -/
  | brc (q : Nat) (f : QFields)
  /-- LOOP (R133): Runs the next L instructions s[A] times. -/
  | loop (q : Nat) (f : QFields)
  /-- WAITW (R134): Completes if a Hopper scratch word meets the condition, and otherwise ends the work item to be redispatched later. -/
  | waitw (q : Nat) (f : QFields)
  /-- MFENCE (R148): Completes once every earlier MPUT and ATOM is visible at the named scope. -/
  | mfence (q : Nat) (f : QFields)
  /-- ATOM (R135): Performs one atomic on Hopper scratch and returns the old value. -/
  | atom (q : Nat) (f : QFields)
  /-- QCRW (R114): Writes QCR from a scalar register. -/
  | qcrw (q : Nat) (f : QFields)
  /-- QCRR (R127): Reads QCR into a scalar register. -/
  | qcrr (q : Nat) (f : QFields)
  /-- FRD (R127): Reads f0 after every earlier instruction has completed. -/
  | frd (q : Nat) (f : QFields)
  /-- FCLR (R127): Clears the masked flags of f0. -/
  | fclr (q : Nat) (f : QFields)
  /-- SLI (R127): Loads an immediate field into a scalar register. -/
  | sli (q : Nat) (f : QFields)
  /-- SADDI (R127): Adds a sign-extended immediate to a scalar register. -/
  | saddi (q : Nat) (f : QFields)
  /-- SALU (R127): Performs a scalar ALU operation. -/
  | salu (q : Nat) (f : QFields)
  /-- TLD (R136): Loads a tile register and its metadata from the Quern store. -/
  | tld (q : Nat) (f : QFields)
  /-- TST (R137): Stores a tile to the Quern store, converting it where required. -/
  | tst (q : Nat) (f : QFields)
  /-- VLD (R138): Loads a vector register from the Quern store. -/
  | vld (q : Nat) (f : QFields)
  /-- VST (R138): Stores a vector register to the Quern store. -/
  | vst (q : Nat) (f : QFields)
  /-- MGET (R139): Starts a copy from block memory into the Quern store. -/
  | mget (q : Nat) (f : QFields)
  /-- MPUT (R139): Starts a copy from the Quern store to block memory. -/
  | mput (q : Nat) (f : QFields)
  /-- QUERN_TRANSFER_DONE (R139): An outstanding MGET or MPUT completes and frees its tag. -/
  | quernTransferDone (q tag : Nat)
  /-- MWAIT (R127): Completes when every tagged transfer has completed. -/
  | mwait (q : Nat) (f : QFields)
  /-- MCFG (R140): Sets the pending chain configuration of a free accumulator set. -/
  | mcfg (q : Nat) (f : QFields)
  /-- MMA_OPEN (R140): Opens a chain and performs its first MMA. -/
  | mmaOpen (q : Nat) (f : QFields)
  /-- MMA (R63): Performs one MMA into the open chain. -/
  | mma (q : Nat) (f : QFields)
  /-- DRN (R141): Drains and closes a chain with an optional fused epilogue. -/
  | drn (q : Nat) (f : QFields)
  /-- VADD (R142): Vector addition. -/
  | vadd (q : Nat) (f : QFields)
  /-- VSUB (R142): Vector subtraction. -/
  | vsub (q : Nat) (f : QFields)
  /-- VMUL (R142): Vector multiplication. -/
  | vmul (q : Nat) (f : QFields)
  /-- VFMA (R142): Vector fused multiply-add. -/
  | vfma (q : Nat) (f : QFields)
  /-- VDIV (R142): Vector division. -/
  | vdiv (q : Nat) (f : QFields)
  /-- VMAX (R142): Vector IEEE maximum. -/
  | vmax (q : Nat) (f : QFields)
  /-- VMIN (R142): Vector IEEE minimum. -/
  | vmin (q : Nat) (f : QFields)
  /-- VMAXN (R142): Vector maximumNumber. -/
  | vmaxn (q : Nat) (f : QFields)
  /-- VMINN (R142): Vector minimumNumber. -/
  | vminn (q : Nat) (f : QFields)
  /-- VABS (R142): Vector absolute value. -/
  | vabs (q : Nat) (f : QFields)
  /-- VNEG (R142): Vector negation. -/
  | vneg (q : Nat) (f : QFields)
  /-- VCPSGN (R142): Vector copySign. -/
  | vcpsgn (q : Nat) (f : QFields)
  /-- VREM (R142): Vector remainder. -/
  | vrem (q : Nat) (f : QFields)
  /-- VRINT (R142): Vector roundToIntegral. -/
  | vrint (q : Nat) (f : QFields)
  /-- VSCALB (R142): Vector scaleB. -/
  | vscalb (q : Nat) (f : QFields)
  /-- VLOGB (R142): Vector logB. -/
  | vlogb (q : Nat) (f : QFields)
  /-- VNEXT (R142): Vector nextUp or nextDown. -/
  | vnext (q : Nat) (f : QFields)
  /-- VCMP (R142): Vector comparison into a predicate register. -/
  | vcmp (q : Nat) (f : QFields)
  /-- VCLASS (R142): Vector IEEE class. -/
  | vclass (q : Nat) (f : QFields)
  /-- VSEL (R142): Per-lane select under a predicate. -/
  | vsel (q : Nat) (f : QFields)
  /-- VIOP (R142): Vector int32 operation. -/
  | viop (q : Nat) (f : QFields)
  /-- VMOV (R142): Vector copy. -/
  | vmov (q : Nat) (f : QFields)
  /-- VBCAST (R142): Broadcasts a scalar to every lane. -/
  | vbcast (q : Nat) (f : QFields)
  /-- VEXT (R142): Extracts one lane into a scalar register. -/
  | vext (q : Nat) (f : QFields)
  /-- VLANE (R142): Writes the lane index into each lane. -/
  | vlane (q : Nat) (f : QFields)
  /-- VPK (R142): Packs lane values into a byte stream. -/
  | vpk (q : Nat) (f : QFields)
  /-- VUPK (R142): Unpacks a byte stream into lanes. -/
  | vupk (q : Nat) (f : QFields)
  /-- VRCP (R143): Vector reciprocal. -/
  | vrcp (q : Nat) (f : QFields)
  /-- VRSQRT (R143): Vector reciprocal square root. -/
  | vrsqrt (q : Nat) (f : QFields)
  /-- VSQRT (R143): Vector square root. -/
  | vsqrt (q : Nat) (f : QFields)
  /-- VEXP2 (R143): Vector 2^x. -/
  | vexp2 (q : Nat) (f : QFields)
  /-- VLOG2 (R143): Vector log2. -/
  | vlog2 (q : Nat) (f : QFields)
  /-- CVT (R144): Converts one value per lane. -/
  | cvt (q : Nat) (f : QFields)
  /-- CVT_ODD (R144): Converts with round to odd. -/
  | cvtOdd (q : Nat) (f : QFields)
  /-- CVTB (R144): Block-scaled narrowing. -/
  | cvtb (q : Nat) (f : QFields)
  /-- CVTW (R144): Block-scaled widening. -/
  | cvtw (q : Nat) (f : QFields)
  /-- VRSUM (R144): Cross-lane sum. -/
  | vrsum (q : Nat) (f : QFields)
  /-- VRSSQ (R144): Cross-lane sum of squares. -/
  | vrssq (q : Nat) (f : QFields)
  /-- VRMAX (R144): Cross-lane maximum. -/
  | vrmax (q : Nat) (f : QFields)
  /-- VRMIN (R144): Cross-lane minimum. -/
  | vrmin (q : Nat) (f : QFields)
  /-- VRARGMAX (R144): Cross-lane argmax. -/
  | vrargmax (q : Nat) (f : QFields)
  /-- VRARGMIN (R144): Cross-lane argmin. -/
  | vrargmin (q : Nat) (f : QFields)
  /-- FWCVT (R145): FW96 term conversion. -/
  | fwcvt (q : Nat) (f : QFields)
  /-- FWADD (R145): Lane-wise FW96 addition. -/
  | fwadd (q : Nat) (f : QFields)
  /-- FWFIN (R145): FW96 finalisation to binary32. -/
  | fwfin (q : Nat) (f : QFields)
  /-- FWSQ (R146): FW128 norm term. -/
  | fwsq (q : Nat) (f : QFields)
  /-- FWADD128 (R146): Lane-wise FW128 addition. -/
  | fwadd128 (q : Nat) (f : QFields)
  /-- FWFIN128 (R146): FW128 norm finalisation to binary64. -/
  | fwfin128 (q : Nat) (f : QFields)
  /-- RBITS (R147): Draws raw Sail words into the lanes. -/
  | rbits (q : Nat) (f : QFields)
  /-- RUNI (R147): Draws uniform binary32 values into the lanes. -/
  | runi (q : Nat) (f : QFields)
  /-- RBERN (R147): Draws Bernoulli predicate bits. -/
  | rbern (q : Nat) (f : QFields)
  /-- EXPORT_START (R184): PS_EXP_CTL.START captures the committed state and begins an export, or sets an error when busy or when the format is reserved. -/
  | exportStart
  /-- EXPORT_DONE (R185): The export writes its last record and BUSY clears. -/
  | exportDone
  /-- STEP_OPEN (R197): An OPEN ring entry opens step s, or is refused, held or counted under the state machine. -/
  | stepOpen
  /-- SAIL_JUMP_DONE (R305): The jump-ahead completes, JUMP_BUSY clears and the lanes adopt the new positions. -/
  | sailJumpDone
  /-- LAYER_DOORBELL (R195): A LAYER ring entry announces a complete gradient buffer, or is ignored and counted. -/
  | layerDoorbell
  /-- HOST_ABORT (R208): An ABORT ring entry sends an early-abort notice with reason HOST, or is ignored when not permitted. -/
  | hostAbort
  /-- UNIT_ADMIT (R96): Once hold space is available, the owner admits the next unit in unit order and sends ADMIT. -/
  | unitAdmit
  /-- UNIT_FINALISE (R91): With the count complete, r agreed and any digest gate open, the owner finalises the unit, stores the reduced gradient and applies the recipe update. -/
  | unitFinalise (entry : Nat)
  /-- CKPT_WAIT_END (R217): Once a unit's records have been copied, its waiting update proceeds. -/
  | ckptWaitEnd (entry : Nat)
  /-- LAYER_DONE (R196): When every slice of a rung layer is sent and its credits are returned, the layer-done word is written. -/
  | layerDone (layer : Nat)
  /-- SETTLE_READY (R202): A chip that is locally ready enters SETTLE and sends its round A record and gradient-norm partials. -/
  | settleReady
  /-- EARLY_ABORT_SEND (R200): An overflow, a fault, a host abort or the grind timeout makes the chip send an early-abort notice and stop its recipe updates. -/
  | earlyAbortSend
  /-- REDO_RERUN (R205): After running updates complete, REDO writes the new GS and reruns the units updated with another factor. -/
  | redoRerun (entry : Nat)
  /-- ROUND_B_READY (R205): After reruns, deferred updates and refreshes finish, the chip sends its round B record and weight and update norm partials. -/
  | roundBReady
  /-- OPEN_TIMEOUT (R193): The decision root decides ABORT with reason TIMEOUT when the open timeout expires. -/
  | openTimeout
  /-- GRIND_TIMEOUT (R193): Expiry of the grind timeout sends an early-abort notice with reason TIMEOUT. -/
  | grindTimeout
  /-- SETTLE_TIMEOUT (R193): The decision root decides ABORT with reason TIMEOUT when a settle round times out. -/
  | settleTimeout
  /-- DECISION_WAIT_TIMEOUT (R200): A chip waiting beyond the decision-wait timeout sends QUERY to the standby root. -/
  | decisionWaitTimeout
  /-- STANDBY_ACK_TIMEOUT (R201): With no STANDBY_ACK within the settle timeout, the decision root treats the standby root as lost. -/
  | standbyAckTimeout
  /-- PUB_TIMEOUT (R193): Expiry of the publication timeout sets PUB_LATE. -/
  | pubTimeout
  /-- PUBLISH_RANGE (R210): The Tailrace converts the short copy of an owned range and multicasts the range as PUB messages. -/
  | publishRange
  /-- PUBLISH_DONE (R192): Once the chip's own sends are complete and every layer is ready, PUBLISH returns to IDLE. -/
  | publishDone
  /-- TR_REPUB (R212): A TR_REPUB write republishes a tensor's owned range, or sets TR_STATUS.ERR. -/
  | trRepub (w : Nat)
  /-- TR_CNT_CLEAR (R214): Clears the selected Tailrace counters. -/
  | trCntClear (w : Nat)
  /-- CHECKPOINT_DONE (R215): The checkpoint copy completes and its completion record is written. -/
  | checkpointDone
  /-- DIGEST_COMPUTE (R219): After a digest step commits, each owner computes and exchanges per-shard digests. -/
  | digestCompute
  /-- REPLAY (R218): Step s is re-applied to one unit from the committed state and stored gradients. -/
  | replay (entry : Nat)
  /-- STEP_CNT_CLEAR (R220): Clears the selected step counters. -/
  | stepCntClear (w : Nat)
  /-- PHY_FATAL_ERROR (R228): A PHY fatal error or a failed retraining declares a channel dead from the next boundary. -/
  | phyFatalError (mp : Bool) (channel : Nat)
  /-- PHY_UPDATE_REQUEST (R223): A dfi_phyupd request is granted at a Turn boundary within 2 Turns. -/
  | phyUpdateRequest (mp : Bool) (port : Nat)
  /-- SOFT_PPR_DONE (R235): The soft repair sequence completes and the bank is released. -/
  | softPprDone (repaired : Bool)
  /-- MEM_CNT_CLEAR (R243): Clears the selected memory counters. -/
  | memCntClear (w : Nat)
  /-- GRANULE_CONVERT_DONE (R251): A granule conversion between CACHE and SCRATCH completes and its BUSY bit clears. -/
  | granuleConvertDone (g : Nat)
  /-- HOP_CNT_CLEAR (R257): Clears the selected Hopper counters. -/
  | hopCntClear (w : Nat)
  /-- AXI_READ (R261): A host data port read is performed at its home and returns data with poison bits, or an error response. -/
  | axiRead (r : AxiReq)
  /-- AXI_WRITE (R261): A host data port write is performed at its home and answered once it is performed at PORT scope. -/
  | axiWrite (r : AxiReq)
  /-- AXI_ATOMIC (R253): A host AXI5 atomic is performed on Hopper scratch, or refused with SLVERR. -/
  | axiAtomic (r : AxiReq)
  /-- NARROW_SECTOR_REQUEST (R401): A narrow request port beat is one 32-byte sector request on the narrow path or at the home slice. -/
  | narrowSectorRequest (write : Bool) (r : AxiReq)
  /-- HOST_FENCE (R265): A 4-byte write to MM_FENCE starts a fence of the named scope, or completes with SLVERR. -/
  | hostFence (r : AxiReq)
  /-- FENCE_RESPONSE (R265): Once every earlier write is performed at the fence's scope, the fence responds. -/
  | fenceResponse (narrow : Bool) (port : Nat)
  /-- MM_CNT_CLEAR (R274): Clears the selected memory model counters. -/
  | mmCntClear (w : Nat)
  /-- LEAT_LINEAR (R281): Linear copy descriptor. -/
  | leatLinear (e : Nat)
  /-- LEAT_STRIDED (R281): Strided 4-D copy descriptor. -/
  | leatStrided (e : Nat)
  /-- LEAT_GATHER (R282): Gather descriptor through an index list. -/
  | leatGather (e : Nat)
  /-- LEAT_CONVERT (R283): Copy with format conversion. -/
  | leatConvert (e : Nat)
  /-- LEAT_IM2COL (R285): Im2col expansion descriptor. -/
  | leatIm2col (e : Nat)
  /-- LEAT_HALO_GATED (R286): Strided copy that waits behind its epoch gates. -/
  | leatHaloGated (e : Nat)
  /-- HALO_GATE_OPEN (R286): Once gate reads show every gate open, the gated copy starts. -/
  | haloGateOpen (e seq : Nat)
  /-- LEAT_APPEND (R288): Appends bytes to an append stream, taking pages from a free list. -/
  | leatAppend (e : Nat)
  /-- LEAT_WAIT_TIMEOUT (R286): A gate or free-list wait that reaches LEAT_WAIT_TMO completes with status 0x04. -/
  | leatWaitTimeout (e seq : Nat)
  /-- LEAT_COMPLETE (R279): A descriptor completes, its record is written and the completion count increments. -/
  | leatComplete (e seq : Nat)
  /-- LEAT_CNT_CLEAR (R300): Clears the selected Leat counters. -/
  | leatCntClear (w : Nat)
  /-- LEAT_CLR_UFB (R300): Clears every LEAT_UFB_CNT_e. -/
  | leatClrUfb
  /-- SLUICE_FAULT (R297): A translation or admission fault suspends its requester at its last completed burst. -/
  | sluiceFault (a : SlAccess)
  /-- FAULT_RECORD_WRITE (R297): Once ring space is available, a pending fault record is written. -/
  | faultRecordWrite
  /-- SL_RETRY (R299): SL_RESUME RETRY translates the faulting burst again and continues. -/
  | slRetry (token : Nat)
  /-- SL_DISCARD (R299): SL_RESUME DISCARD ends the suspended requester's work. -/
  | slDiscard (token : Nat)
  /-- SL_INVAL_ALL (R295): Invalidates cached translations of every context. -/
  | slInvalAll
  /-- SL_INVAL_CTX (R295): Invalidates cached translations of one context. -/
  | slInvalCtx (ctx : Nat)
  /-- SL_INVAL_DONE (R295): An invalidation completes and SL_INVAL_STATUS.BUSY clears. -/
  | slInvalDone
  /-- SL_CNT_CLEAR (R301): Clears the selected Sluice counters. -/
  | slCntClear (w : Nat)
  /-- BOLTER_JOB_START (R311): The next job of the job ring starts on all eight lanes, or is refused. -/
  | bolterJobStart
  /-- BATCH_WRITE (R315): Once ring space is available, a closed batch is written and the producer offset advances. -/
  | batchWrite
  /-- BOLTER_JOB_DONE (R312): A job completes, DONE is written and BOL_JOB_DONE increments. -/
  | bolterJobDone
  /-- BOL_CNT_CLEAR (R317): Clears the selected Bolter counters. -/
  | bolCntClear (w : Nat)
  /-- SAIL_CNT_CLEAR (R317): Clears SAIL_MISS_CNT. -/
  | sailCntClear (w : Nat)
  /-- NAK_FLIT (R325): A received NAK makes the sender resend every unacknowledged flit in SEQ order. -/
  | nakFlit (link : Nat) (flit : List Byte)
  /-- ACK_TIMEOUT (R325): With no ACK advance for GL_ACK_TMO cycles, the sender resends its unacknowledged flits. -/
  | ackTimeout (link : Nat)
  /-- PORT_ACTIVE (R326): A port returns to Active after training or retrain, and its links resend from their oldest flit, at half rate if x32. -/
  | portActive (port : Nat) (supported full : Bool)
  /-- RETRAIN_TIMEOUT (R326): A retrain not returning to Active within 64 Turns fails. -/
  | retrainTimeout (port : Nat)
  /-- TRAIN_FLIT (R334): TRAIN flits are compared, and after three agreeing ones the link comes up or stays down with a reason. -/
  | trainFlit (link : Nat) (flit : List Byte)
  /-- GL_LCMD_RETRAIN (R335): Requests a live retrain of the link's port. -/
  | glLcmdRetrain (link : Nat)
  /-- GL_LCMD_DISABLE (R335): Takes the link down at the next boundary. -/
  | glLcmdDisable (link : Nat)
  /-- GL_LCMD_ENABLE (R335): Starts link training again. -/
  | glLcmdEnable (link : Nat)
  /-- GL_LCMD_CLR (R337): Clears the link's counters. -/
  | glLcmdClr (link : Nat)
  /-- GL_CNT_CLEAR (R337): Clears the selected link counters. -/
  | glCntClear (w : Nat)
  /-- DISCOVERY_START (R336): Once every expected link is up or has failed, the decision root multicasts DISCOVER. -/
  | discoveryStart
  /-- DISCOVER_TIMEOUT (R336): A chip not replying within 50 ms is recorded as missing. -/
  | discoverTimeout
  /-- GROUP_FORMATION (R378): The group-formation DISCOVER carries the missing bitmap, and each chip sets GROUP_OK if its group is complete. -/
  | groupFormation
  /-- GROUP_FORMATION_TIMEOUT (R378): A chip that receives no group-formation or discovery message in time leaves GROUP_OK at 0. -/
  | groupFormationTimeout
  /-- OPEN_REC (R197): The decision root collects OPEN records and decides GO, HOLD or ABORT. -/
  | msgOpenRec (m : Msg)
  /-- DECISION_GO (R192): GO moves the chip to GRIND, writes the factor blocks and admits units. -/
  | msgDecisionGo (m : Msg)
  /-- DECISION_HOLD (R197): HOLD keeps the chip in OPEN until the missing change tags are applied. -/
  | msgDecisionHold (m : Msg)
  /-- DECISION_CONTINUE (R204): Round A CONTINUE fixes the clip factor and proceeds to round B. -/
  | msgDecisionContinue (m : Msg)
  /-- DECISION_COMMIT (R192): Round B COMMIT moves the step to COMMIT. -/
  | msgDecisionCommit (m : Msg)
  /-- DECISION_ABORT (R192): An ABORT decision moves the step to ABORT with a reason and a cause chip. -/
  | msgDecisionAbort (m : Msg)
  /-- ROUND_REC (R203): A chip's round record carries its overflow and fault marks. -/
  | msgRoundRec (m : Msg)
  /-- GROUP_REC (R203): A norm root's group record lets the decision root decide CONTINUE, ABORT or DIVERGED. -/
  | msgGroupRec (m : Msg)
  /-- EARLY_ABORT (R200): The decision root receives an early-abort notice and decides ABORT. -/
  | msgEarlyAbort (m : Msg)
  /-- STANDBY_ACK (R200): The standby root's acknowledgement lets the decision root send the decision down the tree. -/
  | msgStandbyAck (m : Msg)
  /-- QUERY (R200): The standby root answers a decision-wait query with the decision it holds. -/
  | msgQuery (m : Msg)
  /-- NORM_PART (R101): The norm root receives FW128 partials and combines them after recomputation at the largest r. -/
  | msgNormPart (m : Msg)
  /-- NORM_SUM (R101): The combined norm sums and value exponents are returned to every chip of the group. -/
  | msgNormSum (m : Msg)
  /-- ADMIT (R96): A unit admission lets the senders send their contributions to the unit. -/
  | msgAdmit (m : Msg)
  /-- FINAL (R99): A finalisation notice carries the final r and frees the hold space, and reducers recompute if needed. -/
  | msgFinal (m : Msg)
  /-- RECOMP (R99): A recompute request makes the receiver recompute its partial at a higher r and resend it. -/
  | msgRecomp (m : Msg)
  /-- DIGEST (R219): A peer shard digest is compared, and a mismatch is resolved. -/
  | msgDigest (m : Msg)
  /-- RESEND (R331): The source republishes a range or recopies a record after a write-off. -/
  | msgResend (m : Msg)
  /-- LOST (R332): A LOST notice may make the standby root take the root role or the decision root treat the standby as lost. -/
  | msgLost (m : Msg)
  /-- DISCOVER (R336): A chip forwards the discovery wave down its tree and replies with its link summary. -/
  | msgDiscover (m : Msg)
  /-- DISCOVER_REP (R336): The decision root records a chip's link summary and completes discovery when all have replied. -/
  | msgDiscoverRep (m : Msg)
  /-- LINK_STATUS (R331): A LINK_STATUS with SEPIA = 1 makes the receiver treat the link as down at the next boundary. -/
  | msgLinkStatus (m : Msg)
  /-- CONTRIB (R90): A contribution is checked for epoch, converted to terms and counted into the unit, or forwarded or discarded. -/
  | msgContrib (m : Msg)
  /-- PARTIAL (R98): A partial sum is added into the owner's totals, with its Z, N, count and MAXEXP. -/
  | msgPartial (m : Msg)
  /-- PUB (R209): Publication data is written into the receiver's plane, and the weights-ready word is written when the layer is complete. -/
  | msgPub (m : Msg)
  /-- VC4_RD (R270): A remote read is performed at its home and answered with RESP. -/
  | msgVc4Rd (m : Msg)
  /-- VC4_WR (R270): A remote whole-burst write is performed at its home and acknowledged. -/
  | msgVc4Wr (m : Msg)
  /-- VC4_WRS (R270): A remote one-burst write with strobes is performed at its home. -/
  | msgVc4Wrs (m : Msg)
  /-- VC4_ATOM (R270): A remote atomic is performed at its home scratch. -/
  | msgVc4Atom (m : Msg)
  /-- VC4_RESP (R270): A remote response completes the outstanding request with data or error. -/
  | msgVc4Resp (m : Msg)
  /-- VC4_WACK (R270): A remote write acknowledgement marks the write performed at its home. -/
  | msgVc4Wack (m : Msg)
  /-- BULK (R215): Checkpoint or export bulk data is written into the destination's DRAM. -/
  | msgBulk (m : Msg)
  /-- BUCKET_LEAK (R344): Every LEAK Turns each leaky bucket decrements unless it is zero. -/
  | bucketLeak
  /-- FLIP_ARM (R345): Arms a one-shot error injection applied to the next whole-burst write of the named instance. -/
  | flipArm
  /-- PLAUSIBILITY_REPLAY_DONE (R349): The replay of a unit that failed a check completes, and its CRC comparison gives the verdict. -/
  | plausibilityReplayDone (differs : Bool)
  /-- CHECKER_RECOMPUTE_DONE (R351): A third or fourth Quern's recomputation completes and the disagreement verdict is taken. -/
  | checkerRecomputeDone (crc : Nat)
  /-- FH_GRADE_SET (R356): Sets a unit's grade at the next boundary, or completes with PSLVERR when the change journal is full. -/
  | fhGradeSet (req w : Nat)
  /-- FIELD_TEST_DUE (R357): At its cadence a unit's in-field test starts, after a planned takeover for a Quern. -/
  | fieldTestDue (u : Nat)
  /-- FIELD_TEST_RESULT (R357): A test passes or fails and records event 0xD. -/
  | fieldTestResult (u : Nat) (pass : Bool)
  /-- TEST_ABORT (R359): FH_TEST_CTL.ABORT pre-empts a running test at the next boundary. -/
  | testAbort
  /-- FATAL_CLEAR (R352): Clearing FH_STATUS.FATAL lets OPEN be accepted again. -/
  | fatalClear
  /-- STATE_POISON_CLEAR (R347): Clearing FH_STATUS.STATE_POISON lets OPEN be accepted again. -/
  | statePoisonClear
  /-- JOURNAL_WRITE_DONE (R362): A journal record finishes programming and the next pending record starts, with compaction when needed. -/
  | journalWriteDone
  /-- SEPIA_ENTER (R365): FH_SEPIA_CMD.ENTER requests Sepia mode at the next boundary. -/
  | sepiaEnter
  /-- GOVERNOR_STALL (R365): 16 consecutive Turns without a completed boundary sequence enter Sepia mode with reason 0x1. -/
  | governorStall
  /-- CLR_CLASS (R368): Clears the selected FH_CLASS_CNT_c. -/
  | clrClass (w : Nat)
  /-- CLR_RING (R368): Clears FH_RING_DROP_CNT. -/
  | clrRing
  /-- CLR_CPER (R368): Clears FH_CPER_DROP_CNT. -/
  | clrCper
  /-- TXN_BEGIN (R380): Opens a transaction owned by the writing requester, or returns SLVERR. -/
  | txnBegin (req : Nat)
  /-- TXN_COMMIT (R382): Closes the transaction, assigns its id, reserves change journal entries and starts validation. -/
  | txnCommit (req wh : Nat)
  /-- TXN_ROLLBACK (R384): Discards the open transaction with RESULT 0x06. -/
  | txnRollback (req : Nat)
  /-- TXN_VALIDATED (R382): Validation and the table copy complete within 64 Turns, and the transaction becomes pending or refused. -/
  | txnValidated
  /-- TXN_CANCEL (R384): GOV_TXN_CANCEL withdraws a pending transaction if it is written in time. -/
  | txnCancel (id : Nat)
  /-- LOAD_TENSOR_TABLE (R381): Stages a tensor table load. -/
  | loadTensorTable (req : Nat)
  /-- LOAD_HYPERPARAMETER_SETS (R381): Stages a hyperparameter set load. -/
  | loadHyperparameterSets (req : Nat)
  /-- LOAD_ROUTE_TABLE (R381): Stages a route table load. -/
  | loadRouteTable (req : Nat)
  /-- LOAD_MULTICAST_TABLE (R381): Stages a multicast table load. -/
  | loadMulticastTable (req : Nat)
  /-- LOAD_CUSTOM_RECIPE (R381): Stages a custom recipe image load. -/
  | loadCustomRecipe (req : Nat)
  /-- RECIPE_REMOVAL (R381): Stages the removal of a recipe. -/
  | recipeRemoval (req : Nat)
  /-- LOAD_GOVERNOR_FIRMWARE (R381): Stages Governor firmware for the inactive slot. -/
  | loadGovernorFirmware (req : Nat)
  /-- MP_RETRAIN_DONE (R388): The retrain ends, held requests are released and GO returns to 0. -/
  | mpRetrainDone (failed : Nat)
  /-- CLR_DISC (R396): Clears GOV_PFW_DISC_CNT. -/
  | clrDisc
  /-- CLR_CJ_DROP (R396): Clears GOV_CJ_DROP_CNT. -/
  | clrCjDrop
  /-- PFW_ASSERT (R393): A power-fail warning channel asserts, and the sequence starts when the second channel asserts. -/
  | pfwAssert (chanB : Bool)
  /-- PFW_WINDOW_EXPIRY (R393): 20 µs after a lone assertion, the power-fail sequence starts with a discrepancy recorded. -/
  | pfwWindowExpiry
  /-- PF_DONE (R394): Once the pending journal records are written, gov_pf_done is asserted. -/
  | pfDone
  /-- PORT_CNT_CLEAR (R410): Clears BAD_AXI_CNT. -/
  | portCntClear (w : Nat)
  /-- DFI_INITIALISATION_DONE (R221): DFI initialisation and training of the Headrace stacks and Millpond groups completes: failing stacks and channels are made absent or mapped out, hard repair is applied, MEM_RATE is set and the DRAM fill can start. -/
  | dfiInitialisationDone (d : DfiIn)
  /-- DATA_FLIT (R325): A DATA flit arrives on a link and is checked for CRC and SEQ, stored or forwarded, its ACK and credit fields used, and a NAK raised when the receiver loses sequence. -/
  | dataFlit (link : Nat) (flit : List Byte)
  /-- IDLE_FLIT (R324): An IDLE flit arrives and its cumulative ACK and returned credits are applied, freeing replay buffer entries and transmit credits. -/
  | idleFlit (link : Nat) (flit : List Byte)
  /-- CONTEXT_RESTORE_DONE (R120): A context restore onto a Quern completes, the Quern leaves the restoring state and the restored work item may continue. -/
  | contextRestoreDone (q : Nat)
  /-- TABLE_COPY_DONE (R383): The table copies of an applied transaction complete within 8 Turns, and the units waiting to consult those tables proceed. -/
  | tableCopyDone
  /-- PFW_DEASSERT (R393): A power-fail warning channel deasserts, which clears its GOV_PFW_STATUS bit without cancelling a running window or sequence. -/
  | pfwDeassert (chanB : Bool)
  deriving DecidableEq, Repr

end Sys2Proof
end

