-- ==== Sys2Proof/Decode.lean ====
section
/-!
DEFINITION. The 64-bit Quern instruction word (R127), both ways, and the command a word of the opcode table spells:
the table gives no row bits, so no word spells a command.
-/
namespace Sys2Proof

/-- The word of an operation code and fields (R127). -/
def quernWord (op : Nat) (f : QFields) : Nat :=
  op * 2 ^ 56 + f.d * 2 ^ 50 + f.a * 2 ^ 44 + f.b * 2 ^ 38 + f.c * 2 ^ 32 + f.fi * 2 ^ 28 + f.fo * 2 ^ 24
    + f.rnd * 2 ^ 22 + (if f.sat then 2 ^ 21 else 0) + f.pred * 2 ^ 18 + f.md

/-- The operation code of a word. -/
def quernOp (w : Nat) : Nat := w / 2 ^ 56 % 256

/-- The fields of a word. -/
def quernFields (w : Nat) : QFields where
  d := w / 2 ^ 50 % 64
  a := w / 2 ^ 44 % 64
  b := w / 2 ^ 38 % 64
  c := w / 2 ^ 32 % 64
  fi := w / 2 ^ 28 % 16
  fo := w / 2 ^ 24 % 16
  rnd := w / 2 ^ 22 % 4
  sat := decide (w / 2 ^ 21 % 2 = 1)
  pred := w / 2 ^ 18 % 8
  md := w % 2 ^ 18

/-- The command a table word spells: none, since no row of the table has bits. -/
def decodeTableWord (_nbits _w : Nat) : Option Instr := none

end Sys2Proof
end

