-- ==== Sys2Proof/Config.lean ====
section
/-!
DEFINITION. The values the spec leaves open: constants with no body, so that nothing can be proved of what they are
(log 4). Each is applied to the operands it depends on or to the model's counter of open values.
-/
namespace Sys2Proof

/-- The way the cache replaces (R247), by the counter. -/
opaque Config.replaceWay : Nat → Nat

/-- The row of a DRAM channel that holds a channel-local byte address (R235: the spec gives no row size). -/
opaque Config.rowOf : Bool → Nat → Nat → Nat

/-- Timebase value sampled with an event (R361, R408), by the counter. -/
opaque Config.timebase : Nat → Nat

/-- How a SECDED word with three or more bits in error decodes (R254), by the counter. -/
opaque Config.secded : Nat → Nat

/-- Whether a marked burst that has suffered errors is still recognised as marked (R412), by the counter. -/
opaque Config.markKnown : Nat → Bool

/-- A byte the spec does not specify: the destination of a copy whose ranges overlap (R281), by the counter. -/
opaque Config.freeByte : Nat → Byte

/-- Whether the home had performed a remote write or atomic that failed (R271), by the counter. -/
opaque Config.remoteDone : Nat → Bool

/-- The result of an operation for which a rule states none, by the counter. -/
opaque Config.freeWord : Nat → Nat

/-- The logical index whose Quern serves a unit, by its entry (R97, R106: the Governor's choice). -/
opaque Config.unitLogical : Nat → Nat

/-- The chip that owns a shard in another replica group (R188), by tensor, first element and replica group: the spec
names no place that holds it. -/
opaque Config.peerOwner : Nat → Nat → Nat → Nat

/-- The norm root of another replica group (R190), by replica group: the spec names no place that holds it. -/
opaque Config.normRootOf : Nat → Nat

/-- The Genle group of another chip (R378), by chip: the expected topology holds none. -/
opaque Config.chipGroup : Nat → Nat

/-- Whether what a custom recipe wrote for a unit is finite wherever its inputs are (R348): the recipe chooses its state's
layout, so the spec names no place of those values; by the counter. -/
opaque Config.customFinite : Nat → Bool

end Sys2Proof
end

