-- ==== Sys2Proof/Machine/Store.lean ====
section
/-!
DEFINITION. Sparse stores: a list of (key, value) pairs with strictly rising keys and no pair whose value is
what an unlisted key reads as. Memories, register files and tables are such stores, so equal contents are
equal data.
-/
namespace Sys2Proof.Machine

/-- A sparse store over natural keys; `mapGet` and `mapSet` take what an unlisted key reads as. -/
abbrev Store (β : Type) := List (Nat × β)

/-- The value at key `k`; an unlisted key reads as `d k`. -/
def mapGet {β : Type} (d : Nat → β) : Store β → Nat → β
  | [], k => d k
  | (k', v) :: m, k => if k = k' then v else mapGet d m k

/-- Write one key, keeping the canonical form: writing what an unlisted key reads as removes the entry. -/
def mapSet {β : Type} [DecidableEq β] (d : Nat → β) (m : Store β) (k : Nat) (v : β) : Store β :=
  m.filter (fun e => decide (e.1 < k)) ++ (if v = d k then [] else [(k, v)]) ++ m.filter (fun e => decide (k < e.1))

/-- Every key is above `lo` (when given) and rises, and no entry equals what an unlisted key reads as. -/
def mapWfFrom {β : Type} [DecidableEq β] (d : Nat → β) : Option Nat → Store β → Bool
  | _, [] => true
  | lo, (k, v) :: m =>
    (match lo with | none => true | some l => decide (l < k)) && decide (v ≠ d k) && mapWfFrom d (some k) m

/-- The canonical form of a store. -/
def mapWf {β : Type} [DecidableEq β] (d : Nat → β) (m : Store β) : Bool := mapWfFrom d none m

/-- The pairs of a run of values at consecutive keys, in canonical form. -/
def mapRun {β : Type} [DecidableEq β] (d : Nat → β) : Nat → List β → Store β
  | _, [] => []
  | k, v :: vs => if v = d k then mapRun d (k + 1) vs else (k, v) :: mapRun d (k + 1) vs

/-- Write a run of values at consecutive keys from `k`. -/
def mapWrite {β : Type} [DecidableEq β] (d : Nat → β) (m : Store β) (k : Nat) (vs : List β) : Store β :=
  m.filter (fun e => decide (e.1 < k)) ++ mapRun d k vs ++ m.filter (fun e => decide (k + vs.length ≤ e.1))

/-- Drop every entry with key in [lo, hi): those keys read as unlisted. -/
def mapErase {β : Type} (m : Store β) (lo hi : Nat) : Store β :=
  m.filter (fun e => decide (e.1 < lo) || decide (hi ≤ e.1))

/-- `n` values at consecutive keys from `k`. -/
def mapRead {β : Type} (d : Nat → β) (m : Store β) (k : Nat) : Nat → List β
  | 0 => []
  | n + 1 => mapGet d m k :: mapRead d m (k + 1) n

/-- Every value 0: what an unlisted bit vector reads as. -/
def zeroAt {n : Nat} (_ : Nat) : BitVec n := 0
/-- Every value false: what an unlisted mark reads as. -/
def offAt (_ : Nat) : Bool := false
/-- Every value 0: what an unlisted count reads as. -/
def natZeroAt (_ : Nat) : Nat := 0

end Sys2Proof.Machine
end

