-- ==== Sys2Proof/Machine/Bits.lean ====
section
/-!
DEFINITION. Bit fields, sign extension, byte order and the checks CRC-32C and CRC-64/ECMA-182.
-/
namespace Sys2Proof.Machine

/-- Bits [hi:lo] of a number (00_scope.md, Conventions). -/
def fieldOf (w hi lo : Nat) : Nat := (w >>> lo) % 2 ^ (hi + 1 - lo)

/-- Bit n of a number. -/
def bitOf (w n : Nat) : Bool := (w >>> n) % 2 == 1

/-- A number with bits [hi:lo] replaced by the low bits of v. -/
def setField (w hi lo v : Nat) : Nat :=
  let m := 2 ^ (hi + 1 - lo)
  w - (fieldOf w hi lo) * 2 ^ lo + (v % m) * 2 ^ lo

/-- The n-bit two's-complement value of a code. -/
def signed (n x : Nat) : Int :=
  let y := x % 2 ^ n
  if y < 2 ^ (n - 1) then (y : Int) else (y : Int) - (2 ^ n : Nat)

/-- The n-bit two's-complement code of an integer, modulo 2^n. -/
def twosCode (n : Nat) (i : Int) : Nat := (i % (2 ^ n : Nat)).toNat

/-- 1 for true. -/
def b2n (b : Bool) : Nat := if b then 1 else 0

/-- The value of little-endian bytes. -/
def leNat : List Byte → Nat
  | [] => 0
  | b :: bs => b.toNat + 256 * leNat bs

/-- The low n bytes of x, little-endian. -/
def leBytes : Nat → Nat → List Byte
  | 0, _ => []
  | n + 1, x => BitVec.ofNat 8 x :: leBytes n (x / 256)

/-- `n` zero bytes. -/
def zeroBytes (n : Nat) : List Byte := List.replicate n 0

/-- A list cut or zero-padded to exactly n bytes. -/
def padTo (n : Nat) (bs : List Byte) : List Byte := (bs ++ zeroBytes n).take n

/-- Round x up to a multiple of m. -/
def roundUp (x m : Nat) : Nat := (x + m - 1) / m * m

/-- ceil(x / m). -/
def ceilDiv (x m : Nat) : Nat := (x + m - 1) / m

/-- Bytes [off, off+n) of a record, as a little-endian number. -/
def leAt (bs : List Byte) (off n : Nat) : Nat := leNat ((bs.drop off).take n)

/-- One bit step of CRC-32C (reflected polynomial 0x82F6_3B78). -/
def crc32cBit (c : Nat) : Nat := if c % 2 == 1 then (c >>> 1) ^^^ 0x82F63B78 else c >>> 1

/-- The running CRC-32C after one byte. -/
def crc32cByte (c : Nat) (b : Byte) : Nat :=
  let c := c ^^^ b.toNat
  crc32cBit (crc32cBit (crc32cBit (crc32cBit (crc32cBit (crc32cBit (crc32cBit (crc32cBit c)))))))

/-- CRC-32C of bytes (R12: Larrix sections, recipe code, journal records). -/
def crc32c (bs : List Byte) : Nat := (bs.foldl crc32cByte 0xFFFFFFFF) ^^^ 0xFFFFFFFF

/-- One bit step of CRC-64/ECMA-182 (R320: polynomial 0x42F0_E1EB_A9EA_3693, no reflection). -/
def crc64Bit (c : Nat) : Nat :=
  let d := (c <<< 1) % 2 ^ 64
  if bitOf c 63 then d ^^^ 0x42F0E1EBA9EA3693 else d

/-- The running CRC-64 after one byte. -/
def crc64Byte (c : Nat) (b : Byte) : Nat :=
  let c := c ^^^ (b.toNat <<< 56)
  crc64Bit (crc64Bit (crc64Bit (crc64Bit (crc64Bit (crc64Bit (crc64Bit (crc64Bit c)))))))

/-- CRC-64/ECMA-182 of bytes (R320: initial value 0, no final XOR). -/
def crc64 (bs : List Byte) : Nat := bs.foldl crc64Byte 0

/-- The sum of a function over indices 0 to n-1. -/
def sumTo (f : Nat → Nat) : Nat → Nat
  | 0 => 0
  | n + 1 => sumTo f n + f n

/-- A word whose bit i is f i, for i below n. -/
def bitsFrom (f : Nat → Bool) : Nat → Nat
  | 0 => 0
  | n + 1 => bitsFrom f n + (if f n then 2 ^ n else 0)

/-- Element i of a list replaced by f of it. -/
def modAt {α : Type} (l : List α) (i : Nat) (f : α → α) : List α := l.modify i f

end Sys2Proof.Machine
end

