-- ==== Sys2Proof/Machine/Ecc.lean ====
section
/-!
DEFINITION. Decoding of stored error patterns: the Reed-Solomon codes of Headrace and Millpond (R231, R232) and
SECDED (R254). The codes are linear, so what a decoder does depends on the error pattern alone.
-/
namespace Sys2Proof.Machine

/-- Product in GF(2^8) with polynomial x^8 + x^4 + x^3 + x^2 + 1, over the bits of b. -/
def gfMulGo : Nat → Nat → Nat → Nat → Nat
  | 0, _, _, acc => acc
  | n + 1, a, b, acc =>
    let a2 := a <<< 1
    gfMulGo n (if bitOf a2 8 then a2 ^^^ 0x11D else a2) (b / 2) (if b % 2 = 1 then acc ^^^ a else acc)

def gfMul (a b : Nat) : Nat := gfMulGo 8 a b 0

/-- a^n in GF(2^8). -/
def gfPow (a : Nat) : Nat → Nat
  | 0 => 1
  | n + 1 => gfMul a (gfPow a n)

/-- Inverse of a non-zero element: a^254. -/
def gfInv (a : Nat) : Nat := gfPow a 254

/-- Syndrome j of an error pattern of a code of n symbols: symbol i is the coefficient of x^(n-1-i). -/
def rsSyndrome (n j : Nat) (e : List (Nat × Nat)) : Nat :=
  e.foldl (fun a p => a ^^^ gfMul p.2 (gfPow 2 (j * (n - 1 - p.1)))) 0

/-- Gaussian elimination over GF(2^8): solve for `k` unknowns from rows of k coefficients and a constant; none
when singular. -/
def gfSolve : Nat → List (List Nat) → Option (List Nat)
  | 0, rows => if rows.all (fun r => r.all (fun x => x == 0)) then some [] else none
  | k + 1, rows =>
    match rows.find? (fun r => r.headD 0 != 0) with
    | none => none
    | some p =>
      let inv := gfInv (p.headD 0)
      let p := p.map (gfMul inv)
      let rest := (rows.erase (p.map (gfMul (gfInv inv)))).map (fun r =>
        let c := r.headD 0
        ((r.zip p).map (fun (x, y) => x ^^^ gfMul c y)).drop 1)
      match gfSolve k rest with
      | none => none
      | some xs =>
        let t := (((p.drop 1).zip xs).foldl (fun a (x, y) => a ^^^ gfMul x y) 0)
        some ((p.getLastD 0 ^^^ t) :: xs)

/-- All positions whose inverse locators are roots of Λ(x) = 1 + Λ1 x + … . -/
def rsRoots (n : Nat) (lam : List Nat) : List Nat :=
  (List.range n).filter (fun i =>
    let xi := gfInv (gfPow 2 (n - 1 - i))
    (lam.zipIdx.foldl (fun a (c, k) => a ^^^ gfMul c (gfPow xi (k + 1))) 1) == 0)

/-- Decode with ν errors: locator from the syndromes, its roots, then the values; none unless every syndrome is
explained. -/
def rsTry (n r nu : Nat) (syn : List Nat) : Option (List (Nat × Nat)) :=
  let s (i : Nat) : Nat := syn.getD i 0
  -- s(i+ν) = Σ Λk s(i+ν-k), unknowns Λ1..Λν
  let rows := (List.range (r - nu)).map (fun i => (List.range nu).map (fun k => s (i + nu - 1 - k)) ++ [s (i + nu)])
  match gfSolve nu rows with
  | none => none
  | some lam =>
    let pos := rsRoots n lam
    if pos.length ≠ nu then none
    else
      let rows2 := (List.range r).map (fun j => pos.map (fun i => gfPow 2 (j * (n - 1 - i))) ++ [s j])
      match gfSolve nu rows2 with
      | none => none
      | some vals => some (pos.zip vals)

/-- What a decoder does to a pattern: none when uncorrectable; otherwise the residual error after correction
(empty unless the pattern lies nearer another codeword). -/
def rsDecode (n r t : Nat) (e : List (Nat × Nat)) : Option (List (Nat × Nat)) :=
  let e := e.filter (fun p => p.2 != 0)
  if e.length ≤ t then some []
  else
    let syn := (List.range r).map (fun j => rsSyndrome n j e)
    if syn.all (fun x => x == 0) then some e
    else
      match (List.range t).findSome? (fun k => rsTry n r (k + 1) syn) with
      | none => none
      | some fix => some ((e ++ fix).map (fun p => p))

/-- Bytes with errors XORed in at their data positions. -/
def applyErr (data : List Byte) (e : List (Nat × Nat)) : List Byte :=
  e.foldl (fun d p => d.modify p.1 (fun b => b ^^^ BitVec.ofNat 8 p.2)) data

/-- Bits set in a byte. -/
def popcount8 (x : Nat) : Nat := sumTo (fun i => b2n (bitOf x i)) 8

/-- Bits in error in each of the eight words of a SECDED burst: data symbols 8k to 8k+7 and check symbol 64+k. -/
def secdedBits (e : List (Nat × Nat)) (k : Nat) : Nat :=
  e.foldl (fun a p => if p.1 / 8 = k ∧ p.1 < 64 ∨ p.1 = 64 + k then a + popcount8 p.2 else a) 0

end Sys2Proof.Machine
end

