-- ==== Sys2Proof/Machine/Regs.lean ====
section
/-!
DEFINITION. The management window's registers: offsets, access masks and reset values (R3, R7, R30, R105, R126,
R187, R214, R220, R243, R257, R274, R300, R301, R317, R337, R368, R396, R410).
-/
namespace Sys2Proof.Machine

/-- HU_IDENT (R3). -/
def oHuIdent : Nat := 0x0000
/-- HU_VERSION (R3). -/
def oHuVersion : Nat := 0x0004
/-- IRQ_STATUS (R410). -/
def oIrqStatus : Nat := 0x0010
/-- IRQ_ENABLE (R410). -/
def oIrqEnable : Nat := 0x0014
/-- IRQ_FORCE (R410). -/
def oIrqForce : Nat := 0x0018
/-- BAD_AXI_CNT (R410). -/
def oBadAxiCnt : Nat := 0x001C
/-- PORT_CNT_CLEAR (R410). -/
def oPortCntClear : Nat := 0x0020
/-- TURN_NOW_LO (R30). -/
def oTurnNowLo : Nat := 0x0040
/-- TURN_NOW_HI (R30). -/
def oTurnNowHi : Nat := 0x0044
/-- TURN_PHASE (R30). -/
def oTurnPhase : Nat := 0x0048
/-- QUERN_SLOW_0 (R30). -/
def oQuernSlow0 : Nat := 0x0050
/-- QUERN_SLOW_1 (R30). -/
def oQuernSlow1 : Nat := 0x0054
/-- CLUSTER_STATE (R30). -/
def oClusterState : Nat := 0x0060
/-- SLOT_PROFILE (R30). -/
def oSlotProfile : Nat := 0x00A0
/-- WHEEL_MAP (R30). -/
def oWheelMap : Nat := 0x0200
/-- FWR_HOLD_BASE (R105). -/
def oFwrHoldBase : Nat := 0x0400
/-- FWR_HOLD_SIZE (R105). -/
def oFwrHoldSize : Nat := 0x0404
/-- FWR_CEIL_BASE (R105). -/
def oFwrCeilBase : Nat := 0x0408
/-- FWR_NORM_BASE (R105). -/
def oFwrNormBase : Nat := 0x040C
/-- FWR_STATUS (R105). -/
def oFwrStatus : Nat := 0x0410
/-- FWR_RAISE_CNT (R105). -/
def oFwrRaiseCnt : Nat := 0x0414
/-- FWR_FAIL_CNT (R105). -/
def oFwrFailCnt : Nat := 0x0418
/-- FWR_NV_CNT (R105). -/
def oFwrNvCnt : Nat := 0x041C
/-- FWR_NORM_REDO_CNT (R105). -/
def oFwrNormRedoCnt : Nat := 0x0420
/-- FWR_HOLD_WAIT_CNT (R105). -/
def oFwrHoldWaitCnt : Nat := 0x0424
/-- FWR_CLAMP_CNT (R105). -/
def oFwrClampCnt : Nat := 0x0428
/-- FWR_CNT_CLEAR (R105). -/
def oFwrCntClear : Nat := 0x042C
/-- QUERN_MAP (R126). -/
def oQuernMap : Nat := 0x0800
/-- PS_TT_BASE (R187). -/
def oPsTtBase : Nat := 0x0C00
/-- PS_HSET_BASE (R187). -/
def oPsHsetBase : Nat := 0x0C04
/-- PS_FACTOR_BASE (R187). -/
def oPsFactorBase : Nat := 0x0C08
/-- PS_TT_COUNT (R187). -/
def oPsTtCount : Nat := 0x0C0C
/-- PS_EXP_CTL (R187). -/
def oPsExpCtl : Nat := 0x0C10
/-- PS_EXP_FIRST (R187). -/
def oPsExpFirst : Nat := 0x0C14
/-- PS_EXP_LAST (R187). -/
def oPsExpLast : Nat := 0x0C18
/-- PS_EXP_DEST_LO (R187). -/
def oPsExpDestLo : Nat := 0x0C1C
/-- PS_EXP_DEST_HI (R187). -/
def oPsExpDestHi : Nat := 0x0C20
/-- PS_EXP_STATUS (R187). -/
def oPsExpStatus : Nat := 0x0C24
/-- PS_EXP_STEP (R187). -/
def oPsExpStep : Nat := 0x0C28
/-- STEP_RING_BASE (R220). -/
def oStepRingBase : Nat := 0x0E00
/-- STEP_LAYER_BASE (R220). -/
def oStepLayerBase : Nat := 0x0E04
/-- PUB_READY_BASE (R220). -/
def oPubReadyBase : Nat := 0x0E08
/-- STEP_CONS (R220). -/
def oStepCons : Nat := 0x0E0C
/-- STEP_STATE (R220). -/
def oStepState : Nat := 0x0E10
/-- STEP_NEXT_LO (R220). -/
def oStepNextLo : Nat := 0x0E14
/-- STEP_NEXT_HI (R220). -/
def oStepNextHi : Nat := 0x0E18
/-- STEP_ABORT (R220). -/
def oStepAbort : Nat := 0x0E1C
/-- STEP_TMO (R220). -/
def oStepTmo : Nat := 0x0E20
/-- STEP_TMO_GRIND (R220). -/
def oStepTmoGrind : Nat := 0x0E24
/-- STEP_TOPO (R220). -/
def oStepTopo : Nat := 0x0E28
/-- STEP_ROOT (R220). -/
def oStepRoot : Nat := 0x0E2C
/-- STEP_NROOT (R220). -/
def oStepNroot : Nat := 0x0E30
/-- LS_CTL (R220). -/
def oLsCtl : Nat := 0x0E34
/-- LS_STATUS (R220). -/
def oLsStatus : Nat := 0x0E38
/-- CLIP_VALUE (R220). -/
def oClipValue : Nat := 0x0E3C
/-- CKPT_CTL (R220). -/
def oCkptCtl : Nat := 0x0E40
/-- CKPT_BUDDY (R220). -/
def oCkptBuddy : Nat := 0x0E44
/-- CKPT_DEST (R220). -/
def oCkptDest : Nat := 0x0E48
/-- CKPT_LOCAL (R220). -/
def oCkptLocal : Nat := 0x0E4C
/-- CKPT_AREA (R220). -/
def oCkptArea : Nat := 0x0E50
/-- CKPT_STATUS (R220). -/
def oCkptStatus : Nat := 0x0E54
/-- DIGEST_CTL (R220). -/
def oDigestCtl : Nat := 0x0E58
/-- ABORT_OVF_CNT (R220). -/
def oAbortOvfCnt : Nat := 0x0E5C
/-- ABORT_OTHER_CNT (R220). -/
def oAbortOtherCnt : Nat := 0x0E60
/-- STALE_MSG_CNT (R220). -/
def oStaleMsgCnt : Nat := 0x0E64
/-- BAD_CMD_CNT (R220). -/
def oBadCmdCnt : Nat := 0x0E68
/-- CKPT_WAIT_CNT (R220). -/
def oCkptWaitCnt : Nat := 0x0E6C
/-- DIGEST_MISMATCH_CNT (R220). -/
def oDigestMismatchCnt : Nat := 0x0E70
/-- REDO_CNT (R220). -/
def oRedoCnt : Nat := 0x0E74
/-- STEP_CNT_CLEAR (R220). -/
def oStepCntClear : Nat := 0x0E78
/-- STEP_MEMBERS (R220). -/
def oStepMembers : Nat := 0x0E7C
/-- TR_STATUS (R214). -/
def oTrStatus : Nat := 0x0F00
/-- TR_FLAGS (R214). -/
def oTrFlags : Nat := 0x0F04
/-- TR_UFB_CNT (R214). -/
def oTrUfbCnt : Nat := 0x0F08
/-- TR_REPUB_CNT (R214). -/
def oTrRepubCnt : Nat := 0x0F0C
/-- TR_REPUB (R214). -/
def oTrRepub : Nat := 0x0F10
/-- TR_CNT_CLEAR (R214). -/
def oTrCntClear : Nat := 0x0F14
/-- QN_STATUS (R126). -/
def oQnStatus : Nat := 0x1000
/-- QN_FLAGS (R126). -/
def oQnFlags : Nat := 0x1004
/-- QN_CMD (R126). -/
def oQnCmd : Nat := 0x1008
/-- QN_TRAP_PC (R126). -/
def oQnTrapPc : Nat := 0x100C
/-- FNAN_INSN_LO (R126). -/
def oFnanInsnLo : Nat := 0x1010
/-- FNAN_INSN_HI (R126). -/
def oFnanInsnHi : Nat := 0x1014
/-- FNAN_INFO (R126). -/
def oFnanInfo : Nat := 0x1018
/-- FNAN_PC (R126). -/
def oFnanPc : Nat := 0x101C
/-- FNAN_TURN (R126). -/
def oFnanTurn : Nat := 0x1020
/-- UFB_CNT (R126). -/
def oUfbCnt : Nat := 0x1024
/-- RESCALE_CNT (R126). -/
def oRescaleCnt : Nat := 0x1028
/-- QN_CMD_REJ (R126). -/
def oQnCmdRej : Nat := 0x102C
/-- QN_CNT_CLEAR (R126). -/
def oQnCntClear : Nat := 0x1030
/-- MEM_PRESENT (R243). -/
def oMemPresent : Nat := 0x2000
/-- MEM_RATE (R243). -/
def oMemRate : Nat := 0x2004
/-- HR_STACK (R243). -/
def oHrStack : Nat := 0x2010
/-- HR_DEAD (R243). -/
def oHrDead : Nat := 0x2030
/-- MP_GROUP (R243). -/
def oMpGroup : Nat := 0x2050
/-- MP_CAP (R243). -/
def oMpCap : Nat := 0x2070
/-- SCRUB_CTL (R243). -/
def oScrubCtl : Nat := 0x2090
/-- SCRUB_PASS (R243). -/
def oScrubPass : Nat := 0x2094
/-- WEIR_QOS (R243). -/
def oWeirQos : Nat := 0x2098
/-- SPPR_CNT (R243). -/
def oSpprCnt : Nat := 0x20A0
/-- HPPR_CNT (R243). -/
def oHpprCnt : Nat := 0x20A4
/-- HPPR_FAIL_CNT (R243). -/
def oHpprFailCnt : Nat := 0x20A8
/-- POISON_RD_CNT (R243). -/
def oPoisonRdCnt : Nat := 0x20AC
/-- RMW_CNT (R243). -/
def oRmwCnt : Nat := 0x20B0
/-- DEAD_ACC_CNT (R243). -/
def oDeadAccCnt : Nat := 0x20B4
/-- ATOMIC_REJ_CNT (R243). -/
def oAtomicRejCnt : Nat := 0x20B8
/-- SCRUB_WB_DROP_CNT (R243). -/
def oScrubWbDropCnt : Nat := 0x20BC
/-- MEM_CNT_CLEAR (R243). -/
def oMemCntClear : Nat := 0x20C0
/-- HOP_GRANULE_MODE (R257). -/
def oHopGranuleMode : Nat := 0x2400
/-- HOP_GRANULE_STATE (R257). -/
def oHopGranuleState : Nat := 0x2404
/-- HOP_CFG (R257). -/
def oHopCfg : Nat := 0x2408
/-- HOP_SCRUB_CTL (R257). -/
def oHopScrubCtl : Nat := 0x240C
/-- HOP_SCRUB_PASS (R257). -/
def oHopScrubPass : Nat := 0x2410
/-- HOP_FUSE (R257). -/
def oHopFuse : Nat := 0x2414
/-- HOP_CE_CNT (R257). -/
def oHopCeCnt : Nat := 0x2420
/-- HOP_UE_CNT (R257). -/
def oHopUeCnt : Nat := 0x2424
/-- HOP_ADDRPAR_CNT (R257). -/
def oHopAddrparCnt : Nat := 0x2428
/-- HOP_ATOMIC_REJ_CNT (R257). -/
def oHopAtomicRejCnt : Nat := 0x242C
/-- HOP_CONV_WB_CNT (R257). -/
def oHopConvWbCnt : Nat := 0x2430
/-- HOP_SCRUB_WB_DROP_CNT (R257). -/
def oHopScrubWbDropCnt : Nat := 0x2434
/-- HOP_CNT_CLEAR (R257). -/
def oHopCntClear : Nat := 0x2438
/-- MM_FENCE (R274). -/
def oMmFence : Nat := 0x2600
/-- MM_FENCE_CNT (R274). -/
def oMmFenceCnt : Nat := 0x2604
/-- MM_FENCE_ERR_CNT (R274). -/
def oMmFenceErrCnt : Nat := 0x2608
/-- MM_REMOTE_FAIL_CNT (R274). -/
def oMmRemoteFailCnt : Nat := 0x260C
/-- MM_REMOTE_BAD_CNT (R274). -/
def oMmRemoteBadCnt : Nat := 0x2610
/-- MM_CNT_CLEAR (R274). -/
def oMmCntClear : Nat := 0x2614
/-- LEAT_Q_BASE (R300). -/
def oLeatQBase : Nat := 0x2800
/-- LEAT_STATUS (R300). -/
def oLeatStatus : Nat := 0x2840
/-- LEAT_FLAGS (R300). -/
def oLeatFlags : Nat := 0x2880
/-- LEAT_UFB_CNT (R300). -/
def oLeatUfbCnt : Nat := 0x28C0
/-- LEAT_HALO_WAIT_CNT (R300). -/
def oLeatHaloWaitCnt : Nat := 0x2900
/-- LEAT_FREE_WAIT_CNT (R300). -/
def oLeatFreeWaitCnt : Nat := 0x2904
/-- LEAT_ERR_CNT (R300). -/
def oLeatErrCnt : Nat := 0x2908
/-- LEAT_WAIT_TMO (R300). -/
def oLeatWaitTmo : Nat := 0x2910
/-- LEAT_APPEND_BASE (R300). -/
def oLeatAppendBase : Nat := 0x2914
/-- LEAT_FREE_BASE (R300). -/
def oLeatFreeBase : Nat := 0x2918
/-- LEAT_EN (R300). -/
def oLeatEn : Nat := 0x291C
/-- LEAT_CNT_CLEAR (R300). -/
def oLeatCntClear : Nat := 0x2920
/-- SL_ROOT_LO (R301). -/
def oSlRootLo : Nat := 0x2C00
/-- SL_ROOT_HI (R301). -/
def oSlRootHi : Nat := 0x2C04
/-- SL_WIN_BASE_LO (R301). -/
def oSlWinBaseLo : Nat := 0x2E00
/-- SL_WIN_BASE_HI (R301). -/
def oSlWinBaseHi : Nat := 0x2E04
/-- SL_WIN_LIMIT_LO (R301). -/
def oSlWinLimitLo : Nat := 0x2E08
/-- SL_WIN_LIMIT_HI (R301). -/
def oSlWinLimitHi : Nat := 0x2E0C
/-- SL_WIN_CTL (R301). -/
def oSlWinCtl : Nat := 0x2E10
/-- SL_CTL (R301). -/
def oSlCtl : Nat := 0x3600
/-- SL_FAULT_BASE (R301). -/
def oSlFaultBase : Nat := 0x3604
/-- SL_FAULT_CONS (R301). -/
def oSlFaultCons : Nat := 0x3608
/-- SL_RESUME (R301). -/
def oSlResume : Nat := 0x360C
/-- SL_INVAL (R301). -/
def oSlInval : Nat := 0x3610
/-- SL_INVAL_STATUS (R301). -/
def oSlInvalStatus : Nat := 0x3614
/-- SL_MULTI_CNT (R301). -/
def oSlMultiCnt : Nat := 0x3620
/-- SL_FAULT_CNT (R301). -/
def oSlFaultCnt : Nat := 0x3624
/-- SL_RESUME_REJ_CNT (R301). -/
def oSlResumeRejCnt : Nat := 0x3628
/-- SL_CNT_CLEAR (R301). -/
def oSlCntClear : Nat := 0x3630
/-- BOL_DS_BASE (R317). -/
def oBolDsBase : Nat := 0x3800
/-- BOL_BKT_BASE (R317). -/
def oBolBktBase : Nat := 0x3804
/-- BOL_JOB_BASE (R317). -/
def oBolJobBase : Nat := 0x3808
/-- BOL_CTL (R317). -/
def oBolCtl : Nat := 0x380C
/-- BOL_STATUS (R317). -/
def oBolStatus : Nat := 0x3810
/-- BOL_JOB_DONE (R317). -/
def oBolJobDone : Nat := 0x3814
/-- BOL_REC_CNT (R317). -/
def oBolRecCnt : Nat := 0x3820
/-- BOL_SKIP_CNT (R317). -/
def oBolSkipCnt : Nat := 0x3824
/-- BOL_FLAG_CNT (R317). -/
def oBolFlagCnt : Nat := 0x3828
/-- BOL_RING_WAIT_CNT (R317). -/
def oBolRingWaitCnt : Nat := 0x382C
/-- BOL_WALK_CNT (R317). -/
def oBolWalkCnt : Nat := 0x3830
/-- BOL_CNT_CLEAR (R317). -/
def oBolCntClear : Nat := 0x3834
/-- SAIL_SEED (R317). -/
def oSailSeed : Nat := 0x3A00
/-- SAIL_BASE (R317). -/
def oSailBase : Nat := 0x3A10
/-- SAIL_STATUS (R317). -/
def oSailStatus : Nat := 0x3A14
/-- SAIL_MISS_CNT (R317). -/
def oSailMissCnt : Nat := 0x3A18
/-- SAIL_CNT_CLEAR (R317). -/
def oSailCntClear : Nat := 0x3A1C
/-- GL_ID (R337). -/
def oGlId : Nat := 0x4000
/-- GL_RX_BASE (R337). -/
def oGlRxBase : Nat := 0x4004
/-- GL_ROUTE_BASE (R337). -/
def oGlRouteBase : Nat := 0x4008
/-- GL_MCAST_BASE (R337). -/
def oGlMcastBase : Nat := 0x400C
/-- GL_CRED_0 (R337). -/
def oGlCred0 : Nat := 0x4010
/-- GL_CRED_1 (R337). -/
def oGlCred1 : Nat := 0x4014
/-- GL_CRED_2 (R337). -/
def oGlCred2 : Nat := 0x4018
/-- GL_CRED_3 (R337). -/
def oGlCred3 : Nat := 0x401C
/-- GL_VC_WEIGHT (R337). -/
def oGlVcWeight : Nat := 0x4020
/-- GL_ACK_TMO (R337). -/
def oGlAckTmo : Nat := 0x4024
/-- GL_RETRY (R337). -/
def oGlRetry : Nat := 0x4028
/-- GL_PUB_GROUP (R337). -/
def oGlPubGroup : Nat := 0x402C
/-- GL_PORT_UP (R337). -/
def oGlPortUp : Nat := 0x4030
/-- GL_PORT_HALF (R337). -/
def oGlPortHalf : Nat := 0x4034
/-- GL_LINK_UP (R337). -/
def oGlLinkUp : Nat := 0x4038
/-- GL_DISC_STATUS (R337). -/
def oGlDiscStatus : Nat := 0x4044
/-- GL_WRITEOFF_CNT (R337). -/
def oGlWriteoffCnt : Nat := 0x4048
/-- GL_ROUTE_MISS_CNT (R337). -/
def oGlRouteMissCnt : Nat := 0x404C
/-- GL_ROLE_FWD_CNT (R337). -/
def oGlRoleFwdCnt : Nat := 0x4050
/-- GL_ROLE_DROP_CNT (R337). -/
def oGlRoleDropCnt : Nat := 0x4054
/-- GL_CNT_CLEAR (R337). -/
def oGlCntClear : Nat := 0x4058
/-- GL_BADMSG_CNT (R337). -/
def oGlBadmsgCnt : Nat := 0x405C
/-- GL_TOPO_MISMATCH_CNT (R337). -/
def oGlTopoMismatchCnt : Nat := 0x4060
/-- GL_UNREACH_CNT (R337). -/
def oGlUnreachCnt : Nat := 0x4064
/-- GL_LCRED_C (R337). -/
def oGlLcredC : Nat := 0x4100
/-- GL_LSTATE (R337). -/
def oGlLstate : Nat := 0x4400
/-- GL_LPEER (R337). -/
def oGlLpeer : Nat := 0x4404
/-- GL_LCRC_CNT (R337). -/
def oGlLcrcCnt : Nat := 0x4408
/-- GL_LREPLAY_CNT (R337). -/
def oGlLreplayCnt : Nat := 0x440C
/-- GL_LRETRAIN_CNT (R337). -/
def oGlLretrainCnt : Nat := 0x4410
/-- GL_LCRED_A (R337). -/
def oGlLcredA : Nat := 0x4414
/-- GL_LCRED_B (R337). -/
def oGlLcredB : Nat := 0x4418
/-- GL_LCMD (R337). -/
def oGlLcmd : Nat := 0x441C
/-- FH_STATUS (R368). -/
def oFhStatus : Nat := 0x5000
/-- FH_UNIT_SEL (R368). -/
def oFhUnitSel : Nat := 0x5004
/-- FH_UNIT_INFO (R368). -/
def oFhUnitInfo : Nat := 0x5008
/-- FH_GRADE_SET (R368). -/
def oFhGradeSet : Nat := 0x500C
/-- FH_BKT_CTL (R368). -/
def oFhBktCtl : Nat := 0x5010
/-- FH_FLIP_CTL (R368). -/
def oFhFlipCtl : Nat := 0x5020
/-- FH_FLIP_LO (R368). -/
def oFhFlipLo : Nat := 0x5024
/-- FH_FLIP_HI (R368). -/
def oFhFlipHi : Nat := 0x5028
/-- FH_PLAUS_CTL (R368). -/
def oFhPlausCtl : Nat := 0x502C
/-- FH_EVT_BASE (R368). -/
def oFhEvtBase : Nat := 0x5030
/-- FH_EVT_PROD (R368). -/
def oFhEvtProd : Nat := 0x5034
/-- FH_EVT_CONS (R368). -/
def oFhEvtCons : Nat := 0x5038
/-- FH_CPER_BASE (R368). -/
def oFhCperBase : Nat := 0x503C
/-- FH_CPER_PROD (R368). -/
def oFhCperProd : Nat := 0x5040
/-- FH_CPER_CONS (R368). -/
def oFhCperCons : Nat := 0x5044
/-- FH_TEST_CTL (R368). -/
def oFhTestCtl : Nat := 0x5048
/-- FH_JRNL_STATUS (R368). -/
def oFhJrnlStatus : Nat := 0x504C
/-- FH_FATAL_OWN_LO (R368). -/
def oFhFatalOwnLo : Nat := 0x5050
/-- FH_FATAL_OWN_HI (R368). -/
def oFhFatalOwnHi : Nat := 0x5054
/-- FH_FATAL_PEER_LO (R368). -/
def oFhFatalPeerLo : Nat := 0x5058
/-- FH_FATAL_PEER_HI (R368). -/
def oFhFatalPeerHi : Nat := 0x505C
/-- FH_FATAL_TENSOR (R368). -/
def oFhFatalTensor : Nat := 0x5060
/-- FH_FATAL_PEER (R368). -/
def oFhFatalPeer : Nat := 0x5064
/-- FH_SEPIA_CMD (R368). -/
def oFhSepiaCmd : Nat := 0x5068
/-- FH_FLIP_ADDR_LO (R368). -/
def oFhFlipAddrLo : Nat := 0x506C
/-- FH_FLIP_ADDR_HI (R368). -/
def oFhFlipAddrHi : Nat := 0x5070
/-- FH_CLASS_CNT (R368). -/
def oFhClassCnt : Nat := 0x5084
/-- FH_RING_DROP_CNT (R368). -/
def oFhRingDropCnt : Nat := 0x50C0
/-- FH_CPER_DROP_CNT (R368). -/
def oFhCperDropCnt : Nat := 0x50C4
/-- FH_CNT_CLEAR (R368). -/
def oFhCntClear : Nat := 0x50C8
/-- GOV_BOOT_STATUS (R396). -/
def oGovBootStatus : Nat := 0x6000
/-- GOV_BOOT_TURN (R396). -/
def oGovBootTurn : Nat := 0x6004
/-- GOV_IMG_GEN (R396). -/
def oGovImgGen : Nat := 0x6008
/-- GOV_FW (R396). -/
def oGovFw : Nat := 0x600C
/-- GOV_FW_CRC_A (R396). -/
def oGovFwCrcA : Nat := 0x6010
/-- GOV_FW_CRC_B (R396). -/
def oGovFwCrcB : Nat := 0x6014
/-- GOV_TXN_CMD (R396). -/
def oGovTxnCmd : Nat := 0x6020
/-- GOV_TXN_AT_LO (R396). -/
def oGovTxnAtLo : Nat := 0x6024
/-- GOV_TXN_AT_HI (R396). -/
def oGovTxnAtHi : Nat := 0x6028
/-- GOV_TXN_TAG (R396). -/
def oGovTxnTag : Nat := 0x602C
/-- GOV_TXN_TBL_SRC_LO (R396). -/
def oGovTxnTblSrcLo : Nat := 0x6030
/-- GOV_TXN_TBL_SRC_HI (R396). -/
def oGovTxnTblSrcHi : Nat := 0x6034
/-- GOV_TXN_TBL_LEN (R396). -/
def oGovTxnTblLen : Nat := 0x6038
/-- GOV_TXN_TBL_CMD (R396). -/
def oGovTxnTblCmd : Nat := 0x603C
/-- GOV_TXN_STATUS (R396). -/
def oGovTxnStatus : Nat := 0x6040
/-- GOV_TXN_PEND (R396). -/
def oGovTxnPend : Nat := 0x6044
/-- GOV_TXN_CANCEL (R396). -/
def oGovTxnCancel : Nat := 0x6048
/-- GOV_TXN_STAGED (R396). -/
def oGovTxnStaged : Nat := 0x604C
/-- GOV_CJ_BASE (R396). -/
def oGovCjBase : Nat := 0x6050
/-- GOV_CJ_PROD (R396). -/
def oGovCjProd : Nat := 0x6054
/-- GOV_CJ_CONS (R396). -/
def oGovCjCons : Nat := 0x6058
/-- GOV_CJ_DROP_CNT (R396). -/
def oGovCjDropCnt : Nat := 0x605C
/-- GOV_LEDGER_SEL (R396). -/
def oGovLedgerSel : Nat := 0x6060
/-- GOV_LEDGER_CFG (R396). -/
def oGovLedgerCfg : Nat := 0x6064
/-- GOV_LEDGER_HELD (R396). -/
def oGovLedgerHeld : Nat := 0x6068
/-- GOV_LEDGER_INFLIGHT (R396). -/
def oGovLedgerInflight : Nat := 0x606C
/-- GOV_LEDGER_RETURN (R396). -/
def oGovLedgerReturn : Nat := 0x6070
/-- GOV_LEDGER_WOFF (R396). -/
def oGovLedgerWoff : Nat := 0x6074
/-- GOV_LEDGER_ERR (R396). -/
def oGovLedgerErr : Nat := 0x6078
/-- GOV_PFW_STATUS (R396). -/
def oGovPfwStatus : Nat := 0x6080
/-- GOV_PFW_DISC_CNT (R396). -/
def oGovPfwDiscCnt : Nat := 0x6084
/-- GOV_MP_RETRAIN (R396). -/
def oGovMpRetrain : Nat := 0x6088
/-- GOV_CNT_CLEAR (R396). -/
def oGovCntClear : Nat := 0x608C

/-- A family of registers: first offset, stride, count, masks of its RW, RWT, W1C, W1S and WO fields, and its
reset value. -/
structure RegFam where
  base : Nat
  stride : Nat
  count : Nat
  rw : Nat
  rwt : Nat
  w1c : Nat
  w1s : Nat
  wo : Nat
  rst : Nat
  deriving DecidableEq, Repr

/-- Rows of the register table. -/
def regRows0 : List RegFam :=
  [⟨0x0000, 0x4, 1, 0x0, 0x0, 0x0, 0x0, 0x0, 0x4B594834⟩,
   ⟨0x0004, 0x4, 1, 0x0, 0x0, 0x0, 0x0, 0x0, 0x4010000⟩,
   ⟨0x0010, 0x4, 1, 0x0, 0x0, 0x3A, 0x0, 0x0, 0x0⟩,
   ⟨0x0014, 0x4, 1, 0x3F, 0x0, 0x0, 0x0, 0x0, 0x0⟩,
   ⟨0x0018, 0x4, 1, 0x3F, 0x0, 0x0, 0x0, 0x0, 0x0⟩,
   ⟨0x001C, 0x4, 1, 0x0, 0x0, 0x0, 0x0, 0x0, 0x0⟩,
   ⟨0x0020, 0x4, 1, 0x0, 0x0, 0x0, 0x0, 0x1, 0x0⟩,
   ⟨0x0040, 0x4, 1, 0x0, 0x0, 0x0, 0x0, 0x0, 0x0⟩,
   ⟨0x0044, 0x4, 1, 0x0, 0x0, 0x0, 0x0, 0x0, 0x0⟩,
   ⟨0x0048, 0x4, 1, 0x0, 0x0, 0x0, 0x0, 0x0, 0x0⟩,
   ⟨0x0050, 0x4, 1, 0x0, 0x0, 0x0, 0x0, 0x0, 0x0⟩,
   ⟨0x0054, 0x4, 1, 0x0, 0x0, 0x0, 0x0, 0x0, 0x0⟩,
   ⟨0x0060, 0x4, 9, 0x0, 0x0, 0x0, 0x0, 0x0, 0x0⟩,
   ⟨0x00A0, 0x4, 8, 0x0, 0x3F3F3F3F, 0x0, 0x0, 0x0, 0x4081810⟩,
   ⟨0x0200, 0x4, 64, 0x0, 0x77777777, 0x0, 0x0, 0x0, 0x0⟩,
   ⟨0x0400, 0x4, 1, 0x0, 0xFFFF, 0x0, 0x0, 0x0, 0x0⟩,
   ⟨0x0404, 0x4, 1, 0x0, 0xFFFF, 0x0, 0x0, 0x0, 0x0⟩,
   ⟨0x0408, 0x4, 1, 0x0, 0xFFFF, 0x0, 0x0, 0x0, 0x0⟩,
   ⟨0x040C, 0x4, 1, 0x0, 0xFFFF, 0x0, 0x0, 0x0, 0x0⟩,
   ⟨0x0410, 0x4, 1, 0x0, 0x0, 0x0, 0x0, 0x0, 0x0⟩,
   ⟨0x0414, 0x4, 1, 0x0, 0x0, 0x0, 0x0, 0x0, 0x0⟩,
   ⟨0x0418, 0x4, 1, 0x0, 0x0, 0x0, 0x0, 0x0, 0x0⟩,
   ⟨0x041C, 0x4, 1, 0x0, 0x0, 0x0, 0x0, 0x0, 0x0⟩,
   ⟨0x0420, 0x4, 1, 0x0, 0x0, 0x0, 0x0, 0x0, 0x0⟩]

/-- Rows of the register table. -/
def regRows1 : List RegFam :=
  [⟨0x0424, 0x4, 1, 0x0, 0x0, 0x0, 0x0, 0x0, 0x0⟩,
   ⟨0x0428, 0x4, 1, 0x0, 0x0, 0x0, 0x0, 0x0, 0x0⟩,
   ⟨0x042C, 0x4, 1, 0x0, 0x0, 0x0, 0x0, 0x3F, 0x0⟩,
   ⟨0x0800, 0x4, 8, 0x0, 0xFFFFFFFF, 0x0, 0x0, 0x0, 0x0⟩,
   ⟨0x0C00, 0x4, 1, 0x0, 0xFFFF, 0x0, 0x0, 0x0, 0x0⟩,
   ⟨0x0C04, 0x4, 1, 0x0, 0xFFFF, 0x0, 0x0, 0x0, 0x0⟩,
   ⟨0x0C08, 0x4, 1, 0x0, 0xFFFF, 0x0, 0x0, 0x0, 0x0⟩,
   ⟨0x0C0C, 0x4, 1, 0x0, 0x1FFFF, 0x0, 0x0, 0x0, 0x0⟩,
   ⟨0x0C10, 0x4, 1, 0xFF, 0x0, 0x0, 0x80000000, 0x0, 0x3C⟩,
   ⟨0x0C14, 0x4, 1, 0xFFFFF, 0x0, 0x0, 0x0, 0x0, 0x0⟩,
   ⟨0x0C18, 0x4, 1, 0xFFFFF, 0x0, 0x0, 0x0, 0x0, 0x0⟩,
   ⟨0x0C1C, 0x4, 1, 0xFFFFFFFF, 0x0, 0x0, 0x0, 0x0, 0x0⟩,
   ⟨0x0C20, 0x4, 1, 0xFFFFFFFF, 0x0, 0x0, 0x0, 0x0, 0x0⟩,
   ⟨0x0C24, 0x4, 1, 0x0, 0x0, 0x40000000, 0x0, 0x0, 0x0⟩,
   ⟨0x0C28, 0x4, 1, 0x0, 0x0, 0x0, 0x0, 0x0, 0x0⟩,
   ⟨0x0E00, 0x4, 1, 0x0, 0xFFFF, 0x0, 0x0, 0x0, 0x0⟩,
   ⟨0x0E04, 0x4, 1, 0x0, 0xFFFF, 0x0, 0x0, 0x0, 0x0⟩,
   ⟨0x0E08, 0x4, 1, 0x0, 0xFFFF, 0x0, 0x0, 0x0, 0x0⟩,
   ⟨0x0E0C, 0x4, 1, 0x0, 0x0, 0x0, 0x0, 0x0, 0x0⟩,
   ⟨0x0E10, 0x4, 1, 0x0, 0x0, 0x1000000, 0x0, 0x0, 0x0⟩,
   ⟨0x0E14, 0x4, 1, 0x0, 0xFFFFFFFF, 0x0, 0x0, 0x0, 0x0⟩,
   ⟨0x0E18, 0x4, 1, 0x0, 0xFFFF, 0x0, 0x0, 0x0, 0x0⟩,
   ⟨0x0E1C, 0x4, 1, 0x0, 0x0, 0x0, 0x0, 0x0, 0x0⟩,
   ⟨0x0E20, 0x4, 1, 0x0, 0xFFFFFFFF, 0x0, 0x0, 0x0, 0x8001000⟩]

/-- Rows of the register table. -/
def regRows2 : List RegFam :=
  [⟨0x0E24, 0x4, 1, 0x0, 0xFFFFFFFF, 0x0, 0x0, 0x0, 0xFFFF2000⟩,
   ⟨0x0E28, 0x4, 1, 0x0, 0x3FF03FF, 0x0, 0x0, 0x0, 0x0⟩,
   ⟨0x0E2C, 0x4, 1, 0x0, 0x3FFF3FFF, 0x0, 0x0, 0x0, 0x0⟩,
   ⟨0x0E30, 0x4, 1, 0x0, 0x3FFF, 0x0, 0x0, 0x0, 0x0⟩,
   ⟨0x0E34, 0x4, 1, 0x0, 0x1F1FFFFF, 0x0, 0x0, 0x0, 0x181007D0⟩,
   ⟨0x0E38, 0x4, 1, 0x0, 0x0, 0x0, 0x0, 0x0, 0x100000⟩,
   ⟨0x0E3C, 0x4, 1, 0x0, 0x0, 0x0, 0x0, 0x0, 0x3F800000⟩,
   ⟨0x0E40, 0x4, 1, 0x0, 0x1FFFF, 0x0, 0x0, 0x0, 0x0⟩,
   ⟨0x0E44, 0x4, 1, 0x0, 0x3FFF, 0x0, 0x0, 0x0, 0x0⟩,
   ⟨0x0E48, 0x4, 1, 0x0, 0x7FFFFFFF, 0x0, 0x0, 0x0, 0x0⟩,
   ⟨0x0E4C, 0x4, 1, 0x0, 0x7FFFFFFF, 0x0, 0x0, 0x0, 0x0⟩,
   ⟨0x0E50, 0x4, 1, 0x0, 0x7FFFFFFF, 0x0, 0x0, 0x0, 0x0⟩,
   ⟨0x0E54, 0x4, 1, 0x0, 0x0, 0x40000000, 0x0, 0x0, 0x0⟩,
   ⟨0x0E58, 0x4, 1, 0x0, 0xFFFF, 0x0, 0x0, 0x0, 0x0⟩,
   ⟨0x0E5C, 0x4, 1, 0x0, 0x0, 0x0, 0x0, 0x0, 0x0⟩,
   ⟨0x0E60, 0x4, 1, 0x0, 0x0, 0x0, 0x0, 0x0, 0x0⟩,
   ⟨0x0E64, 0x4, 1, 0x0, 0x0, 0x0, 0x0, 0x0, 0x0⟩,
   ⟨0x0E68, 0x4, 1, 0x0, 0x0, 0x0, 0x0, 0x0, 0x0⟩,
   ⟨0x0E6C, 0x4, 1, 0x0, 0x0, 0x0, 0x0, 0x0, 0x0⟩,
   ⟨0x0E70, 0x4, 1, 0x0, 0x0, 0x0, 0x0, 0x0, 0x0⟩,
   ⟨0x0E74, 0x4, 1, 0x0, 0x0, 0x0, 0x0, 0x0, 0x0⟩,
   ⟨0x0E78, 0x4, 1, 0x0, 0x0, 0x0, 0x0, 0x7F, 0x0⟩,
   ⟨0x0E7C, 0x4, 1, 0x0, 0x7FFF, 0x0, 0x0, 0x0, 0x1⟩,
   ⟨0x0F00, 0x4, 1, 0x0, 0x0, 0x10000000, 0x0, 0x0, 0x0⟩]

/-- Rows of the register table. -/
def regRows3 : List RegFam :=
  [⟨0x0F04, 0x4, 1, 0x0, 0x0, 0x3F, 0x0, 0x0, 0x0⟩,
   ⟨0x0F08, 0x4, 1, 0x0, 0x0, 0x0, 0x0, 0x0, 0x0⟩,
   ⟨0x0F0C, 0x4, 1, 0x0, 0x0, 0x0, 0x0, 0x0, 0x0⟩,
   ⟨0x0F10, 0x4, 1, 0x0, 0x0, 0x0, 0x0, 0x800FFFFF, 0x0⟩,
   ⟨0x0F14, 0x4, 1, 0x0, 0x0, 0x0, 0x0, 0x3, 0x0⟩,
   ⟨0x1000, 0x40, 36, 0x0, 0x0, 0x0, 0x0, 0x0, 0xFF0000⟩,
   ⟨0x1004, 0x40, 36, 0x0, 0x0, 0x7F, 0x0, 0x0, 0x0⟩,
   ⟨0x1008, 0x40, 36, 0x0, 0x0, 0x0, 0x0, 0x3, 0x0⟩,
   ⟨0x100C, 0x40, 36, 0x0, 0x0, 0x0, 0x0, 0x0, 0x0⟩,
   ⟨0x1010, 0x40, 36, 0x0, 0x0, 0x0, 0x0, 0x0, 0x0⟩,
   ⟨0x1014, 0x40, 36, 0x0, 0x0, 0x0, 0x0, 0x0, 0x0⟩,
   ⟨0x1018, 0x40, 36, 0x0, 0x0, 0x80000000, 0x0, 0x0, 0x0⟩,
   ⟨0x101C, 0x40, 36, 0x0, 0x0, 0x0, 0x0, 0x0, 0x0⟩,
   ⟨0x1020, 0x40, 36, 0x0, 0x0, 0x0, 0x0, 0x0, 0x0⟩,
   ⟨0x1024, 0x40, 36, 0x0, 0x0, 0x0, 0x0, 0x0, 0x0⟩,
   ⟨0x1028, 0x40, 36, 0x0, 0x0, 0x0, 0x0, 0x0, 0x0⟩,
   ⟨0x102C, 0x40, 36, 0x0, 0x0, 0x0, 0x0, 0x0, 0x0⟩,
   ⟨0x1030, 0x40, 36, 0x0, 0x0, 0x0, 0x0, 0x7, 0x0⟩,
   ⟨0x2000, 0x4, 1, 0x0, 0x0, 0x0, 0x0, 0x0, 0x0⟩,
   ⟨0x2004, 0x4, 1, 0x0, 0x0, 0x0, 0x0, 0x0, 0x0⟩,
   ⟨0x2010, 0x4, 8, 0x0, 0x0, 0x0, 0x0, 0x0, 0x0⟩,
   ⟨0x2030, 0x4, 8, 0x0, 0x0, 0x0, 0x0, 0x0, 0x0⟩,
   ⟨0x2050, 0x4, 8, 0x0, 0x0, 0x0, 0x0, 0x0, 0x0⟩,
   ⟨0x2070, 0x4, 1, 0x0, 0x0, 0x0, 0x0, 0x0, 0x0⟩]

/-- Rows of the register table. -/
def regRows4 : List RegFam :=
  [⟨0x2090, 0x4, 1, 0x0, 0x3F003F, 0x0, 0x0, 0x0, 0x10002⟩,
   ⟨0x2094, 0x4, 1, 0x0, 0x0, 0x0, 0x0, 0x0, 0x0⟩,
   ⟨0x2098, 0x4, 1, 0x0, 0xF, 0x0, 0x0, 0x0, 0xC⟩,
   ⟨0x20A0, 0x4, 1, 0x0, 0x0, 0x0, 0x0, 0x0, 0x0⟩,
   ⟨0x20A4, 0x4, 1, 0x0, 0x0, 0x0, 0x0, 0x0, 0x0⟩,
   ⟨0x20A8, 0x4, 1, 0x0, 0x0, 0x0, 0x0, 0x0, 0x0⟩,
   ⟨0x20AC, 0x4, 1, 0x0, 0x0, 0x0, 0x0, 0x0, 0x0⟩,
   ⟨0x20B0, 0x4, 1, 0x0, 0x0, 0x0, 0x0, 0x0, 0x0⟩,
   ⟨0x20B4, 0x4, 1, 0x0, 0x0, 0x0, 0x0, 0x0, 0x0⟩,
   ⟨0x20B8, 0x4, 1, 0x0, 0x0, 0x0, 0x0, 0x0, 0x0⟩,
   ⟨0x20BC, 0x4, 1, 0x0, 0x0, 0x0, 0x0, 0x0, 0x0⟩,
   ⟨0x20C0, 0x4, 1, 0x0, 0x0, 0x0, 0x0, 0xFF, 0x0⟩,
   ⟨0x2400, 0x4, 1, 0x0, 0xFFFF, 0x0, 0x0, 0x0, 0x0⟩,
   ⟨0x2404, 0x4, 1, 0x0, 0x0, 0x0, 0x0, 0x0, 0x0⟩,
   ⟨0x2408, 0x4, 1, 0x0, 0x0, 0x0, 0x0, 0x0, 0x8010⟩,
   ⟨0x240C, 0x4, 1, 0x0, 0xF, 0x0, 0x0, 0x0, 0x4⟩,
   ⟨0x2410, 0x4, 1, 0x0, 0x0, 0x0, 0x0, 0x0, 0x0⟩,
   ⟨0x2414, 0x4, 1, 0x0, 0x0, 0x0, 0x0, 0x0, 0x0⟩,
   ⟨0x2420, 0x4, 1, 0x0, 0x0, 0x0, 0x0, 0x0, 0x0⟩,
   ⟨0x2424, 0x4, 1, 0x0, 0x0, 0x0, 0x0, 0x0, 0x0⟩,
   ⟨0x2428, 0x4, 1, 0x0, 0x0, 0x0, 0x0, 0x0, 0x0⟩,
   ⟨0x242C, 0x4, 1, 0x0, 0x0, 0x0, 0x0, 0x0, 0x0⟩,
   ⟨0x2430, 0x4, 1, 0x0, 0x0, 0x0, 0x0, 0x0, 0x0⟩,
   ⟨0x2434, 0x4, 1, 0x0, 0x0, 0x0, 0x0, 0x0, 0x0⟩]

/-- Rows of the register table. -/
def regRows5 : List RegFam :=
  [⟨0x2438, 0x4, 1, 0x0, 0x0, 0x0, 0x0, 0x3F, 0x0⟩,
   ⟨0x2600, 0x4, 1, 0x0, 0x0, 0x0, 0x0, 0x3, 0x0⟩,
   ⟨0x2604, 0x4, 1, 0x0, 0x0, 0x0, 0x0, 0x0, 0x0⟩,
   ⟨0x2608, 0x4, 1, 0x0, 0x0, 0x0, 0x0, 0x0, 0x0⟩,
   ⟨0x260C, 0x4, 1, 0x0, 0x0, 0x0, 0x0, 0x0, 0x0⟩,
   ⟨0x2610, 0x4, 1, 0x0, 0x0, 0x0, 0x0, 0x0, 0x0⟩,
   ⟨0x2614, 0x4, 1, 0x0, 0x0, 0x0, 0x0, 0xF, 0x0⟩,
   ⟨0x2800, 0x4, 16, 0x0, 0xFFFF, 0x0, 0x0, 0x0, 0x0⟩,
   ⟨0x2840, 0x4, 16, 0x0, 0x0, 0x0, 0x0, 0x0, 0x0⟩,
   ⟨0x2880, 0x4, 16, 0x0, 0x0, 0x3F, 0x0, 0x0, 0x0⟩,
   ⟨0x28C0, 0x4, 16, 0x0, 0x0, 0x0, 0x0, 0x0, 0x0⟩,
   ⟨0x2900, 0x4, 1, 0x0, 0x0, 0x0, 0x0, 0x0, 0x0⟩,
   ⟨0x2904, 0x4, 1, 0x0, 0x0, 0x0, 0x0, 0x0, 0x0⟩,
   ⟨0x2908, 0x4, 1, 0x0, 0x0, 0x0, 0x0, 0x0, 0x0⟩,
   ⟨0x2910, 0x4, 1, 0x0, 0xFFFF, 0x0, 0x0, 0x0, 0x1000⟩,
   ⟨0x2914, 0x4, 1, 0x0, 0xFFFF, 0x0, 0x0, 0x0, 0x0⟩,
   ⟨0x2918, 0x4, 1, 0x0, 0xFFFF, 0x0, 0x0, 0x0, 0x0⟩,
   ⟨0x291C, 0x4, 1, 0x0, 0xFFFF, 0x0, 0x0, 0x0, 0x0⟩,
   ⟨0x2920, 0x4, 1, 0x0, 0x0, 0x0, 0x0, 0xF, 0x0⟩,
   ⟨0x2C00, 0x8, 64, 0x0, 0xFFFFF001, 0x0, 0x0, 0x0, 0x0⟩,
   ⟨0x2C04, 0x8, 64, 0x0, 0xFFFFFFFF, 0x0, 0x0, 0x0, 0x0⟩,
   ⟨0x2E00, 0x20, 64, 0x0, 0xFFFF0000, 0x0, 0x0, 0x0, 0x0⟩,
   ⟨0x2E04, 0x20, 64, 0x0, 0xFFFFFFFF, 0x0, 0x0, 0x0, 0x0⟩,
   ⟨0x2E08, 0x20, 64, 0x0, 0xFFFF0000, 0x0, 0x0, 0x0, 0x0⟩]

/-- Rows of the register table. -/
def regRows6 : List RegFam :=
  [⟨0x2E0C, 0x20, 64, 0x0, 0xFFFFFFFF, 0x0, 0x0, 0x0, 0x0⟩,
   ⟨0x2E10, 0x20, 64, 0x0, 0xFF070003, 0x0, 0x0, 0x0, 0x0⟩,
   ⟨0x3600, 0x4, 1, 0x0, 0x1, 0x0, 0x0, 0x0, 0x1⟩,
   ⟨0x3604, 0x4, 1, 0x0, 0xFFFF, 0x0, 0x0, 0x0, 0x0⟩,
   ⟨0x3608, 0x4, 1, 0xFFFFFFFF, 0x0, 0x0, 0x0, 0x0, 0x0⟩,
   ⟨0x360C, 0x4, 1, 0x0, 0x0, 0x0, 0x0, 0xC000FFFF, 0x0⟩,
   ⟨0x3610, 0x4, 1, 0x0, 0x0, 0x0, 0x0, 0x8000003F, 0x0⟩,
   ⟨0x3614, 0x4, 1, 0x0, 0x0, 0x0, 0x0, 0x0, 0x0⟩,
   ⟨0x3620, 0x4, 1, 0x0, 0x0, 0x0, 0x0, 0x0, 0x0⟩,
   ⟨0x3624, 0x4, 1, 0x0, 0x0, 0x0, 0x0, 0x0, 0x0⟩,
   ⟨0x3628, 0x4, 1, 0x0, 0x0, 0x0, 0x0, 0x0, 0x0⟩,
   ⟨0x3630, 0x4, 1, 0x0, 0x0, 0x0, 0x0, 0x7, 0x0⟩,
   ⟨0x3800, 0x4, 1, 0x0, 0xFFFF, 0x0, 0x0, 0x0, 0x0⟩,
   ⟨0x3804, 0x4, 1, 0x0, 0xFFFF, 0x0, 0x0, 0x0, 0x0⟩,
   ⟨0x3808, 0x4, 1, 0x0, 0xFFFF, 0x0, 0x0, 0x0, 0x0⟩,
   ⟨0x380C, 0x4, 1, 0x0, 0x1, 0x0, 0x0, 0x0, 0x0⟩,
   ⟨0x3810, 0x4, 1, 0x0, 0x0, 0x0, 0x0, 0x0, 0x0⟩,
   ⟨0x3814, 0x4, 1, 0x0, 0x0, 0x0, 0x0, 0x0, 0x0⟩,
   ⟨0x3820, 0x4, 1, 0x0, 0x0, 0x0, 0x0, 0x0, 0x0⟩,
   ⟨0x3824, 0x4, 1, 0x0, 0x0, 0x0, 0x0, 0x0, 0x0⟩,
   ⟨0x3828, 0x4, 1, 0x0, 0x0, 0x0, 0x0, 0x0, 0x0⟩,
   ⟨0x382C, 0x4, 1, 0x0, 0x0, 0x0, 0x0, 0x0, 0x0⟩,
   ⟨0x3830, 0x4, 1, 0x0, 0x0, 0x0, 0x0, 0x0, 0x0⟩,
   ⟨0x3834, 0x4, 1, 0x0, 0x0, 0x0, 0x0, 0x1F, 0x0⟩]

/-- Rows of the register table. -/
def regRows7 : List RegFam :=
  [⟨0x3A00, 0x4, 4, 0x0, 0xFFFFFFFF, 0x0, 0x0, 0x0, 0x0⟩,
   ⟨0x3A10, 0x4, 1, 0x0, 0xFFFF, 0x0, 0x0, 0x0, 0x0⟩,
   ⟨0x3A14, 0x4, 1, 0x0, 0x0, 0x0, 0x0, 0x0, 0x0⟩,
   ⟨0x3A18, 0x4, 1, 0x0, 0x0, 0x0, 0x0, 0x0, 0x0⟩,
   ⟨0x3A1C, 0x4, 1, 0x0, 0x0, 0x0, 0x0, 0x1, 0x0⟩,
   ⟨0x4000, 0x4, 1, 0x0, 0x0, 0x0, 0x0, 0x0, 0x0⟩,
   ⟨0x4004, 0x4, 1, 0x0, 0xFFFF, 0x0, 0x0, 0x0, 0x0⟩,
   ⟨0x4008, 0x4, 1, 0x0, 0xFFFF, 0x0, 0x0, 0x0, 0x0⟩,
   ⟨0x400C, 0x4, 1, 0x0, 0xFFFF, 0x0, 0x0, 0x0, 0x0⟩,
   ⟨0x4010, 0x4, 1, 0x0, 0x1FF01FF, 0x0, 0x0, 0x0, 0x800024⟩,
   ⟨0x4014, 0x4, 1, 0x0, 0x1FF01FF, 0x0, 0x0, 0x0, 0x600060⟩,
   ⟨0x4018, 0x4, 1, 0x0, 0x1FF01FF, 0x0, 0x0, 0x0, 0x280028⟩,
   ⟨0x401C, 0x4, 1, 0x0, 0x1FF, 0x0, 0x0, 0x0, 0x4C⟩,
   ⟨0x4020, 0x4, 1, 0x0, 0xFFFFFF, 0x0, 0x0, 0x0, 0x224444⟩,
   ⟨0x4024, 0x4, 1, 0x0, 0xFFFF, 0x0, 0x0, 0x0, 0x1000⟩,
   ⟨0x4028, 0x4, 1, 0x0, 0xFF, 0x0, 0x0, 0x0, 0x38⟩,
   ⟨0x402C, 0x4, 1, 0x0, 0xFF, 0x0, 0x0, 0x0, 0x0⟩,
   ⟨0x4030, 0x4, 1, 0x0, 0x0, 0x0, 0x0, 0x0, 0x0⟩,
   ⟨0x4034, 0x4, 1, 0x0, 0x0, 0x0, 0x0, 0x0, 0x0⟩,
   ⟨0x4038, 0x4, 3, 0x0, 0x0, 0x0, 0x0, 0x0, 0x0⟩,
   ⟨0x4044, 0x4, 1, 0x0, 0x0, 0x0, 0x0, 0x0, 0x0⟩,
   ⟨0x4048, 0x4, 1, 0x0, 0x0, 0x0, 0x0, 0x0, 0x0⟩,
   ⟨0x404C, 0x4, 1, 0x0, 0x0, 0x0, 0x0, 0x0, 0x0⟩,
   ⟨0x4050, 0x4, 1, 0x0, 0x0, 0x0, 0x0, 0x0, 0x0⟩]

/-- Rows of the register table. -/
def regRows8 : List RegFam :=
  [⟨0x4054, 0x4, 1, 0x0, 0x0, 0x0, 0x0, 0x0, 0x0⟩,
   ⟨0x4058, 0x4, 1, 0x0, 0x0, 0x0, 0x0, 0x3F, 0x0⟩,
   ⟨0x405C, 0x4, 1, 0x0, 0x0, 0x0, 0x0, 0x0, 0x0⟩,
   ⟨0x4060, 0x4, 1, 0x0, 0x0, 0x0, 0x0, 0x0, 0x0⟩,
   ⟨0x4064, 0x4, 1, 0x0, 0x0, 0x0, 0x0, 0x0, 0x0⟩,
   ⟨0x4100, 0x4, 96, 0x0, 0x0, 0x0, 0x0, 0x0, 0x0⟩,
   ⟨0x4400, 0x20, 96, 0x0, 0x0, 0x0, 0x0, 0x0, 0x0⟩,
   ⟨0x4404, 0x20, 96, 0x0, 0x0, 0x0, 0x0, 0x0, 0x0⟩,
   ⟨0x4408, 0x20, 96, 0x0, 0x0, 0x0, 0x0, 0x0, 0x0⟩,
   ⟨0x440C, 0x20, 96, 0x0, 0x0, 0x0, 0x0, 0x0, 0x0⟩,
   ⟨0x4410, 0x20, 96, 0x0, 0x0, 0x0, 0x0, 0x0, 0x0⟩,
   ⟨0x4414, 0x20, 96, 0x0, 0x0, 0x0, 0x0, 0x0, 0x0⟩,
   ⟨0x4418, 0x20, 96, 0x0, 0x0, 0x0, 0x0, 0x0, 0x0⟩,
   ⟨0x441C, 0x20, 96, 0x0, 0x0, 0x0, 0x0, 0xF, 0x0⟩,
   ⟨0x5000, 0x4, 1, 0x0, 0x0, 0x60000000, 0x0, 0x0, 0x0⟩,
   ⟨0x5004, 0x4, 1, 0xFFFF, 0x0, 0x0, 0x0, 0x0, 0x0⟩,
   ⟨0x5008, 0x4, 1, 0x0, 0x0, 0x0, 0x0, 0x0, 0x0⟩,
   ⟨0x500C, 0x4, 1, 0x0, 0x0, 0x0, 0x0, 0x3FFFF, 0x0⟩,
   ⟨0x5010, 0x4, 4, 0x0, 0xFFFF00FF, 0x0, 0x0, 0x0, 0x2000010⟩,
   ⟨0x5020, 0x4, 1, 0x2000FFFF, 0x0, 0x40000000, 0x80000000, 0x0, 0x0⟩,
   ⟨0x5024, 0x4, 1, 0xFFFFFFFF, 0x0, 0x0, 0x0, 0x0, 0x0⟩,
   ⟨0x5028, 0x4, 1, 0xFFFFFFFF, 0x0, 0x0, 0x0, 0x0, 0x0⟩,
   ⟨0x502C, 0x4, 1, 0x0, 0x8000FF07, 0x0, 0x0, 0x0, 0x407⟩,
   ⟨0x5030, 0x4, 1, 0x0, 0xFFFF, 0x0, 0x0, 0x0, 0x0⟩]

/-- Rows of the register table. -/
def regRows9 : List RegFam :=
  [⟨0x5034, 0x4, 1, 0x0, 0x0, 0x0, 0x0, 0x0, 0x0⟩,
   ⟨0x5038, 0x4, 1, 0xFFFFFFFF, 0x0, 0x0, 0x0, 0x0, 0x0⟩,
   ⟨0x503C, 0x4, 1, 0x0, 0xFFFF, 0x0, 0x0, 0x0, 0x0⟩,
   ⟨0x5040, 0x4, 1, 0x0, 0x0, 0x0, 0x0, 0x0, 0x0⟩,
   ⟨0x5044, 0x4, 1, 0xFFFFFFFF, 0x0, 0x0, 0x0, 0x0, 0x0⟩,
   ⟨0x5048, 0x4, 1, 0x0, 0x40FF0000, 0x0, 0x0, 0x80000000, 0x40550000⟩,
   ⟨0x504C, 0x4, 1, 0x0, 0x0, 0x0, 0x0, 0x0, 0x0⟩,
   ⟨0x5050, 0x4, 1, 0x0, 0x0, 0x0, 0x0, 0x0, 0x0⟩,
   ⟨0x5054, 0x4, 1, 0x0, 0x0, 0x0, 0x0, 0x0, 0x0⟩,
   ⟨0x5058, 0x4, 1, 0x0, 0x0, 0x0, 0x0, 0x0, 0x0⟩,
   ⟨0x505C, 0x4, 1, 0x0, 0x0, 0x0, 0x0, 0x0, 0x0⟩,
   ⟨0x5060, 0x4, 1, 0x0, 0x0, 0x0, 0x0, 0x0, 0x0⟩,
   ⟨0x5064, 0x4, 1, 0x0, 0x0, 0x0, 0x0, 0x0, 0x0⟩,
   ⟨0x5068, 0x4, 1, 0x0, 0x0, 0x0, 0x1, 0x0, 0x0⟩,
   ⟨0x506C, 0x4, 1, 0x0, 0x0, 0x0, 0x0, 0x0, 0x0⟩,
   ⟨0x5070, 0x4, 1, 0x0, 0x0, 0x0, 0x0, 0x0, 0x0⟩,
   ⟨0x5084, 0x4, 15, 0x0, 0x0, 0x0, 0x0, 0x0, 0x0⟩,
   ⟨0x50C0, 0x4, 1, 0x0, 0x0, 0x0, 0x0, 0x0, 0x0⟩,
   ⟨0x50C4, 0x4, 1, 0x0, 0x0, 0x0, 0x0, 0x0, 0x0⟩,
   ⟨0x50C8, 0x4, 1, 0x0, 0x0, 0x0, 0x0, 0x3FFFE, 0x0⟩,
   ⟨0x6000, 0x4, 1, 0x0, 0x0, 0x0, 0x0, 0x0, 0x0⟩,
   ⟨0x6004, 0x4, 1, 0x0, 0x0, 0x0, 0x0, 0x0, 0x0⟩,
   ⟨0x6008, 0x4, 1, 0x0, 0x0, 0x0, 0x0, 0x0, 0x0⟩,
   ⟨0x600C, 0x4, 1, 0x0, 0x100, 0x0, 0x0, 0x0, 0x0⟩]

/-- Rows of the register table. -/
def regRows10 : List RegFam :=
  [⟨0x6010, 0x4, 1, 0x0, 0x0, 0x0, 0x0, 0x0, 0x0⟩,
   ⟨0x6014, 0x4, 1, 0x0, 0x0, 0x0, 0x0, 0x0, 0x0⟩,
   ⟨0x6020, 0x4, 1, 0x0, 0x0, 0x0, 0x0, 0xF0000000, 0x0⟩,
   ⟨0x6024, 0x4, 1, 0xFFFFFFFF, 0x0, 0x0, 0x0, 0x0, 0x0⟩,
   ⟨0x6028, 0x4, 1, 0xFFFF, 0x0, 0x0, 0x0, 0x0, 0x0⟩,
   ⟨0x602C, 0x4, 1, 0xFFFFFFFF, 0x0, 0x0, 0x0, 0x0, 0x0⟩,
   ⟨0x6030, 0x4, 1, 0xFFFFFFFF, 0x0, 0x0, 0x0, 0x0, 0x0⟩,
   ⟨0x6034, 0x4, 1, 0xFFFFFFFF, 0x0, 0x0, 0x0, 0x0, 0x0⟩,
   ⟨0x6038, 0x4, 1, 0xFFFFFFFF, 0x0, 0x0, 0x0, 0x0, 0x0⟩,
   ⟨0x603C, 0x4, 1, 0x0, 0x0, 0x0, 0x0, 0xF, 0x0⟩,
   ⟨0x6040, 0x4, 1, 0x0, 0x0, 0x0, 0x0, 0x0, 0x0⟩,
   ⟨0x6044, 0x4, 1, 0x0, 0x0, 0x0, 0x0, 0x0, 0x0⟩,
   ⟨0x6048, 0x4, 1, 0x0, 0x0, 0x0, 0x0, 0xFFFF, 0x0⟩,
   ⟨0x604C, 0x4, 1, 0x0, 0x0, 0x0, 0x0, 0x0, 0x0⟩,
   ⟨0x6050, 0x4, 1, 0x0, 0xFFFF, 0x0, 0x0, 0x0, 0x0⟩,
   ⟨0x6054, 0x4, 1, 0x0, 0x0, 0x0, 0x0, 0x0, 0x0⟩,
   ⟨0x6058, 0x4, 1, 0xFFFFFFFF, 0x0, 0x0, 0x0, 0x0, 0x0⟩,
   ⟨0x605C, 0x4, 1, 0x0, 0x0, 0x0, 0x0, 0x0, 0x0⟩,
   ⟨0x6060, 0x4, 1, 0xFFFFF, 0x0, 0x0, 0x0, 0x0, 0x0⟩,
   ⟨0x6064, 0x4, 1, 0x0, 0x0, 0x0, 0x0, 0x0, 0x0⟩,
   ⟨0x6068, 0x4, 1, 0x0, 0x0, 0x0, 0x0, 0x0, 0x0⟩,
   ⟨0x606C, 0x4, 1, 0x0, 0x0, 0x0, 0x0, 0x0, 0x0⟩,
   ⟨0x6070, 0x4, 1, 0x0, 0x0, 0x0, 0x0, 0x0, 0x0⟩,
   ⟨0x6074, 0x4, 1, 0x0, 0x0, 0x0, 0x0, 0x0, 0x0⟩]

/-- Rows of the register table. -/
def regRows11 : List RegFam :=
  [⟨0x6078, 0x4, 1, 0x0, 0x0, 0x80000000, 0x0, 0x0, 0x0⟩,
   ⟨0x6080, 0x4, 1, 0x0, 0x0, 0x20000000, 0x0, 0x0, 0x0⟩,
   ⟨0x6084, 0x4, 1, 0x0, 0x0, 0x0, 0x0, 0x0, 0x0⟩,
   ⟨0x6088, 0x4, 1, 0x0, 0x107, 0x0, 0x0, 0x0, 0x0⟩,
   ⟨0x608C, 0x4, 1, 0x0, 0x0, 0x0, 0x0, 0x3, 0x0⟩]

/-- Every register of the window. -/
def regTable : List RegFam :=
  regRows0 ++ regRows1 ++ regRows2 ++ regRows3 ++ regRows4 ++ regRows5 ++ regRows6 ++ regRows7 ++ regRows8 ++ regRows9 ++ regRows10 ++ regRows11

/-- Whether an offset is a register of the family. -/
def RegFam.holds (f : RegFam) (off : Nat) : Bool :=
  decide (f.base ≤ off) && (off - f.base) % f.stride == 0 && decide ((off - f.base) / f.stride < f.count)

/-- The register at an offset. -/
def regAt (off : Nat) : Option RegFam := regTable.find? (fun f => f.holds off)

/-- Counts of a synthesis variant (R16, R415): clusters, active Querns, stacks, groups, UCIe ports, host data
ports, Hopper granules. -/
structure Variant where
  clusters : Nat
  active : Nat
  hrStacks : Nat
  groups : Nat
  ports : Nat
  dataPorts : Nat
  granules : Nat
  deriving DecidableEq, Repr

/-- The released parameter sets (R16). -/
def variantOf (v : Nat) : Variant :=
  match v with
  | 0 => ⟨9, 32, 8, 8, 24, 64, 16⟩
  | 1 => ⟨9, 32, 8, 8, 12, 64, 16⟩
  | 2 => ⟨6, 21, 6, 4, 12, 48, 16⟩
  | _ => ⟨3, 10, 4, 2, 6, 32, 8⟩

/-- QUERN_MAP at reset: logical i to physical i below the active count, 0xFF above (R126). -/
def quernMapReset (v w : Nat) : Nat :=
  let a := (variantOf v).active
  let b (i : Nat) : Nat := if i < a then i else 0xFF
  b (4 * w) + b (4 * w + 1) * 2 ^ 8 + b (4 * w + 2) * 2 ^ 16 + b (4 * w + 3) * 2 ^ 24

/-- The value a register holds at reset (log 1 for those the spec gives none). -/
def regDefault (v off : Nat) : BitVec 32 :=
  if 0x0800 ≤ off ∧ off < 0x0820 then BitVec.ofNat 32 (quernMapReset v ((off - 0x0800) / 4))
  else match regAt off with
    | some f => BitVec.ofNat 32 (f.rst + if off = oHuVersion then v % 2 ^ 8 else 0)
    | none => 0

end Sys2Proof.Machine
end

