-- ==== Sys2Proof/Machine/Flags.lean ====
section
/-!
DEFINITION. The sticky flags of R59 in the layout of R113, and how sets of flags combine (R60).
-/
namespace Sys2Proof.Machine

/-- A set of flags in the layout of f0 (R113). -/
abbrev Flags := BitVec 7

/-- Inexact result (R59). -/
def flNX : Flags := 1
/-- Underflow (R59, R416). -/
def flUF : Flags := 2
/-- Overflow (R59). -/
def flOF : Flags := 4
/-- Division by zero (R59). -/
def flDZ : Flags := 8
/-- Invalid operation (R59). -/
def flNV : Flags := 16
/-- Integer result beyond its range (R41). -/
def flSAT : Flags := 32
/-- A refused FW96 drain under QCR.DRT_SOFT (R113). -/
def flCO : Flags := 64
/-- No flag. -/
def flNone : Flags := 0

/-- The flag when the condition holds. -/
def flagIf (c : Bool) (f : Flags) : Flags := if c then f else 0

/-- The flags of an operation over many elements: any element's flag sets it (R60). -/
def flagsOr (l : List Flags) : Flags := l.foldl (· ||| ·) 0

end Sys2Proof.Machine
end

