-- ==== Sys2Proof/Machine/State.lean ====
section
/-!
DEFINITION. The state of the block: plain data holding every register, buffer, queue, counter, mode and pin the
spec gives it (INVENTORY.md, State), the queue of waiting commands, and the state after reset.
-/
namespace Sys2Proof.Machine

/-- Why the block stops: no command stops it, since every fault of the spec is an event, a status code, an error
response or a trap, after which the block goes on. -/
inductive Fault where
  /-- Raised by no meaning: the spec gives the block no fault that stops it. Safe. -/
  | none
  deriving DecidableEq, Repr

/-- Why a command has no meaning. -/
inductive Refusal where
  /-- Raised by a dispatch arm that has no meaning yet. Safe: nothing can be proved about that command. -/
  | notModelled (mnemonic : String)
  /-- Raised by the rows of the host ports for a burst that breaks the AXI5 protocol: R399 and R2 leave the behaviour of
  its port unspecified. Safe: nothing can be proved about that burst. -/
  | portViolation
  deriving DecidableEq, Repr

/-- What is fixed for a chip: the synthesis variant (R16) and the fuse map (R255). -/
structure ChipSt where
  variant : Nat
  fuseBad : Nat
  fuseRows : Nat
  fuseCols : Nat
  deriving DecidableEq, Repr

/-- The health journal on the serial NOR, the one state kept across reset: records of 64 bytes in each slot, the slot
size, and the rows recorded as softly repaired (R236, R360, R398). -/
structure NorSt where
  slot0 : List (List Byte)
  slot1 : List (List Byte)
  slotBytes : Nat
  rows : List (Bool × Nat × Nat)
  deriving DecidableEq, Repr

/-- Start-up (R369 to R378, R396): `sections` holds the image's sections by type until they are applied, `topo` this
chip's 96 entries of the expected topology, `trainEnd` the Turn link training ended here, `discTurn` the Turn the
discovery wave was received or sent. -/
structure BootSt where
  err : Nat
  stopped : Bool
  octal : Bool
  imageRead : Bool
  secWait : Bool
  running : Bool
  groupOk : Bool
  groupDone : Bool
  rcpErr : Bool
  opened : Bool
  openTurn : Nat
  imgGen : Nat
  fwPref : Nat
  fwA : List Byte
  fwB : List Byte
  fwActiveB : Bool
  sections : List (Nat × List Byte)
  topoChips : Nat
  topo : List Nat
  topoCrc : Nat
  dfiDone : Bool
  fillDone : Bool
  trainEnd : Option Nat
  discTurn : Option Nat
  missing : List Nat
  replies : List Nat
  discDone : Bool
  deriving DecidableEq, Repr

/-- The Turn counter, the GCLK cycle within the Turn, the TURN_NOW_HI latches and the slot-table entry in force
(R30, R31). -/
structure TimeSt where
  turn : Nat
  cycle : Nat
  hiLatch : Store Nat
  profile : Nat
  stall : Nat
  deriving DecidableEq, Repr

/-- A QCLK cluster (R19 to R22, R30, R358): point in force, point wanted, voltage (0 when none was acknowledged),
temperature, dispatch suspended for a voltage spread, a request unanswered, deficit Turns, points R22 holds it below
the one wanted, and a stressed test under way. -/
structure Cluster where
  point : Nat
  want : Nat
  volt : Nat
  temp : Nat
  voltHold : Bool
  held : Bool
  late : Nat
  stepDown : Nat
  stress : Bool
  deriving DecidableEq, Repr

/-- A request outstanding on the power manager bundle (R406). -/
structure PmReq where
  cluster : Nat
  point : Nat
  kind : Nat
  since : Nat
  deriving DecidableEq, Repr

/-- The power manager and temperature bundles (R406, R407). -/
structure ClockSt where
  clusters : List Cluster
  pmReq : Option PmReq
  pmQueue : List PmReq
  tsReq : Option Nat
  tsQueue : List Nat
  quadTemp : List Nat
  govTemp : Nat
  deriving DecidableEq, Repr

/-- Bit errors stored in a burst, as bytes XORed into its code word: data symbols 0 to 63, then check symbols
(R231, R232, R254). For Hopper and Quern store, check symbol k is the 8 check bits of word k. -/
structure ErrCell where
  /-- 0 Headrace or Millpond DRAM, 1 Hopper scratch, 2 + q the store of physical Quern q. -/
  space : Nat
  burst : Nat
  pattern : List (Nat × Nat)
  deriving DecidableEq, Repr

/-- The memory tiers (R221 to R237). Masks: bit of the stack, group, quarter or channel. -/
structure MemSt where
  dram : Store Byte
  scratch : Store Byte
  dramPoison : Store Bool
  scratchPoison : Store Bool
  errs : List ErrCell
  /-- Mapped capacity of each stack in GiB, 0 when absent. -/
  hrCap : List Nat
  mpPresent : Nat
  hrRate : Nat
  mpRate : Nat
  hrTemp : List Nat
  hrHot : Nat
  mpHot : Nat
  /-- Channels mapped out at this reset (stack by stack, group by group), and channels dead since. -/
  hrMapOut : List Nat
  mpMapOut : List Nat
  hrDead : List Nat
  mpDead : List Nat
  hrScrub : Nat
  mpScrub : Nat
  hopScrub : Nat
  /-- Rows waiting for or under soft repair: (millpond, channel, row). -/
  pprRows : List (Bool × Nat × Nat)
  /-- Rows corrected in Turns of this Wheel: (millpond, channel, row, Turn). -/
  ceRows : List (Bool × Nat × Nat × Nat)
  /-- Rows repaired since the last reset (R236). -/
  repaired : List (Bool × Nat × Nat)
  /-- Rows a device could not repair, which stay in service (R235). -/
  unrepaired : List (Bool × Nat × Nat)
  phyUpd : List (Bool × Nat)
  retrain : Option Nat
  deriving DecidableEq, Repr

/-- One cache line: tag, and for its four sectors valid, dirty and poison bits (R247). -/
structure Line where
  tag : Nat
  valid : Nat
  dirty : Nat
  poison : Nat
  deriving DecidableEq, Repr

/-- The cache's lines by 2^20 × way + set, and the granules in conversion, true towards SCRATCH (R247, R251,
R252). `mode` is the granule assignment in effect. -/
structure HopSt where
  lines : Store (Option Line)
  mode : Nat
  convert : List (Nat × Bool)
  bad : Nat
  deriving DecidableEq, Repr

/-- A response on a host port: 0 OKAY, 2 SLVERR, 3 DECERR, with read data and its poison bits. -/
structure Resp where
  code : Nat
  data : List Byte
  poison : List Bool
  deriving DecidableEq, Repr

/-- Where the answer of a remote access goes: a host transaction (its request), a staged burst of a requester, or
a Quern register. -/
inductive Sink where
  /-- A host read or atomic, at byte offset `off` of its transaction. -/
  | host (r : AxiReq) (off : Nat)
  /-- A remote host write, waiting for its acknowledgement. -/
  | hostWrite (r : AxiReq)
  /-- A burst wanted by Leat engine e, descriptor n. -/
  | leat (e n : Nat)
  /-- A burst of an MGET of physical Quern q under a tag, for store offset `off`. -/
  | quernGet (q tag off : Nat)
  /-- An ATOM of physical Quern q into scalar register d, of 4 or 8 bytes. -/
  | quernAtom (q d size : Nat)
  /-- The word a WAITW of physical Quern q reads: its address, value and condition. -/
  | quernWaitw (q addr value : Nat) (eq : Bool)
  /-- A write of Leat engine e, descriptor n. -/
  | leatWrite (e n : Nat)
  /-- A write of an MPUT of physical Quern q under a tag. -/
  | quernWrite (q tag : Nat)
  /-- A burst wanted by the Bolter, and a write of it. -/
  | bolter
  | bolterWrite
  /-- A write of an export or checkpoint, or of no one who waits. -/
  | none
  deriving DecidableEq, Repr

/-- A remote access outstanding (R270, R271). -/
structure Outst where
  tag : Nat
  chip : Nat
  /-- The message kind sent: 0x38 to 0x3B. -/
  kind : Nat
  addr : Nat
  sink : Sink
  deriving DecidableEq, Repr

/-- A fence that waits (R265): port, scope, the tags of its earlier remote writes, the numbers of its earlier
accesses that are held, and whether an earlier write was lost. -/
structure FenceSt where
  narrow : Bool
  port : Nat
  scope : Nat
  tags : List Nat
  held : List Nat
  lost : Bool
  deriving DecidableEq, Repr

/-- A host access that waits (R251, R377, R388, R235): its number, 0 read, 1 write or 2 atomic, and the request. -/
structure HeldReq where
  id : Nat
  kind : Nat
  r : AxiReq
  deriving DecidableEq, Repr

/-- Host ports (R261 to R271, R397 to R402). -/
structure PortSt where
  /-- Last response by port: data ports 0 to 63, narrow ports 64 to 71. -/
  resp : Store (Option Resp)
  waiting : List HeldReq
  nextHeld : Nat
  fences : List FenceSt
  /-- Ports with a write lost since their last SYSTEM fence (R271). -/
  lost : List (Bool × Nat)
  outst : List Outst
  nextTag : Nat
  /-- Chips whose route changed with requests outstanding, and the VC4 requests held for them (R270). -/
  routeHold : List Nat
  heldVc4 : List (Nat × Msg)
  /-- Last management response: read data and PSLVERR. -/
  apb : Nat × Bool
  deriving DecidableEq, Repr

/-- A Sail position: the seed, the step position T, and the draws taken by 256 × lane + stream (R303, R304).
`epoch` counts jump-aheads. -/
structure SailPos where
  seed : Nat
  t : Nat
  epoch : Nat
  draws : Store Nat
  /-- Streams the work item has loaded (R307), as 256 × lane + stream. -/
  cached : List Nat
  deriving DecidableEq, Repr

/-- A tile register (R108). -/
structure Tile where
  fmt : Nat
  codes : List Nat
  rows : Nat
  cols : Nat
  bsize : Nat
  bdir : Bool
  scales : Option (List Nat)
  tscale : Option Nat
  deriving DecidableEq, Repr

/-- The operand class of an open chain (R65). -/
inductive ChainKind where
  | t48 (window : Nat)
  | limbs (three : Bool)
  | b64
  | int
  | fw96
  deriving DecidableEq, Repr

/-- An open accumulator set (R85, R109): the class with its operand grouping, the configuration word, chunk count,
shift, ceiling overflow, valid rows and columns, per-tensor scales, whether a spill has taken place, products
counted, the accumulators, and for FW96 the per-output record of -0 products. An FW96 chain opened on a0 takes
a1, whose elements hold the totals' bits [95:64] and the record. -/
structure Chain where
  kind : ChainKind
  cls : Nat
  cfg : Nat
  nch : Nat
  shift : Nat
  co : Bool
  rows : Nat
  cols : Nat
  ta : Option Nat
  tb : Option Nat
  spilled : Bool
  products : Nat
  acc : List Nat
  negZero : List Bool
  deriving DecidableEq, Repr

/-- An open loop: iterations still to run after the present one, body start and body length (R133). -/
structure LoopSt where
  left : Nat
  start : Nat
  len : Nat
  deriving DecidableEq, Repr

/-- A work item (R106, R119, R150, R153): identity, logical index, Sluice context, the entry it updates or refreshes,
the recipe, live store range, the step and attempt of its sequence, and the first element no item of the sequence
has had. -/
structure Item where
  id : Nat
  logical : Nat
  ctx : Nat
  entry : Nat
  refresh : Bool
  recipe : Nat
  live : Nat
  step : Nat
  attempt : Nat
  next : Nat
  /-- A sequence replayed after the commit of its step (R218). -/
  replay : Bool
  deriving DecidableEq, Repr

/-- An MGET or MPUT in flight (R139): the next burst's virtual address and store offset, the bytes not yet moved,
the store bytes an MPUT sends and their poison marks as they stood at its issue, and the range it covers. -/
structure Xfer where
  tag : Nat
  get : Bool
  va : Nat
  off : Nat
  bytes : Nat
  data : List Byte
  poison : List Bool
  lo : Nat
  len : Nat
  deriving DecidableEq, Repr

/-- A Quern's register context (R107, R109, R113, R114, R119). Registers are sparse stores: v by 64 × register +
lane, others by number. -/
structure QCtx where
  v : Store (BitVec 32)
  s : Store (BitVec 64)
  p : Store (BitVec 64)
  t : Store (Option Tile)
  a0 : Option Chain
  a1 : Option Chain
  cfg0 : Nat
  cfg1 : Nat
  f0 : Flags
  qcr : BitVec 32
  pc : Nat
  loops : List LoopSt
  deriving DecidableEq, Repr

/-- A saved context (R119, R120): the Quern's context, its item, trap, the live store range, Sail position, unmet
WAITW, transfers of a suspended item, its resume token (R299), and whether it has been restored since: it then stays
the most recent completed save of its sequence (R123). -/
structure Saved where
  logical : Nat
  area : Nat
  ctx : QCtx
  item : Option Item
  state : Nat
  trap : Nat
  trapPc : Nat
  live : List Byte
  sail : SailPos
  waitw : Option (Nat × Nat × Bool)
  xfers : List Xfer
  token : Option Nat
  used : Bool
  deriving DecidableEq, Repr

/-- One physical Quern (R106 to R126). `state` is QN_STATUS.STATE. `poisonSrc` is the block
address a marked store burst came from; `blocked` holds while an ATOM or WAITW waits for
another chip; `waitw` the address, value and equality of an unmet WAITW, `waitReady` whether the Governor has since
read its word and found the condition to hold; `token` the resume token of a suspension;
`seqSail` the Sail position at the sequence's start (R307); `overruns` the Turns of overruns above 512 cycles (R28);
`lastOver` the cycles of the last. -/
structure Quern where
  state : Nat
  trap : Nat
  trapPc : Nat
  ctx : QCtx
  item : Option Item
  store : Store Byte
  storePoison : Store Bool
  poisonSrc : Store Nat
  xfers : List Xfer
  blocked : Bool
  token : Option Nat
  waitw : Option (Nat × Nat × Bool)
  waitReady : Bool
  fnanValid : Bool
  fnanOrigin : Bool
  fnanInsn : Nat
  fnanItem : Nat
  fnanIndex : Nat
  fnanPc : Nat
  fnanTurn : Nat
  slow : Bool
  overruns : List Nat
  lastOver : Nat
  slowMarks : List Nat
  seqSail : SailPos
  lost : Bool
  saving : Option Nat
  restoring : Option Nat
  deriving DecidableEq, Repr

/-- A custom recipe loaded in the code region (R152, R154). -/
structure Recipe where
  id : Nat
  stateBytes : Nat
  hyper : Nat
  base : Nat
  code : List Byte
  update : Nat
  refresh : Nat
  every : Nat
  costF : Nat
  costP : Nat
  costRf : Nat
  costRp : Nat
  live : Nat
  deriving DecidableEq, Repr

/-- The Querns, the Sail generator's position, loaded recipes (the version OPEN will take, and versions an open
step still uses), and saved contexts. -/
structure QuernsSt where
  q : List Quern
  sailSeed : Nat
  sailT : Nat
  sailEpoch : Nat
  sailBusy : Bool
  sails : List SailPos
  recipes : List Recipe
  oldRecipes : List Recipe
  saved : List Saved
  nextItem : Nat
  deriving DecidableEq, Repr

/-- A contribution held for a unit (R96): source chip, gradient format, first element, codes, poison. -/
structure Held where
  src : Nat
  fmt : Nat
  first : Nat
  codes : List Nat
  deriving DecidableEq, Repr

/-- A peer partial sum counted into a unit (R98): source, first element, r, covered count, exponent, totals. -/
structure PartialRec where
  src : Nat
  first : Nat
  r : Nat
  count : Nat
  maxExp : Int
  fail : Bool
  q : List Int
  z : List Bool
  n : List Bool
  deriving DecidableEq, Repr

/-- A reduction unit of the open step (R90 to R99): the entry, admission, raise count, failure, held contributions,
own group's partial sent at a raise count, peer partials, the raise count peers ask for, and whether it is finalised
(with MAXEXP) and updated. `gs` is the word 0 its update used, `redo` whether it was rerun after round A, `phase2`
whether LAMB's second phase ran, `ckptWait` whether it waits for its records to be copied. -/
structure FwUnit where
  entry : Nat
  admitted : Bool
  fmt : Nat
  r : Nat
  failed : Bool
  held : List Held
  sentAt : Option Nat
  partials : List PartialRec
  wantR : Nat
  final : Bool
  maxExp : Int
  updated : Bool
  gs : Nat
  redo : Bool
  phase2 : Bool
  ckptWait : Bool
  /-- The checks of R348 were made on a custom recipe's update. -/
  judged : Bool
  deriving DecidableEq, Repr

/-- Norm partial of a unit and kind (0 gradient, 1 weight, 2 update): the totals at each raise count 0 to 4, which
are the recomputations R101 asks for, the r they need, value exponent, non-finite, failed (R100, R101). -/
structure NormRec where
  entry : Nat
  group : Nat
  kind : Nat
  q : List Nat
  r : Nat
  vexp : Int
  bad : Bool
  failed : Bool
  deriving DecidableEq, Repr

/-- A combined norm sum returned by the norm root: group, kind, r, exponent, total. -/
structure NormSumRec where
  group : Nat
  kind : Nat
  r : Nat
  vexp : Int
  q : Nat
  deriving DecidableEq, Repr

/-- A step ring entry read and not yet handled (R194): its 16 bytes. -/
abbrev RingEntry := List Byte

/-- The step state machine (R191 to R208). `move` is a transition waiting for the next boundary. -/
structure StepSt where
  state : Nat
  s : Nat
  attempt : Nat
  clipMode : Nat
  clipNorm : Nat
  lsHost : Bool
  l : Nat
  round : Nat
  move : Option Nat
  ovf : Bool
  flt : Bool
  markReason : Nat
  earlyDue : Bool
  earlySent : Bool
  abortReason : Nat
  abortChip : Nat
  ready : Bool
  roundB : Bool
  recordSent : Bool
  sumsA : Bool
  sumsB : Bool
  holdTags : List Nat
  exp : Nat
  clean : Nat
  clip : Nat
  clipPend : Nat
  jumped : Bool
  goDone : Bool
  deriving DecidableEq, Repr

/-- What the open step holds: the tables sampled at OPEN (R168), rung layers with buffer and format, layers whose
word is written, held LAYER entries, ring entries read, units, norms, timers. `progress` holds, by kind (0 update,
1 refresh, 2 replay) and entry, the first element of a custom recipe no completed sequence has had. -/
structure WorkSt where
  tt : List (List Byte)
  hsets : List Byte
  ceil : Store (BitVec 64)
  norm : Store (BitVec 64)
  rung : List (Nat × Nat × Nat)
  done : List Nat
  heldLayers : List RingEntry
  ringQ : List RingEntry
  sent : List (Nat × Nat)
  admits : List Nat
  units : List FwUnit
  norms : List NormRec
  sums : List NormSumRec
  refreshed : List Nat
  tOpen : Option Nat
  tGrind : Option Nat
  tSettle : Option Nat
  tDecision : Option Nat
  tPub : Option Nat
  tags : List (Nat × Nat)
  progress : List (Nat × Nat × Nat)
  deriving DecidableEq, Repr

/-- A record a root holds: the chip that sent it and the message. -/
abbrev RootRec := Nat × Msg

/-- A decision that waits for the standby root's acknowledgement: the message, the chip it is for (HOLD; none for
the tree), and the Turn it was sent to the standby root (R200, R201). -/
structure Decision where
  m : Msg
  dest : Option Nat
  since : Nat
  deriving DecidableEq, Repr

/-- The roles of decision root, standby root and norm root (R190, R197, R200, R201, R203): records held, each from its
source; decisions made and waiting; recomputations a norm root asked for (chip, group, kind, r); rounds whose group
record has been sent (s, attempt, round). -/
structure RootSt where
  openRecs : List RootRec
  roundRecs : List RootRec
  groupRecs : List RootRec
  normParts : List RootRec
  decided : List Msg
  waiting : List Decision
  standbyLost : Bool
  standbyDecided : List Msg
  rootLost : Bool
  asked : List (Nat × Nat × Nat × Nat)
  groupSent : List (Nat × Nat × Nat)
  deriving DecidableEq, Repr

/-- A range the Tailrace publishes (R209, R210): entry of the committed table, step, parts still to send (plane,
first element, count) and whether its short copy is formed. -/
structure PubRange where
  entry : Nat
  s : Nat
  republish : Bool
  deriving DecidableEq, Repr

/-- Publication (R209 to R213). -/
structure PubSt where
  busy : Bool
  s : Nat
  attempt : Nat
  tt : List (List Byte)
  /-- The Sail seed sampled at the OPEN of step s (R306). -/
  seed : Nat
  todo : List PubRange
  /-- Parts written here: step, entry, part and first element, bytes. -/
  got : List (Nat × Nat × Nat × Nat)
  readyLayers : List Nat
  late : Bool
  susp : Option Nat
  preempt : Bool
  err : Bool
  tensor : Nat
  /-- The hyperparameter sets of step s, and its custom entries waiting for a replay (R218). -/
  hs : List Byte
  replay : List Nat
  deriving DecidableEq, Repr

/-- Checkpoint, export and digests (R184 to R186, R215 to R219, R352). `ckptW` and `expW` are the first step that
writes the slot under copy; `ckptOff` and `expOff` the bytes written so far. Digests are held by entry of the
committed table: this chip's, those of peer owners by chip + 2^14 × round, the entries digested again after a replay,
and the entries whose digests are not yet compared. -/
structure CopySt where
  ckptBusy : Bool
  ckptFail : Bool
  ckptArea : Nat
  ckptStep : Nat
  ckptW : Nat
  ckptTodo : List Nat
  ckptOff : Nat
  ckptTt : List (List Byte)
  ckptHs : List Byte
  expBusy : Bool
  expErr : Bool
  expCode : Nat
  expRecords : Nat
  expStep : Nat
  expW : Nat
  expTodo : List Nat
  expOff : Nat
  expTt : List (List Byte)
  expHs : List Byte
  expDest : Nat
  expFormat : Nat
  expFields : Nat
  digOwn : List (Nat × Nat)
  digPeer : List (Nat × Nat × Nat)
  digAgain : List Nat
  digDue : List Nat
  deriving DecidableEq, Repr

/-- An active Leat descriptor (R276, R290): number, bytes, destination chunks done, bytes written, flags, poison
seen, staged remote bursts, Turns waited, open gates, resume token, and its status once it has finished. -/
structure LeatDesc where
  n : Nat
  d : List Byte
  progress : Nat
  bytes : Nat
  flags : Flags
  poisoned : Bool
  staged : List (Nat × List Byte × Bool)
  asked : Bool
  waited : Nat
  waiting : Bool
  token : Option Nat
  status : Option Nat
  sail : SailPos
  deriving DecidableEq, Repr

/-- A Leat engine (R275, R279). -/
structure Leat where
  consumed : Nat
  completed : Nat
  active : List LeatDesc
  preempt : Bool
  sail : SailPos
  deriving DecidableEq, Repr

/-- A suspended requester of the Sluice: its token and the access (R297, R299). -/
structure Susp where
  token : Nat
  access : SlAccess
  deriving DecidableEq, Repr

/-- The Sluice (R291 to R299): fault records waiting, suspended requesters, producer index, invalidation, next
token. Translations are not kept (R295 allows it). -/
structure SluiceSt where
  recs : List (List Byte)
  susp : List Susp
  prod : Nat
  inval : Bool
  invalCtx : Option Nat
  nextToken : Nat
  deriving DecidableEq, Repr

/-- A record placed in a batch: position, record number, length, poison, format, data, and poison marks of its
64-byte units. -/
structure BatchRec where
  pos : Nat
  recNo : Nat
  len : Nat
  poison : Bool
  format : Bool
  data : List Byte
  marks : List Bool
  deriving DecidableEq, Repr

/-- A batch: bucket, FINAL, sequence number, records (R315). -/
structure Batch where
  bucket : Nat
  final : Bool
  seq : Nat
  recs : List BatchRec
  deriving DecidableEq, Repr

/-- The Bolter (R308 to R315). -/
structure BolterSt where
  consumed : Nat
  done : Nat
  job : Option (List Byte)
  ring : Nat
  next : Nat
  opens : List Batch
  closed : List Batch
  batches : Nat
  written : Nat
  status : Option Nat
  susp : List (Nat × Nat)
  preempt : Bool
  epoch : Nat
  staged : List (Nat × List Byte × Bool)
  asked : Bool
  deriving DecidableEq, Repr

/-- A DATA flit held in the replay buffer: SEQ, pool, late, its bytes, and the identity of the message. -/
structure TxFlit where
  seq : Nat
  vc : Nat
  late : Bool
  bytes : List Byte
  /-- The number of the outgoing message, and whether this is its last flit. -/
  msg : Nat
  eom : Bool
  deriving DecidableEq, Repr

/-- A message waiting on a link: its number, pool, late, destination field, multicast, hops, and the message. -/
structure TxMsg where
  id : Nat
  vc : Nat
  late : Bool
  mc : Bool
  dest : Nat
  hops : Nat
  m : Msg
  deriving DecidableEq, Repr

/-- A message arriving in parts: pool, multicast, destination, hops, payload so far, flits, late flag. -/
structure RxPart where
  vc : Nat
  mc : Bool
  dest : Nat
  hops : Nat
  late : Bool
  flits : Nat
  payload : List Byte
  deriving DecidableEq, Repr

/-- One link (R319 to R337). Lists indexed by 2 × pool + class, pool 0 to 6. -/
structure Link where
  state : Nat
  reason : Nat
  peerChip : Nat
  peerLink : Nat
  txSeq : Nat
  rxSeq : Nat
  replay : List TxFlit
  nakOwed : Bool
  discarding : Bool
  cred : List Nat
  cfg : List Nat
  owed : List Nat
  held : List Nat
  woff : List Nat
  resends : Nat
  attempts : Nat
  retrainDue : Bool
  trains : Nat
  lastTrain : List Byte
  queue : List TxMsg
  parts : List RxPart
  downDue : Option Nat
  sepiaDue : Bool
  retrainTurns : List Nat
  deriving DecidableEq, Repr

/-- A UCIe port (R318, R327): Active, half rate, retrain running, retrain requested by a command. -/
structure GPort where
  active : Bool
  half : Bool
  retraining : Bool
  live : Bool
  absent : Bool
  deriving DecidableEq, Repr

/-- A message received whole and not yet applied: the link it came on, its pool, class and flits, and the outgoing
message that copies it to child links. -/
structure RxMsg where
  m : Msg
  link : Nat
  vc : Nat
  late : Bool
  flits : Nat
  copy : Option Nat
  deriving DecidableEq, Repr

/-- An outgoing message not yet acknowledged on every link it took: its number, its message, and the slots its
arrival holds (link, pool, class, flits). -/
structure OutMsg where
  id : Nat
  links : List Nat
  m : Msg
  slots : Option (Nat × Nat × Bool × Nat)
  pub : Bool
  deriving DecidableEq, Repr

/-- The links (R318 to R337). -/
structure GenleSt where
  links : List Link
  ports : List GPort
  rx : List RxMsg
  out : List OutMsg
  nextMsg : Nat
  /-- Messages delivered to this chip by itself: the roots' own records and decisions. -/
  self : List Msg
  unreach : List Nat
  chip : Nat
  group : Nat
  rank : Nat
  deriving DecidableEq, Repr

/-- A graded unit (R353 to R357): unit id, grade, bucket, passes, fails, last class, a test that waits, the Turn of the
last test, an event since then, and the completed scrub passes then. -/
structure Graded where
  u : Nat
  grade : Nat
  bucket : Nat
  passes : Nat
  fails : Nat
  last : Nat
  pendTest : Bool
  lastTest : Nat
  bad : Bool
  scrub : Nat
  deriving DecidableEq, Repr

/-- An event waiting for the journal (R361, R362). -/
structure Ev where
  seq : Nat
  turn : Nat
  u : Nat
  cls : Nat
  gradeB : Nat
  gradeA : Nat
  count : Nat
  temp : Nat
  verdict : Nat
  volt : Nat
  op : Nat
  detail : Nat
  timebase : Nat
  deriving DecidableEq, Repr

/-- A unit held for plausibility (R349): entry, failed checks (bit 0 FIN, 1 MAG, 2 NORM), original Quern. -/
structure PlausHold where
  entry : Nat
  failed : Nat
  quern : Nat
  deriving DecidableEq, Repr

/-- A disagreement under full redundancy (R351): logical index, CRCs of primary and checker, and the third Quern with
its CRC. -/
structure CheckHold where
  logical : Nat
  primary : Nat
  checker : Nat
  third : Option (Nat × Nat)
  deriving DecidableEq, Repr

/-- Faults, checking and health (R338 to R368). -/
structure HealthSt where
  seq : Nat
  units : List Graded
  /-- Grade changes waiting for the boundary: unit, new grade. -/
  gradeNext : List (Nat × Nat)
  pend : List Ev
  writing : Bool
  slot : Nat
  generation : Nat
  sepia : Bool
  sepiaReason : Nat
  sepiaDue : Nat
  fatal : Bool
  statePoison : Bool
  fatalOwn : Nat
  fatalPeer : Nat
  fatalTensor : Nat
  fatalChip : Nat
  armed : Bool
  flipDone : Bool
  flipAddr : Nat
  plaus : List PlausHold
  check : List CheckHold
  /-- Units under test with their condition: 0 nominal, 1 low voltage, 2 high frequency; 4 added when it was refused. -/
  tests : List (Nat × Nat)
  testAbort : Bool
  stressRot : List (Nat × Nat)
  /-- Querns held for a stressed test until their cluster is warm, with the Turn the wait began (R358). -/
  testWait : List (Nat × Nat)
  deriving DecidableEq, Repr

/-- A transaction (R380 to R385): owner, staged registers, table loads (code, source, length, staged contents),
application point, named Turn or step, tag, id, result so far, journal entries reserved. -/
structure Txn where
  id : Nat
  owner : Nat
  regs : List (Nat × Nat)
  loads : List (Nat × Nat × Nat × List Byte)
  wh : Nat
  at_ : Nat
  tag : Nat
  reserved : Nat
  deriving DecidableEq, Repr

/-- The Governor's transactions, change journal, ledger error and power-fail warning (R380 to R396). `pfWindow` is the
channel whose lone assertion opened the 20 µs window, `pfDue` a sequence started and waiting for its boundary. -/
structure GovSt where
  opened : Option Txn
  checking : List Txn
  pendTx : List Txn
  lastId : Nat
  result : Nat
  lastOwner : Nat
  cjProd : Nat
  copies : List (Nat × List Byte)
  ledgerErr : Bool
  ledgerClass : Nat
  ledgerIndex : Nat
  pfA : Bool
  pfB : Bool
  pfWindow : Option Bool
  pfDue : Bool
  pfActive : Bool
  pfDone : Bool
  deriving DecidableEq, Repr

/-- The state of the block. `regs` holds every register of the management window that a write changes or that
counts, by offset, as far as it differs from its reset value; the registers computed from other fields are read by
`readReg`. `free` is the model's own counter of open values drawn (log 4). -/
structure State where
  chip : ChipSt
  nor : NorSt
  boot : BootSt
  time : TimeSt
  clk : ClockSt
  regs : Store (BitVec 32)
  mem : MemSt
  hop : HopSt
  port : PortSt
  qn : QuernsSt
  step : StepSt
  work : WorkSt
  root : RootSt
  pub : PubSt
  copy : CopySt
  leat : List Leat
  sl : SluiceSt
  bol : BolterSt
  gl : GenleSt
  fh : HealthSt
  gov : GovSt
  free : Nat
  pending : List Instr
  deriving DecidableEq, Repr

def ChipSt.reset : ChipSt := ⟨0, 0, 0, 0⟩
def NorSt.reset : NorSt := ⟨[], [], 0, []⟩
def BootSt.reset : BootSt where
  err := 0
  stopped := false
  octal := false
  imageRead := false
  secWait := false
  running := false
  groupOk := false
  groupDone := false
  rcpErr := false
  opened := false
  openTurn := 0
  imgGen := 0
  fwPref := 0
  fwA := []
  fwB := []
  fwActiveB := false
  sections := []
  topoChips := 0
  topo := []
  topoCrc := 0
  dfiDone := false
  fillDone := false
  trainEnd := none
  discTurn := none
  missing := []
  replies := []
  discDone := false
def TimeSt.reset : TimeSt := ⟨0, 0, [], 0, 0⟩
def Cluster.reset : Cluster := ⟨0, 0, 0, 0, false, false, 0, 0, false⟩
def ClockSt.reset : ClockSt := ⟨List.replicate 9 Cluster.reset, none, [], none, [], [0, 0, 0, 0], 0⟩
def MemSt.reset : MemSt where
  dram := []
  scratch := []
  dramPoison := []
  scratchPoison := []
  errs := []
  hrCap := List.replicate 8 64
  mpPresent := 0xFF
  hrRate := 0
  mpRate := 0
  hrTemp := List.replicate 8 0
  hrHot := 0
  mpHot := 0
  hrMapOut := List.replicate 8 0
  mpMapOut := List.replicate 8 0
  hrDead := List.replicate 8 0
  mpDead := List.replicate 8 0
  hrScrub := 0
  mpScrub := 0
  hopScrub := 0
  pprRows := []
  ceRows := []
  repaired := []
  unrepaired := []
  phyUpd := []
  retrain := none
def HopSt.reset : HopSt := ⟨[], 0, [], 0⟩
def PortSt.reset : PortSt := ⟨[], [], 0, [], [], [], 0, [], [], (0, false)⟩
def SailPos.reset : SailPos := ⟨0, 0, 0, [], []⟩
def QCtx.reset : QCtx := ⟨[], [], [], [], none, none, 0, 0, 0, 0, 0, []⟩
/-- A Quern in a state of QN_STATUS.STATE at reset. -/
def Quern.resetTo (state : Nat) : Quern where
  state := state
  trap := 0
  trapPc := 0
  ctx := QCtx.reset
  item := none
  store := []
  storePoison := []
  poisonSrc := []
  xfers := []
  blocked := false
  token := none
  waitw := none
  waitReady := false
  fnanValid := false
  fnanOrigin := false
  fnanInsn := 0
  fnanItem := 0
  fnanIndex := 0
  fnanPc := 0
  fnanTurn := 0
  slow := false
  overruns := []
  lastOver := 0
  slowMarks := []
  seqSail := SailPos.reset
  lost := false
  saving := none
  restoring := none
def QuernsSt.reset : QuernsSt where
  q := List.replicate 36 (Quern.resetTo 0)
  sailSeed := 0
  sailT := 0
  sailEpoch := 0
  sailBusy := false
  sails := List.replicate 32 SailPos.reset
  recipes := []
  oldRecipes := []
  saved := []
  nextItem := 0
def StepSt.reset : StepSt where
  state := 0
  s := 0
  attempt := 0
  clipMode := 0
  clipNorm := 0
  lsHost := false
  l := 0
  round := 0
  move := none
  ovf := false
  flt := false
  markReason := 0
  earlyDue := false
  earlySent := false
  abortReason := 0
  abortChip := 0
  ready := false
  roundB := false
  recordSent := false
  sumsA := false
  sumsB := false
  holdTags := []
  exp := 16
  clean := 0
  clip := 0x3F800000
  clipPend := 0x3F800000
  jumped := false
  goDone := false
def WorkSt.reset : WorkSt where
  tt := []
  hsets := []
  ceil := []
  norm := []
  rung := []
  done := []
  heldLayers := []
  ringQ := []
  sent := []
  admits := []
  units := []
  norms := []
  sums := []
  refreshed := []
  tOpen := none
  tGrind := none
  tSettle := none
  tDecision := none
  tPub := none
  tags := []
  progress := []
def RootSt.reset : RootSt := ⟨[], [], [], [], [], [], false, [], false, [], []⟩
def PubSt.reset : PubSt := ⟨false, 0, 0, [], 0, [], [], [], false, none, false, false, 0, [], []⟩
def CopySt.reset : CopySt where
  ckptBusy := false
  ckptFail := false
  ckptArea := 0
  ckptStep := 0
  ckptW := 0
  ckptTodo := []
  ckptOff := 0
  ckptTt := []
  ckptHs := []
  expBusy := false
  expErr := false
  expCode := 0
  expRecords := 0
  expStep := 0
  expW := 0
  expTodo := []
  expOff := 0
  expTt := []
  expHs := []
  expDest := 0
  expFormat := 0
  expFields := 0
  digOwn := []
  digPeer := []
  digAgain := []
  digDue := []
def Leat.reset : Leat := ⟨0, 0, [], false, SailPos.reset⟩
def SluiceSt.reset : SluiceSt := ⟨[], [], 0, false, none, 0⟩
def BolterSt.reset : BolterSt := ⟨0, 0, none, 0, 0, [], [], 0, 0, none, [], false, 0, [], false⟩
/-- The credits of R337's reset values, per 2 × pool + class. -/
def defaultCredits : List Nat := [18, 18, 64, 64, 48, 48, 48, 48, 20, 20, 38, 38, 20, 20]
def Link.reset : Link where
  state := 0
  reason := 0
  peerChip := 0
  peerLink := 0
  txSeq := 0
  rxSeq := 0
  replay := []
  nakOwed := false
  discarding := false
  cred := defaultCredits
  cfg := defaultCredits
  owed := List.replicate 14 0
  held := List.replicate 14 0
  woff := List.replicate 14 0
  resends := 0
  attempts := 0
  retrainDue := false
  trains := 0
  lastTrain := []
  queue := []
  parts := []
  downDue := none
  sepiaDue := false
  retrainTurns := []
def GPort.reset : GPort := ⟨false, false, false, false, false⟩
def GenleSt.reset : GenleSt :=
  ⟨List.replicate 96 Link.reset, List.replicate 24 GPort.reset, [], [], 0, [], [], 0, 0, 0⟩
def HealthSt.reset : HealthSt where
  seq := 0
  units := []
  gradeNext := []
  pend := []
  writing := false
  slot := 0
  generation := 0
  sepia := false
  sepiaReason := 0
  sepiaDue := 0
  fatal := false
  statePoison := false
  fatalOwn := 0
  fatalPeer := 0
  fatalTensor := 0
  fatalChip := 0
  armed := false
  flipDone := false
  flipAddr := 0
  plaus := []
  check := []
  tests := []
  testAbort := false
  stressRot := []
  testWait := []
def GovSt.reset : GovSt where
  opened := none
  checking := []
  pendTx := []
  lastId := 0
  result := 0
  lastOwner := 0
  cjProd := 0
  copies := []
  ledgerErr := false
  ledgerClass := 0
  ledgerIndex := 0
  pfA := false
  pfB := false
  pfWindow := none
  pfDue := false
  pfActive := false
  pfDone := false

/-- The block right after reset: variant 0x00 with no fuse defect and an empty journal (log 2). -/
def State.reset : State where
  chip := ChipSt.reset
  nor := NorSt.reset
  boot := BootSt.reset
  time := TimeSt.reset
  clk := ClockSt.reset
  regs := []
  mem := MemSt.reset
  hop := HopSt.reset
  port := PortSt.reset
  qn := QuernsSt.reset
  step := StepSt.reset
  work := WorkSt.reset
  root := RootSt.reset
  pub := PubSt.reset
  copy := CopySt.reset
  leat := List.replicate 16 Leat.reset
  sl := SluiceSt.reset
  bol := BolterSt.reset
  gl := GenleSt.reset
  fh := HealthSt.reset
  gov := GovSt.reset
  free := 0
  pending := []

end Sys2Proof.Machine
end

