-- ==== Sys2Proof/Machine/Ops.lean ====
section
/-!
DEFINITION. The named operations every meaning shares: registers and counters, interrupts, events, open values,
block addresses, and reading and writing one 64-byte burst at its home.
-/
namespace Sys2Proof.Machine

abbrev Out := Host.Outcome State Fault Refusal

/-- The parameter counts of this chip's variant (R16). -/
def vnt (s : State) : Variant := variantOf s.chip.variant

/-- A stored register as a number. -/
def regGet (s : State) (off : Nat) : Nat := (mapGet (regDefault s.chip.variant) s.regs off).toNat

/-- Set a stored register. -/
def regSet (s : State) (off v : Nat) : State :=
  { s with regs := mapSet (regDefault s.chip.variant) s.regs off (BitVec.ofNat 32 v) }

/-- Set bits of a stored register. -/
def regOr (s : State) (off m : Nat) : State := regSet s off (regGet s off ||| m)

/-- Clear bits of a stored register. -/
def regClr (s : State) (off m : Nat) : State := regSet s off (regGet s off &&& (2 ^ 32 - 1 - m))

/-- Add to a counter that saturates at 0xFFFF_FFFF (R105 and the other register rules). -/
def bumpBy (s : State) (off n : Nat) : State := regSet s off (min (regGet s off + n) 0xFFFFFFFF)

/-- Increment a saturating counter. -/
def bump (s : State) (off : Nat) : State := bumpBy s off 1

/-- Clear, of `n` counters at base + 4 i, those whose bit i is set in w. -/
def clearCounters (s : State) (base w : Nat) : Nat → State
  | 0 => s
  | n + 1 => let s := clearCounters s base w n; if bitOf w n then regSet s (base + 4 * n) 0 else s

/-- Draw an open value's index: the model's counter advances (log 4). -/
def drawFree (s : State) : Nat × State := (s.free, { s with free := s.free + 1 })

/-- Bytes the spec does not specify (log 4). -/
def drawBytes (s : State) (n : Nat) : List Byte × State :=
  ((List.range n).map (fun i => Config.freeByte (s.free + i)), { s with free := s.free + n })

/-- Set a bit of IRQ_STATUS (R410). -/
def irqSet (s : State) (b : Nat) : State := regOr s oIrqStatus (2 ^ b)

def irqStep : Nat := 5
def irqGov : Nat := 4
def irqHealth : Nat := 3
def irqLeat : Nat := 1

/-- Hopper capacity in bytes (R16, R244). -/
def hopBytes (s : State) : Nat := (vnt s).granules * 2 ^ 28

/-- A granule in SCRATCH use: present, not CACHE, not bad (R245). -/
def granuleScratch (s : State) (g : Nat) : Bool :=
  decide (g < (vnt s).granules) && !bitOf s.hop.mode g && !bitOf s.hop.bad g

/-- A scratch range that exists (R245). -/
def scratchOk (s : State) (o n : Nat) : Bool :=
  decide (o + n ≤ hopBytes s) &&
  (List.range ((o + n - 1) / 2 ^ 28 - o / 2 ^ 28 + 1)).all (fun i => granuleScratch s (o / 2 ^ 28 + i))

/-- The scratch offset a BASE register names, in 64 KiB units. -/
def baseOf (s : State) (off : Nat) : Nat := (regGet s off % 2 ^ 16) * 2 ^ 16

/-! ### Scratch bytes the block itself keeps -/

/-- Clear the error overlay of the bursts a range touches. -/
def dropErrs (errs : List ErrCell) (space lo hi : Nat) : List ErrCell :=
  errs.filter (fun e => !(decide (e.space = space) && decide (lo ≤ e.burst) && decide (e.burst ≤ hi)))

/-- Bytes of Hopper scratch as stored. -/
def scrRead (s : State) (o n : Nat) : List Byte := mapRead zeroAt s.mem.scratch o n

/-- A little-endian number in Hopper scratch. -/
def scrNat (s : State) (o n : Nat) : Nat := leNat (scrRead s o n)

/-- Write bytes of Hopper scratch; bytes outside SCRATCH granules are not written (R245). -/
def scrWrite (s : State) (o : Nat) (bs : List Byte) : State :=
  if bs.isEmpty || !scratchOk s o bs.length then s
  else { s with mem := { s.mem with scratch := mapWrite zeroAt s.mem.scratch o bs } }

/-- Whether any burst of a scratch range is marked poisoned. -/
def scrPoisoned (s : State) (o n : Nat) : Bool :=
  (List.range ((o + n - 1) / 64 - o / 64 + 1)).any (fun i => mapGet offAt s.mem.scratchPoison (o / 64 + i))

/-! ### Units, events and grades -/

def unitQuern (q : Nat) : Nat := q
def unitHr (c : Nat) : Nat := 0x1000 + c
def unitMp (c : Nat) : Nat := 0x2000 + c
def unitGran (g : Nat) : Nat := 0x3000 + g
def unitLink (l : Nat) : Nat := 0x4000 + l

/-- A unit no event has touched: Celadon, empty bucket. -/
def gradedNew (u : Nat) : Graded := ⟨u, 0, 0, 0, 0, 0, false, 0, false, 0⟩

/-- A unit's health record. -/
def gradedOf (s : State) (u : Nat) : Graded := (s.fh.units.find? (fun g => g.u == u)).getD (gradedNew u)

/-- Replace a unit's record, in ascending unit id, Celadon units with nothing recorded not listed. -/
def putGraded (l : List Graded) (g : Graded) : List Graded :=
  let rest := l.filter (fun x => x.u != g.u)
  if g = gradedNew g.u then rest
  else rest.filter (fun x => decide (x.u < g.u)) ++ [g] ++ rest.filter (fun x => decide (g.u < x.u))

def gradedMod (s : State) (u : Nat) (f : Graded → Graded) : State :=
  { s with fh := { s.fh with units := putGraded s.fh.units (f (gradedOf s u)) } }

/-- A unit's grade: 0 Celadon, 1 Ochre, 2 Madder, 3 Umber (R353). -/
def gradeOf (s : State) (u : Nat) : Nat := (gradedOf s u).grade

/-- Cluster of a unit: that of its Quern, else none. -/
def clusterOfUnit (u : Nat) : Option Nat := if u < 36 then some (u / 4) else none

/-- Temperature of a unit's region: its cluster's, its stack's, its granule's quadrant 0, or the Governor region
(R361, R407). -/
def unitTemp (s : State) (u : Nat) : Nat :=
  match u / 0x1000 with
  | 0 => (s.clk.clusters.getD (u / 4) Cluster.reset).temp
  | 1 => s.mem.hrTemp.getD ((u % 0x1000) / 32) 0
  | 3 => s.clk.quadTemp.getD 0 0
  | _ => s.clk.govTemp

/-- Applied voltage of a unit's region, or 0 (R361). -/
def unitVolt (s : State) (u : Nat) : Nat :=
  if u < 36 then (s.clk.clusters.getD (u / 4) Cluster.reset).volt else 0

/-- An event record's first 60 bytes (R361). -/
def evBody (e : Ev) : List Byte :=
  leBytes 4 0x484A5231 ++ leBytes 4 e.seq ++ leBytes 6 e.turn ++ leBytes 2 e.u ++ leBytes 8 e.timebase
    ++ leBytes 1 (e.cls % 16) ++ leBytes 1 (e.gradeB + 4 * e.gradeA) ++ leBytes 2 e.count ++ leBytes 1 e.temp
    ++ leBytes 1 e.verdict ++ leBytes 2 e.volt ++ leBytes 8 e.op ++ leBytes 8 e.detail ++ zeroBytes 12

/-- The 64-byte record of R361. -/
def evRecord (e : Ev) : List Byte := evBody e ++ leBytes 4 (crc32c (evBody e))

/-- Classes that raise the health interrupt (R410). -/
def healthClass (c : Nat) : Bool := [0x1, 0x3, 0x5, 0x6, 0x8, 0x9, 0xA, 0xE].contains c

/-- Merge an event into the pending record of its unit and class, or queue it (R362). The record being programmed
takes no more. -/
def journalAdd (writing : Bool) (l : List Ev) (e : Ev) : List Ev :=
  match writing, l with
  | true, h :: t => h :: journalMerge t e
  | _, l => journalMerge l e
where
  /-- Merge into the first record of the same unit and class. -/
  journalMerge (l : List Ev) (e : Ev) : List Ev :=
    if l.any (fun x => x.u == e.u && x.cls == e.cls) then
      l.map (fun x => if x.u == e.u && x.cls == e.cls then
        { x with count := min (x.count + 1) 0xFFFF, gradeA := e.gradeA } else x)
    else l ++ [e]

/-- The event ring's entry of an event, or the drop count (R363). -/
def ringAdd (s : State) (e : Ev) : State :=
  let prod := regGet s oFhEvtProd
  if (prod + 2 ^ 32 - regGet s oFhEvtCons) % 2 ^ 32 = 1024 then bump s oFhRingDropCnt
  else regSet (scrWrite s (baseOf s oFhEvtBase + (prod % 1024) * 64) (evRecord e)) oFhEvtProd ((prod + 1) % 2 ^ 32)

/-- Record an event: count its class, write the ring, queue the journal record, raise the health interrupt
(R338, R362, R363, R410). -/
def recordEv (s : State) (cls u : Nat) (op detail verdict gb ga : Nat) : State :=
  let (k, s) := drawFree s
  let e : Ev := ⟨s.fh.seq, s.time.turn, u, cls, gb, ga, 1, unitTemp s u, verdict, unitVolt s u, op % 2 ^ 64, detail % 2 ^ 64,
    Config.timebase k % 2 ^ 64⟩
  let s := bump s (oFhClassCnt - 4 + 4 * cls)
  let s := ringAdd s e
  let s := if healthClass cls then irqSet s irqHealth else s
  { s with fh := { s.fh with
      seq := (s.fh.seq + 1) % 2 ^ 32
      pend := journalAdd s.fh.writing s.fh.pend e
      writing := true
      units := putGraded s.fh.units { gradedOf s u with last := cls, bad := true } } }

/-- An event with no grade change. -/
def event (s : State) (cls u op detail verdict : Nat) : State :=
  let g := gradeOf s u
  recordEv s cls u op detail verdict g g

/-- A grade change due at the next Turn boundary (R354): the worst of those asked for. -/
def askGrade (s : State) (u g : Nat) : State :=
  let cur := max (gradeOf s u) ((s.fh.gradeNext.find? (fun p => p.1 == u)).elim 0 (fun p => p.2))
  if g ≤ cur then s
  else { s with fh := { s.fh with gradeNext := s.fh.gradeNext.filter (fun p => p.1 != u) ++ [(u, g)] } }

/-- R354's rows for an event that moves Celadon to Ochre. -/
def gradeMinor (s : State) (u : Nat) : State := if gradeOf s u = 0 then askGrade s u 1 else s

/-- R354's rows for a test failure, suspect verdict, uncorrectable error or link down: to Madder; `again` tells
whether the same event takes Madder to Umber. -/
def gradeMajor (s : State) (u : Nat) (again : Bool) : State :=
  let g := gradeOf s u
  if g ≤ 1 then askGrade s u 2 else if g = 2 && again then askGrade s u 3 else s

/-- R354's rows for a leaky-bucket overflow: Celadon to Ochre, Ochre to Madder, Madder to Umber. -/
def gradeBucket (s : State) (u : Nat) : State := askGrade s u (min 3 (gradeOf s u + 1))

/-- A corrected error counted in a unit's leaky bucket (R344). -/
def bucketAdd (s : State) (u op : Nat) : State :=
  let k := u / 0x1000
  let th := regGet s (oFhBktCtl + 4 * k) % 256
  let b := (gradedOf s u).bucket + 1
  if th < b then
    let s := gradedMod s u (fun g => { g with bucket := th / 2 })
    gradeBucket (event s 0x1 u op 0 0) u
  else gradedMod s u (fun g => { g with bucket := b })

/-! ### Block addresses -/

/-- The fields of a block address (R10). -/
structure BAddr where
  remote : Bool
  chip : Nat
  space : Nat
  off : Nat
  deriving DecidableEq, Repr

def baddrOf (a : Nat) : BAddr := ⟨bitOf a 63, fieldOf a 62 49, fieldOf a 48 47, a % 2 ^ 47⟩

/-- A local block address. -/
def baddrLocal (space off : Nat) : Nat := space * 2 ^ 47 + off

/-- Whether an address names another chip (R270). -/
def isRemote (s : State) (a : Nat) : Bool := let b := baddrOf a; b.remote && b.chip != s.gl.chip

/-! ### The DRAM map -/

/-- Channels of a mask in a range, and the live ones in ascending order (R230). -/
def liveIn (mask lo n : Nat) : List Nat := (List.range n).filter (fun i => !bitOf mask (lo + i))

/-- A DRAM place: Millpond or Headrace, global channel, channel-local byte address. -/
structure DramLoc where
  mp : Bool
  ch : Nat
  addr : Nat
  deriving DecidableEq, Repr

/-- Headrace placement (R226, R229, R230). -/
def hrPlace (s : State) (o : Nat) : Option DramLoc :=
  let st := o / 2 ^ 36
  let q := (o / 2 ^ 34) % 4
  let n := (o / 2 ^ 9) % 2 ^ 25
  let cap := s.mem.hrCap.getD st 0
  let perCh := cap * 2 ^ 16          -- 512-byte granules of one channel: (cap GiB / 32) / 512
  let live := liveIn (s.mem.hrMapOut.getD st 0) (8 * q) 8
  if cap = 0 then none
  else if live.length = 8 then
    if n < 8 * perCh then some ⟨false, 32 * st + 8 * q + n % 8, (n / 8) * 512 + o % 512⟩ else none
  else if live.length = 7 then
    if n < 7 * perCh then some ⟨false, 32 * st + 8 * q + live.getD (n % 7) 0, (n / 7) * 512 + o % 512⟩ else none
  else none

/-- Millpond placement (R227, R229, R230). -/
def mpPlace (s : State) (o : Nat) : Option DramLoc :=
  let x := o - 0x010000000000
  let g := x / 2 ^ 38
  let w := x % 2 ^ 38
  let b := w / 64
  let live := liveIn (s.mem.mpMapOut.getD g 0) 0 16
  let put (ch d : Nat) : Option DramLoc :=
    some ⟨true, 16 * g + ch, (d / 31) * 2048 + (d % 31) * 64 + w % 64⟩
  if !(bitOf s.mem.mpPresent g) then none
  else if live.length = 16 then
    if w < 0x3E00000000 then put ((b / 4) % 16) ((b / 64) * 4 + b % 4) else none
  else if live.length = 15 then
    if b < 15 * 2 ^ 28 * 31 / 32 then put (live.getD ((b / 4) % 15) 0) ((b / 60) * 4 + b % 4) else none
  else none

/-- Where a DRAM offset lies; none for a hole or an absent tier (R225). -/
def dramPlace (s : State) (o : Nat) : Option DramLoc :=
  if o < 0x8000000000 then hrPlace s o
  else if 0x010000000000 ≤ o ∧ o < 0x030000000000 then mpPlace s o
  else none

/-- Whether a channel is dead since the reset (R228). -/
def chanDead (s : State) (l : DramLoc) : Bool :=
  if l.mp then bitOf (s.mem.mpDead.getD (l.ch / 16) 0) (l.ch % 16)
  else bitOf (s.mem.hrDead.getD (l.ch / 32) 0) (l.ch % 32)

/-- The unit of a DRAM channel. -/
def chanUnit (l : DramLoc) : Nat := if l.mp then unitMp l.ch else unitHr l.ch

/-! ### One burst at its home -/

/-- A burst as read: 64 bytes and poison. -/
structure Burst where
  data : List Byte
  poison : Bool
  deriving DecidableEq, Repr

/-- Record a row as a repair candidate (R235): at once on an uncorrectable error, or when corrected in 3 Turns of
one Wheel. -/
def pprNote (s : State) (l : DramLoc) (ue : Bool) : State :=
  let row := Config.rowOf l.mp l.ch l.addr
  let key := (l.mp, l.ch, row)
  let seen := s.mem.ceRows.filter (fun r => (r.1, r.2.1, r.2.2.1) = key)
  let now := (l.mp, l.ch, row, s.time.turn)
  let ce := if seen.contains now then s.mem.ceRows else s.mem.ceRows ++ [now]
  let due := ue || decide (3 ≤ (ce.filter (fun r => (r.1, r.2.1, r.2.2.1) = key)).length)
  let rows := if due && !s.mem.pprRows.contains key && !s.mem.repaired.contains key && !s.mem.unrepaired.contains key
    then s.mem.pprRows ++ [key] else s.mem.pprRows
  { s with mem := { s.mem with ceRows := ce, pprRows := rows } }

/-- The error overlay of a burst. -/
def errOf (s : State) (space b : Nat) : List (Nat × Nat) :=
  (s.mem.errs.find? (fun e => e.space == space && e.burst == b)).elim [] (fun e => e.pattern)

/-- Stored DRAM data. -/
def dramBytes (s : State) (b : Nat) : List Byte := mapRead zeroAt s.mem.dram (b * 64) 64

/-- What a decode made of a burst: the data as delivered, poison, and the new state. -/
def dramDecode (s : State) (l : DramLoc) (b : Nat) : Burst × State :=
  let data := dramBytes s b
  let mark := mapGet offAt s.mem.dramPoison b
  let e := errOf s 0 b
  let op := baddrLocal 0 (b * 64)
  let ue (s : State) : Burst × State :=
    (⟨applyErr data e, true⟩, gradeMajor (event (pprNote (bump s oPoisonRdCnt) l true) 0x2 (chanUnit l) op 0 0) (chanUnit l) false)
  if e.isEmpty then (⟨data, mark⟩, s)
  else if mark then
    let (k, s) := drawFree s
    if Config.markKnown k then (⟨data, true⟩, s) else ue s
  else
    match (if l.mp then rsDecode 66 2 1 e else rsDecode 72 8 4 e) with
    | none => ue s
    | some res => (⟨applyErr data res, false⟩, pprNote (bucketAdd s (chanUnit l) op) l false)

/-- A controller's read of a DRAM burst (R228, R233): a dead channel returns poison. -/
def ctlRead (s : State) (b : Nat) : Burst × State :=
  match dramPlace s (b * 64) with
  | none => (⟨zeroBytes 64, true⟩, s)
  | some l => if chanDead s l then (⟨dramBytes s b, true⟩, bump s oDeadAccCnt) else dramDecode s l b

/-- Flip a checker test's bits into the burst just stored in its domain instance (R345). -/
def flipInto (s : State) (u space b : Nat) : State :=
  let ctl := regGet s oFhFlipCtl
  if s.fh.armed && ctl % 2 ^ 16 == u then
    let mask := leBytes 8 (regGet s oFhFlipLo + regGet s oFhFlipHi * 2 ^ 32)
    let checkBytes := if u / 0x1000 = 1 then 8 else if u / 0x1000 = 2 then 2 else 1
    let pat := (if bitOf ctl 29 then (mask.take checkBytes).zipIdx.map (fun (x, i) => (64 + i, x.toNat))
      else mask.zipIdx.map (fun (x, i) => (i, x.toNat))).filter (fun p => p.2 != 0)
    let addr := if space = 0 then baddrLocal 0 (b * 64) else if space = 1 then baddrLocal 1 (b * 64) else b * 64
    { s with
      mem := { s.mem with errs := s.mem.errs ++ (if pat.isEmpty then [] else [⟨space, b, pat⟩]) }
      fh := { s.fh with armed := false, flipDone := true, flipAddr := addr } }
  else s

/-- Store a whole DRAM burst with fresh check symbols and its poison mark (R233, R412). -/
def dramStore (s : State) (b : Nat) (data : List Byte) (poison : Bool) : State :=
  { s with mem := { s.mem with
      dram := mapWrite zeroAt s.mem.dram (b * 64) data
      dramPoison := mapSet offAt s.mem.dramPoison b poison
      errs := dropErrs s.mem.errs 0 b b } }

/-- A controller's whole-burst write; false when the channel is dead, which changes nothing (R228). -/
def ctlWrite (s : State) (b : Nat) (data : List Byte) (poison : Bool) : Bool × State :=
  match dramPlace s (b * 64) with
  | none => (false, s)
  | some l =>
    if chanDead s l then (false, bump s oDeadAccCnt)
    else (true, flipInto (dramStore s b data poison) (chanUnit l) 0 b)

/-- Bytes where the strobe is set, from the new data. -/
def mergeBytes (old new : List Byte) (strb : List Bool) : List Byte :=
  (old.zip (new.zip strb)).map (fun (o, n, w) => if w then n else o)

/-- A controller's read-modify-write (R233): RMW_CNT, and poison stays where the burst reads back poisoned. -/
def ctlMerge (s : State) (b : Nat) (data : List Byte) (strb : List Bool) (poison : Bool) : Bool × State :=
  match dramPlace s (b * 64) with
  | none => (false, s)
  | some l =>
    if chanDead s l then (false, bump s oDeadAccCnt)
    else
      let (old, s) := dramDecode s l b
      let s := bump s oRmwCnt
      (true, flipInto (dramStore s b (mergeBytes old.data data strb) (old.poison || poison)) (chanUnit l) 0 b)

/-! ### The cache -/

/-- Set and tag of a DRAM burst (R247). -/
def lineSet (b : Nat) : Nat := let l := b / 4; (l % 2 ^ 20) ^^^ (l / 2 ^ 20)
def lineTag (b : Nat) : Nat := b / 4 / 2 ^ 20
def lineAt (s : State) (w set : Nat) : Option Line := mapGet (fun _ => none) s.hop.lines (w * 2 ^ 20 + set)
def lineSetAt (s : State) (w set : Nat) (l : Option Line) : State :=
  { s with hop := { s.hop with lines := mapSet (fun _ => none) s.hop.lines (w * 2 ^ 20 + set) l } }

/-- Ways a lookup may hit: CACHE granules, and those still being written back (R251). -/
def hitWays (s : State) : List Nat :=
  (List.range 16).filter (fun w => (bitOf s.hop.mode w && !bitOf s.hop.bad w) || s.hop.convert.contains (w, true))

/-- Ways that allocate: CACHE granules not in conversion, none in Sepia mode (R251, R252, R366). -/
def allocWays (s : State) : List Nat :=
  if s.fh.sepia then [] else
  (List.range (vnt s).granules).filter (fun w => bitOf s.hop.mode w && !bitOf s.hop.bad w
    && !s.hop.convert.contains (w, true) && !s.hop.convert.contains (w, false))

/-- The way holding a burst's line, if any. -/
def findWay (s : State) (b : Nat) : Option (Nat × Line) :=
  (hitWays s).findSome? (fun w => match lineAt s w (lineSet b) with
    | some l => if l.tag = lineTag b then some (w, l) else none
    | none => none)

/-- The first burst of the line of a tag in a set. -/
def lineBurst (set tag : Nat) : Nat := (tag * 2 ^ 20 + (set ^^^ tag)) * 4

/-- Hopper burst that holds sector k of a line. -/
def cacheBurst (w set k : Nat) : Nat := (w * 2 ^ 28 + set * 256) / 64 + k

/-- Write back sector k of a line if it is dirty (R249): whether a write took place. -/
def sectorBack (s : State) (set : Nat) (l : Line) (k : Nat) : Bool × State :=
  if bitOf l.valid k && bitOf l.dirty k then
    let b := lineBurst set l.tag + k
    (true, (ctlWrite s b (dramBytes s b) (bitOf l.poison k)).2)
  else (false, s)

/-- Write back the dirty sectors of a line: their count (R249, R251). -/
def lineBack (s : State) (set : Nat) (l : Line) : Nat × State :=
  [0, 1, 2, 3].foldl (fun (a : Nat × State) k =>
    let (d, s) := sectorBack a.2 set l k
    (a.1 + b2n d, s)) (0, s)

/-- Allocate a line for a burst: the way is an open choice (R247); the line replaced is written back. -/
def allocLine (s : State) (b : Nat) : Option (Nat × Line) × State :=
  match findWay s b with
  | some x => (some x, s)
  | none =>
    match allocWays s with
    | [] => (none, s)
    | ws =>
      let (k, s) := drawFree s
      let w := ws.getD (Config.replaceWay k % ws.length) 0
      let set := lineSet b
      let s := match lineAt s w set with
        | some l => (lineBack s set l).2
        | none => s
      let l : Line := ⟨lineTag b, 0, 0, 0⟩
      (some (w, l), lineSetAt s w set (some l))

/-- Decode of the Hopper copy of a burst under SECDED (R254): whether it is uncorrectable. -/
def hopDecode (s : State) (u space b op : Nat) : Bool × State :=
  let e := errOf s space b
  if e.isEmpty then (false, s)
  else
    (List.range 8).foldl (fun (a : Bool × State) k =>
      let n := secdedBits e k
      let s := a.2
      if n = 0 then a
      else if n = 1 then (a.1, bucketAdd (if space = 1 then bump s oHopCeCnt else s) u op)
      else
        let (kind, s) := if n = 2 then (1, s) else
          let (i, s) := drawFree s
          (Config.secded i % 3, s)
        if kind = 0 then (a.1, bucketAdd (if space = 1 then bump s oHopCeCnt else s) u op)
        else
          let s := if space = 1 then bump s oHopUeCnt else s
          let s := if kind = 2 && space == 1 then bump s oHopAddrparCnt else s
          (true, gradeMajor (event s 0x2 u op 0 0) u false)) (false, s)

/-- Set the bits of sector k of a burst's line. -/
def sectorMark (s : State) (w : Nat) (b : Nat) (l : Line) (dirty poison : Bool) : State :=
  let k := b % 4
  let put (m : Nat) (v : Bool) : Nat := setField m k k (b2n v)
  lineSetAt s w (lineSet b)
    (some ⟨l.tag, put l.valid true, put l.dirty dirty, put l.poison poison⟩)

/-- A read of one DRAM burst by a request of a class and path (R248). -/
def dramRead (s : State) (b cls : Nat) (narrow : Bool) : Burst × State :=
  match findWay s b with
  | some (w, l) =>
    if bitOf l.valid (b % 4) then
      let (ue, s) := hopDecode s (unitGran w) 1 (cacheBurst w (lineSet b) (b % 4)) (baddrLocal 0 (b * 64))
      (⟨dramBytes s b, bitOf l.poison (b % 4) || ue⟩,
        if ue then sectorMark s w b l (bitOf l.dirty (b % 4)) true else s)
    else
      let (d, s) := ctlRead s b
      if narrow || decide (cls = 3) || s.hop.convert.contains (w, true) then (d, s)
      else (d, sectorMark s w b l false d.poison)
  | none =>
    let (d, s) := ctlRead s b
    if narrow || decide (cls = 3) then (d, s)
    else
      match allocLine s b with
      | (some (w, l), s) => (d, sectorMark s w b l false d.poison)
      | (none, s) => (d, s)

/-- Store the data of a cached sector, its DRAM mark and errors staying until the write-back. -/
def cacheStore (s : State) (b w : Nat) (data : List Byte) : State :=
  let hb := cacheBurst w (lineSet b) (b % 4)
  { s with mem := { s.mem with
      dram := mapWrite zeroAt s.mem.dram (b * 64) data
      errs := dropErrs s.mem.errs 1 hb hb } }

/-- A write of one DRAM burst, whole or by strobes, with its poison (R233, R248): false when it is refused. -/
def dramWrite (s : State) (b : Nat) (data : List Byte) (strb : List Bool) (poison : Bool) (cls : Nat)
    (narrow : Bool) : Bool × State :=
  let whole := strb.all id
  match dramPlace s (b * 64) with
  | none => (false, s)
  | some loc =>
  let hit := match findWay s b with
    | some (w, l) => if bitOf l.valid (b % 4) then some (w, l) else none
    | none => none
  match hit with
  | some (w, l) =>
    let old := dramBytes s b
    let pz := if whole then poison else bitOf l.poison (b % 4) || poison
    let s := cacheStore s b w (mergeBytes old data strb)
    let s := if whole then flipInto s (unitGran w) 1 (cacheBurst w (lineSet b) (b % 4)) else s
    (true, sectorMark s w b l true pz)
  | none =>
    if (allocWays s).isEmpty || narrow || chanDead s loc then
      if whole then ctlWrite s b data poison else ctlMerge s b data strb poison
    else
      let (old, s) := if whole then ((⟨dramBytes s b, false⟩ : Burst), s) else ctlRead s b
      let _ := cls
      match allocLine s b with
      | (some (w, l), s) =>
        let s := cacheStore s b w (mergeBytes old.data data strb)
        let s := if whole then flipInto s (unitGran w) 1 (cacheBurst w (lineSet b) (b % 4)) else s
        (true, sectorMark s w b l true (if whole then poison else old.poison || poison))
      | (none, s) => if whole then ctlWrite s b data poison else ctlMerge s b data strb poison

/-! ### Any local burst -/

/-- A read of one scratch burst at its slice (R245, R246, R254). -/
def scratchRead (s : State) (b : Nat) : Burst × State :=
  let u := unitGran (b * 64 / 2 ^ 28)
  let (ue, s) := hopDecode s u 1 b (baddrLocal 1 (b * 64))
  let s := if ue then { s with mem := { s.mem with scratchPoison := mapSet offAt s.mem.scratchPoison b true } } else s
  (⟨scrRead s (b * 64) 64, mapGet offAt s.mem.scratchPoison b⟩, s)

/-- A write of one scratch burst, whole or by strobes (R246, R400). -/
def scratchWrite (s : State) (b : Nat) (data : List Byte) (strb : List Bool) (poison : Bool) : State :=
  let whole := strb.all id
  let old := scrRead s (b * 64) 64
  let pz := if whole then poison else mapGet offAt s.mem.scratchPoison b || poison
  let s := { s with mem := { s.mem with
    scratch := mapWrite zeroAt s.mem.scratch (b * 64) (mergeBytes old data strb)
    scratchPoison := mapSet offAt s.mem.scratchPoison b pz
    errs := if whole then dropErrs s.mem.errs 1 b b else s.mem.errs } }
  if whole then flipInto s (unitGran (b * 64 / 2 ^ 28)) 1 b else s

/-- Whether a local address names memory that exists (R225, R245). -/
def memOk (s : State) (space off : Nat) : Bool :=
  if space = 0 then (dramPlace s off).isSome else space == 1 && scratchOk s (off / 64 * 64) 64

/-- Read the burst that holds a local address, which exists. -/
def burstRead (s : State) (space off cls : Nat) (narrow : Bool) : Burst × State :=
  if space = 0 then dramRead s (off / 64) cls narrow else scratchRead s (off / 64)

/-- Write the burst at a local address, which exists: false when a dead channel refuses it. -/
def burstWrite (s : State) (space off : Nat) (data : List Byte) (strb : List Bool) (poison : Bool) (cls : Nat)
    (narrow : Bool) : Bool × State :=
  if space = 0 then dramWrite s (off / 64) data strb poison cls narrow
  else (true, scratchWrite s (off / 64) data strb poison)

/-- The bursts a range touches: each burst's offset, the first byte in it, and the count of bytes. -/
def burstSpan (off n : Nat) : List (Nat × Nat × Nat) :=
  if n = 0 then [] else
  (List.range ((off + n - 1) / 64 - off / 64 + 1)).map (fun i =>
    let b := (off / 64 + i) * 64
    let lo := max off b
    let hi := min (off + n) (b + 64)
    (b, lo - b, hi - lo))

/-- A result of reading a range: bytes, poison of each burst, false when a burst does not exist. -/
structure RangeRd where
  ok : Bool
  data : List Byte
  poison : List Bool
  deriving DecidableEq, Repr

/-- Read a range of local memory burst by burst in ascending order (R260). -/
def rangeRead (s : State) (space off n cls : Nat) (narrow : Bool) : RangeRd × State :=
  let (d, p, ok, s) := (burstSpan off n).foldl (fun (a : List (List Byte) × List Bool × Bool × State) x =>
    let (acc, ps, ok, s) := a
    let (b, lo, k) := x
    if !ok || !memOk s space b then (acc, ps, false, s)
    else
      let (r, s) := burstRead s space b cls narrow
      ((r.data.drop lo).take k :: acc, r.poison :: ps, true, s)) ([], [], true, s)
  (⟨ok, d.reverse.flatten, p.reverse⟩, s)

/-- A 64-byte strobe list for bytes lo to lo + n - 1. -/
def strobes (lo n : Nat) : List Bool := (List.range 64).map (fun i => decide (lo ≤ i) && decide (i < lo + n))

/-- Place bytes at an offset of a 64-byte burst. -/
def placeIn (lo : Nat) (bs : List Byte) : List Byte := padTo 64 (zeroBytes lo ++ bs)

/-- Write a range of local memory burst by burst in ascending order; stops at the first burst refused: bytes
written, whether all were. -/
def rangeWrite (s : State) (space off : Nat) (data : List Byte) (poison : List Bool) (cls : Nat) (narrow : Bool) :
    Nat × Bool × State :=
  ((burstSpan off data.length).zipIdx).foldl (fun (a : Nat × Bool × State) (x, i) =>
    let (n, ok, s) := a
    let (b, lo, k) := x
    if !ok then a
    else if !memOk s space b then (n, false, s)
    else
      let bytes := (data.drop (b + lo - off)).take k
      let (ok, s) := burstWrite s space b (placeIn lo bytes) (strobes lo k) (poison.getD i false) cls narrow
      (if ok then n + k else n, ok, s)) (0, true, s)

end Sys2Proof.Machine
end

