-- ==== Sys2Proof/Machine/Atomic.lean ====
section
/-!
DEFINITION. One atomic on Hopper scratch (R135, R253, R269).
-/
namespace Sys2Proof.Machine

/-- The value an atomic of `n` bits leaves: operation codes of R135, the old value, operand and compare value. -/
def atomicValue (n op old x cmp : Nat) : Nat :=
  match op with
  | 0 => (old + x) % 2 ^ n
  | 1 => old &&& (2 ^ n - 1 - x % 2 ^ n)
  | 2 => (old ^^^ x) % 2 ^ n
  | 3 => (old ||| x) % 2 ^ n
  | 4 => if signed n old < signed n x then x % 2 ^ n else old
  | 5 => if signed n x < signed n old then x % 2 ^ n else old
  | 6 => max old (x % 2 ^ n)
  | 7 => min old (x % 2 ^ n)
  | 8 => x % 2 ^ n
  | 9 => if old = cmp % 2 ^ n then x % 2 ^ n else old
  | _ => old

/-- Perform an atomic of `size` bytes at a scratch offset that exists and is aligned: the old value, whether its
burst is poisoned (then nothing changes), and the state. -/
def atomicAt (s : State) (off size op x cmp : Nat) : Nat × Bool × State :=
  let (r, s) := scratchRead s (off / 64)
  let old := leAt r.data (off % 64) size
  if r.poison || decide (10 ≤ op) then (old, r.poison, s)
  else
    let new := leBytes size (atomicValue (8 * size) op old x cmp)
    (old, false, scratchWrite s (off / 64) (placeIn (off % 64) new) (strobes (off % 64) size) false)

end Sys2Proof.Machine
end

