-- ==== Sys2Proof/Machine/Fp.lean ====
section
/-!
DEFINITION. Number formats (R32 to R45) and the one rounding function every conversion and arithmetic result
goes through (R46 to R51, R416). Values are exact until they are rounded once.
-/
namespace Sys2Proof.Machine

/-- How a format treats its top exponent (R33, R38). -/
inductive TopKind where
  | ieee     -- infinities and NaNs in the all-ones exponent
  | nanCode  -- one NaN code per sign, no infinity (Q8E4)
  | finite   -- all codes finite
  deriving DecidableEq, Repr

/-- A floating format: exponent bits, fraction bits, bias, top exponent (R33, R38, R43, R44). -/
structure Fmt where
  eb : Nat
  fb : Nat
  bias : Nat
  top : TopKind
  deriving DecidableEq, Repr

def fmtB64 : Fmt := ⟨11, 52, 1023, .ieee⟩
def fmtB32 : Fmt := ⟨8, 23, 127, .ieee⟩
def fmtB16 : Fmt := ⟨5, 10, 15, .ieee⟩
def fmtBF16 : Fmt := ⟨8, 7, 127, .ieee⟩
def fmtQ8E4 : Fmt := ⟨4, 3, 8, .nanCode⟩
def fmtQ8E5 : Fmt := ⟨5, 2, 15, .ieee⟩
def fmtQ6E3 : Fmt := ⟨3, 2, 3, .finite⟩
def fmtQ6E2 : Fmt := ⟨2, 3, 1, .finite⟩
def fmtQ4E2 : Fmt := ⟨2, 1, 1, .finite⟩
/-- T48 without its six zero container bits (R43). -/
def fmtT48 : Fmt := ⟨10, 47, 511, .ieee⟩
def fmtT96 : Fmt := ⟨15, 80, 16383, .ieee⟩

/-- An exact value, infinity or NaN. A NaN keeps its payload left-aligned in 64 bits, less the quiet bit. -/
inductive FV where
  | nan (neg quiet : Bool) (payload : Nat)
  | inf (neg : Bool)
  | fin (neg : Bool) (m : Nat) (e : Int)   -- (-1)^neg × m × 2^e
  deriving DecidableEq, Repr

def FV.isNan : FV → Bool
  | .nan _ _ _ => true
  | _ => false

def FV.isSNan : FV → Bool
  | .nan _ q _ => !q
  | _ => false

def FV.isInf : FV → Bool
  | .inf _ => true
  | _ => false

def FV.isZero : FV → Bool
  | .fin _ 0 _ => true
  | _ => false

def FV.isFinite : FV → Bool
  | .fin _ _ _ => true
  | _ => false

def FV.neg? : FV → Bool
  | .nan n _ _ => n
  | .inf n => n
  | .fin n _ _ => n

/-- The value with the sign set. -/
def FV.withSign (n : Bool) : FV → FV
  | .nan _ q p => .nan n q p
  | .inf _ => .inf n
  | .fin _ m e => .fin n m e

/-- The positive canonical NaN (R36). -/
def fvNaN : FV := .nan false true 0

/-- A NaN made quiet, its sign and payload kept (R36). -/
def FV.quieted : FV → FV
  | .nan n _ p => .nan n true p
  | v => v

/-- The exponent of the least significant bit of a format's subnormals. -/
def Fmt.qmin (f : Fmt) : Int := 1 - (f.bias : Int) - (f.fb : Int)

/-- The largest exponent field that holds finite values. -/
def Fmt.emaxField (f : Fmt) : Nat :=
  match f.top with
  | .ieee => 2 ^ f.eb - 2
  | _ => 2 ^ f.eb - 1

/-- The significand of the largest finite value (R38). -/
def Fmt.maxSig (f : Fmt) : Nat :=
  match f.top with
  | .nanCode => 2 ^ (f.fb + 1) - 2
  | _ => 2 ^ (f.fb + 1) - 1

/-- The quantum of the top binade. -/
def Fmt.qmax (f : Fmt) : Int := (f.emaxField : Int) - (f.bias : Int) - (f.fb : Int)

/-- The width of a code in bits. -/
def Fmt.width (f : Fmt) : Nat := 1 + f.eb + f.fb

/-- The value of a code (R33, R37, R38, R43, R44). -/
def decodeFV (f : Fmt) (x : Nat) : FV :=
  let neg := bitOf x (f.eb + f.fb)
  let ef := fieldOf x (f.eb + f.fb - 1) f.fb
  let fr := x % 2 ^ f.fb
  let fin : FV := if ef = 0 then .fin neg fr f.qmin
                  else .fin neg (2 ^ f.fb + fr) ((ef : Int) - (f.bias : Int) - (f.fb : Int))
  match f.top with
  | .ieee =>
    if ef = 2 ^ f.eb - 1 then
      (if fr = 0 then .inf neg
       else .nan neg (bitOf fr (f.fb - 1)) ((fr % 2 ^ (f.fb - 1)) * 2 ^ (65 - f.fb)))
    else fin
  | .nanCode => if ef = 2 ^ f.eb - 1 ∧ fr = 2 ^ f.fb - 1 then .nan neg true 0 else fin
  | .finite => fin

/-- The code of a significand on the format's grid: m × 2^q with q at least qmin. -/
def packSig (f : Fmt) (neg : Bool) (m : Nat) (q : Int) : Nat :=
  let s := b2n neg * 2 ^ (f.eb + f.fb)
  if m < 2 ^ f.fb then s + m
  else s + ((q + f.fb + f.bias).toNat) * 2 ^ f.fb + (m - 2 ^ f.fb)

/-- The largest finite magnitude with a sign (R40). -/
def fvLargest (f : Fmt) (neg : Bool) : FV := .fin neg f.maxSig f.qmax

/-- The code of a value that is on the format's grid (the results of `roundFV`). -/
def encodeFV (f : Fmt) : FV → Nat
  | .nan neg _ p =>
    let s := b2n neg * 2 ^ (f.eb + f.fb)
    match f.top with
    | .ieee => s + (2 ^ f.eb - 1) * 2 ^ f.fb + 2 ^ (f.fb - 1) + (p / 2 ^ (65 - f.fb)) % 2 ^ (f.fb - 1)
    | .nanCode => s + 2 ^ (f.eb + f.fb) - 1
    | .finite => 0
  | .inf neg => b2n neg * 2 ^ (f.eb + f.fb) + (2 ^ f.eb - 1) * 2 ^ f.fb
  | .fin neg 0 _ => b2n neg * 2 ^ (f.eb + f.fb)
  | .fin neg m e =>
    -- move the value to the quantum the format gives it
    let l := (Nat.log2 m : Int) + e
    let q := max (l - f.fb) f.qmin
    let m' := if e ≥ q then m * 2 ^ (e - q).toNat else m / 2 ^ (q - e).toNat
    packSig f neg m' q

/-- A positive exact magnitude n/d × 2^e. -/
structure Mag where
  n : Nat
  d : Nat
  e : Int
  deriving DecidableEq, Repr

/-- floor(log2) of a positive magnitude. -/
def Mag.log2 (x : Mag) : Int :=
  let l : Int := (Nat.log2 x.n : Int) - (Nat.log2 x.d : Int)
  let ge : Bool := if l ≥ 0 then decide (x.d * 2 ^ l.toNat ≤ x.n) else decide (x.d ≤ x.n * 2 ^ (-l).toNat)
  (if ge then l else l - 1) + x.e

/-- The magnitude as a count of 2^q: quotient, remainder and divisor. -/
def Mag.cut (x : Mag) (q : Int) : Nat × Nat × Nat :=
  let s := x.e - q
  let num := if s ≥ 0 then x.n * 2 ^ s.toNat else x.n
  let den := if s ≥ 0 then x.d else x.d * 2 ^ (-s).toNat
  (num / den, num % den, den)

/-- Rounding modes: the IEEE attributes (R51), round to odd (R48) and stochastic rounding with its count k
and drawn word (R49). -/
inductive RM where
  | rne | rna | up | down | zero | odd
  | sr (k w : Nat)
  deriving DecidableEq, Repr

/-- Whether truncation t with remainder r of den is raised by one unit (R47 to R49). -/
def roundsUp (rm : RM) (neg : Bool) (t r den : Nat) : Bool :=
  match rm with
  | .rne => decide (den < 2 * r) || (decide (den = 2 * r) && t % 2 == 1)
  | .rna => decide (den ≤ 2 * r)
  | .up => !neg && decide (r ≠ 0)
  | .down => neg && decide (r ≠ 0)
  | .zero => false
  | .odd => decide (r ≠ 0) && t % 2 == 0
  | .sr k w => decide (2 ^ k ≤ (r * 2 ^ k) / den + w % 2 ^ k)

/-- Round a positive magnitude to a multiple of 2^q: the count and whether bits were lost. -/
def roundAt (rm : RM) (neg : Bool) (x : Mag) (q : Int) : Nat × Bool :=
  let (t, r, den) := x.cut q
  (if roundsUp rm neg t r den then t + 1 else t, decide (r ≠ 0))

/-- What a finite value beyond the largest becomes (R40, IEEE 754-2019 overflow for its attribute). -/
def overflowFV (f : Fmt) (rm : RM) (neg : Bool) : FV :=
  match f.top, rm with
  | .ieee, .rne => .inf neg
  | .ieee, .rna => .inf neg
  | .ieee, .up => if neg then fvLargest f neg else .inf neg
  | .ieee, .down => if neg then .inf neg else fvLargest f neg
  | _, _ => fvLargest f neg

/-- Whether m × 2^q exceeds the largest finite magnitude. -/
def beyondLargest (f : Fmt) (m : Nat) (q : Int) : Bool :=
  if q ≥ f.qmax then decide (f.maxSig < m * 2 ^ (q - f.qmax).toNat)
  else decide (f.maxSig * 2 ^ (f.qmax - q).toNat < m)

/-- Round a positive magnitude into a format, with its flags (R47 to R49, R59, R416). -/
def roundFV (f : Fmt) (rm : RM) (neg : Bool) (x : Mag) : FV × Flags :=
  let l := x.log2
  let q := max (l - f.fb) f.qmin
  let (m, inexact) := roundAt rm neg x q
  let emin : Int := 1 - (f.bias : Int)
  let tinyExact := decide (l < emin)
  let tiny : Bool :=
    match rm with
    | .sr _ _ => tinyExact
    | _ => tinyExact &&
        (decide (l < emin - 1) || decide ((roundAt rm neg x (l - f.fb)).1 < 2 ^ (f.fb + 1)))
  if beyondLargest f m q then (overflowFV f rm neg, flOF ||| flNX)
  else (.fin neg m q, flagIf inexact flNX ||| flagIf (tiny && inexact) flUF)

/-- A dyadic magnitude. -/
def magOf (m : Nat) (e : Int) : Mag := ⟨m, 1, e⟩

/-- Conversion of a value into a floating format (R36, R40, R47 to R49): result and flags. -/
def convertFV (f : Fmt) (rm : RM) : FV → FV × Flags
  | .nan neg quiet p =>
    match f.top with
    | .ieee => (.nan neg true p, flagIf (!quiet) flNV)
    | .nanCode => (.nan neg true 0, flagIf (!quiet) flNV)
    | .finite => (.fin false 0 0, flNV)
  | .inf neg =>
    match f.top with
    | .ieee => (.inf neg, 0)
    | _ => (fvLargest f neg, flOF ||| flNX)
  | .fin neg 0 _ => (.fin neg 0 0, 0)
  | .fin neg m e => roundFV f rm neg (magOf m e)

/-- An integer of n bits from an exact signed integer under SAT (R41). -/
def fitInt (n : Nat) (sat : Bool) (i : Int) : Nat × Flags :=
  let lo : Int := -(2 ^ (n - 1) : Nat)
  let hi : Int := (2 ^ (n - 1) : Nat) - 1
  if lo ≤ i ∧ i ≤ hi then (twosCode n i, 0)
  else if sat then (twosCode n (if i < lo then lo else hi), flSAT)
  else (twosCode n i, flSAT)

/-- Conversion of a value into an n-bit integer (R41). NX marks a discarded fraction (log 9). -/
def convertInt (n : Nat) (sat : Bool) (rm : RM) : FV → Nat × Flags
  | .nan _ _ _ => (0, flNV)
  | .inf neg => (twosCode n (if neg then -(2 ^ (n - 1) : Nat) else (2 ^ (n - 1) : Nat) - 1), flNV)
  | .fin neg m e =>
    let (t, inexact) := roundAt rm neg (magOf m e) 0
    let i : Int := if neg then -(t : Int) else t
    let (c, fl) := fitInt n sat i
    (c, fl ||| flagIf inexact flNX)

/-- The value of an n-bit two's-complement code. -/
def intFV (n x : Nat) : FV :=
  let i := signed n x
  .fin (decide (i < 0)) i.natAbs 0

/-- Exact product of values; an invalid product is NaN with NV (R36, R64). -/
def mulFV (a b : FV) : FV × Flags :=
  let s := xor a.neg? b.neg?
  match a, b with
  | .nan _ q _, .nan _ q' _ => (a.quieted, flagIf (!q || !q') flNV)
  | .nan _ q _, _ => (a.quieted, flagIf (!q) flNV)
  | _, .nan _ q _ => (b.quieted, flagIf (!q) flNV)
  | .inf _, .fin _ 0 _ => (fvNaN, flNV)
  | .fin _ 0 _, .inf _ => (fvNaN, flNV)
  | .inf _, _ => (.inf s, 0)
  | _, .inf _ => (.inf s, 0)
  | .fin _ m e, .fin _ m' e' => (.fin s (m * m') (e + e'), 0)

/-- A signed dyadic m × 2^e with integer m. -/
def signedMant (neg : Bool) (m : Nat) : Int := if neg then -(m : Int) else m

/-- Exact sum of two finite values, with the sign rule of R57 for a zero sum. -/
def addFin (rm : RM) (n1 : Bool) (m1 : Nat) (e1 : Int) (n2 : Bool) (m2 : Nat) (e2 : Int) : FV :=
  let e := min e1 e2
  let i := signedMant n1 (m1 * 2 ^ (e1 - e).toNat) + signedMant n2 (m2 * 2 ^ (e2 - e).toNat)
  if i = 0 then
    (if m1 = 0 ∧ m2 = 0 ∧ n1 = n2 then .fin n1 0 0 else .fin (decide (rm = .down)) 0 0)
  else .fin (decide (i < 0)) i.natAbs e

/-- Exact sum of values; opposite infinities give NaN with NV (R57, R68). -/
def addFV (rm : RM) (a b : FV) : FV × Flags :=
  match a, b with
  | .nan _ q _, .nan _ q' _ => (a.quieted, flagIf (!q || !q') flNV)
  | .nan _ q _, _ => (a.quieted, flagIf (!q) flNV)
  | _, .nan _ q _ => (b.quieted, flagIf (!q) flNV)
  | .inf s, .inf s' => if s = s' then (.inf s, 0) else (fvNaN, flNV)
  | .inf s, _ => (.inf s, 0)
  | _, .inf s => (.inf s, 0)
  | .fin n1 m1 e1, .fin n2 m2 e2 => (addFin rm n1 m1 e1 n2 m2 e2, 0)

/-- One rounding of an exact result into a format, flags added. -/
def finishFV (f : Fmt) (rm : RM) (r : FV × Flags) : FV × Flags :=
  let (v, fl) := convertFV f rm r.1
  (v, fl ||| r.2)

/-- IEEE addition in a format (R57, R142). -/
def fpAdd (f : Fmt) (rm : RM) (a b : FV) : FV × Flags := finishFV f rm (addFV rm a b)

/-- IEEE subtraction; a NaN operand is returned with its own sign (R36). -/
def fpSub (f : Fmt) (rm : RM) (a b : FV) : FV × Flags :=
  fpAdd f rm a (if b.isNan then b else b.withSign (!b.neg?))

/-- IEEE multiplication. -/
def fpMul (f : Fmt) (rm : RM) (a b : FV) : FV × Flags := finishFV f rm (mulFV a b)

/-- IEEE fusedMultiplyAdd with one rounding; NaN operands in order A, B, C, and 0 × ∞ with NaN c (R36). -/
def fpFma (f : Fmt) (rm : RM) (a b c : FV) : FV × Flags :=
  let snan := flagIf (a.isSNan || b.isSNan || c.isSNan) flNV
  if a.isNan then (a.quieted, snan)
  else if b.isNan then (b.quieted, snan)
  else
    let p := mulFV a b
    if c.isNan then (c.quieted, snan ||| p.2)
    else if p.1.isNan then p
    else finishFV f rm (addFV rm p.1 c)

/-- IEEE division (DZ for a finite non-zero over zero). -/
def fpDiv (f : Fmt) (rm : RM) (a b : FV) : FV × Flags :=
  let s := xor a.neg? b.neg?
  let snan := flagIf (a.isSNan || b.isSNan) flNV
  match a, b with
  | .nan _ _ _, _ => (a.quieted, snan)
  | _, .nan _ _ _ => (b.quieted, snan)
  | .inf _, .inf _ => (fvNaN, flNV)
  | .inf _, .fin _ _ _ => (.inf s, 0)
  | .fin _ _ _, .inf _ => (.fin s 0 0, 0)
  | .fin _ 0 _, .fin _ 0 _ => (fvNaN, flNV)
  | .fin _ 0 _, .fin _ _ _ => (.fin s 0 0, 0)
  | .fin _ _ _, .fin _ 0 _ => (.inf s, flDZ)
  | .fin _ m e, .fin _ m' e' => roundFV f rm s ⟨m, m', e - e'⟩

/-- Integer square root, digit by digit from bit `b`. -/
def isqrtFrom (x : Nat) : Nat → Nat → Nat
  | 0, r => r
  | b + 1, r => if (r + 2 ^ b) * (r + 2 ^ b) ≤ x then isqrtFrom x b (r + 2 ^ b) else isqrtFrom x b r

/-- floor(sqrt x). -/
def isqrt (x : Nat) : Nat := isqrtFrom x (Nat.log2 x / 2 + 1) 0

/-- sqrt(num/den × 2^e) as a magnitude with a sticky bit below at least `p` exact bits. -/
def sqrtMag (p : Nat) (num den : Nat) (e : Int) : Mag :=
  let e2 := if e % 2 = 0 then e else e - 1
  let num := if e % 2 = 0 then num else num * 2
  -- num/den × 2^e2, scaled by 4^s so that the root has more than p bits
  let s := p + Nat.log2 den + 4
  let y := num * 4 ^ s
  let z := y / den
  let r := isqrt z
  let sticky := b2n (decide (r * r ≠ z) || decide (z * den ≠ y))
  ⟨2 * r + sticky, 1, e2 / 2 - s - 1⟩

/-- IEEE squareRoot, correctly rounded (R34, R143). -/
def fpSqrt (f : Fmt) (rm : RM) (a : FV) : FV × Flags :=
  match a with
  | .nan _ q _ => (a.quieted, flagIf (!q) flNV)
  | .inf false => (a, 0)
  | .inf true => (fvNaN, flNV)
  | .fin n 0 _ => (.fin n 0 0, 0)
  | .fin true _ _ => (fvNaN, flNV)
  | .fin false m e => roundFV f rm false (sqrtMag (f.fb + 8) m 1 e)

/-- Order of two non-NaN values: -1, 0 or 1; zeros of either sign are equal (R57). -/
def cmpFV (a b : FV) : Int :=
  match a, b with
  | .inf s, .inf s' => if s = s' then 0 else if s then -1 else 1
  | .inf s, _ => if s then -1 else 1
  | _, .inf s => if s then 1 else -1
  | .fin n1 m1 e1, .fin n2 m2 e2 =>
    let e := min e1 e2
    let d := signedMant n1 (m1 * 2 ^ (e1 - e).toNat) - signedMant n2 (m2 * 2 ^ (e2 - e).toNat)
    if d < 0 then -1 else if d = 0 then 0 else 1
  | _, _ => 0

/-- The order of R57 in which -0 is less than +0. -/
def ltZ (a b : FV) : Bool :=
  let c := cmpFV a b
  decide (c < 0) || (decide (c = 0) && a.neg? && !b.neg?)

/-- IEEE 754-2019 maximum and minimum (R57). -/
def fpMaxMin (isMax : Bool) (a b : FV) : FV × Flags :=
  let snan := flagIf (a.isSNan || b.isSNan) flNV
  if a.isNan then (a.quieted, snan)
  else if b.isNan then (b.quieted, snan)
  else if isMax then (if ltZ a b then b else a, 0)
  else (if ltZ b a then b else a, 0)

/-- IEEE 754-2019 maximumNumber and minimumNumber: a number wins over a NaN. -/
def fpMaxMinNum (isMax : Bool) (a b : FV) : FV × Flags :=
  let snan := flagIf (a.isSNan || b.isSNan) flNV
  match a.isNan, b.isNan with
  | true, true => (a.quieted, snan)
  | true, false => (b, snan)
  | false, true => (a, snan)
  | false, false => fpMaxMin isMax a b

/-- IEEE remainder: a - b × n with n the even-tied nearest integer to a / b; exact. -/
def fpRem (f : Fmt) (a b : FV) : FV × Flags :=
  let snan := flagIf (a.isSNan || b.isSNan) flNV
  match a, b with
  | .nan _ _ _, _ => (a.quieted, snan)
  | _, .nan _ _ _ => (b.quieted, snan)
  | .inf _, _ => (fvNaN, flNV)
  | _, .fin _ 0 _ => (fvNaN, flNV)
  | _, .inf _ => (a, 0)
  | .fin s m e, .fin _ m' e' =>
    let e0 := min e e'
    let x := m * 2 ^ (e - e0).toNat
    let y := m' * 2 ^ (e' - e0).toNat
    let n := if roundsUp .rne false (x / y) (x % y) y then x / y + 1 else x / y
    let r : Int := (x : Int) - (n * y : Nat)
    if r = 0 then (.fin s 0 0, 0)
    else finishFV f .rne (.fin (xor s (decide (r < 0))) r.natAbs e0, 0)

/-- IEEE roundToIntegral by an attribute; `exact` signals NX. -/
def fpRint (f : Fmt) (rm : RM) (exact : Bool) (a : FV) : FV × Flags :=
  match a with
  | .nan _ q _ => (a.quieted, flagIf (!q) flNV)
  | .inf _ => (a, 0)
  | .fin n m e =>
    if e ≥ 0 then (a, 0)
    else
      let (t, lost) := roundAt rm n (magOf m e) 0
      let v : FV := if t = 0 then .fin n 0 0 else .fin n t 0
      ((convertFV f .rne v).1, flagIf (exact && lost) flNX)

/-- IEEE scaleB: a × 2^n rounded once. The exponent is limited to ±10000, beyond which every result of the
formats is the same overflow or underflow. -/
def fpScaleB (f : Fmt) (rm : RM) (a : FV) (n : Int) : FV × Flags :=
  match a with
  | .nan _ q _ => (a.quieted, flagIf (!q) flNV)
  | .inf _ => (a, 0)
  | .fin s 0 _ => (.fin s 0 0, 0)
  | .fin s m e => roundFV f rm s (magOf m (e + max (-10000) (min 10000 n)))

/-- IEEE logB as an int32 (VLOGB): zero, infinity and NaN give the codes of the table, with NV. -/
def fpLogB (a : FV) : Nat × Flags :=
  match a with
  | .nan _ _ _ => (2 ^ 31, flNV)
  | .inf _ => (2 ^ 31 - 1, flNV)
  | .fin _ 0 _ => (2 ^ 31, flNV)
  | .fin _ m e => (twosCode 32 ((magOf m e).log2), 0)

/-- IEEE nextUp on a code of an IEEE format. -/
def nextUpCode (f : Fmt) (x : Nat) : Nat :=
  match decodeFV f x with
  | .nan _ _ _ => x ||| 2 ^ (f.fb - 1)
  | .inf false => x
  | v => if v.isZero then 1 else if v.neg? then x - 1 else x + 1

/-- nextUp or nextDown (nextDown x = -nextUp(-x)); a signalling NaN sets NV. -/
def fpNext (f : Fmt) (down : Bool) (x : Nat) : Nat × Flags :=
  let v := decodeFV f x
  let sb := 2 ^ (f.eb + f.fb)
  let fl := flagIf v.isSNan flNV
  if v.isNan then (x ||| 2 ^ (f.fb - 1), fl)
  else if down then ((nextUpCode f (x ^^^ sb)) ^^^ sb, fl)
  else (nextUpCode f x, fl)

/-- IEEE class, 0 = signalingNaN to 9 = positiveInfinity. -/
def fpClass (f : Fmt) (a : FV) : Nat :=
  match a with
  | .nan _ q _ => if q then 1 else 0
  | .inf n => if n then 2 else 9
  | .fin n 0 _ => if n then 5 else 6
  | .fin n m e =>
    let sub := decide ((magOf m e).log2 < 1 - (f.bias : Int))
    if n then (if sub then 4 else 3) else (if sub then 7 else 8)

/-- The relation of a VCMP code: EQ, NE, LT, LE, GT, GE, UN; quiet or signalling (R57). -/
def fpCompare (rel : Nat) (signalling : Bool) (a b : FV) : Bool × Flags :=
  let un := a.isNan || b.isNan
  let fl := flagIf (a.isSNan || b.isSNan || (signalling && un)) flNV
  let c := cmpFV a b
  let r := match rel with
    | 0 => !un && decide (c = 0)
    | 1 => un || decide (c ≠ 0)
    | 2 => !un && decide (c < 0)
    | 3 => !un && decide (c ≤ 0)
    | 4 => !un && decide (c > 0)
    | 5 => !un && decide (c ≥ 0)
    | _ => un
  (r, fl)

end Sys2Proof.Machine
end

