-- ==== Sys2Proof/Machine/Conv.lean ====
section
/-!
DEFINITION. Format codes, conversions of one element, packing, block scales (R32, R39 to R42, R46 to R56, R62,
R416, R417).
-/
namespace Sys2Proof.Machine

/-- The floating format of an element code (R32); integers, FW96 and QS8 have none. -/
def floatFmt (code : Nat) : Option Fmt :=
  match code with
  | 0 => some fmtB64
  | 1 => some fmtB32
  | 2 => some fmtB16
  | 3 => some fmtBF16
  | 4 => some fmtQ8E4
  | 5 => some fmtQ8E5
  | 6 => some fmtQ6E3
  | 7 => some fmtQ6E2
  | 8 => some fmtQ4E2
  | 0xC => some fmtT48
  | _ => none

/-- The width of an integer element code. -/
def intWidth (code : Nat) : Option Nat :=
  match code with
  | 9 => some 8
  | 0xA => some 4
  | 0xB => some 32
  | _ => none

/-- Bits one element of a format code takes in memory (R32, R39, R43, R45). -/
def fmtBits (code : Nat) : Nat :=
  match code with
  | 0 => 64
  | 1 => 32
  | 2 => 16
  | 3 => 16
  | 4 => 8
  | 5 => 8
  | 6 => 6
  | 7 => 6
  | 8 => 4
  | 9 => 8
  | 0xA => 4
  | 0xB => 32
  | 0xC => 64
  | 0xD => 96
  | _ => 8

/-- Codes 0x4 to 0xA, the operands that may carry block scales (Block scales). -/
def isShort (code : Nat) : Bool := decide (4 ≤ code) && decide (code ≤ 0xA)

/-- The value of an element code; a T48 container's bits [5:0] are ignored (R43). -/
def elemFV (code x : Nat) : FV :=
  match floatFmt code, intWidth code with
  | some f, _ => decodeFV f (if code = 0xC then x / 64 else x)
  | none, some n => intFV n x
  | none, none => .fin false 0 0

/-- The code of a value on the format's grid. -/
def elemCode (code : Nat) (v : FV) : Nat :=
  match floatFmt code with
  | some f => if code = 0xC then encodeFV f v * 64 else encodeFV f v
  | none => 0

/-- A value with the weight exponent of its source's least significant significand bit, which R49 counts p
down to; none when p is unbounded (R417). -/
structure Src where
  v : FV
  lsb : Option Int
  deriving DecidableEq, Repr

/-- The value of a code as a source of a conversion. -/
def srcOf (v : FV) : Src :=
  match v with
  | .fin _ _ e => ⟨v, some e⟩
  | _ => ⟨v, some 0⟩

/-- A rounding choice: an IEEE attribute or round to odd, or stochastic rounding with one drawn word. -/
inductive RndSel where
  | attr (rm : RM)
  | sr
  deriving DecidableEq, Repr

/-- The count k of R49 for a target quantum 2^q. -/
def srCount (x : Src) (q : Int) : Nat :=
  match x.lsb with
  | none => 16
  | some l => min 16 (q - l).toNat

/-- The quantum exponent of a format at a value. -/
def quantumAt (f : Fmt) (x : Mag) : Int := max (x.log2 - f.fb) f.qmin

/-- The rounding mode for one element: SR takes its count from the source and its word from the lane. -/
def rmAt (r : RndSel) (x : Src) (q : Int) (w : Nat) : RM :=
  match r with
  | .attr rm => rm
  | .sr => .sr (srCount x q) w

/-- Conversion of one element into a format code (R36, R40, R41, R47 to R49): code and flags. -/
def convTo (code : Nat) (sat : Bool) (r : RndSel) (x : Src) (w : Nat) : Nat × Flags :=
  match floatFmt code, intWidth code with
  | some f, _ =>
    let q := match x.v with
      | .fin _ (m + 1) e => quantumAt f (magOf (m + 1) e)
      | _ => 0
    let (v, fl) := convertFV f (rmAt r x q w) x.v
    (elemCode code v, fl)
  | none, some n => convertInt n sat (rmAt r x 0 w) x.v
  | none, none => (0, 0)

/-- The code of the positive canonical NaN of a format (R36, R43). -/
def canonNaN (code : Nat) : Nat := elemCode code fvNaN

/-- A positive normal binary32 per-tensor scale (R54, R56). -/
def scaleOk (t : Nat) : Bool :=
  let e := fieldOf t 30 23
  !bitOf t 31 && decide (1 ≤ e) && decide (e ≤ 254)

/-- Significand and exponent of a positive normal binary32. -/
def scaleParts (t : Nat) : Nat × Int :=
  match decodeFV fmtB32 t with
  | .fin _ m e => (m, e)
  | _ => (1, 0)

/-- Whether a positive binary32 is a power of two (R417). -/
def scalePow2 (t : Nat) : Bool := t % 2 ^ 23 == 0

/-- A value times 2^n. -/
def scaleFV (v : FV) (n : Int) : FV :=
  match v with
  | .fin s m e => .fin s m (e + n)
  | _ => v

/-- The exact value of an element with its block scale and per-tensor scale, and the NV an invalid T sets
(R42, R56, R64). An absent block scale counts as 0x7F and an absent T as 1.0. -/
def scaledSrc (code x : Nat) (qs : Option Nat) (t : Option Nat) : Src × Flags :=
  if (match t with | some t => !scaleOk t | none => false) then (⟨fvNaN, some 0⟩, flNV)
  else if qs = some 0xFF then (⟨fvNaN, some 0⟩, 0)
  else
    let v := scaleFV (elemFV code x) (match qs with | some c => (c : Int) - 127 | none => 0)
    match t with
    | none => (srcOf v, 0)
    | some t =>
      let (mt, et) := scaleParts t
      match v with
      | .fin s m e =>
        if scalePow2 t then (srcOf (.fin s m (e + et + 23)), 0) else (srcOf (.fin s (m * mt) (e + et)), 0)
      | _ => (srcOf v, 0)

/-- emax of R54. -/
def blockEmax (code : Nat) : Int :=
  match code with
  | 4 => 7
  | 5 => 15
  | 6 => 4
  | 7 => 2
  | 8 => 2
  | 9 => 6
  | _ => 2

/-- One element of a block rounded to its format: beyond the largest it takes the largest, with NX alone. -/
def blockElem (code : Nat) (rm : RM) (neg : Bool) (x : Mag) : Nat × Flags :=
  match floatFmt code, intWidth code with
  | some f, _ =>
    let q := quantumAt f x
    let (m, _) := roundAt rm neg x q
    if beyondLargest f m q then (elemCode code (fvLargest f neg), flNX)
    else let (v, fl) := roundFV f rm neg x; (elemCode code v, fl)
  | none, some n =>
    let (m, lost) := roundAt rm neg x 0
    let i : Int := if neg then -(m : Int) else m
    let (c, fl) := fitInt n true i
    (c, if fl = flSAT then flNX else flagIf lost flNX)
  | none, none => (0, 0)

/-- The signed zero of an element format; integers have none (R54). -/
def blockZero (code : Nat) (neg : Bool) : Nat :=
  match floatFmt code with
  | some _ => elemCode code (.fin neg 0 0)
  | none => 0

/-- Whether a code is a zero of its format. -/
def isZeroCode (code x : Nat) : Bool := (elemFV code x).isZero

/-- What a block conversion gives: scale, codes, flags, and whether an element underflowed (R55). -/
structure BlockOut where
  scale : Nat
  codes : List Nat
  flags : Flags
  under : Bool
  deriving DecidableEq, Repr

/-- Magnitude of a finite source divided by T, exact (R54). -/
def overT (t : Nat × Int) (m : Nat) (e : Int) : Mag := ⟨m, t.1, e - t.2⟩

/-- The larger magnitude exponent: floor(log2) over the non-zero elements; none when all are zero. -/
def maxLog2 (t : Nat × Int) (xs : List Src) : Option Int :=
  xs.foldl (fun a x =>
    match x.v with
    | .fin _ (m + 1) e =>
      let l := (overT t (m + 1) e).log2
      some (match a with | none => l | some b => max b l)
    | _ => a) none

/-- The block-scaled conversion of R54 and R417. `words` holds one 16-bit word an element (used by SR). -/
def blockConvert (xs : List Src) (tCode : Option Nat) (code : Nat) (r : RndSel) (words : List Nat) :
    BlockOut :=
  let zeros := xs.map (fun _ => 0)
  let t := tCode.getD 0x3F800000
  let nanIn := xs.any (fun x => x.v.isNan)
  if !scaleOk t then ⟨0xFF, zeros, flNV, false⟩
  else if nanIn then ⟨0xFF, zeros, flNV, false⟩
  else if xs.any (fun x => x.v.isInf) then ⟨0xFF, zeros, flOF ||| flNV, false⟩
  else
    let tp := if scalePow2 t then (1, (scaleParts t).2 + 23) else scaleParts t
    match maxLog2 tp xs with
    | none => ⟨0, xs.map (fun x => blockZero code x.v.neg?), 0, false⟩
    | some l =>
      let c0 := l - blockEmax code + 127
      let c : Int := max 0 (min 254 c0)
      let clampFl := flagIf (decide (254 < c0)) flOF
      let outs := (xs.zip (words ++ List.replicate xs.length 0)).map (fun (x, w) =>
        match x.v with
        | .fin neg (m + 1) e =>
          let y := overT tp (m + 1) e
          let z : Mag := ⟨y.n, y.d, y.e + (127 - c)⟩
          let lsb := if scalePow2 t then x.lsb.map (fun b => b - tp.2 + (127 - c)) else none
          let q := match floatFmt code with
            | some f => quantumAt f z
            | none => 0
          let (k, fl) := blockElem code (rmAt r ⟨x.v, lsb⟩ q w) neg z
          (k, fl, isZeroCode code k)
        | _ => (blockZero code x.v.neg?, 0, false))
      let under := outs.any (fun o => o.2.2)
      ⟨c.toNat, outs.map (fun o => o.1), clampFl ||| flagsOr (outs.map (fun o => o.2.1)) ||| flagIf under flUF,
       under⟩

/-- Elements of `b` bits from packed little-endian bytes (R39). -/
def unpackElems (b n : Nat) (bytes : List Byte) : List Nat :=
  if b % 8 = 0 then
    (List.range n).map (fun i => leAt bytes (i * (b / 8)) (b / 8))
  else
    let x := leNat bytes
    (List.range n).map (fun i => (x >>> (i * b)) % 2 ^ b)

/-- Bytes of `n` packed elements of `b` bits; 6-bit elements fill whole groups of four (R39). -/
def packedBytes (b n : Nat) : Nat := if b = 6 then roundUp n 4 * 6 / 8 else ceilDiv (n * b) 8

/-- Packed bytes of elements, padding zero (R39). -/
def packElems (b : Nat) (es : List Nat) : List Byte :=
  if b % 8 = 0 then es.flatMap (fun e => leBytes (b / 8) e)
  else leBytes (packedBytes b es.length) ((es.foldr (fun e acc => acc * 2 ^ b + e % 2 ^ b) 0))

/-- Block size of a BSIZE code (R53); codes 6 and 7 are reserved. -/
def blockSize (bsize : Nat) : Nat := 8 * 2 ^ bsize

/-- Index of the scale of element (i, j) of an M × N matrix (R53). -/
def scaleIndex (bsize : Nat) (col : Bool) (n i j : Nat) : Nat :=
  let b := blockSize bsize
  if col then (i / b) * n + j else i * ceilDiv n b + j / b

/-- Scales an M × N matrix carries (R53). -/
def scaleCount (bsize : Nat) (col : Bool) (m n : Nat) : Nat :=
  let b := blockSize bsize
  if col then ceilDiv m b * n else m * ceilDiv n b

/-- The blocks of an M × N matrix: the lists of (row, column) each scale covers, in scale order (R53). -/
def blockCells (bsize : Nat) (col : Bool) (m n : Nat) : List (List (Nat × Nat)) :=
  let b := blockSize bsize
  if col then
    (List.range (ceilDiv m b)).flatMap (fun j =>
      (List.range n).map (fun c => ((List.range b).map (fun x => (j * b + x, c))).filter (fun p => decide (p.1 < m))))
  else
    (List.range m).flatMap (fun i =>
      (List.range (ceilDiv n b)).map (fun j =>
        ((List.range b).map (fun x => (i, j * b + x))).filter (fun p => decide (p.2 < n))))

/-- What converting a matrix gives: codes row-major, scales, flags and underflowed blocks. -/
structure MatOut where
  codes : List Nat
  scales : List Nat
  flags : Flags
  underBlocks : Nat
  deriving DecidableEq, Repr

/-- Convert a row-major M × N matrix of exact values into an element format; a short format with a block size
takes R54, any other conversion is element by element (with T dividing nothing: T belongs to block scales).
Words are one an element in row-major order (R50). -/
def convertMatrix (m n : Nat) (xs : List Src) (code : Nat) (block : Option (Nat × Bool)) (t : Option Nat)
    (sat : Bool) (r : RndSel) (words : List Nat) : MatOut :=
  match block with
  | none =>
    let outs := (xs.zip (words ++ List.replicate xs.length 0)).map (fun (x, w) => convTo code sat r x w)
    ⟨outs.map (fun o => o.1), [], flagsOr (outs.map (fun o => o.2)), 0⟩
  | some (bsize, col) =>
    let ax := xs.toArray
    let aw := words.toArray
    let blocks := (blockCells bsize col m n).map (fun cells =>
      let ids := cells.map (fun p => p.1 * n + p.2)
      let o := blockConvert (ids.map (fun i => ax.getD i ⟨.fin false 0 0, some 0⟩)) t code r
        (ids.map (fun i => aw.getD i 0))
      (ids, o))
    let codes := blocks.foldl (fun (a : Array Nat) b =>
      (b.1.zip b.2.codes).foldl (fun a p => a.setIfInBounds p.1 p.2) a) (Array.replicate (m * n) 0)
    ⟨codes.toList, blocks.map (fun b => b.2.scale), flagsOr (blocks.map (fun b => b.2.flags)),
     (blocks.filter (fun b => b.2.under)).length⟩

end Sys2Proof.Machine
end

