-- ==== Sys2Proof/Machine/QuernCode.lean ====
section
/-!
DEFINITION. Which Quern instruction words are legal (R128, R129, the group tables of 06_quern_instruction_set.md)
and what each costs to issue (R111).
-/
namespace Sys2Proof.Machine

/-- Every field of a list is zero: the fields an instruction does not use (R128). -/
def unusedZero (l : List Nat) : Bool := l.all (fun x => x == 0)

/-- Register numbers inside their classes (R128). -/
def okV (r : Nat) : Bool := decide (r < 64)
def okS (r : Nat) : Bool := decide (r < 32)
def okT (r : Nat) : Bool := decide (r < 16)
def okA (r : Nat) : Bool := decide (r < 2)
def okP (r : Nat) : Bool := decide (r < 8)

/-- Formats whose vector operand is a pair: binary64 and T48 (R107, R129). -/
def isPair (fmt : Nat) : Bool := fmt == 0 || fmt == 0xC

/-- A vector operand of a format: a pair starts at an even register (R107). -/
def okVF (fmt r : Nat) : Bool := okV r && (!isPair fmt || r % 2 == 0)

/-- A triple or quadruple starts at a multiple of 4 (R129). -/
def okV4 (r : Nat) : Bool := okV r && r % 4 == 0

/-- RNE, or DYN where the result is binary32 or binary64 (R46). -/
def okDyn (rnd fo : Nat) : Bool := rnd == 0 || (rnd == 3 && decide (fo ≤ 1))

/-- RNE, or SR where the output is one of codes 0x2 to 0xA (R46). -/
def okSr (rnd fo : Nat) : Bool := rnd == 0 || (rnd == 2 && decide (2 ≤ fo) && decide (fo ≤ 0xA))

/-- SAT only where the result is an integer (R128). -/
def okSat (sat : Bool) (fo : Nat) : Bool := !sat || fo == 9 || fo == 0xA || fo == 0xB

/-- Formats 0x0 to 0xC. -/
def okFmt (c : Nat) : Bool := decide (c ≤ 0xC)

/-- The control group has no format, rounding, SAT or PRED field. -/
def bareFmt (f : QFields) : Bool := unusedZero [f.fi, f.fo, f.rnd, f.pred] && !f.sat

/-- Formats of the vector group: FI binary32, binary16, or binary64 pairs. -/
def okVecFi (fi : Nat) : Bool := decide (fi ≤ 2)

/-- A vector instruction with `n` vector sources, FO = FI and rounding (0x40 to 0x50). -/
def legalVec (f : QFields) (n : Nat) (mdMax : Nat) : Bool :=
  okVecFi f.fi && f.fo == f.fi && okDyn f.rnd f.fo && !f.sat && okP f.pred && decide (f.md ≤ mdMax)
    && okVF f.fi f.d && okVF f.fi f.a
    && (if 2 ≤ n then okVF f.fi f.b else f.b == 0) && (if 3 ≤ n then okVF f.fi f.c else f.c == 0)

/-- A special-function instruction: FI binary32 or binary64, DYN only for VSQRT (R143). -/
def legalSpecial (f : QFields) (dyn : Bool) : Bool :=
  decide (f.fi ≤ 1) && f.fo == f.fi && (f.rnd == 0 || (dyn && f.rnd == 3)) && !f.sat && okP f.pred
    && okVF f.fi f.d && okVF f.fi f.a && unusedZero [f.b, f.c, f.md]

/-- A cross-lane reduction into a scalar register. -/
def legalReduce (f : QFields) (sum : Bool) : Bool :=
  decide (f.fi ≤ 1) && okS f.d && okVF f.fi f.a && unusedZero [f.b, f.c, f.fo, f.md] && !f.sat
    && (if sum then okDyn f.rnd f.fi && okP f.pred else f.rnd == 0 && f.pred == 0)

/-- Whether a word of operation code `op` satisfies R128 and R129. -/
def quernLegal (op : Nat) (f : QFields) : Bool :=
  match op with
  | 0x01 | 0x02 | 0x03 => unusedZero [f.d, f.a, f.b, f.c, f.md] && bareFmt f
  | 0x04 => unusedZero [f.d, f.a, f.b, f.c] && bareFmt f && decide (1 ≤ f.md)
  | 0x05 => okS f.a && okS f.b && unusedZero [f.d, f.c] && bareFmt f && decide (f.md / 2 ^ 15 ≤ 5)
      && decide (1 ≤ f.md % 2 ^ 15)
  | 0x06 => okS f.a && unusedZero [f.d, f.b, f.c] && bareFmt f && decide (1 ≤ f.md) && decide (f.md < 2 ^ 15)
  | 0x07 => okS f.a && okS f.b && unusedZero [f.d, f.c] && bareFmt f && decide (f.md ≤ 1)
  | 0x08 => unusedZero [f.d, f.a, f.b, f.c] && bareFmt f && (f.md == 1 || f.md == 2)
  | 0x09 => okS f.d && okS f.a && okS f.b && okS f.c && bareFmt f && decide (f.md % 16 ≤ 0xA)
      && (f.md / 32 == 1 || f.md / 32 == 2)
  | 0x0A => okS f.a && unusedZero [f.d, f.b, f.c, f.md] && bareFmt f
  | 0x0B | 0x0C => okS f.d && unusedZero [f.a, f.b, f.c, f.md] && bareFmt f
  | 0x0D => unusedZero [f.d, f.a, f.b, f.c] && bareFmt f && decide (f.md < 128)
  | 0x10 => okS f.d && decide (f.a ≤ 3) && unusedZero [f.b, f.c] && bareFmt f && (f.a != 3 || decide (f.md < 1024))
  | 0x11 => okS f.d && okS f.a && unusedZero [f.b, f.c] && bareFmt f
  | 0x12 => okS f.d && okS f.a && okS f.b && f.c == 0 && bareFmt f && decide (f.md ≤ 0xC)
  | 0x20 => okT f.d && okS f.a && f.c == 0 && okFmt f.fi && unusedZero [f.fo, f.rnd, f.pred] && !f.sat
      && decide (fieldOf f.md 14 12 ≤ 5)
      && (!bitOf f.md 16 || isShort f.fi)
      && (if bitOf f.md 17 then okS f.b else f.b == 0)
  | 0x21 => okT f.a && okS f.b && unusedZero [f.d, f.fi, f.pred] && okFmt f.fo && okSr f.rnd f.fo && okSat f.sat f.fo
      && (if isShort f.fo then decide (fieldOf f.md 14 12 ≤ 5) && f.md % 2 ^ 12 == 0 && !bitOf f.md 16
            && (if bitOf f.md 17 then okS f.c else f.c == 0)
          else f.md == 0 && f.c == 0)
  | 0x22 => okFmt f.fi && okVF f.fi f.d && okS f.a && unusedZero [f.b, f.c, f.fo, f.rnd] && !f.sat && okP f.pred
  | 0x23 => okFmt f.fi && okVF f.fi f.a && okS f.b && unusedZero [f.d, f.c, f.fo, f.rnd] && !f.sat && okP f.pred
  | 0x24 | 0x25 => okS f.a && okS f.b && okS f.c && f.d == 0 && bareFmt f && decide (f.md < 8)
  | 0x26 => unusedZero [f.d, f.a, f.b, f.c] && bareFmt f && decide (f.md < 256)
  | 0x30 => okA f.d && okS f.a && unusedZero [f.b, f.c, f.md] && bareFmt f
  | 0x31 => okA f.d && okT f.a && okT f.b && (okT f.c || f.c == 0x3F) && bareFmt f && decide (f.md < 64)
  | 0x32 => okA f.d && okT f.a && okT f.b && f.c == 0 && bareFmt f && decide (f.md < 64)
  | 0x33 => okA f.a && okS f.b && f.d == 0 && f.fi == 0 && f.pred == 0 && decide (f.fo ≤ 0xD) && okSat f.sat f.fo
      && okSr f.rnd f.fo && decide (f.md < 256) && decide (f.md % 8 ≤ 4)
      && (if f.md % 8 = 0 then f.c == 0 && !bitOf f.md 3 else okS f.c)
      && (if isShort f.fo then decide (fieldOf f.md 6 4 ≤ 5) else f.md / 16 == 0)
  | 0x40 | 0x41 | 0x42 | 0x44 | 0x45 | 0x46 | 0x47 | 0x48 | 0x4B | 0x4C => legalVec f 2 0
  | 0x43 => legalVec f 3 0
  | 0x49 | 0x4A => legalVec f 1 0
  | 0x4D | 0x50 => legalVec f 1 1
  | 0x4E => okVecFi f.fi && f.fo == f.fi && okDyn f.rnd f.fo && !f.sat && okP f.pred && okVF f.fi f.d && okVF f.fi f.a
      && okV f.b && unusedZero [f.c, f.md]
  | 0x4F | 0x52 => okVecFi f.fi && f.fo == 0xB && f.rnd == 0 && !f.sat && okP f.pred && okV f.d && okVF f.fi f.a
      && unusedZero [f.b, f.c, f.md]
  | 0x51 => okVecFi f.fi && unusedZero [f.fo, f.rnd, f.c] && !f.sat && okP f.pred && okP f.d && okVF f.fi f.a
      && okVF f.fi f.b && decide (f.md < 16) && f.md % 8 != 7
  | 0x53 => okFmt f.fi && unusedZero [f.fo, f.rnd, f.md] && !f.sat && okP f.pred && okVF f.fi f.d && okVF f.fi f.a
      && okVF f.fi f.b && okP f.c
  | 0x54 => f.fi == 0xB && f.fo == 0xB && f.rnd == 0 && okP f.pred && okV f.d && okV f.a && okV f.b && f.c == 0
      && decide (f.md ≤ 0xC)
  | 0x55 => okFmt f.fi && unusedZero [f.fo, f.rnd, f.b, f.c, f.md] && !f.sat && okP f.pred && okVF f.fi f.d && okVF f.fi f.a
  | 0x56 => okFmt f.fi && unusedZero [f.fo, f.rnd, f.b, f.c, f.md] && !f.sat && okP f.pred && okVF f.fi f.d && okS f.a
  | 0x57 => okFmt f.fi && unusedZero [f.fo, f.rnd, f.b, f.c] && !f.sat && okP f.pred && okS f.d && okVF f.fi f.a
      && decide (f.md < 64)
  | 0x58 => f.fi == 0xB && f.fo == 0xB && unusedZero [f.rnd, f.a, f.b, f.c, f.md] && !f.sat && okP f.pred && okV f.d
  | 0x59 | 0x5A => f.fi == 0xB && f.fo == 0xB && unusedZero [f.rnd, f.b, f.c] && !f.sat && okP f.pred && okV f.d
      && okV f.a && decide (f.md < 4)
  | 0x60 | 0x61 | 0x63 | 0x64 => legalSpecial f false
  | 0x62 => legalSpecial f true
  | 0x70 => okFmt f.fi && okFmt f.fo && okVF f.fo f.d && okVF f.fi f.a && unusedZero [f.b, f.c, f.md]
      && (okSr f.rnd f.fo || okDyn f.rnd f.fo) && okSat f.sat f.fo && okP f.pred
  | 0x71 => (((f.fi == 0 || f.fi == 0xC) && f.fo == 1) || (f.fi == 1 && (f.fo == 2 || f.fo == 3))) && f.rnd == 1
      && okVF f.fo f.d && okVF f.fi f.a && unusedZero [f.b, f.c, f.md] && !f.sat && okP f.pred
  | 0x72 => f.fi == 1 && isShort f.fo && okSr f.rnd f.fo && !f.sat && f.pred == 0 && decide (f.d ≤ 62) && okV f.a && f.c == 0
      && decide (fieldOf f.md 14 12 ≤ 3) && f.md % 2 ^ 12 == 0 && unusedZero [fieldOf f.md 16 15]
      && (if bitOf f.md 17 then okS f.b else f.b == 0)
  | 0x73 => isShort f.fi && decide (f.fo ≤ 1) && okDyn f.rnd f.fo && !f.sat && f.pred == 0 && okVF f.fo f.d
      && decide (f.d ≤ 62) && decide (f.a ≤ 62) && f.c == 0
      && decide (fieldOf f.md 14 12 ≤ 3) && f.md % 2 ^ 12 == 0 && unusedZero [fieldOf f.md 16 15]
      && (if bitOf f.md 17 then okS f.b else f.b == 0)
  | 0x80 | 0x81 => legalReduce f true
  | 0x82 | 0x83 | 0x84 | 0x85 => legalReduce f false
  | 0x90 => okV4 f.d && okV f.a && okS f.b && (f.fi == 1 || f.fi == 3) && unusedZero [f.c, f.fo, f.rnd] && !f.sat
      && okP f.pred && decide (f.md < 64) && f.md % 8 != 0 && f.md / 8 != 0
  | 0x91 | 0x94 => okV4 f.d && okV4 f.a && okV4 f.b && unusedZero [f.c, f.fi, f.fo, f.rnd, f.md] && !f.sat && okP f.pred
  | 0x92 => okV f.d && okV4 f.a && okS f.b && f.fo == 1 && unusedZero [f.c, f.fi, f.rnd] && !f.sat && okP f.pred
      && decide (f.md < 64) && f.md % 8 == 0 && f.md / 8 != 0
  | 0x93 => okV4 f.d && okV f.a && okS f.b && f.fi == 1 && unusedZero [f.c, f.fo, f.rnd] && !f.sat && okP f.pred
      && decide (1 ≤ f.md) && decide (f.md < 8)
  | 0x95 => okVF 0 f.d && okV4 f.a && okS f.b && unusedZero [f.c, f.fi, f.fo, f.rnd, f.md] && !f.sat && okP f.pred
  | 0xA0 | 0xA1 => okV f.d && unusedZero [f.a, f.b, f.c, f.fi, f.fo, f.rnd] && !f.sat && okP f.pred && decide (1 ≤ f.md)
      && decide (f.md < 256)
  | 0xA2 => decide (1 ≤ f.d) && okP f.d && okS f.a && unusedZero [f.b, f.c, f.fi, f.fo, f.rnd] && !f.sat && okP f.pred
      && decide (1 ≤ f.md) && decide (f.md < 256)
  | _ => false

/-- Bytes of a full tile of a format (R136). -/
def tileBytes (fmt : Nat) : Nat := packedBytes (fmtBits fmt) 4096

/-- Issue cost in QCLK cycles (R111 and the group tables). The word does not say the length of a transfer or the
formats of an MMA, so those take their least cost (log 12). -/
def quernCost (op : Nat) (f : QFields) : Nat :=
  let wide := f.fi == 0
  let scales := if bitOf f.md 16 then scaleCount (fieldOf f.md 14 12) (bitOf f.md 15) 64 64 else 0
  match op with
  | 0x12 => if f.md = 2 then 4 else 1
  | 0x20 => max 1 (ceilDiv (tileBytes f.fi + scales) 512)
  | 0x21 => max 1 (ceilDiv (tileBytes f.fo
      + (if isShort f.fo then scaleCount (fieldOf f.md 14 12) (bitOf f.md 15) 64 64 else 0)) 256)
  | 0x31 | 0x32 => 16
  | 0x33 => (if f.fo = 0xD then 192 else if isPair f.fo then 128 else if fmtBits f.fo = 32 then 64 else 32)
      + (if f.md % 8 = 0 then 0 else 8)
  | 0x44 | 0x4C => if wide then 32 else 8
  | 0x40 | 0x41 | 0x42 | 0x43 | 0x45 | 0x46 | 0x47 | 0x48 | 0x49 | 0x4A | 0x4B | 0x4D | 0x4E | 0x4F | 0x50 | 0x51
  | 0x52 => if wide then 2 else 1
  | 0x60 | 0x61 | 0x62 | 0x63 | 0x64 => if wide then 8 else 4
  | 0x70 | 0x71 => if isPair f.fi || isPair f.fo then 2 else 1
  | 0x72 | 0x73 => 2
  | 0x80 | 0x81 | 0x82 | 0x83 | 0x84 | 0x85 => if wide then 128 else 64
  | 0x90 | 0x91 | 0x92 => 3
  | 0x93 | 0x94 | 0x95 => 4
  | _ => 1

end Sys2Proof.Machine
end

