-- ==== Sys2Proof/Machine/Sail.lean ====
section
/-!
DEFINITION. The Sail recurrence and its jump-ahead (R302, R303), the draws of a word (R304), and the keyed
permutation of the Bolter (R310).
-/
namespace Sys2Proof.Machine

/-- 64-bit left rotation. -/
def rotl64 (x n : Nat) : Nat := ((x <<< n) ||| (x >>> (64 - n))) % 2 ^ 64

/-- sail_init: the 256-bit state, word x[i] in bits [64i+63:64i] (R302). -/
def sailInit (seed : Nat) : Nat :=
  let a := seed % 2 ^ 64
  let b := (seed >>> 64) % 2 ^ 64
  a + b <<< 64 + (a ^^^ 0x6B1FD2A493C05E87) <<< 128 + (b ^^^ 0x2D95E0C71A48B36F) <<< 192

/-- sail_step (R302). -/
def sailStep (x : Nat) : Nat :=
  let x0 := x % 2 ^ 64
  let x1 := (x >>> 64) % 2 ^ 64
  let x3 := x >>> 192
  let t := x0 ^^^ ((x0 <<< 23) % 2 ^ 64)
  let n := t ^^^ (t >>> 17) ^^^ x3 ^^^ (x3 >>> 26) ^^^ rotl64 x1 11
  (x >>> 64) ||| (n <<< 192)

/-- sail_out (R302). -/
def sailOut (x : Nat) : Nat :=
  let z := (x % 2 ^ 64 + rotl64 ((x >>> 128) % 2 ^ 64) 32) % 2 ^ 64
  let z := ((z ^^^ (z >>> 30)) * 0xA4C35B1D7E29F06B) % 2 ^ 64
  let z := ((z ^^^ (z >>> 27)) * 0xC2B71E9538D46A0F) % 2 ^ 64
  z ^^^ (z >>> 31)

/-- n applications of sail_step, one by one. -/
def sailSteps : Nat → Nat → Nat
  | 0, x => x
  | n + 1, x => sailSteps n (sailStep x)

/-- The polynomial of degree 256 over F2 that sail_step satisfies (bit i is the coefficient of x^i). -/
def sailPoly : Nat := 0x10034bea4c00a3fc8a67a804dd0acdc13b9bcef08c81d4f01f09819692be176f5

/-- Σ over the bits of q of sail_step^i x: a polynomial in sail_step applied to a state; fuel is the count of
coefficients. -/
def sailApply : Nat → Nat → Nat → Nat → Nat
  | 0, _, _, acc => acc
  | n + 1, q, x, acc => sailApply n (q / 2) (sailStep x) (if q % 2 = 1 then acc ^^^ x else acc)

/-- Product of two polynomials modulo `sailPoly`, by the bits of b. -/
def polyMul : Nat → Nat → Nat → Nat → Nat
  | 0, _, _, acc => acc
  | n + 1, a, b, acc =>
    let a2 := a <<< 1
    polyMul n (if bitOf a2 256 then a2 ^^^ sailPoly else a2) (b / 2) (if b % 2 = 1 then acc ^^^ a else acc)

/-- x^e modulo `sailPoly`, by the bits of e. -/
def polyPow : Nat → Nat → Nat → Nat → Nat
  | 0, _, _, acc => acc
  | n + 1, base, e, acc =>
    polyPow n (polyMul 256 base base 0) (e / 2) (if e % 2 = 1 then polyMul 256 acc base 0 else acc)

/-- The state p positions on, p modulo 2^256: the jump-ahead of R302, equal to p applications of sail_step. -/
def sailJump (x p : Nat) : Nat := sailApply 256 (polyPow 256 2 (p % 2 ^ 256) 1) x 0

/-- The position of word j of stream S on lane L at step T (R303). -/
def sailPos (stream lane t j : Nat) : Nat := stream * 2 ^ 224 + lane * 2 ^ 192 + t * 2 ^ 128 + j

/-- The states of n consecutive positions. -/
def sailRun : Nat → Nat → List Nat
  | 0, _ => []
  | n + 1, x => x :: sailRun n (sailStep x)

/-- Draws d, d+1, … d+n-1 of a lane and stream: 16-bit words on stream 0, 32-bit words on the others (R304). -/
def sailDraws (seed stream lane t d n : Nat) : List Nat :=
  if n = 0 then []
  else
    let per := if stream = 0 then 4 else 2
    let bits := if stream = 0 then 16 else 32
    let first := d / per
    let words := ((sailRun ((d + n - 1) / per - first + 1)
      (sailJump (sailInit seed) (sailPos stream lane t first))).map sailOut).toArray
    (List.range n).map (fun i =>
      (words.getD ((d + i) / per - first) 0 >>> (bits * ((d + i) % per))) % 2 ^ bits)

/-- The round function of R310. -/
def feistelF (rr key b : Nat) : Nat :=
  let z := ((rr ^^^ key) * 0xC2B71E9538D46A0F) % 2 ^ 64
  let z := z ^^^ (z >>> 29)
  let z := (z * 0xA4C35B1D7E29F06B) % 2 ^ 64
  (z >>> 40) % 2 ^ b

/-- One application of the four Feistel rounds (R310). -/
def feistel (keys : List Nat) (b y : Nat) : Nat :=
  let (lh, rh) := keys.foldl (fun (p : Nat × Nat) k => (p.2, p.1 ^^^ feistelF p.2 k b)) (fieldOf y (2 * b - 1) b, y % 2 ^ b)
  lh * 2 ^ b + rh

/-- Half the width of the permutation's domain (R310). -/
def feistelBits (n : Nat) : Nat :=
  let c := if n ≤ 1 then 0 else Nat.log2 (n - 1) + 1
  max 1 ((c + 1) / 2)

/-- Cycle-walking: apply until the value is below N; the count of applications. Fuel bounds the walk. -/
def feistelWalk (keys : List Nat) (b n : Nat) : Nat → Nat → Nat → Nat × Nat
  | 0, y, k => (y, k)
  | fuel + 1, y, k =>
    let y' := feistel keys b y
    if y' < n then (y', k + 1) else feistelWalk keys b n fuel y' (k + 1)

/-- The round keys of epoch k of a dataset (R310). -/
def feistelKeys (seed epoch : Nat) : List Nat :=
  (sailRun 4 (sailJump (sailInit seed) (epoch * 2 ^ 128))).map sailOut

/-- permute(i) of R310 and the count of applications. A walk returns within 2^(2b) - N + 1 applications. -/
def permute (keys : List Nat) (n i : Nat) : Nat × Nat :=
  let b := feistelBits n
  feistelWalk keys b n (2 ^ (2 * b) - n + 1) i 0

end Sys2Proof.Machine
end

