-- ==== Sys2Proof/Machine/Genle.lean ====
section
/-!
DEFINITION. The links' shared operations: marks of the open step, messages and flits, credits, routes, sending,
delivery, write-off (R191, R200, R318 to R333).
-/
namespace Sys2Proof.Machine

/-! ### Marks of the open step (R192, R200) -/

/-- Whether a step is in OPEN, GRIND or SETTLE. -/
def stepOpenState (s : State) : Bool := s.step.state == 1 || s.step.state == 2 || s.step.state == 3

/-- Mark the open step with a reason code of R207: the first reason is the notice's. -/
def markWith (s : State) (reason : Nat) (ovf flt : Bool) : State :=
  if stepOpenState s then
    { s with step := { s.step with
        ovf := s.step.ovf || ovf
        flt := s.step.flt || flt
        markReason := if s.step.markReason = 0 then reason else s.step.markReason
        earlyDue := s.step.earlyDue || !s.step.earlySent } }
  else s

/-- Mark the open step overflowed (R92, R95, R101). -/
def markOverflow (s : State) : State := markWith s 1 true false

/-- Mark the open step faulted (R115, R118, R151, R331). -/
def markFault (s : State) : State := markWith s 2 false true

/-! ### Messages (R321 to R323) -/

/-- (s, attempt) as the STEP field of a header. -/
def stepField (st attempt : Nat) : Nat := st % 2 ^ 48 + (attempt % 256) * 2 ^ 48

/-- The tensor id and flat index of a shard-addressed message (R323). -/
def msgTensor (m : Msg) : Nat := fieldOf m.aux 19 0
def msgFirst (m : Msg) : Nat := m.addr % 2 ^ 48

/-- A message of this chip for the step it is in, with nothing else set. -/
def msgOf (s : State) (kind addr aux : Nat) (data : List Byte) : Msg :=
  ⟨kind, false, s.gl.chip, 0, s.step.s, s.step.attempt, addr, aux, 0, 0, data⟩

/-- The pool of a kind: virtual channels 0 to 5, and 6 for VC4 responses (R322, R323); none when reserved. -/
def kindPool (k : Nat) : Option Nat :=
  if 1 ≤ k ∧ k ≤ 0x12 then some 0
  else if k = 0x20 then some 1
  else if k = 0x28 then some 2
  else if k = 0x30 then some 3
  else if 0x38 ≤ k ∧ k ≤ 0x3B then some 4
  else if k = 0x3C ∨ k = 0x3D then some 6
  else if k = 0x40 then some 5
  else none

/-- The 48-byte header and data (R321). A VC4 RD's LEN is the length it asks for and it carries no data (R323);
the model holds that length in AUX. -/
def msgBytes (m : Msg) : List Byte :=
  leBytes 1 m.kind ++ leBytes 1 (b2n m.fwd) ++ leBytes 2 m.src ++ leBytes 2 m.roleEpoch
    ++ leBytes 2 (if m.kind = 0x38 then m.aux else m.data.length)
    ++ leBytes 8 (stepField m.step m.attempt) ++ leBytes 8 m.addr ++ leBytes 8 (if m.kind = 0x38 then 0 else m.aux)
    ++ leBytes 8 m.poison ++ leBytes 8 m.tag ++ m.data

/-- The message of an assembled payload. -/
def msgOfBytes (bs : List Byte) : Msg where
  kind := leAt bs 0 1
  fwd := bitOf (leAt bs 1 1) 0
  src := leAt bs 2 2 % 2 ^ 14
  roleEpoch := leAt bs 4 2
  step := leAt bs 8 6
  attempt := leAt bs 14 1
  addr := leAt bs 16 8
  aux := if leAt bs 0 1 = 0x38 then leAt bs 6 2 else leAt bs 24 8
  poison := leAt bs 32 8
  tag := leAt bs 40 8 % 2 ^ 16
  data := if leAt bs 0 1 = 0x38 then [] else padTo (leAt bs 6 2) (bs.drop 48)

/-- DATA flits of a message on each link it crosses (R321). -/
def msgFlits (m : Msg) : Nat := ceilDiv (48 + m.data.length) 240

/-! ### Flits (R320) -/

/-- The header fields of a flit. -/
structure FlitHdr where
  type : Nat
  vc : Nat
  mc : Bool
  seq : Nat
  ack : Nat
  cvc : Nat
  ccnt : Nat
  dest : Nat
  eom : Bool
  hops : Nat
  late : Bool
  clate : Bool
  deriving DecidableEq, Repr

def flitHdr (h : FlitHdr) : Nat :=
  h.type % 16 + (h.vc % 8) * 2 ^ 4 + b2n h.mc * 2 ^ 7 + (h.seq % 4096) * 2 ^ 8 + (h.ack % 4096) * 2 ^ 20
    + (h.cvc % 8) * 2 ^ 32 + (h.ccnt % 64) * 2 ^ 35 + (h.dest % 2 ^ 14) * 2 ^ 41 + b2n h.eom * 2 ^ 55
    + (h.hops % 8) * 2 ^ 56 + b2n h.late * 2 ^ 59 + b2n h.clate * 2 ^ 60

def flitHdrOf (w : Nat) : FlitHdr :=
  ⟨fieldOf w 3 0, fieldOf w 6 4, bitOf w 7, fieldOf w 19 8, fieldOf w 31 20, fieldOf w 34 32, fieldOf w 40 35,
   fieldOf w 54 41, bitOf w 55, fieldOf w 58 56, bitOf w 59, bitOf w 60⟩

/-- Header, payload and CRC of a flit. -/
def flitBytes (h : FlitHdr) (payload : List Byte) : List Byte :=
  let body := leBytes 8 (flitHdr h) ++ padTo 240 payload
  body ++ leBytes 8 (crc64 body)

/-- Whether a flit is used at all: its CRC holds and its TYPE and reserved bits are not reserved values. -/
def flitGood (bs : List Byte) : Bool :=
  decide (bs.length = 256) && crc64 (bs.take 248) == leAt bs 248 8 && decide (fieldOf (leAt bs 0 8) 3 0 ≤ 3)
    && fieldOf (leAt bs 0 8) 63 61 == 0

/-! ### Links -/

def linkAt (s : State) (l : Nat) : Link := s.gl.links.getD l Link.reset
def linkMod (s : State) (l : Nat) (f : Link → Link) : State :=
  { s with gl := { s.gl with links := modAt s.gl.links l f } }

/-- Ports that exist in the variant (R16). -/
def linkExists (s : State) (l : Nat) : Bool := decide (l / 4 < (vnt s).ports)

/-- A link that is up and not in peer Sepia (R331). -/
def linkUp (s : State) (l : Nat) : Bool := decide (l < 96) && ((linkAt s l).state == 2 || (linkAt s l).state == 3)

/-- Index of a pool and class in a link's credit lists. -/
def poolIx (vc : Nat) (late : Bool) : Nat := 2 * vc + b2n late

/-- Credits of each pool and class configured by GL_CRED_0 to GL_CRED_3 (R324). -/
def configuredCredits (s : State) : List Nat :=
  let c := [fieldOf (regGet s oGlCred0) 8 0, fieldOf (regGet s oGlCred0) 24 16, fieldOf (regGet s oGlCred1) 8 0,
    fieldOf (regGet s oGlCred1) 24 16, fieldOf (regGet s oGlCred2) 8 0, fieldOf (regGet s oGlCred3) 8 0,
    fieldOf (regGet s oGlCred2) 24 16]
  c.flatMap (fun x => [x / 2, x / 2])

def listAdd (l : List Nat) (i n : Nat) : List Nat := modAt l i (· + n)
def listSub (l : List Nat) (i n : Nat) : List Nat := modAt l i (· - n)

/-- Group id of a link's peer, from its TRAIN flits (R328, log 13). -/
def peerGroup (k : Link) : Nat := leAt k.lastTrain 2 2

/-- Route table entry of a destination: primary and alternate link, 0x7F none (R329). -/
def routeOf (s : State) (c : Nat) : Nat × Nat :=
  let w := scrNat s (baseOf s oGlRouteBase + 4 * c) 4
  (fieldOf w 6 0, fieldOf w 14 8)

/-- The link a unicast message leaves on (R329). -/
def routeLink (s : State) (c : Nat) : Option Nat :=
  let (p, a) := routeOf s c
  if linkUp s p then some p else if linkUp s a then some a else none

/-- Child links and LOCAL of a multicast group (R330). -/
def mcastEntry (s : State) (g : Nat) : List Nat × Bool :=
  let bs := scrRead s (baseOf s oGlMcastBase + 16 * (g % 256)) 16
  (((bs.take 8).map BitVec.toNat).filter (fun x => x != 0xFF), bitOf (leAt bs 8 1) 0)

/-! ### Transmission -/

/-- Take credits owed on a link to return in one flit: pool, class, count. -/
def takeOwed (k : Link) : (Nat × Bool × Nat) × Link :=
  match (List.range 14).find? (fun i => decide (0 < k.owed.getD i 0)) with
  | some i =>
    let n := min 63 (k.owed.getD i 0)
    ((i / 2, decide (i % 2 = 1), n), { k with owed := listSub k.owed i n })
  | none => ((0, false, 0), k)

/-- First transmission of one DATA flit: SEQ, the cumulative ACK, returned credits, and its place in the replay
buffer (R320, R324, R325). -/
def putFlit (k : Link) (t : TxMsg) (payload : List Byte) (eom : Bool) : Link :=
  let ((cvc, clate, n), k) := takeOwed k
  let h : FlitHdr := ⟨1, t.vc, t.mc, k.txSeq, k.rxSeq, cvc, n, t.dest, eom, t.hops, t.late, clate⟩
  { k with
    txSeq := (k.txSeq + 1) % 4096
    replay := k.replay ++ [⟨k.txSeq, t.vc, t.late, flitBytes h payload, t.id, eom⟩] }

/-- All flits of a message. -/
def putFlits (k : Link) (t : TxMsg) : Nat → List Byte → Link
  | 0, _ => k
  | n + 1, bs => putFlits (putFlit k t (bs.take 240) (decide (n = 0))) t n (bs.drop 240)

/-- Whether a message may start: the link carries DATA, holds credits for all its flits, and the replay buffer has
room (R321, R324, R325, R331). -/
def canStart (k : Link) (t : TxMsg) : Bool :=
  let n := msgFlits t.m
  k.state == 2 && decide (n ≤ k.cred.getD (poolIx t.vc t.late) 0)
    && decide (k.replay.length + n ≤ 1024)

/-- The next message to start: VC0 first, then in the order of the queue, a message held back by credits holding
back only its own pool and class (R322, log 14). -/
def nextStart (k : Link) : Option TxMsg :=
  let head (p : TxMsg → Bool) : Option TxMsg :=
    k.queue.find? (fun t => p t && canStart k t
      && !((k.queue.takeWhile (fun x => x.id != t.id)).any (fun x => x.vc == t.vc && x.late == t.late)))
  match head (fun t => t.vc == 0) with
  | some t => some t
  | none => head (fun t => t.vc != 0)

/-- Start messages while any may; `fuel` is the queue's length. -/
def pumpLink : Nat → Link → Link
  | 0, k => k
  | n + 1, k =>
    match nextStart k with
    | none => k
    | some t =>
      let k := { k with cred := listSub k.cred (poolIx t.vc t.late) (msgFlits t.m), queue := k.queue.filter (fun x => x.id != t.id) }
      pumpLink n (putFlits k t (msgFlits t.m) (msgBytes t.m))

/-- Transmit what a link may. -/
def pump (s : State) (l : Nat) : State := linkMod s l (fun k => pumpLink k.queue.length k)

/-- Put a message on the queues of links; `slots` are the slots its arrival holds. -/
def queueOn (s : State) (links : List Nat) (mc : Bool) (dest hops : Nat) (m : Msg)
    (slots : Option (Nat × Nat × Bool × Nat)) : State :=
  let id := s.gl.nextMsg
  let vc := (kindPool m.kind).getD 0
  let s := { s with gl := { s.gl with
    nextMsg := id + 1
    out := s.gl.out ++ [⟨id, links, m, slots, m.kind == 0x30 && slots.isNone⟩] } }
  links.foldl (fun s l =>
    let late := mc || decide (peerGroup (linkAt s l) ≠ s.gl.group)
    pump (linkMod s l (fun k => { k with queue := k.queue ++ [⟨id, vc, late, mc, dest, hops, m⟩] })) l) s

/-- Free the receive slots of a message that has been dealt with: its credits are owed (R324). -/
def freeSlots (s : State) (slots : Option (Nat × Nat × Bool × Nat)) : State :=
  match slots with
  | some (l, vc, late, n) =>
    linkMod s l (fun k => { k with held := listSub k.held (poolIx vc late) n, owed := listAdd k.owed (poolIx vc late) n })
  | none => s

/-- A RESEND request for a written-off message: its kind in AUX[63:56], its address, shard and step (R331,
log 15). -/
def resendMsg (s : State) (m : Msg) : Msg :=
  ⟨0x0E, false, s.gl.chip, m.roleEpoch, m.step, m.attempt, m.addr, m.aux % 2 ^ 56 + m.kind * 2 ^ 56, 0, 0, []⟩

/-- A remote access whose request or answer cannot travel fails (R271): its answer is SLVERR, poisoned. The answer
is delivered as a VC4 response from this chip. -/
def failRemote (s : State) (tag : Nat) : State :=
  if s.port.outst.any (fun o => o.tag == tag) then
    { s with gl := { s.gl with self := s.gl.self ++ [⟨0x3C, false, s.gl.chip, 0, 0, 0, 0, 2, 2 ^ 64 - 1, tag, []⟩] } }
  else s

/-- The effect of writing off a message (R331): the step is marked faulted on VC0 to VC2, its source is asked to
send it again on VC3 and VC5, and a remote access fails on VC4. -/
def writeOff (s : State) (m : Msg) : State :=
  let pool := (kindPool m.kind).getD 0
  if pool ≤ 2 then markFault s
  else if pool = 3 ∨ pool = 5 then
    if m.src = s.gl.chip then { s with gl := { s.gl with self := s.gl.self ++ [resendMsg s m] } }
    else match routeLink s m.src with
      | some l => queueOn s [l] false m.src 1 (resendMsg s m) none
      | none => markFault (bump s oGlRouteMissCnt)
  else if m.src = s.gl.chip ∧ pool = 4 then failRemote (bump s oMmRemoteFailCnt) m.tag
  else s

/-- Send a message to a chip: to itself at once, otherwise on its route; with no route it is written off
(R329, R331). In Sepia mode only LINK_STATUS is sent (R366). -/
def sendTo (s : State) (dest : Nat) (m : Msg) : State :=
  if dest = s.gl.chip then { s with gl := { s.gl with self := s.gl.self ++ [m] } }
  else if s.fh.sepia && m.kind != 0x12 then s
  else match routeLink s dest with
    | some l => queueOn s [l] false dest 1 m none
    | none => writeOff (bump s oGlRouteMissCnt) m

/-- Multicast a message to a group (R330): copies on every up child link, delivery here when LOCAL is 1. -/
def multicast (s : State) (g : Nat) (m : Msg) : State :=
  let (kids, lcl) := mcastEntry s g
  let s := if lcl then { s with gl := { s.gl with self := s.gl.self ++ [m] } } else s
  let ups := kids.filter (linkUp s)
  let s := (kids.filter (fun l => !linkUp s l)).foldl (fun s _ => writeOff (bump s oGlWriteoffCnt) m) s
  let s := if ups.isEmpty || s.fh.sepia then s else queueOn s ups true g 0 m none
  -- a PUB message is complete only when every child link has acknowledged it (R210)
  if m.kind ≠ 0x30 || ups.length = kids.length then s
  else
    let down := kids.filter (fun l => !ups.contains l)
    { s with gl := { s.gl with
      out := s.gl.out ++ [⟨s.gl.nextMsg, down, m, none, true⟩]
      nextMsg := s.gl.nextMsg + 1 } }

/-- Take a message that waits to be applied off the receive queue, freeing its slots (R324). -/
def consumeMsg (s : State) (m : Msg) : State :=
  match s.gl.rx.find? (fun r => r.m == m) with
  | some r =>
    let slots := some (r.link, r.vc, r.late, r.flits)
    let s := { s with gl := { s.gl with rx := s.gl.rx.erase r } }
    if s.gl.out.any (fun o => some o.id == r.copy) then
      { s with gl := { s.gl with out := s.gl.out.map (fun o => if some o.id == r.copy then { o with slots := slots } else o) } }
    else freeSlots s slots
  | none => { s with gl := { s.gl with self := s.gl.self.erase m } }

/-- Acknowledge flits of a link up to SEQ `ack` (R325): the messages they complete are done on this link. -/
def ackUpTo (s : State) (l ack : Nat) : State :=
  let k := linkAt s l
  let n := match k.replay with
    | [] => 0
    | h :: _ => let d := (ack + 4096 - h.seq) % 4096; if d ≤ k.replay.length then d else 0
  if n = 0 then s
  else
    let done := ((k.replay.take n).filter (fun x => x.eom)).map (fun x => x.msg)
    let s := linkMod s l (fun k => { k with replay := k.replay.drop n, resends := 0, attempts := 0 })
    let s := { s with gl := { s.gl with
      out := s.gl.out.map (fun (o : OutMsg) => if done.contains o.id then { o with links := o.links.filter (fun x => x != l) } else o) } }
    let fin := s.gl.out.filter (fun o => o.links.isEmpty)
    let s := { s with gl := { s.gl with out := s.gl.out.filter (fun o => !o.links.isEmpty) } }
    fin.foldl (fun s o => freeSlots s o.slots) s

/-- Add returned credits to a link's transmit pools (R324). -/
def creditBack (s : State) (l : Nat) (h : FlitHdr) : State :=
  if h.ccnt = 0 ∨ 6 < h.cvc then s
  else linkMod s l (fun k => { k with cred := listAdd k.cred (poolIx h.cvc h.clate) h.ccnt })

/-- The ACK and credit fields of a flit that was not discarded (R324, R325). -/
def flitFields (s : State) (l : Nat) (h : FlitHdr) : State := pump (creditBack (ackUpTo s l h.ack) l h) l

/-- Resend every unacknowledged flit (R325, R326): the count of consecutive resends, and a retrain request at the
limit. -/
def resendAll (s : State) (l : Nat) : State :=
  let k := linkAt s l
  if k.replay.isEmpty then s
  else
    let s := regSet s (oGlLreplayCnt + 0x20 * l) (min 0xFFFFFFFF (regGet s (oGlLreplayCnt + 0x20 * l) + 1))
    let r := k.resends + 1
    let lim := fieldOf (regGet s oGlRetry) 3 0
    let retr := fieldOf (regGet s oGlRetry) 7 4
    if lim ≤ r then
      if retr ≤ k.attempts then linkMod s l (fun k => { k with resends := r, downDue := some 4 })
      else linkMod s l (fun k => { k with resends := r, retrainDue := true })
    else linkMod s l (fun k => { k with resends := r })

/-- A message arriving whole: a reserved kind or one on the wrong channel is discarded, its credits returned and
GL_BADMSG_CNT incremented; otherwise it is delivered here, forwarded, or both (R323, R329, R330). In Sepia mode, and
on a link whose peer is in it, all but LINK_STATUS is discarded (R331, R366). -/
def arriveWhole (s : State) (l : Nat) (p : RxPart) : State :=
  let m := msgOfBytes p.payload
  let slots := some (l, p.vc, p.late, p.flits)
  if (s.fh.sepia || (linkAt s l).state == 5) && m.kind != 0x12 then freeSlots s slots
  else if kindPool m.kind ≠ some p.vc then bump (freeSlots s slots) oGlBadmsgCnt
  else if p.mc && m.kind == 0x10 then
    -- the discovery wave is forwarded once this chip's own link training has ended (R379)
    { s with gl := { s.gl with rx := s.gl.rx ++ [⟨m, l, p.vc, p.late, p.flits, none⟩] } }
  else if p.mc then
    let (kids, lcl) := mcastEntry s p.dest
    let ups := kids.filter (linkUp s)
    let s := (kids.filter (fun x => !linkUp s x)).foldl (fun s _ => writeOff (bump s oGlWriteoffCnt) m) s
    let id := s.gl.nextMsg
    let s := if ups.isEmpty then s else queueOn s ups true p.dest 0 m (if lcl then none else slots)
    if lcl then { s with gl := { s.gl with rx := s.gl.rx ++ [⟨m, l, p.vc, p.late, p.flits, if ups.isEmpty then none else some id⟩] } }
    else if ups.isEmpty then freeSlots s slots else s
  else if p.dest = s.gl.chip then { s with gl := { s.gl with rx := s.gl.rx ++ [⟨m, l, p.vc, p.late, p.flits, none⟩] } }
  else if p.hops = 3 then writeOff (bump (freeSlots s slots) oGlRouteMissCnt) m
  else match routeLink s p.dest with
    | some o => queueOn s [o] false p.dest (p.hops + 1) m slots
    | none => writeOff (bump (freeSlots s slots) oGlRouteMissCnt) m

/-- A DATA flit in sequence: its slot is taken and its payload joins its message (R321, R324). -/
def acceptFlit (s : State) (l : Nat) (h : FlitHdr) (payload : List Byte) : State :=
  let late := h.late
  let s := linkMod s l (fun k => { k with
    rxSeq := (k.rxSeq + 1) % 4096
    nakOwed := false
    discarding := false
    held := listAdd k.held (poolIx h.vc late) 1 })
  let old := (linkAt s l).parts.find? (fun p => p.vc == h.vc && p.late == late)
  let p : RxPart := match old with
    | some p => { p with flits := p.flits + 1, payload := p.payload ++ payload }
    | none => ⟨h.vc, h.mc, h.dest, h.hops, late, 1, payload⟩
  let drop (k : Link) : Link := { k with parts := k.parts.filter (fun x => !(x.vc == h.vc && x.late == late)) }
  if h.eom then arriveWhole (linkMod s l drop) l p
  else linkMod s l (fun k => { drop k with parts := (drop k).parts ++ [p] })

/-- Loss of a link (R331): credits to the written-off ledger, parts dropped, unacknowledged messages written off,
whole messages it had queued sent on the routes that remain. -/
def linkDown (s : State) (l reason state : Nat) : State :=
  let k := linkAt s l
  let started := (k.replay.map (fun x => x.msg)).eraseDups
  let lost := s.gl.out.filter (fun o => o.links.contains l && started.contains o.id)
  let waiting := k.queue
  let s := linkMod s l (fun k => { k with
    state := state
    reason := reason
    woff := (List.range 14).map (fun i => k.woff.getD i 0 + (k.cfg.getD i 0 - k.cred.getD i 0))
    parts := []
    replay := []
    queue := []
    held := List.replicate 14 0
    owed := List.replicate 14 0
    resends := 0
    attempts := 0
    retrainDue := false
    downDue := none
    sepiaDue := false
    nakOwed := false
    discarding := false })
  let fin (s : State) (id : Nat) : State :=
    let o := s.gl.out.find? (fun o => o.id == id)
    let s := { s with gl := { s.gl with
      out := (s.gl.out.map (fun o => if o.id = id && !o.pub then { o with links := o.links.filter (fun x => x != l) } else o)).filter
        (fun o => !o.links.isEmpty) } }
    match o with
    | some o => if (o.links.filter (fun x => x != l)).isEmpty then freeSlots s o.slots else s
    | none => s
  let s := lost.foldl (fun s o => writeOff (bump (fin s o.id) oGlWriteoffCnt) o.m) s
  waiting.foldl (fun s t =>
    let s := fin s t.id
    if t.mc then writeOff (bump s oGlWriteoffCnt) t.m
    else match routeLink s t.dest with
      | some o => queueOn s [o] false t.dest t.hops t.m none
      | none => writeOff (bump s oGlRouteMissCnt) t.m) s

/-- Chips whose route entry has no up link among those with a link at all become unreachable: counted, and LOST
is sent to the roots (R332). -/
def checkReach (s : State) : State :=
  (List.range s.boot.topoChips).foldl (fun s c =>
    let (p, a) := routeOf s c
    if c = s.gl.chip || (p == 0x7F && a == 0x7F) || (routeLink s c).isSome || s.gl.unreach.contains c then s
    else
      let s := bump { s with gl := { s.gl with unreach := s.gl.unreach ++ [c] } } oGlUnreachCnt
      let root := fieldOf (regGet s oStepRoot) 13 0
      let stand := fieldOf (regGet s oStepRoot) 29 16
      let m := msgOf s 0x0F c 0 []
      let s := if root = s.gl.chip || (routeLink s root).isSome then sendTo s root m else s
      if stand = s.gl.chip || (routeLink s stand).isSome then sendTo s stand m else s) s

end Sys2Proof.Machine
end

