-- ==== Sys2Proof/Machine/Tables.lean ====
section
/-!
DEFINITION. The tensor table and what it lays out: shards, planes, slot regions, pages (R157 to R170).
-/
namespace Sys2Proof.Machine

/-- A tensor table entry (R165). -/
structure TEnt where
  id : Nat
  ndim : Nat
  dims : List Nat
  start : Nat
  fin : Nat
  owner : Nat
  recipe : Nat
  hset : Nat
  slotA : Nat
  slotB : Nat
  ww : Nat
  layer : Nat
  pub : Nat
  ngrp : Nat
  epoch : Nat
  deriving DecidableEq, Repr

/-- The entry of 64 bytes (R165). -/
def tentOf (b : List Byte) : TEnt where
  id := leAt b 0 4 % 2 ^ 20
  ndim := fieldOf (leAt b 0 4) 23 20 + 1
  dims := [leAt b 4 4, leAt b 8 4, leAt b 12 4, leAt b 16 4]
  start := leAt b 0x14 6
  fin := leAt b 0x1A 6
  owner := leAt b 0x20 2 % 2 ^ 14
  recipe := leAt b 0x22 1
  hset := leAt b 0x23 1
  slotA := leAt b 0x24 6
  slotB := leAt b 0x2A 6
  ww := leAt b 0x30 6
  layer := leAt b 0x36 2
  pub := leAt b 0x38 2
  ngrp := leAt b 0x3A 2 % 2 ^ 12
  epoch := leAt b 0x3C 2

/-- Elements of the tensor (R166). -/
def TEnt.total (t : TEnt) : Nat := (t.dims.take t.ndim).foldl (· * ·) 1
/-- Columns and rows of the matrix view (R53, R166). -/
def TEnt.cols (t : TEnt) : Nat := max 1 (t.dims.getD (min t.ndim 4 - 1) 1)
def TEnt.rows (t : TEnt) : Nat := t.total / t.cols
/-- Elements of the shard. -/
def TEnt.count (t : TEnt) : Nat := t.fin - t.start
def TEnt.compact (t : TEnt) : Bool := bitOf t.pub 9
/-- Short format of the published copy, 0xF none (R165). -/
def TEnt.short (t : TEnt) : Nat := t.pub % 16
def TEnt.bsize (t : TEnt) : Nat := fieldOf t.pub 6 4
def TEnt.bdir (t : TEnt) : Bool := bitOf t.pub 7
def TEnt.pubSr (t : TEnt) : Bool := bitOf t.pub 8
def TEnt.custom (t : TEnt) : Bool := decide (0x40 ≤ t.recipe)

def page64k : Nat := 0x10000

/-- Page capacity (R161, R162). -/
def TEnt.pageCap (t : TEnt) : Nat := if t.compact then 12992 else 6528

/-- Word w of hyperparameter set h in a copy of the sets (R170). -/
def hsetWord (hs : List Byte) (h w : Nat) : Nat := leAt hs (128 * h + 4 * w) 4

/-- Blocks of recipe 0x06 as (rows, columns) sizes, in block order I then J (R179). -/
def precBlocks (rows cols b : Nat) : List (Nat × Nat) :=
  let b := max b 1
  (List.range (ceilDiv rows b)).flatMap (fun i =>
    (List.range (ceilDiv cols b)).map (fun j => (min b (rows - i * b), min b (cols - j * b))))

/-- Bytes of one block's four matrices, each on a 64-byte boundary (R179). -/
def precBytes (x : Nat × Nat) : Nat :=
  2 * roundUp (4 * x.1 * x.1) 64 + 2 * roundUp (4 * x.2 * x.2) 64

/-- Bytes of auxiliary state: recipe 0x05 row then column statistics, 0x06 the block matrices, 0x07 the last
refresh (R178, R179, R181). -/
def TEnt.auxBytes (t : TEnt) (hs : List Byte) : Nat :=
  match t.recipe with
  | 0x05 => roundUp (4 * t.rows) 64 + 4 * t.cols
  | 0x06 => ((precBlocks (t.count / t.cols) t.cols (hsetWord hs t.hset 16)).map precBytes).foldl (· + ·) 0
  | 0x07 => 4 * t.count
  | _ => 0

/-- The version of a recipe the open step uses: the one it began with (R155). -/
def recipeInUse (s : State) (id : Nat) : Option Recipe :=
  (s.qn.oldRecipes.find? (fun r => r.id == id)) <|> (s.qn.recipes.find? (fun r => r.id == id))

/-- State bytes an element of a loaded custom recipe has (R152). -/
def customStateBytes (s : State) (id : Nat) : Nat := (recipeInUse s id).elim 1 (fun r => r.stateBytes)

/-- Bytes of the state pages, or of a custom recipe's region (R160, R167). -/
def stateBytes (s : State) (t : TEnt) : Nat :=
  if t.custom then roundUp (customStateBytes s t.recipe * t.count) page64k
  else ceilDiv t.count t.pageCap * page64k

/-- Size of a slot region: state pages, then auxiliary pages (R160). -/
def slotBytes (s : State) (hs : List Byte) (t : TEnt) : Nat := stateBytes s t + roundUp (t.auxBytes hs) page64k

/-- Offset of the slot region of parity p (R11, R165). -/
def TEnt.slot (t : TEnt) (p : Nat) : Nat := if p % 2 = 0 then t.slotA else t.slotB

/-- WW_STRIDE and the offset of bfloat16 plane p (R159). -/
def TEnt.wwStride (t : TEnt) : Nat := roundUp (2 * t.total) page64k
def TEnt.plane (t : TEnt) (p : Nat) : Nat := t.ww + (p % 2) * t.wwStride

/-- Bytes of short codes of the whole tensor and the offset of the scales after them (R165). -/
def TEnt.codeBytes (t : TEnt) : Nat := packedBytes (fmtBitsOf t.short) t.total
where
  /-- Bits of a short format. -/
  fmtBitsOf (c : Nat) : Nat :=
    match c with
    | 6 | 7 => 6
    | 8 | 0xA => 4
    | _ => 8
  /-- Packed size under R39. -/
  packedBytes (b n : Nat) : Nat := if b = 6 then roundUp n 4 * 6 / 8 else ceilDiv (n * b) 8

/-- Block size of the short copy (R53). -/
def TEnt.shortBlock (t : TEnt) : Nat := 8 * 2 ^ t.bsize

/-- Scales of the whole tensor (R53). -/
def TEnt.scales (t : TEnt) : Nat :=
  if t.bdir then ceilDiv t.rows t.shortBlock * t.cols else t.rows * ceilDiv t.cols t.shortBlock
def TEnt.scaleOff (t : TEnt) : Nat := roundUp t.codeBytes 64
def TEnt.shortStride (t : TEnt) : Nat := roundUp (t.scaleOff + t.scales) page64k
/-- Offset of short plane p (R165). -/
def TEnt.shortPlane (t : TEnt) (p : Nat) : Nat := t.ww + 2 * t.wwStride + (p % 2) * t.shortStride

/-- Offset of the reduced-gradient store (R165). -/
def gradStore (s : State) (hs : List Byte) (t : TEnt) : Nat := t.slotA + 2 * slotBytes s hs t

/-- Entries of the tensor table in Hopper scratch (R165, R187). -/
def liveTable (s : State) : List (List Byte) :=
  (List.range (regGet s oPsTtCount)).map (fun i => scrRead s (baseOf s oPsTtBase + 64 * i) 64)

/-- Entry i of the table sampled at OPEN. -/
def sampled (s : State) (i : Nat) : TEnt := tentOf (s.work.tt.getD i [])

/-- Indices of the sampled entries this chip owns. -/
def ownedIx (s : State) : List Nat :=
  (List.range s.work.tt.length).filter (fun i => (sampled s i).owner == s.gl.chip)

/-- The sampled entry of a tensor that holds an element. -/
def entryOf (s : State) (tensor e : Nat) : Option Nat :=
  (List.range s.work.tt.length).find? (fun i =>
    let t := sampled s i
    t.id == tensor && decide (t.start ≤ e) && decide (e < t.fin))

/-- Pages step s may write (R11, R151): the slot regions of parity s + 1 of owned entries, and the planes of that
parity of their tensors. -/
def stepMayWrite (s : State) (off : Nat) : Bool :=
  (ownedIx s).any (fun i =>
    let t := sampled s i
    let p := s.step.s + 1
    let inR (lo n : Nat) : Bool := decide (lo / page64k * page64k ≤ off) && decide (off < roundUp (lo + n) page64k)
    inR (t.slot p) (slotBytes s s.work.hsets t) || inR (t.plane p) t.wwStride)

/-- Locations every attempt of the step must read (R347): the slot regions of parity s of owned entries; and the
reduced-gradient store while a unit is recomputed. -/
def attemptReads (s : State) (off : Nat) (again : Bool) : Bool :=
  (ownedIx s).any (fun i =>
    let t := sampled s i
    let n := slotBytes s s.work.hsets t
    (decide (t.slot s.step.s ≤ off) && decide (off < t.slot s.step.s + n))
      || (again && decide (gradStore s s.work.hsets t ≤ off) && decide (off < gradStore s s.work.hsets t + 4 * t.count)))

/-- A Quern consumes poison from a block address (R347): event 0x3, the open step marked faulted, and STATE_POISON for
a location every attempt must read. -/
def consumePoison (s : State) (q addr : Nat) (again : Bool) : State :=
  let b := baddrOf addr
  let lost := b.space = 0 && attemptReads s b.off again
  let s := if lost then { s with fh := { s.fh with statePoison := true } } else s
  markFault (event s 0x3 (unitQuern q) addr 0 (b2n lost))

end Sys2Proof.Machine
end

