-- ==== Sys2Proof/Machine/Sluice.lean ====
section
/-!
DEFINITION. The Sluice's shared operations: the walk, admission, fault records and suspension (R291 to R299).
-/
namespace Sys2Proof.Machine

/-- What a translation gives: a block address, or a fault's TYPE and LEVEL (R298). -/
inductive SlOut where
  | ok (addr : Nat)
  | fault (type level : Nat)
  deriving DecidableEq, Repr

/-- One entry of a table at a block address, read as a walk reads it: none when the table is not local memory that
exists, or reads poisoned (R292, R293). -/
def walkRead (s : State) (addr ix : Nat) : Option Nat × State :=
  let b := baddrOf (addr + 8 * ix)
  if b.remote || decide (2 ≤ b.space) || !memOk s b.space b.off then (none, s)
  else
    let (r, s) := burstRead s b.space b.off 2 true
    (if r.poison then none else some (leAt r.data (b.off % 64) 8), s)

/-- The checks of R293 on an entry: address bits that must be zero for a table or page of 2^k bytes. -/
def entryAddr (e : Nat) : Nat := e / 256 * 256

/-- A walk from a table at `level`: the page's block address and its R and W bits. The fuel is the levels left. -/
def walk (s : State) (va : Nat) (write : Bool) : Nat → Nat → Nat → (SlOut × Nat) × State
  | 0, _, level => ((.fault 3 level, 0), s)
  | fuel + 1, table, level =>
    let ix := match level with
      | 1 => fieldOf va 47 39
      | 2 => fieldOf va 38 30
      | 3 => fieldOf va 29 21
      | _ => fieldOf va 20 16
    let (r, s) := walkRead s table ix
    match r with
    | none => ((.fault 4 level, 0), s)
    | some e =>
      let leaf := bitOf e 1
      let pr := bitOf e 2
      let pw := bitOf e 3
      if !bitOf e 0 then ((.fault 1 level, 0), s)
      else if fieldOf e 7 4 != 0 || (leaf && decide (level < 3)) || (!leaf && decide (level = 4)) then ((.fault 3 level, 0), s)
      else if leaf then
        let size := if level = 3 then 2 ^ 21 else 2 ^ 16
        if entryAddr e % size ≠ 0 then ((.fault 3 level, 0), s)
        else if (if write then !pw else !pr) then ((.fault 2 level, 0), s)
        else ((.ok (entryAddr e + va % size), b2n pr + 2 * b2n pw), s)
      else
        let size := if level = 3 then 256 else 4096
        let b := baddrOf (entryAddr e)
        if entryAddr e % size ≠ 0 || b.remote || decide (2 ≤ b.space) then ((.fault 3 level, 0), s)
        else walk s va write fuel (entryAddr e) (level + 1)

/-- A region window's fields (R296, R301). -/
def winApplies (s : State) (w ctx addr : Nat) : Bool :=
  let ctl := regGet s (oSlWinCtl + 0x20 * w)
  let lo := regGet s (oSlWinBaseLo + 0x20 * w) + regGet s (oSlWinBaseHi + 0x20 * w) * 2 ^ 32
  let hi := regGet s (oSlWinLimitLo + 0x20 * w) + regGet s (oSlWinLimitHi + 0x20 * w) * 2 ^ 32
  bitOf ctl 31 && (bitOf ctl 30 || fieldOf ctl 29 24 == ctx) && decide (lo ≤ addr) && decide (addr < hi + page64k)

/-- Admission of a block address (R296): whether it is admitted. -/
def admitted (s : State) (ctx addr : Nat) (write : Bool) : Bool × State :=
  let ws := (List.range 64).filter (fun w => winApplies s w ctx addr)
  let prio (w : Nat) : Nat := fieldOf (regGet s (oSlWinCtl + 0x20 * w)) 18 16
  let top := ws.foldl (fun a w => max a (prio w)) 0
  match ws.filter (fun w => prio w == top) with
  | [] => (bitOf (regGet s oSlCtl) 0, s)
  | w :: more =>
    let s := if more.isEmpty then s else bump s oSlMultiCnt
    (bitOf (regGet s (oSlWinCtl + 0x20 * w)) (if write then 1 else 0), s)

/-- The address of a context's root table (R294). -/
def rootTable (s : State) (ctx : Nat) : Nat :=
  regGet s (oSlRootLo + 8 * ctx) / 4096 * 4096 + regGet s (oSlRootHi + 8 * ctx) * 2 ^ 32

/-- What follows a walk: its fault, or the test of the windows against the address found (R293, R296). -/
def afterWalk (ctx : Nat) (write : Bool) (w : (SlOut × Nat) × State) : SlOut × State :=
  match w.1.1 with
  | .fault t l => (.fault t l, w.2)
  | .ok a =>
    let (ok, s) := admitted w.2 ctx a write
    if ok then (.ok a, s) else (.fault 5 0, s)

/-- Translate and admit one access (R291 to R296). Contexts 48 to 63 are the Governor's: their pages map block
addresses to themselves, writable in the pages the step may write (R151, log 16); context 63 is the Governor's own
transfers, all writable. -/
def sluice (s : State) (ctx va : Nat) (write : Bool) : SlOut × State :=
  if 2 ^ 48 ≤ va then (.fault 3 1, s)
  else if 48 ≤ ctx then
    if write && ctx != 63 && !(va / 2 ^ 47 == 0 && stepMayWrite s (va % 2 ^ 47)) then (.fault 2 4, s)
    else (.ok va, s)
  else
    if !bitOf (regGet s (oSlRootLo + 8 * ctx)) 0 then (.fault 6 0, s)
    else afterWalk ctx write (walk s va write 4 (rootTable s ctx) 1)

/-- REQ of a fault record (R298). -/
def reqByte (a : SlAccess) : Nat := (a.req % 4) * 64 + a.u % 64

/-- A fault record's 32 bytes (R298). -/
def faultRecord (s : State) (a : SlAccess) (token type level ident : Nat) : List Byte :=
  leBytes 8 a.va ++ leBytes 2 token ++ leBytes 1 (a.ctx % 64 + b2n a.write * 64 + b2n (decide (48 ≤ a.ctx)) * 128)
    ++ leBytes 1 type ++ leBytes 1 level ++ leBytes 1 (reqByte a) ++ zeroBytes 2 ++ leBytes 8 ident
    ++ leBytes 4 s.time.turn ++ zeroBytes 4

/-- Whether the fault ring has room (R297). -/
def faultRingRoom (s : State) : Bool := (s.sl.prod + 2 ^ 32 - regGet s oSlFaultCons) % 2 ^ 32 != 1024

/-- Write the oldest waiting fault record (R297). -/
def writeFaultRecord (s : State) : State :=
  match s.sl.recs with
  | [] => s
  | r :: rest =>
    if faultRingRoom s then
      let base := baseOf s oSlFaultBase
      let s := scrWrite s (base + (s.sl.prod % 1024) * 32) r
      let p := (s.sl.prod + 1) % 2 ^ 32
      let s := scrWrite s (base + 0x8000) (leBytes 4 p)
      bump { s with sl := { s.sl with recs := rest, prod := p } } oSlFaultCnt
    else s

/-- Take a resume token for a suspended access and queue its record (R297, R298). -/
def raiseFault (s : State) (a : SlAccess) (type level ident : Nat) : Nat × State :=
  let token := s.sl.nextToken
  let s := { s with sl := { s.sl with
    nextToken := (token + 1) % 2 ^ 16
    susp := s.sl.susp ++ [⟨token, a⟩]
    recs := s.sl.recs ++ [faultRecord s a token type level ident] } }
  (token, s)

/-- End a suspension. -/
def dropToken (s : State) (token : Nat) : State :=
  { s with sl := { s.sl with susp := s.sl.susp.filter (fun x => x.token != token) } }

end Sys2Proof.Machine
end

