-- ==== Sys2Proof/Machine/Quern.lean ====
section
/-!
DEFINITION. The Quern's shared operations: registers, lanes and predicates, the program address and loops, traps, the
first-NaN record, flags, the Quern store, random words (R106 to R119, R127 to R133, R147).
-/
namespace Sys2Proof.Machine

def qnAt (s : State) (q : Nat) : Quern := s.qn.q.getD q (Quern.resetTo 0)
def qnMod (s : State) (q : Nat) (f : Quern → Quern) : State :=
  { s with qn := { s.qn with q := modAt s.qn.q q f } }
def ctxMod (s : State) (q : Nat) (f : QCtx → QCtx) : State := qnMod s q (fun n => { n with ctx := f n.ctx })
def ctxOf (s : State) (q : Nat) : QCtx := (qnAt s q).ctx

/-! ### Registers (R107, R109, R113) -/

def sReg (c : QCtx) (r : Nat) : Nat := (mapGet zeroAt c.s r).toNat
def setS (c : QCtx) (r v : Nat) : QCtx := { c with s := mapSet zeroAt c.s r (BitVec.ofNat 64 v) }

/-- p0 reads as all ones (R107). -/
def pReg (c : QCtx) (r : Nat) : Nat := if r = 0 then 2 ^ 64 - 1 else (mapGet zeroAt c.p r).toNat
/-- Writes to p0 are ignored (R107). -/
def setP (c : QCtx) (r v : Nat) : QCtx := if r = 0 then c else { c with p := mapSet zeroAt c.p r (BitVec.ofNat 64 v) }

def vLane (c : QCtx) (r i : Nat) : Nat := (mapGet zeroAt c.v (64 * r + i)).toNat
/-- The 64 lanes of a vector register. -/
def vLanes (c : QCtx) (r : Nat) : List Nat := (mapRead zeroAt c.v (64 * r) 64).map BitVec.toNat
def setLanes (c : QCtx) (r : Nat) (xs : List Nat) : QCtx :=
  { c with v := mapWrite zeroAt c.v (64 * r) (xs.map (BitVec.ofNat 32)) }

/-- The operands of a format in the lanes of a register: a pair for 64-bit formats, else the low bits of the lane
(R107, R130). -/
def lanesOf (c : QCtx) (fmt r : Nat) : List Nat :=
  if isPair fmt then ((vLanes c r).zip (vLanes c (r + 1))).map (fun (lo, hi) => lo + hi * 2 ^ 32)
  else (vLanes c r).map (fun x => x % 2 ^ fmtBits fmt)

/-- Write results, lanes with none keeping their value; narrow formats zero the rest of the lane (R107, R130). -/
def putLanes (c : QCtx) (fmt r : Nat) (xs : List (Option Nat)) : QCtx :=
  if isPair fmt then
    let lo := (xs.zip (vLanes c r)).map (fun (x, o) => x.elim o (fun v => v % 2 ^ 32))
    let hi := (xs.zip (vLanes c (r + 1))).map (fun (x, o) => x.elim o (fun v => v / 2 ^ 32 % 2 ^ 32))
    setLanes (setLanes c r lo) (r + 1) hi
  else setLanes c r ((xs.zip (vLanes c r)).map (fun (x, o) => x.elim o (fun v => v % 2 ^ fmtBits fmt)))

/-- Which lanes the predicate register makes active (R130). -/
def activeLanes (c : QCtx) (pred : Nat) : List Bool := (List.range 64).map (fun i => bitOf (pReg c pred) i)

/-- The attribute of a rounding code: RNE, RTO, or the one QCR holds (R46, R51, R114). -/
def rmOf (c : QCtx) (rnd : Nat) : RM :=
  match rnd with
  | 1 => .odd
  | 3 =>
    match c.qcr.toNat % 8 with
    | 1 => .rna
    | 2 => .up
    | 3 => .down
    | 4 => .zero
    | _ => .rne
  | _ => .rne

/-- A rounding code's choice. -/
def selOf (c : QCtx) (rnd : Nat) : RndSel := if rnd = 2 then .sr else .attr (rmOf c rnd)

/-! ### Program address, loops, traps -/

/-- Close every loop whose body ends at the program address, or start its next iteration (R133). -/
def loopEnds (pc : Nat) : List LoopSt → Nat × List LoopSt
  | [] => (pc, [])
  | l :: rest =>
    if pc = l.start + 8 * l.len then
      (if 0 < l.left then (l.start, { l with left := l.left - 1 } :: rest) else loopEnds pc rest)
    else (pc, l :: rest)

/-- Continue at a program address (R133). -/
def goPc (c : QCtx) (pc : Nat) : QCtx :=
  let (pc, loops) := loopEnds pc c.loops
  { c with pc := pc, loops := loops }

/-- Continue at the next instruction. -/
def nextPc (c : QCtx) : QCtx := goPc c (c.pc + 8)

/-- A trap halts the work item and is recorded (R115, R118). -/
def trapQ (s : State) (q code : Nat) : State :=
  qnMod s q (fun n => { n with state := 2, trap := code, trapPc := n.ctx.pc })

/-- Poison consumed from a burst of the store, which came from a block address (R115, R347). -/
def trapPoison (s : State) (q burst : Nat) : State :=
  trapQ (consumePoison s q (mapGet natZeroAt (qnAt s q).poisonSrc burst) false) q 2

/-- Whether physical Quern q can execute an instruction of its work item: running, with nothing it waits for. -/
def quernRuns (s : State) (q : Nat) : Bool :=
  decide (q < 36) && (qnAt s q).state == 1 && (qnAt s q).item.isSome && !(qnAt s q).blocked

/-- Issue an instruction: an illegal word traps and has no other effect (R128). -/
def issue (s : State) (q op : Nat) (f : QFields) (body : State → State) : State :=
  if quernRuns s q then (if quernLegal op f then body s else trapQ s q 1) else s

/-- Set flags of f0 (R113). -/
def raiseFlags (c : QCtx) (fl : Flags) : QCtx := { c with f0 := c.f0 ||| fl }

/-- Complete an instruction, taking the first-NaN trap when it is armed and a destination element is NaN (R117):
`nan` is the lowest such index, `srcNan` whether a source element was NaN. -/
def complete (s : State) (q op : Nat) (f : QFields) (nan : Option Nat) (srcNan : Bool) : State :=
  let n := qnAt s q
  match nan with
  | none => ctxMod s q nextPc
  | some ix =>
    if n.ctx.qcr.toNat / 16 % 2 = 1 && !n.fnanValid then
      let it := n.item.elim 0 (fun i => i.id)
      let s := qnMod s q (fun n => { n with
        fnanValid := true
        fnanOrigin := !srcNan
        fnanInsn := quernWord op f
        fnanItem := it
        fnanIndex := ix
        fnanPc := n.ctx.pc
        fnanTurn := s.time.turn % 2 ^ 32 })
      if n.ctx.qcr.toNat / 32 % 2 = 1 then trapQ s q 6 else ctxMod s q nextPc
    else ctxMod s q nextPc

/-- An instruction that writes no floating value. -/
def completePlain (s : State) (q : Nat) (f : QCtx → QCtx) : State := ctxMod s q (fun c => nextPc (f c))

/-! ### Random words (R147, R303 to R307) -/

/-- Logical index of the work item on a Quern. -/
def logicalOf (s : State) (q : Nat) : Nat := (qnAt s q).item.elim 0 (fun i => i.logical)
def sailOf (s : State) (n : Nat) : SailPos := s.qn.sails.getD n SailPos.reset
def sailMod (s : State) (n : Nat) (f : SailPos → SailPos) : State :=
  { s with qn := { s.qn with sails := modAt s.qn.sails n f } }

/-- A stream's first draw of a work item loads its state (R307): stream 0 is always cached. -/
def sailLoad (s : State) (n stream : Nat) : State :=
  if stream = 0 || (sailOf s n).cached.contains stream then s
  else bump (sailMod s n (fun p => { p with cached := p.cached ++ [stream] })) oSailMissCnt

/-- Draw k words of a vector lane's Sail lane and stream. -/
def drawLane (s : State) (n lane stream k : Nat) : List Nat × State :=
  let p := sailOf s n
  let key := 256 * lane + stream
  let d := mapGet natZeroAt p.draws key
  (sailDraws p.seed stream (64 * n + lane) p.t d k,
   sailMod s n (fun p => { p with draws := mapSet natZeroAt p.draws key (d + k) }))

/-- One word of each active lane (R147); excluded lanes draw nothing. -/
def drawActive (s : State) (n stream : Nat) (act : List Bool) : List Nat × State :=
  let s := sailLoad s n stream
  let (ws, s) := act.zipIdx.foldl (fun (a : List Nat × State) (on, i) =>
    if on then let (w, s) := drawLane a.2 n i stream 1; (w.headD 0 :: a.1, s) else (0 :: a.1, a.2)) ([], s)
  (ws.reverse, s)

/-! ### The Quern store (R110, R131, R139) -/

/-- A range of the data area; a byte of the code region or beyond the store raises the store-range trap. -/
def storeRangeOk (o n : Nat) : Bool := decide (o + n ≤ 0x3C0000)

def storeBytes (s : State) (q o n : Nat) : List Byte := mapRead zeroAt (qnAt s q).store o n

/-- Decode the protection of the bursts of a range: their poison marks afterwards (R110, R254). -/
def storeCheck (s : State) (q o n : Nat) : List Bool × State :=
  (burstSpan o n).foldl (fun (a : List Bool × State) x =>
    let b := x.1 / 64
    let (ue, s) := hopDecode a.2 (unitQuern q) (2 + q) b x.1
    let s := if ue then qnMod s q (fun m => { m with storePoison := mapSet offAt m.storePoison b true }) else s
    (a.1 ++ [mapGet offAt (qnAt s q).storePoison b], s)) ([], s)

/-- Write bytes into the store: whole bursts take fresh check bits and the given poison, others keep their mark. -/
def storeWrite (s : State) (q o : Nat) (bs : List Byte) (poison : List Bool) : State :=
  let s := qnMod s q (fun m => { m with store := mapWrite zeroAt m.store o bs })
  ((burstSpan o bs.length).zipIdx).foldl (fun s (x, i) =>
    let b := x.1 / 64
    let pz := poison.getD i false
    if x.2.2 = 64 then
      let s := qnMod s q (fun m => { m with storePoison := mapSet offAt m.storePoison b pz })
      flipInto { s with mem := { s.mem with errs := dropErrs s.mem.errs (2 + q) b b } } (unitQuern q) (2 + q) b
    else if pz then qnMod s q (fun m => { m with storePoison := mapSet offAt m.storePoison b true }) else s) s

/-- Whether a store range meets the range of an outstanding transfer (R148). -/
def storeBusy (s : State) (q o n : Nat) : Bool :=
  (qnAt s q).xfers.any (fun x => decide (o < x.lo + x.len) && decide (x.lo < o + n))

/-- A load's or store's checks before it touches the store: misaligned addresses are illegal (log 17), the data
range, an outstanding transfer (the instruction waits), poison where it reads. -/
def withStore (s : State) (q o n : Nat) (reads : Bool) (body : State → State) : State :=
  if o % 64 ≠ 0 then trapQ s q 1
  else if !storeRangeOk o n then trapQ s q 4
  else if storeBusy s q o n then s
  else if reads then
    let (marks, s) := storeCheck s q o n
    match marks.findIdx? id with
    | some i => trapPoison s q (o / 64 + i)
    | none => body s
  else body s

end Sys2Proof.Machine
end

