-- ==== Sys2Proof/Machine/QuernControl.lean ====
section
/-!
DEFINITION. Quern control, scalar and synchronisation instructions (0x01 to 0x12; R114, R127, R132 to R135, R148).
-/
namespace Sys2Proof.Machine

/-- Suspend a work item on a translation fault (R115, R297). -/
def suspendQ (s : State) (q : Nat) (va : Nat) (write : Bool) (type level : Nat) : State :=
  let it := (qnAt s q).item
  let a : SlAccess := ⟨1, logicalOf s q, it.elim 0 (fun i => i.ctx), va, write⟩
  let (tok, s) := raiseFault s a type level (it.elim 0 (fun i => i.id))
  qnMod (trapQ s q 3) q (fun n => { n with token := some tok })

/-- The context a work item's accesses use. -/
def itemCtx (s : State) (q : Nat) : Nat := (qnAt s q).item.elim 0 (fun i => i.ctx)

/-- Kind of a work item in `WorkSt.progress`. -/
def itemKind (i : Item) : Nat := if i.replay then 2 else b2n i.refresh

/-- The first element that an entry's next sequence takes (R153). -/
def progressOf (s : State) (kind entry start : Nat) : Nat :=
  (s.work.progress.find? (fun x => x.1 == kind && x.2.1 == entry)).elim start (fun x => x.2.2)

def setProgress (s : State) (kind entry : Nat) (next : Option Nat) : State :=
  { s with work := { s.work with
    progress := s.work.progress.filter (fun x => !(x.1 == kind && x.2.1 == entry))
      ++ next.toList.map (fun n => (kind, entry, n)) } }

/-- Whether a work item belongs to the open attempt, or to the replay of the step just committed. -/
def itemCurrent (s : State) (i : Item) : Bool :=
  if i.replay then i.step == s.pub.s && s.pub.replay.contains i.entry
  else stepOpenState s && i.step == s.step.s && i.attempt == s.step.attempt

/-- One past the last element of the shard a work item serves. -/
def itemFin (s : State) (i : Item) : Nat :=
  (tentOf ((if i.replay then s.pub.tt else s.work.tt).getD i.entry [])).fin

/-- The sequence of a work item is done: with elements left the entry's next sequence takes them; otherwise its unit is
updated, its refresh made, or its replay after a commit, which is published again (R150, R153, R218). -/
def sequenceDone (s : State) (i : Item) : State :=
  if !itemCurrent s i then s
  else if i.next < itemFin s i then setProgress s (itemKind i) i.entry (some i.next)
  else
  let s := setProgress s (itemKind i) i.entry none
  if i.replay then
    { s with pub := { s.pub with
      replay := s.pub.replay.filter (fun e => e != i.entry)
      todo := s.pub.todo ++ [⟨i.entry, s.pub.s, true⟩] } }
  else if i.refresh then { s with work := { s.work with refreshed := s.work.refreshed ++ [i.entry] } }
  else { s with work := { s.work with units := s.work.units.map (fun u => if u.entry = i.entry then { u with updated := true } else u) } }

/-- Release the Sail states cached for a work item (R307). -/
def sailEnd (s : State) (n : Nat) : State := sailMod s n (fun p => { p with cached := [] })

/-- The work item ends (R113, R132): f0 is ORed into QN_FLAGS, the Quern is idle. -/
def endItem (s : State) (q : Nat) (last : Bool) : State :=
  let n := qnAt s q
  let s := regOr s (oQnFlags + 0x40 * q) n.ctx.f0.toNat
  let s := sailEnd s (logicalOf s q)
  let s := match last, n.item with
    | true, some i => sequenceDone s i
    | _, _ => s
  qnMod s q (fun n => { n with state := 0, item := if last then none else n.item })

/-- ENDI and ENDS: not inside a loop body, after every transfer (R132, R133). -/
def doEnd (s : State) (q : Nat) (last : Bool) : State :=
  let n := qnAt s q
  if !n.ctx.loops.isEmpty then trapQ s q 1
  else if last && (n.ctx.a0.isSome || n.ctx.a1.isSome) then trapQ s q 1
  else if !n.xfers.isEmpty then s
  else endItem (ctxMod s q nextPc) q last

/-- A branch target inside the body of the innermost open loop (R133). -/
def branchOk (c : QCtx) (target : Nat) : Bool :=
  match c.loops with
  | [] => true
  | l :: _ => decide (l.start ≤ target) && decide (target < l.start + 8 * l.len)

/-- Branch forward by `off` instructions. -/
def branch (s : State) (q off : Nat) : State :=
  let c := ctxOf s q
  if branchOk c (c.pc + 8 * off) then ctxMod s q (fun c => goPc c (c.pc + 8 * off)) else trapQ s q 1

/-- The conditions of BRC on two scalar registers. -/
def brcHolds (cond a b : Nat) : Bool :=
  match cond with
  | 0 => a == b
  | 1 => a != b
  | 2 => decide (signed 64 a < signed 64 b)
  | 3 => decide (signed 64 b ≤ signed 64 a)
  | 4 => decide (a < b)
  | _ => decide (b ≤ a)

/-- LOOP (R133): nested at most four deep and inside the outer body. -/
def doLoop (s : State) (q len n : Nat) : State :=
  let c := ctxOf s q
  let start := c.pc + 8
  let inside := match c.loops with
    | [] => true
    | l :: _ => decide (start + 8 * len ≤ l.start + 8 * l.len)
  if !inside || decide (4 ≤ c.loops.length) then trapQ s q 1
  else if n = 0 then ctxMod s q (fun c => goPc c (start + 8 * len))
  else ctxMod s q (fun c => { c with pc := start, loops := ⟨n - 1, start, len⟩ :: c.loops })

/-- SALU operation codes on n-bit values; the shift count is 6 bits wide. -/
def aluOp (n op a b : Nat) : Nat :=
  let m := 2 ^ n
  let sh := b % 64
  match op with
  | 0 => (a + b) % m
  | 1 => (a + m - b) % m
  | 2 => (a * b) % m
  | 3 => a &&& b
  | 4 => a ||| b
  | 5 => a ^^^ b
  | 6 => (a <<< sh) % m
  | 7 => a >>> sh
  | 8 => twosCode n (signed n a / (2 ^ sh : Nat))
  | 9 => if signed n a ≤ signed n b then a else b
  | 0xA => if signed n a ≤ signed n b then b else a
  | 0xB => min a b
  | _ => max a b

/-- Whether the WAITW condition holds. -/
def waitHolds (eq : Bool) (word value : Nat) : Bool := if eq then word == value else decide (value ≤ word)

/-- Finish a WAITW whose word has been read (R134): a NOP, or the work item ends with the address at the WAITW. -/
def finishWaitw (s : State) (q addr word value : Nat) (eq : Bool) : State :=
  if waitHolds eq word value then ctxMod s q nextPc
  else qnMod (endItem s q false) q (fun n => { n with waitw := some (addr, value, eq) })

/-- Send a VC4 request and remember where its answer goes (R270). -/
def sendVc4 (s : State) (kind chip addr aux : Nat) (data : List Byte) (poison : Nat) (sink : Sink) : State :=
  let tag := s.port.nextTag
  let m : Msg := ⟨kind, false, s.gl.chip, 0, 0, 0, addr, aux, poison, tag, data⟩
  let s := { s with port := { s.port with
    nextTag := (tag + 1) % 2 ^ 16
    outst := s.port.outst ++ [Outst.mk tag chip kind addr sink] } }
  if s.port.routeHold.contains chip then { s with port := { s.port with heldVc4 := s.port.heldVc4 ++ [(chip, m)] } }
  else sendTo s chip m

/-- An address that translates to 8 or `size` bytes of Hopper scratch, local or remote, that exist (R134, R135). -/
def scratchWord (s : State) (addr size : Nat) : Bool :=
  let b := baddrOf addr
  b.space == 1 && b.off % size == 0 && (isRemote s addr || scratchOk s (b.off / 64 * 64) 64)

/-- WAITW (R134). -/
def doWaitw (s : State) (q addr value : Nat) (eq : Bool) : State :=
  if !(qnAt s q).ctx.loops.isEmpty then trapQ s q 1
  else if !(qnAt s q).xfers.isEmpty then s
  else
    let (t, s) := sluice s (itemCtx s q) addr false
    match t with
    | .fault ty lv => suspendQ s q addr false ty lv
    | .ok a =>
      if !scratchWord s a 8 then trapQ s q 1
      else
        let b := baddrOf a
        if isRemote s a then
          sendVc4 (qnMod s q (fun n => { n with blocked := true })) 0x38 b.chip (a / 64 * 64) 64 [] 0 (.quernWaitw q a value eq)
        else
          let (r, s) := scratchRead s (b.off / 64)
          if r.poison then trapQ (consumePoison s q a false) q 2
          else finishWaitw s q a (leAt r.data (b.off % 64) 8) value eq

/-- ATOM (R135). -/
def doAtom (s : State) (q : Nat) (f : QFields) : State :=
  let c := ctxOf s q
  let addr := sReg c f.a
  let size := if bitOf f.md 4 then 8 else 4
  let op := f.md % 16
  if addr % size ≠ 0 then trapQ s q 1
  else
    let (t, s) := sluice s (itemCtx s q) addr (decide (op ≠ 0xA))
    match t with
    | .fault ty lv => suspendQ s q addr (decide (op ≠ 0xA)) ty lv
    | .ok a =>
      if !scratchWord s a size then trapQ s q 1
      else
        let b := baddrOf a
        let x := sReg c f.b % 2 ^ (8 * size)
        let cmp := sReg c f.c % 2 ^ (8 * size)
        if isRemote s a then
          sendVc4 (qnMod s q (fun n => { n with blocked := true })) 0x3B b.chip a (op + (if size = 8 then 16 else 0))
            (leBytes size x ++ leBytes size cmp) 0 (.quernAtom q f.d size)
        else
          let (old, poison, s) := atomicAt s b.off size op x cmp
          if poison then trapQ (consumePoison s q a false) q 2
          else completePlain s q (fun c => setS c f.d old)

/-- A QCR write: a reserved DYN code traps and changes nothing (R114). Reserved bits are written as zero. -/
def doQcrw (s : State) (q w : Nat) : State :=
  if 5 ≤ w % 8 then trapQ s q 1
  else completePlain s q (fun c => { c with qcr := BitVec.ofNat 32 (w % 8 + fieldOf w 6 4 * 16) })

/-- Unanswered writes of a Quern to other chips (R148, R264). -/
def writesOut (s : State) (q : Nat) : Bool :=
  s.port.outst.any (fun o => match o.sink with | .quernWrite q' _ => q' == q | _ => false)

def execNop (q : Nat) (f : QFields) (s : State) : Out := .next (issue s q 0x01 f (fun s => ctxMod s q nextPc))
def execEndi (q : Nat) (f : QFields) (s : State) : Out := .next (issue s q 0x02 f (fun s => doEnd s q false))
def execEnds (q : Nat) (f : QFields) (s : State) : Out := .next (issue s q 0x03 f (fun s => doEnd s q true))
def execBr (q : Nat) (f : QFields) (s : State) : Out := .next (issue s q 0x04 f (fun s => branch s q f.md))
def execBrc (q : Nat) (f : QFields) (s : State) : Out :=
  .next (issue s q 0x05 f (fun s =>
    let c := ctxOf s q
    if branchOk c (c.pc + 8 * (f.md % 2 ^ 15)) then
      (if brcHolds (f.md / 2 ^ 15) (sReg c f.a) (sReg c f.b) then branch s q (f.md % 2 ^ 15) else ctxMod s q nextPc)
    else trapQ s q 1))
def execLoop (q : Nat) (f : QFields) (s : State) : Out :=
  .next (issue s q 0x06 f (fun s => doLoop s q f.md (sReg (ctxOf s q) f.a)))
def execWaitw (q : Nat) (f : QFields) (s : State) : Out :=
  .next (issue s q 0x07 f (fun s =>
    doWaitw s q (sReg (ctxOf s q) f.a) (sReg (ctxOf s q) f.b) (decide (f.md = 1))))
def execMfence (q : Nat) (f : QFields) (s : State) : Out :=
  .next (issue s q 0x08 f (fun s => if f.md = 2 && writesOut s q then s else ctxMod s q nextPc))
def execAtom (q : Nat) (f : QFields) (s : State) : Out :=
  .next (issue s q 0x09 f (fun s => if f.md / 32 = 2 && writesOut s q then s else doAtom s q f))
def execQcrw (q : Nat) (f : QFields) (s : State) : Out :=
  .next (issue s q 0x0A f (fun s => doQcrw s q (sReg (ctxOf s q) f.a % 2 ^ 32)))
def execQcrr (q : Nat) (f : QFields) (s : State) : Out :=
  .next (issue s q 0x0B f (fun s => completePlain s q (fun c => setS c f.d c.qcr.toNat)))
def execFrd (q : Nat) (f : QFields) (s : State) : Out :=
  .next (issue s q 0x0C f (fun s => completePlain s q (fun c => setS c f.d c.f0.toNat)))
def execFclr (q : Nat) (f : QFields) (s : State) : Out :=
  .next (issue s q 0x0D f (fun s => completePlain s q (fun c => { c with f0 := c.f0 &&& ~~~(BitVec.ofNat 7 f.md) })))
def execSli (q : Nat) (f : QFields) (s : State) : Out :=
  .next (issue s q 0x10 f (fun s => completePlain s q (fun c =>
    setS c f.d (setField (sReg c f.d) (min 63 (18 * f.a + 17)) (18 * f.a) f.md))))
def execSaddi (q : Nat) (f : QFields) (s : State) : Out :=
  .next (issue s q 0x11 f (fun s => completePlain s q (fun c =>
    setS c f.d (twosCode 64 ((sReg c f.a : Int) + signed 18 f.md)))))
def execSalu (q : Nat) (f : QFields) (s : State) : Out :=
  .next (issue s q 0x12 f (fun s => completePlain s q (fun c => setS c f.d (aluOp 64 f.md (sReg c f.a) (sReg c f.b)))))

/-- Underflowed blocks counted (R55, R126). -/
def countUnder (s : State) (q n : Nat) : State := if n = 0 then s else bumpBy s (oUfbCnt + 0x40 * q) n

end Sys2Proof.Machine
end

