-- ==== Sys2Proof/Machine/QuernMemory.lean ====
section
/-!
DEFINITION. Quern memory and transfer instructions (0x20 to 0x26; R136 to R139, R148).
-/
namespace Sys2Proof.Machine

/-! ### Tiles (R108, R136, R137) -/

/-- Bytes of a tile with its scale array. -/
def tileSpan (fmt bsize : Nat) (bdir scl : Bool) : Nat :=
  tileBytes fmt + (if scl then scaleCount bsize bdir 64 64 else 0)

/-- The tile TLD reads from the bytes at its address. -/
def tileOf (f : QFields) (t : Nat) (bytes : List Byte) : Tile where
  fmt := f.fi
  codes := unpackElems (fmtBits f.fi) 4096 bytes
  rows := f.md % 64 + 1
  cols := f.md / 64 % 64 + 1
  bsize := fieldOf f.md 14 12
  bdir := bitOf f.md 15
  scales := if bitOf f.md 16 then
      some (((bytes.drop (tileBytes f.fi)).take (scaleCount (fieldOf f.md 14 12) (bitOf f.md 15) 64 64)).map BitVec.toNat)
    else none
  tscale := if bitOf f.md 17 then some (t % 2 ^ 32) else none

/-- Element (i, j) of a tile as its exact value with scales, and the flags it raises (R64). -/
def Tile.elem (t : Tile) (codes : Array Nat) (i j : Nat) : Src × Flags :=
  scaledSrc t.fmt (codes.getD (64 * i + j) 0)
    (t.scales.map (fun l => l.getD (scaleIndex t.bsize t.bdir 64 i j) 0xFF)) t.tscale

/-- The valid elements in row-major order, and their flags. -/
def Tile.valid (t : Tile) : List Src × Flags :=
  let a := t.codes.toArray
  let es := (List.range t.rows).flatMap (fun i => (List.range t.cols).map (fun j => t.elem a i j))
  (es.map (fun e => e.1), flagsOr (es.map (fun e => e.2)))

/-- The lowest index of a NaN among valid elements of a 64-wide tile, from a row-major list of the valid ones. -/
def nanIndex (cols : Nat) (nans : List Bool) : Option Nat :=
  (nans.findIdx? id).map (fun k => 64 * (k / cols) + k % cols)

/-- TLD (R136). -/
def doTld (s : State) (q : Nat) (f : QFields) : State :=
  let c := ctxOf s q
  let o := sReg c f.a
  let n := tileSpan f.fi (fieldOf f.md 14 12) (bitOf f.md 15) (bitOf f.md 16)
  withStore s q o n true (fun s =>
    let t := tileOf f (sReg c f.b) (storeBytes s q o n)
    let nan := nanIndex t.cols (t.valid.1.map (fun x => x.v.isNan))
    complete (ctxMod s q (fun c => { c with t := mapSet (fun _ => none) c.t f.d (some t) })) q 0x20 f nan true)

/-- Write the bytes of a region where the mask is set: whole bursts afresh, others keeping their poison. -/
def storeMasked (s : State) (q o : Nat) (bytes : List Byte) (mask : List Bool) : State :=
  (burstSpan o bytes.length).foldl (fun s x =>
    let at_ := x.1 + x.2.1 - o
    let bs := (bytes.drop at_).take x.2.2
    let ms := (mask.drop at_).take x.2.2
    if ms.all (fun b => !b) then s
    else storeWrite s q (x.1 + x.2.1) (mergeBytes (storeBytes s q (x.1 + x.2.1) x.2.2) bs ms) []) s

/-- The full-tile region with the valid elements replaced: its bytes, and which of them hold a valid element. -/
def tilePatch (fmt rows cols : Nat) (old : List Byte) (codes : List Nat) : List Byte × List Bool :=
  let b := fmtBits fmt
  let a := codes.toArray
  let valid (e : Nat) : Bool := decide (e / 64 < rows) && decide (e % 64 < cols)
  let es := ((unpackElems b 4096 old).zipIdx).map (fun (x, e) => if valid e then a.getD ((e / 64) * cols + e % 64) 0 else x)
  (packElems b es,
   (List.range (tileBytes fmt)).map (fun k =>
     let lo := k * 8 / b
     let hi := (k * 8 + 7) / b
     (List.range (hi - lo + 1)).any (fun i => valid (lo + i))))

/-- Place the scales of the valid blocks in the layout of a 64 × 64 matrix (R137). -/
def scalePatch (bsize : Nat) (bdir : Bool) (rows cols : Nat) (old : List Byte) (scales : List Nat) : List Byte × List Bool :=
  let b := blockSize bsize
  let sc := scales.toArray
  let per := ceilDiv 64 b
  let ent := (List.range old.length).map (fun k =>
    if bdir then
      (decide (k / 64 < ceilDiv rows b) && decide (k % 64 < cols), (k / 64) * cols + k % 64)
    else (decide (k / per < rows) && decide (k % per < ceilDiv cols b), (k / per) * ceilDiv cols b + k % per))
  ((old.zip ent).map (fun (o, v, ix) => if v then BitVec.ofNat 8 (sc.getD ix 0) else o), ent.map (fun e => e.1))

/-- Write a converted tile and its scales at a store address (R136, R137, R141). -/
def putTile (s : State) (q o fmt bsize : Nat) (bdir : Bool) (rows cols : Nat) (codes scales : List Nat) : State :=
  let n := tileBytes fmt
  let (bs, ms) := tilePatch fmt rows cols (storeBytes s q o n) codes
  let s := storeMasked s q o bs ms
  if scales.isEmpty then s
  else
    let (bs, ms) := scalePatch bsize bdir rows cols (storeBytes s q (o + n) (scaleCount bsize bdir 64 64)) scales
    storeMasked s q (o + n) bs ms

/-- Draw the words a tile conversion takes, in row-major order of its valid elements, from lane 64 n (R147). -/
def tileWords (s : State) (q : Nat) (sr : Bool) (n : Nat) : List Nat × State :=
  if sr then drawLane s (logicalOf s q) 0 0 n else ([], s)

/-- TST (R137). -/
def doTst (s : State) (q : Nat) (f : QFields) : State :=
  let c := ctxOf s q
  let o := sReg c f.b
  match mapGet (fun _ => none) c.t f.a with
  | none => trapQ s q 1
  | some t =>
    let short := isShort f.fo
    let bsize := fieldOf f.md 14 12
    let bdir := bitOf f.md 15
    let tOut := if bitOf f.md 17 then sReg c f.c % 2 ^ 32 else 0x3F800000
    let copy := f.fo == t.fmt && (if short then t.scales.isSome && t.bsize == bsize && t.bdir == bdir
        && t.tscale.getD 0x3F800000 == tOut
      else t.tscale.isNone)
    withStore s q o (tileSpan f.fo bsize bdir short) false (fun s =>
      let a := t.codes.toArray
      let (srcs, f0) := t.valid
      let srcNan := srcs.any (fun x => x.v.isNan)
      if copy then
        let codes := (List.range t.rows).flatMap (fun i => (List.range t.cols).map (fun j => a.getD (64 * i + j) 0))
        let s := putTile s q o f.fo bsize bdir t.rows t.cols codes []
        let s := match (if short then t.scales else none) with
          | some sc =>
            let keep := (List.range (scaleCount bsize bdir 64 64)).map (fun k =>
              if bdir then decide (k / 64 < ceilDiv t.rows (blockSize bsize)) && decide (k % 64 < t.cols)
              else decide (k / ceilDiv 64 (blockSize bsize) < t.rows)
                && decide (k % ceilDiv 64 (blockSize bsize) < ceilDiv t.cols (blockSize bsize)))
            storeMasked s q (o + tileBytes f.fo) ((sc.take (scaleCount bsize bdir 64 64)).map (BitVec.ofNat 8)) keep
          | none => s
        complete s q 0x21 f (nanIndex t.cols (srcs.map (fun x => x.v.isNan))) srcNan
      else
        let (ws, s) := tileWords s q (decide (f.rnd = 2)) srcs.length
        let out := convertMatrix t.rows t.cols srcs f.fo (if short then some (bsize, bdir) else none) (some tOut) f.sat
          (selOf c f.rnd) ws
        let s := putTile s q o f.fo bsize bdir t.rows t.cols out.codes out.scales
        let s := countUnder (ctxMod s q (fun c => raiseFlags c (f0 ||| out.flags))) q out.underBlocks
        let nans := ((List.range t.rows).flatMap (fun i => (List.range t.cols).map (fun j => (i, j)))).zip out.codes
        let nans := nans.map (fun ((i, j), x) =>
          (elemFV f.fo x).isNan || (short && out.scales.getD (if bdir then (i / blockSize bsize) * t.cols + j
            else i * ceilDiv t.cols (blockSize bsize) + j / blockSize bsize) 0 == 0xFF))
        complete s q 0x21 f (nanIndex t.cols nans) srcNan)

/-! ### Vectors (R138) -/

/-- Bytes a vector of a format takes. -/
def vecBytes (fmt : Nat) : Nat := packedBytes (fmtBits fmt) 64

/-- The store address of VLD and VST: base + 64 × the signed modifier. -/
def vecAddr (base md : Nat) : Nat := twosCode 64 ((base : Int) + 64 * signed 18 md)

/-- VLD (R138). -/
def doVld (s : State) (q : Nat) (f : QFields) : State :=
  let c := ctxOf s q
  let o := vecAddr (sReg c f.a) f.md
  let n := vecBytes f.fi
  withStore s q o n true (fun s =>
    let act := activeLanes c f.pred
    let es := unpackElems (fmtBits f.fi) 64 (storeBytes s q o n)
    let xs := (es.zip act).map (fun (x, on) => if on then some x else none)
    let nan := xs.findIdx? (fun x => x.elim false (fun v => (elemFV f.fi v).isNan))
    complete (ctxMod s q (fun c => putLanes c f.fi f.d xs)) q 0x22 f nan true)

/-- VST (R138): excluded lanes' bits stay as they are. -/
def doVst (s : State) (q : Nat) (f : QFields) : State :=
  let c := ctxOf s q
  let o := vecAddr (sReg c f.b) f.md
  let n := vecBytes f.fi
  withStore s q o n false (fun s =>
    let act := activeLanes c f.pred
    let b := fmtBits f.fi
    let old := unpackElems b 64 (storeBytes s q o n)
    let src := lanesOf c f.fi f.a
    let es := (old.zip (src.zip act)).map (fun (o, x, on) => if on then x else o)
    let acta := act.toArray
    let mask := (List.range n).map (fun k =>
      (List.range ((k * 8 + 7) / b - k * 8 / b + 1)).any (fun i => acta.getD (k * 8 / b + i) false))
    let nan := (src.zip act).findIdx? (fun (x, on) => on && (elemFV f.fi x).isNan)
    complete (storeMasked s q o (packElems b es) mask) q 0x23 f nan true)

/-! ### Transfers (R139) -/

def xferMod (s : State) (q tag : Nat) (f : Xfer → Xfer) : State :=
  qnMod s q (fun n => { n with xfers := n.xfers.map (fun x => if x.tag = tag then f x else x) })

/-- A burst arriving for an MGET, with its mark and where it came from. -/
def getBurst (s : State) (q off addr : Nat) (data : List Byte) (poison : Bool) : State :=
  let s := storeWrite s q off data [poison]
  qnMod s q (fun n => { n with poisonSrc := mapSet natZeroAt n.poisonSrc (off / 64) (if poison then addr else 0) })

/-- Move one burst of a transfer to or from a block address (R139, R225, R270). -/
def moveBurst (s : State) (q : Nat) (x : Xfer) (a : Nat) : State :=
  let b := baddrOf a
  if isRemote s a then
    (if 2 ≤ b.space then
      (if x.get then let (d, s) := drawBytes (bump s oMmRemoteBadCnt) 64; getBurst s q x.off a d true
       else bump s oMmRemoteBadCnt)
    else if x.get then sendVc4 s 0x38 b.chip a 64 [] 0 (.quernGet q x.tag x.off)
    else sendVc4 s 0x39 b.chip a 0 (x.data.take 64) (b2n (x.poison.headD false)) (.quernWrite q x.tag))
  else if x.get then
    (if memOk s b.space b.off then
      (let (r, s) := burstRead s b.space b.off 1 false; getBurst s q x.off a r.data r.poison)
    else let (d, s) := drawBytes s 64; getBurst s q x.off a d true)
  else if memOk s b.space b.off then
    (burstWrite s b.space b.off (x.data.take 64) (strobes 0 64) (x.poison.headD false) 1 false).2
  else s

/-- Run a transfer burst by burst, until it is done or a burst faults: whether it is done (R139). -/
def runXfer (q tag : Nat) : Nat → State → Bool × State
  | 0, s => (true, s)
  | n + 1, s =>
    match (qnAt s q).xfers.find? (fun x => x.tag == tag) with
    | none => (true, s)
    | some x =>
      if x.bytes = 0 then (true, s)
      else
        let (t, s) := sluice s (itemCtx s q) x.va (!x.get)
        match t with
        | .fault ty lv => (false, suspendQ s q x.va (!x.get) ty lv)
        | .ok a =>
          let s := moveBurst s q x a
          runXfer q tag n (xferMod s q tag (fun x => { x with
            va := x.va + 64
            off := x.off + 64
            bytes := x.bytes - 64
            data := x.data.drop 64
            poison := x.poison.drop 1 }))

/-- MGET and MPUT (R139). -/
def doXfer (s : State) (q : Nat) (f : QFields) (get : Bool) : State :=
  let c := ctxOf s q
  let va := sReg c f.a
  let o := sReg c f.b
  let n := sReg c f.c
  let tag := f.md % 8
  if va % 64 ≠ 0 || o % 64 ≠ 0 || n % 64 ≠ 0 || n = 0 || 0x20000 < n then trapQ s q 1
  else if !storeRangeOk o n then trapQ s q 4
  else if (qnAt s q).xfers.any (fun x => x.tag == tag) || storeBusy s q o n then s
  else
    let (marks, s) := if get then ([], s) else storeCheck s q o n
    let x : Xfer := ⟨tag, get, va, o, n, if get then [] else storeBytes s q o n, marks, o, n⟩
    let (ok, s) := runXfer q tag (n / 64) (qnMod s q (fun m => { m with xfers := m.xfers ++ [x] }))
    if ok then ctxMod s q nextPc else s

/-- A transfer whose every burst has been moved and answered completes and frees its tag (R139). -/
def xferDone (s : State) (q tag : Nat) : State :=
  match (qnAt s q).xfers.find? (fun x => x.tag == tag) with
  | some x =>
    let open_ := s.port.outst.any (fun o => match o.sink with
      | .quernGet q' t _ => q' == q && t == tag
      | _ => false)
    if x.bytes = 0 && !open_ then
      qnMod s q (fun n => { n with xfers := n.xfers.filter (fun x => x.tag != tag) })
    else s
  | none => s

def execTld (q : Nat) (f : QFields) (s : State) : Out := .next (issue s q 0x20 f (fun s => doTld s q f))
def execTst (q : Nat) (f : QFields) (s : State) : Out := .next (issue s q 0x21 f (fun s => doTst s q f))
def execVld (q : Nat) (f : QFields) (s : State) : Out := .next (issue s q 0x22 f (fun s => doVld s q f))
def execVst (q : Nat) (f : QFields) (s : State) : Out := .next (issue s q 0x23 f (fun s => doVst s q f))
def execMget (q : Nat) (f : QFields) (s : State) : Out := .next (issue s q 0x24 f (fun s => doXfer s q f true))
def execMput (q : Nat) (f : QFields) (s : State) : Out := .next (issue s q 0x25 f (fun s => doXfer s q f false))
def execQuernTransferDone (q tag : Nat) (s : State) : Out := .next (xferDone s q tag)
def execMwait (q : Nat) (f : QFields) (s : State) : Out :=
  .next (issue s q 0x26 f (fun s =>
    if (qnAt s q).xfers.any (fun x => bitOf f.md x.tag) then s else ctxMod s q nextPc))

end Sys2Proof.Machine
end

