-- ==== Sys2Proof/Machine/Bolter.lean ====
section
/-!
DEFINITION. The Bolter: jobs, gathering, buckets, batches (R308 to R316).
-/
namespace Sys2Proof.Machine

def bolMod (s : State) (f : BolterSt → BolterSt) : State := { s with bol := f s.bol }

/-! ### Job and dataset fields (R308, R311, R314) -/

def bjDs (j : List Byte) : Nat := leAt j 0 1
def bjBset (j : List Byte) : Nat := leAt j 1 1
def bjP (j : List Byte) : Nat := leAt j 2 2 + 1
def bjShard (j : List Byte) : Nat := leAt j 4 2
def bjEpoch (j : List Byte) : Nat := leAt j 8 4
def bjFirst (j : List Byte) : Nat := leAt j 0x10 8
def bjCount (j : List Byte) : Nat := leAt j 0x18 8
def bjRing (j : List Byte) : Nat := leAt j 0x20 8
def bjSize (j : List Byte) : Nat := leAt j 0x28 8
def bjCtrl (j : List Byte) : Nat := leAt j 0x30 8

/-- The dataset entry of a job, as it stands in scratch. -/
def bolDs (s : State) (j : List Byte) : List Byte := scrRead s (baseOf s oBolDsBase + 64 * (bjDs j % 16)) 64
def dsN (d : List Byte) : Nat := leAt d 0 8
def dsExt (d : List Byte) : Nat := leAt d 8 8
def dsX (d : List Byte) : Nat := leAt d 0x10 1
def dsCtx (d : List Byte) : Nat := leAt d 0x11 1 % 64
def dsSeed (d : List Byte) : Nat := leAt d 0x18 16
def dsMax (d : List Byte) : Nat := leAt d 0x28 4

/-- A dataset entry that is valid (R308). -/
def dsValid (d : List Byte) : Bool :=
  decide (1 ≤ dsN d) && decide (dsN d ≤ 2 ^ 48) && dsExt d % 32 == 0 && decide (dsX d ≤ 32) && decide (leAt d 0x11 1 < 64)
    && ((d.drop 0x12).take 6).all (fun b => b == 0) && decide (1 ≤ dsMax d) && decide (dsMax d ≤ 2 ^ 24)
    && ((d.drop 0x2C).take 20).all (fun b => b == 0)

/-- Bucket b of a job's set: LIMIT, RECS, BYTES, EN (R314). -/
def bolBkt (s : State) (j : List Byte) (b : Nat) : List Byte :=
  scrRead s (baseOf s oBolBktBase + 256 * (bjBset j % 4) + 16 * b) 16
def bkLimit (b : List Byte) : Nat := leAt b 0 4
def bkRecs (b : List Byte) : Nat := leAt b 4 4
def bkBytes (b : List Byte) : Nat := leAt b 8 4
def bkOn (b : List Byte) : Bool := bitOf (leAt b 0xC 4) 0

/-- Bytes of the largest batch a bucket can form: full of records and bytes, or one record above BYTES. -/
def bkLargest (b : List Byte) : Nat :=
  max (64 + 32 * bkRecs b + bkBytes b) (64 + 32 + roundUp (bkLimit b) 64)

/-- Where a virtual address of the dataset's context lies: Headrace or Hopper scratch, local (R311, R312). -/
def bolLands (s : State) (ctx va : Nat) (headrace : Bool) : Bool × State :=
  let (t, s) := sluice s ctx va true
  match t with
  | .ok a => let b := baddrOf a; (b.space == 1 || (headrace && b.space == 0 && decide (b.off < 0x8000000000)), s)
  | .fault _ _ => (false, s)

/-- The checks of R312 on a job. -/
def bolJobOk (s : State) (j : List Byte) : Bool × State :=
  let d := bolDs s j
  let fields := decide (bjDs j < 16) && decide (bjBset j < 4) && decide (leAt j 2 2 < 2 ^ 14) && decide (bjShard j < bjP j)
    && leAt j 6 2 == 0 && leAt j 0xC 4 == 0 && dsValid d && decide (bjFirst j + bjCount j ≤ dsN d)
  let largest := (List.range 16).foldl (fun a b => let k := bolBkt s j b; if bkOn k then max a (bkLargest k) else a) 0
  let ring := bjRing j % 2 ^ 16 == 0 && bjSize j % 2 ^ 16 == 0 && decide (largest + 2 ^ 16 ≤ bjSize j)
  if fields && ring then bolLands s (dsCtx d) (bjRing j) true else (false, s)

/-! ### Accesses -/

/-- What a Bolter access gives: data and poison of its 64-byte bursts, a fault, an error, or a wait. -/
inductive BolRd where
  | ok (data : List Byte) (poison : List Bool)
  | fault (va type level : Nat)
  | err
  | wait
  deriving DecidableEq, Repr

/-- Read sectors of 32 bytes that cover a range, on the narrow path (R313). -/
def bolRead (s : State) (ctx va n : Nat) : BolRd × State :=
  (burstSpan va n).foldl (fun (acc : BolRd × State) y =>
    match acc.1 with
    | .ok d p =>
      let s := acc.2
      let (t, s) := sluice s ctx y.1 false
      match t with
      | .fault ty lv => (.fault (y.1 + y.2.1) ty lv, s)
      | .ok a =>
        let b := baddrOf a
        let add (data : List Byte) (pz : Bool) (s : State) : BolRd × State :=
          (.ok (d ++ (data.drop y.2.1).take y.2.2) (p ++ [pz]), s)
        if isRemote s a then
          if 2 ≤ b.space then (.err, bump s oMmRemoteBadCnt)
          else match s.bol.staged.find? (fun z => z.1 == a) with
            | some (_, data, pz) => if data.isEmpty then (.err, s) else add data pz s
            | none =>
              if s.bol.asked then (.wait, s)
              else (.wait, sendVc4 (bolMod s (fun z => { z with asked := true })) 0x38 b.chip a 64 [] 0 .bolter)
        else if memOk s b.space b.off then
          let (r, s) := burstRead s b.space b.off 2 true
          add r.data r.poison s
        else (.err, s)
    | _ => acc) (.ok [] [], s)

/-- Write a range through the 64-byte path (R313). -/
def bolWrite (s : State) (ctx va : Nat) (bs : List Byte) (marks : List Bool) : BolRd × State :=
  ((burstSpan va bs.length).zipIdx).foldl (fun (acc : BolRd × State) (y, i) =>
    match acc.1 with
    | .ok _ _ =>
      let s := acc.2
      let (t, s) := sluice s ctx y.1 true
      match t with
      | .fault ty lv => (.fault (y.1 + y.2.1) ty lv, s)
      | .ok a =>
        let b := baddrOf a
        let part := (bs.drop (y.1 + y.2.1 - va)).take y.2.2
        let pz := marks.getD i false
        if isRemote s a then
          if 2 ≤ b.space then (.err, bump s oMmRemoteBadCnt)
          else if y.2.2 = 64 then (.ok [] [], sendVc4 s 0x39 b.chip a 0 part (b2n pz) .bolterWrite)
          else (.ok [] [], sendVc4 s 0x3A b.chip a ((2 ^ y.2.2 - 1) * 2 ^ y.2.1) (placeIn y.2.1 part) (b2n pz) .bolterWrite)
        else if memOk s b.space b.off then
          let (ok, s) := burstWrite s b.space b.off (placeIn y.2.1 part) (strobes y.2.1 y.2.2) pz 2 false
          (if ok then .ok [] [] else .err, s)
        else (.err, s)
    | _ => acc) (.ok [] [], s)

/-! ### Buckets (R314) -/

/-- Bytes of a record in a batch, padded. -/
def recPad (r : BatchRec) : Nat := roundUp r.data.length 64

/-- Close an open batch. -/
def closeBatch (z : BolterSt) (b : Nat) (final : Bool) : BolterSt :=
  match z.opens.find? (fun x => x.bucket == b) with
  | some x => { z with
      opens := z.opens.filter (fun y => y.bucket != b)
      closed := z.closed ++ [{ x with final := final, seq := z.batches }]
      batches := z.batches + 1 }
  | none => z

/-- Add a record to its bucket's open batch, closing it first when it would exceed its limits. -/
def addRecord (z : BolterSt) (b : Nat) (k : List Byte) (r : BatchRec) : BolterSt :=
  let z := match z.opens.find? (fun x => x.bucket == b) with
    | some x =>
      let used := (x.recs.map recPad).foldl (· + ·) 0
      if decide (bkRecs k < x.recs.length + 1) || decide (bkBytes k < used + recPad r) then closeBatch z b false else z
    | none => z
  match z.opens.find? (fun x => x.bucket == b) with
  | some _ => { z with opens := z.opens.map (fun y => if y.bucket = b then { y with recs := y.recs ++ [r] } else y) }
  | none => { z with opens := z.opens ++ [⟨b, false, 0, [r]⟩] }

/-- The lowest enabled bucket that admits a length. -/
def bucketFor (s : State) (j : List Byte) (len : Nat) : Option Nat :=
  (List.range 16).find? (fun b => let k := bolBkt s j b; bkOn k && decide (len ≤ bkLimit k))

/-- Place a record, or count it skipped (R314, R317). -/
def placeRecord (s : State) (j : List Byte) (r : BatchRec) : State :=
  let flagged := r.poison || r.format
  match (if flagged then some 0 else bucketFor s j r.len) with
  | none => bump s oBolSkipCnt
  | some b =>
    let s := if flagged then bump s oBolFlagCnt else s
    bump (bolMod s (fun z => addRecord z b (bolBkt s j b) r)) oBolRecCnt

/-! ### Gathering (R309, R310, R313) -/

/-- What the gather of one position gives. -/
inductive Gathered where
  | rec_ (r : BatchRec)
  | fault (va type level : Nat)
  | err
  | wait
  deriving DecidableEq, Repr

/-- Gather position i: the record number, its extent, its offsets, its bytes. -/
def gatherAt (s : State) (j : List Byte) (i : Nat) : Gathered × State :=
  let d := bolDs s j
  let (r, steps) := permute (feistelKeys (dsSeed d) (bjEpoch j)) (dsN d) i
  let s := if 4 < steps then bumpBy s oBolWalkCnt (steps - 4) else s
  let k := r / 2 ^ dsX d
  let ix := r % 2 ^ dsX d
  let flagged (pz fm : Bool) : BatchRec := ⟨i, r, 0, pz, fm, [], []⟩
  let (ent, s) := bolRead s (dsCtx d) (dsExt d + 16 * k) 16
  match ent with
  | .fault va ty lv => (.fault va ty lv, s)
  | .err => (.err, s)
  | .wait => (.wait, s)
  | .ok eb ep =>
    if ep.any id then (.rec_ (flagged true false), s)
    else
      let (of_, s) := bolRead s (dsCtx d) (leAt eb 0 8 + 8 * ix) 16
      match of_ with
      | .fault va ty lv => (.fault va ty lv, s)
      | .err => (.err, s)
      | .wait => (.wait, s)
      | .ok ob op =>
        let lo := leAt ob 0 8
        let hi := leAt ob 8 8
        if op.any id then (.rec_ (flagged true false), s)
        else if hi < lo || dsMax d < hi - lo then (.rec_ (flagged false true), s)
        else
          let a := leAt eb 8 8 + lo
          let (db, s) := bolRead s (dsCtx d) a (hi - lo)
          match db with
          | .fault va ty lv => (.fault va ty lv, s)
          | .err => (.err, s)
          | .wait => (.wait, s)
          | .ok bytes marks =>
            let n := hi - lo
            let m := marks.toArray
            let out := (List.range (ceilDiv n 64)).map (fun u =>
              let first := (a + 64 * u) / 64 - a / 64
              let last := (a + min n (64 * u + 64) - 1) / 64 - a / 64
              m.getD first false || m.getD last false)
            (.rec_ ⟨i, r, n, false, false, bytes, out⟩, s)

/-- A lane's suspension (R297, R313): the lane of position i is i mod 8 (log 21). -/
def bolSuspend (s : State) (ctx i va : Nat) (write : Bool) (ty lv : Nat) : State :=
  let (tok, s) := raiseFault s ⟨2, i % 8, ctx, va, write⟩ ty lv 0
  bolMod s (fun z => { z with susp := z.susp ++ [(i % 8, tok)] })

/-- Visit positions in ascending order while nothing stops the lanes. -/
def bolGo : Nat → State → State
  | 0, s => s
  | fuel + 1, s =>
    match s.bol.job with
    | none => s
    | some j =>
      if s.bol.status.isSome || s.bol.preempt || !s.bol.susp.isEmpty then s
      else if bjFirst j + bjCount j ≤ s.bol.next then s
      else if s.bol.next % bjP j ≠ bjShard j then bolGo fuel (bolMod s (fun z => { z with next := z.next + 1 }))
      else
        let (g, s) := gatherAt s j s.bol.next
        match g with
        | .rec_ r => bolGo fuel (bolMod (placeRecord s j r) (fun z => { z with next := z.next + 1, staged := [] }))
        | .fault va ty lv => bolSuspend s (dsCtx (bolDs s j)) s.bol.next va false ty lv
        | .err => bolMod s (fun z => { z with status := some 3 })
        | .wait => s

/-- Run the lanes; after the last position the open batches close in bucket order with FINAL set (R314). -/
def bolRun (s : State) : State :=
  match s.bol.job with
  | none => s
  | some j =>
    let s := bolGo (bjCount j + 1) s
    if s.bol.status.isNone && decide (bjFirst j + bjCount j ≤ s.bol.next) then
      bolMod s (fun z => (List.range 16).foldl (fun z b => closeBatch z b true) z)
    else s

/-- Start the next job of the ring (R311, R312). -/
def bolStart (s : State) : State :=
  let base := baseOf s oBolJobBase
  if !bitOf (regGet s oBolCtl) 0 || s.fh.sepia || s.gov.pfActive || s.bol.preempt || s.bol.job.isSome
      || scrNat s (base + 0x4000) 4 == s.bol.consumed % 2 ^ 32 then s
  else
    let j := scrRead s (base + 64 * (s.bol.consumed % 256)) 64
    let ring := s.bol.consumed % 256
    let n := (s.bol.consumed + 1) % 2 ^ 32
    let s := scrWrite s (base + 0x4040) (leBytes 4 n)
    let (ok, s) := bolJobOk s j
    let s := bolMod s (fun z => { z with
      consumed := n
      job := some j
      ring := ring
      next := bjFirst j
      opens := []
      closed := []
      batches := 0
      written := 0
      epoch := bjEpoch j
      staged := []
      asked := false
      status := if ok then none else some 1 })
    bolRun s

/-! ### Writing batches (R315) -/

/-- The manifest and data of a batch. -/
def batchBytes (epoch : Nat) (b : Batch) : List Byte :=
  let datas := b.recs.map (fun r => padTo (recPad r) r.data)
  let entries := (b.recs.foldl (fun (a : List Byte × Nat) r =>
    (a.1 ++ leBytes 8 r.pos ++ leBytes 8 r.recNo ++ leBytes 4 a.2 ++ leBytes 4 r.len
      ++ leBytes 1 (b2n r.poison + 2 * b2n r.format) ++ zeroBytes 7, a.2 + recPad r)) ([], 0)).1
  leBytes 4 0x424D4631 ++ leBytes 1 b.bucket ++ leBytes 1 (b2n b.final) ++ zeroBytes 2 ++ leBytes 4 b.recs.length
    ++ leBytes 4 epoch ++ leBytes 8 b.seq ++ leBytes 8 ((datas.map List.length).foldl (· + ·) 0) ++ zeroBytes 32
    ++ entries ++ datas.flatten

/-- Poison of each 64-byte burst of a batch, from its records' units. -/
def batchMarks (b : Batch) : List Bool :=
  let head := 64 + 32 * b.recs.length
  let units := b.recs.flatMap (fun r => (List.range (recPad r / 64)).map (fun u => r.marks.getD u false))
  let n := ceilDiv (head + 64 * units.length) 64
  let a := units.toArray
  (List.range n).map (fun k =>
    -- burst k covers batch bytes 64k to 64k + 63; data unit u starts at head + 64u
    (List.range 2).any (fun i =>
      let x := 64 * k + 63 - 63 * i
      decide (head ≤ x) && a.getD ((x - head) / 64) false))

/-- A batch that ended with no room before the ring's end starts again at its start, after a PAD header. -/
def padHeader (epoch seq : Nat) : List Byte :=
  leBytes 4 0x424D4631 ++ leBytes 1 0 ++ leBytes 1 2 ++ zeroBytes 6 ++ leBytes 4 epoch ++ leBytes 8 seq ++ zeroBytes 40

/-- Where the next batch goes: producer offset, bytes to skip to the ring start, bytes of the batch (log 22: the
offsets count bytes without wrapping, and a place in the ring is the offset modulo RSIZE). -/
def batchPlace (size prod len : Nat) : Nat × Nat :=
  let at_ := prod % size
  let skip := if size < at_ + roundUp len 64 then size - at_ else 0
  (skip, roundUp len 64)

/-- Write the first closed batch when the ring has room (R315): 0 written, 1 waits, 2 nothing to do or stopped. -/
def batchStep (s : State) : Nat × State :=
  match s.bol.job, s.bol.closed with
  | some j, b :: rest =>
    if s.bol.status == some 1 || s.bol.preempt || !s.bol.susp.isEmpty then (2, s)
    else
      let ctx := dsCtx (bolDs s j)
      let bytes := batchBytes s.bol.epoch b
      let (c, s) := bolRead s ctx (bjCtrl j) 0x48
      match c with
      | .fault va ty lv => (2, bolSuspend s ctx 0 va false ty lv)
      | .err => (2, bolMod s (fun z => { z with status := some 3 }))
      | .wait => (2, s)
      | .ok cb _ =>
        let prod := leAt cb 0 8
        let cons := leAt cb 0x40 8
        let (skip, len) := batchPlace (bjSize j) prod bytes.length
        if bjSize j < prod + skip + len - cons then (1, s)
        else
          let at_ := prod % bjSize j
          let (p, s) := if skip = 0 then ((.ok [] [] : BolRd), s)
            else bolWrite s ctx (bjRing j + at_) (padHeader s.bol.epoch b.seq) []
          let (w, s) := match p with
            | .ok _ _ => bolWrite s ctx (bjRing j + (at_ + skip) % bjSize j) (padTo len bytes) (batchMarks b)
            | o => (o, s)
          let (w, s) := match w with
            | .ok _ _ => bolWrite s ctx (bjCtrl j) (leBytes 8 (prod + skip + len)) []
            | o => (o, s)
          match w with
          | .ok _ _ => (0, bolMod s (fun z => { z with closed := rest, written := z.written + 1, staged := [] }))
          | .fault va ty lv => (2, bolSuspend s ctx 0 va true ty lv)
          | _ => (2, bolMod s (fun z => { z with status := some 3 }))
  | _, _ => (2, s)

/-- A job is over: every batch written, or stopped with its status (R312). -/
def bolFinish (s : State) : State :=
  match s.bol.job with
  | none => s
  | some j =>
    let over_ := decide (bjFirst j + bjCount j ≤ s.bol.next) && s.bol.closed.isEmpty && s.bol.opens.isEmpty
    if (s.bol.status.isNone && !over_) || s.port.outst.any (fun o => o.sink == .bolterWrite) then s
    else
      let st := s.bol.status.getD 0
      let base := baseOf s oBolJobBase
      let s := scrWrite s (base + 64 * s.bol.ring + 0x38) (leBytes 1 st ++ leBytes 7 s.bol.written)
      let d := (s.bol.done + 1) % 2 ^ 32
      bolMod s (fun z => { z with done := d, job := none, opens := [], closed := [], status := none, susp := [] })

/-- Once per Turn: a batch waiting for ring space is counted (R315). -/
def bolTurn (s : State) : State :=
  if s.bol.closed.isEmpty || s.bol.preempt then s
  else
    let (r, s) := batchStep s
    if r = 1 then bump s oBolRingWaitCnt else s

/-- The answer to a remote read. -/
def bolAnswer (s : State) (addr : Nat) (data : List Byte) (poison : Bool) : State :=
  bolRun (bolMod s (fun z => { z with staged := z.staged ++ [(addr, data, poison)], asked := false }))

/-- RETRY and DISCARD of a suspended lane (R299, R313). -/
def bolRetry (s : State) (token : Nat) : State :=
  bolRun (bolMod s (fun z => { z with susp := z.susp.filter (fun x => x.2 != token) }))
def bolDiscard (s : State) : State :=
  let s := s.bol.susp.foldl (fun s x => dropToken s x.2) s
  bolMod s (fun z => { z with status := some 2, susp := [], opens := [], closed := [] })

def execBolterJobStart (s : State) : Out := .next (bolStart s)
def execBatchWrite (s : State) : Out := .next (batchStep s).2
def execBolterJobDone (s : State) : Out := .next (bolFinish s)

end Sys2Proof.Machine
end

