-- ==== Sys2Proof/Machine/Loader.lean ====
section
/-!
DEFINITION. The loader of custom recipes: the header of R152, the checks of R154 and the codes of R156.
-/
namespace Sys2Proof.Machine

/-- What a load came to: its R156 code, the byte offset and cost its journal entry holds, and the recipe. -/
structure LoadOut where
  code : Nat
  off : Nat
  cost : Nat
  recipe : Option Recipe
  deriving DecidableEq, Repr

def loadFail (code off cost : Nat) : LoadOut := ⟨code, off, cost, none⟩

/-- The words of a code (R127). -/
def codeWords (bs : List Byte) : List Nat := unpackElems 64 (bs.length / 8) bs

/-- Operation code of word i; 0 beyond the end. -/
def wordOp (ws : List Nat) (i : Nat) : Nat := quernOp (ws.getD i 0)
def wordMd (ws : List Nat) (i : Nat) : Nat := (quernFields (ws.getD i 0)).md

/-- Whether a word ends a work item (R132, R134). -/
def isEndOp (op : Nat) : Bool := op == 2 || op == 3 || op == 7

/-- The offset a branch adds in instructions, 0 for any other word (R127). -/
def branchLen (ws : List Nat) (i : Nat) : Nat :=
  match wordOp ws i with
  | 4 => wordMd ws i
  | 5 => wordMd ws i % 2 ^ 15
  | _ => 0

/-- Loop bodies open at word i, innermost first: first word and end, from the LOOP words before it (R133). -/
def bodiesAt (ws : List Nat) (i : Nat) : List (Nat × Nat) :=
  ((List.range i).reverse).filterMap (fun j =>
    if wordOp ws j = 6 ∧ i < j + 1 + wordMd ws j then some (j + 1, j + 1 + wordMd ws j) else none)

/-- Whether word i obeys R133. -/
def loopOk (ws : List Nat) (i : Nat) : Bool :=
  let bodies := bodiesAt ws i
  let op := wordOp ws i
  let inner := bodies.headD (0, ws.length)
  let target := i + branchLen ws i
  (op != 6 || (decide (bodies.length < 4) && decide (i + 1 + wordMd ws i ≤ inner.2)))
    && (!(op == 4 || op == 5) || (decide (inner.1 ≤ target) && decide (target < inner.2)))
    && (!isEndOp op || bodies.isEmpty)

/-- The words that may follow word i: none after an ENDS (R132, R133). -/
def wordNext (ws : List Nat) (i : Nat) : List Nat :=
  match wordOp ws i with
  | 3 => []
  | 4 => [i + wordMd ws i]
  | 5 => [i + 1, i + branchLen ws i]
  | 6 => [i + 1, i + 1 + wordMd ws i]
  | _ => [i + 1]

/-- Words reachable from an entry; every edge goes forward, so one pass in ascending order finds them. -/
def reachFrom (ws : List Nat) (entry : Nat) : List Nat :=
  (List.range ws.length).foldl (fun seen i =>
    if seen.contains i then seen ++ (wordNext ws i).filter (fun j => !seen.contains j) else seen) [entry]

/-- Check 3 on one entry: it lies in the code on an 8-byte boundary and no path runs off the end. -/
def entryOk (ws : List Nat) (off : Nat) : Bool :=
  off % 8 == 0 && decide (off / 8 < ws.length) && (reachFrom ws (off / 8)).all (fun i => decide (i < ws.length))

/-- The last word is an ENDS, or a forward branch's target precedes it (R154 check 3). -/
def lastOk (ws : List Nat) : Bool :=
  wordOp ws (ws.length - 1) == 3
    || (List.range ws.length).any (fun i => decide (branchLen ws i ≠ 0) && decide (i + branchLen ws i < ws.length - 1))

/-- Costs of the dearest path from each word to the end of its segment, every LOOP count 1, as a list from word 0
(R154 check 4). -/
def segmentCosts (ws : List Nat) : List Nat :=
  (List.range ws.length).foldr (fun i (rest : List Nat) =>
    -- rest holds words i + 1 onwards
    let c := quernCost (wordOp ws i) (quernFields (ws.getD i 0))
    let after (j : Nat) : Nat := rest.getD (j - i - 1) 0
    let more := match wordOp ws i with
      | 2 | 3 | 7 => 0
      | 4 => after (i + wordMd ws i)
      | 5 => max (after (i + 1)) (after (i + branchLen ws i))
      | _ => after (i + 1)
    (c + more) :: rest) []

/-- The first segment from an entry that costs more than the declared sum: its word and its cost. -/
def dearSegment (ws : List Nat) (entry limit : Nat) : Option (Nat × Nat) :=
  let costs := segmentCosts ws
  let reach := reachFrom ws entry
  let starts := entry :: (reach.filter (fun i => wordOp ws i == 2 || wordOp ws i == 7)).map (· + 1)
  (starts.map (fun i => (i, costs.getD i 0))).find? (fun x => decide (limit < x.2))

/-- The custom part of the code region (R131) and the budget at 0.8 GHz (R26). -/
def customLo : Nat := 0x3E0000
def customHi : Nat := 0x400000
def slowBudget : Nat := 1574

/-- Where a code of n bytes fits among those loaded: the lowest gap (R154 check 6). -/
def codePlace (loaded : List Recipe) (n : Nat) : Option Nat :=
  let tops := customLo :: loaded.map (fun r => r.base + r.code.length)
  let free (a : Nat) : Bool := decide (a + n ≤ customHi)
    && loaded.all (fun r => decide (a + n ≤ r.base) || decide (r.base + r.code.length ≤ a))
  (tops.filter free).foldl (fun (a : Option Nat) x => match a with
    | none => some x
    | some y => some (min x y)) none

/-- Load a recipe image given the recipes whose code stays (R154, R156). A header field outside its range makes the
header invalid. -/
def loadRecipe (stay : List Recipe) (img : List Byte) : LoadOut :=
  let h := img.take 64
  let code := (img.drop 64).take (leAt h 8 4)
  let id := leAt h 4 1
  let upd := leAt h 0xC 4
  let rf := leAt h 0x10 4
  let every := leAt h 0x14 4
  let (f, p, rfC, rpC, live) := (leAt h 0x18 4, leAt h 0x1C 4, leAt h 0x20 4, leAt h 0x24 4, leAt h 0x28 4)
  let n := leAt h 8 4
  let ws := codeWords code
  if leAt h 0 4 ≠ 0x51435250 || decide (id < 0x40) || leAt h 5 1 != 1 || leAt h 6 1 == 0 || decide (32 < leAt h 6 1)
      || decide (32 < leAt h 7 1) || n == 0 || n % 8 != 0 || decide (65536 < n) || leAt h 0x30 16 != 0
      || ((every == 0) != (rf == 0xFFFFFFFF)) || decide (img.length < 64 + n) then loadFail 1 0 0
  else if crc32c code ≠ leAt h 0x2C 4 then loadFail 2 0 0
  else match (List.range ws.length).find? (fun i => !quernLegal (wordOp ws i) (quernFields (ws.getD i 0))) with
  | some i => loadFail 3 (8 * i) 0
  | none =>
  match (List.range ws.length).find? (fun i => !loopOk ws i) with
  | some i => loadFail 4 (8 * i) 0
  | none =>
  let hasRf := decide (rf ≠ 0xFFFFFFFF)
  if !entryOk ws upd || (hasRf && !entryOk ws rf) || !lastOk ws then loadFail 5 0 0
  else
  match (dearSegment ws (upd / 8) (min (f + p) slowBudget)) <|>
      (if hasRf then dearSegment ws (rf / 8) (min (rfC + rpC) slowBudget) else none) with
  | some (i, c) => loadFail 6 (8 * i) c
  | none =>
  if slowBudget < f + p || slowBudget < rfC + rpC then loadFail 6 0 0
  else if live % 64 ≠ 0 || 262144 < live then loadFail 7 0 0
  else match codePlace stay n with
  | none => loadFail 8 0 0
  | some base => ⟨0, 0, 0, some ⟨id, leAt h 6 1, leAt h 7 1, base, code, base + upd, if hasRf then base + rf else 0, every,
      f, p, rfC, rpC, live⟩⟩

/-- Whether a step is under way, which keeps the recipes it began with (R155). -/
def stepUnderWay (s : State) : Bool := decide (1 ≤ s.step.state) && decide (s.step.state ≤ 5)

/-- The recipes whose code must stay when recipe `id` is loaded anew: the others, every version an open step uses, and
the present version while a step is open (R155). -/
def stayingCode (s : State) (id : Nat) : List Recipe :=
  s.qn.oldRecipes ++ (if stepUnderWay s then s.qn.recipes else s.qn.recipes.filter (fun r => r.id != id))

/-- Put a loaded recipe in place; the version an open step uses is kept beside it (R155). -/
def placeRecipe (s : State) (r : Recipe) : State :=
  let old := s.qn.recipes.filter (fun x => x.id == r.id)
  { s with qn := { s.qn with
    recipes := s.qn.recipes.filter (fun x => x.id != r.id) ++ [r]
    oldRecipes := if stepUnderWay s then s.qn.oldRecipes ++ old else s.qn.oldRecipes } }

/-- Remove a recipe (R155). -/
def dropRecipe (s : State) (id : Nat) : State :=
  let old := s.qn.recipes.filter (fun x => x.id == id)
  { s with qn := { s.qn with
    recipes := s.qn.recipes.filter (fun x => x.id != id)
    oldRecipes := if stepUnderWay s then s.qn.oldRecipes ++ old else s.qn.oldRecipes } }

end Sys2Proof.Machine
end

