-- ==== Sys2Proof/Machine/Counters.lean ====
section
/-!
DEFINITION. The rows that clear counters (R105, R126, R214, R220, R243, R257, R274, R300, R301, R317, R337, R368,
R396, R410).
-/
namespace Sys2Proof.Machine

/-- A physical Quern the variant has (R16, R415). -/
def quernExists (s : State) (q : Nat) : Bool := decide (q < 4 * (vnt s).clusters)

/-- Clear one register of a Quern; an absent Quern's registers ignore writes (R415). -/
def quernClear (s : State) (q off : Nat) : State := if quernExists s q then regSet s (off + 0x40 * q) 0 else s

/-- Clear a register when a bit is set. -/
def clearIf (s : State) (w b off : Nat) : State := if bitOf w b then regSet s off 0 else s

def clearLeatUfb (s : State) : State := clearCounters s oLeatUfbCnt 0xFFFF 16

/-- Clear a link's counters (R337). -/
def clearLink (s : State) (l : Nat) : State :=
  if linkExists s l && decide (l < 96) then
    regSet (regSet (regSet s (oGlLcrcCnt + 0x20 * l) 0) (oGlLreplayCnt + 0x20 * l) 0) (oGlLretrainCnt + 0x20 * l) 0
  else s

def execFwrCntClear (w : Nat) (s : State) : Out := .next (clearCounters s oFwrRaiseCnt w 6)
def execClrRej (q : Nat) (s : State) : Out := .next (quernClear s q oQnCmdRej)
def execClrRescale (q : Nat) (s : State) : Out := .next (quernClear s q oRescaleCnt)
def execClrUfb (q : Nat) (s : State) : Out := .next (quernClear s q oUfbCnt)
def execTrCntClear (w : Nat) (s : State) : Out := .next (clearCounters s oTrUfbCnt w 2)
def execStepCntClear (w : Nat) (s : State) : Out := .next (clearCounters s oAbortOvfCnt w 7)
def execMemCntClear (w : Nat) (s : State) : Out := .next (clearCounters s oSpprCnt w 8)
def execHopCntClear (w : Nat) (s : State) : Out := .next (clearCounters s oHopCeCnt w 6)
def execMmCntClear (w : Nat) (s : State) : Out := .next (clearCounters s oMmFenceCnt w 4)
/-- Bits 0 to 2 clear the three counters, bit 3 every LEAT_UFB_CNT_e (R300). -/
def execLeatCntClear (w : Nat) (s : State) : Out :=
  let s := clearCounters s oLeatHaloWaitCnt w 3
  .next (if bitOf w 3 then clearLeatUfb s else s)
def execLeatClrUfb (s : State) : Out := .next (clearLeatUfb s)
def execSlCntClear (w : Nat) (s : State) : Out := .next (clearCounters s oSlMultiCnt w 3)
def execBolCntClear (w : Nat) (s : State) : Out := .next (clearCounters s oBolRecCnt w 5)
def execSailCntClear (w : Nat) (s : State) : Out := .next (clearIf s w 0 oSailMissCnt)
def execGlCntClear (w : Nat) (s : State) : Out :=
  .next (clearIf (clearIf (clearCounters s oGlWriteoffCnt w 4) w 4 oGlBadmsgCnt) w 5 oGlTopoMismatchCnt)
def execGlLcmdClr (link : Nat) (s : State) : Out := .next (clearLink s link)
/-- Bit c clears FH_CLASS_CNT_c, for c = 1 to 15 (R368). -/
def execClrClass (w : Nat) (s : State) : Out := .next (clearCounters s oFhClassCnt (w / 2) 15)
def execClrRing (s : State) : Out := .next (regSet s oFhRingDropCnt 0)
def execClrCper (s : State) : Out := .next (regSet s oFhCperDropCnt 0)
def execClrDisc (s : State) : Out := .next (regSet s oGovPfwDiscCnt 0)
def execClrCjDrop (s : State) : Out := .next (regSet s oGovCjDropCnt 0)
def execPortCntClear (w : Nat) (s : State) : Out := .next (clearIf s w 0 oBadAxiCnt)

end Sys2Proof.Machine
end

