-- ==== Sys2Proof/Machine/QuernRows.lean ====
section
/-!
DEFINITION. Halted work items, contexts, overruns and hangs of the Querns (R27 to R29, R117 to R126, R342).
-/
namespace Sys2Proof.Machine

/-- Physical index QUERN_MAP gives a logical index; 0xFF none (R126). -/
def mapOf (s : State) (n : Nat) : Nat := fieldOf (regGet s (oQuernMap + 4 * (n / 4))) (8 * (n % 4) + 7) (8 * (n % 4))

/-- Logical index a physical Quern serves. -/
def servedBy (s : State) (q : Nat) : Option Nat := (List.range 32).find? (fun n => mapOf s n == q)

/-- State of a Quern that has no work item: retired, idle, or a spare (R126, R355). -/
def restState (s : State) (q : Nat) : Nat :=
  if gradeOf s (unitQuern q) = 3 || (qnAt s q).lost then 6 else if (servedBy s q).isSome then 0 else 5

/-- A halted work item ends with its sequence, and the open step is marked faulted (R118). Its flags go to QN_FLAGS
(R113). -/
def discardQ (s : State) (q : Nat) : State :=
  let n := qnAt s q
  if n.state ≠ 2 then s
  else
    let s := regOr s (oQnFlags + 0x40 * q) n.ctx.f0.toNat
    let s := sailMod s (logicalOf s q) (fun p => { p with cached := [] })
    let s := match n.token with
      | some t => dropToken s t
      | none => s
    let s := qnMod s q (fun n => { n with
      state := 0
      trap := 0
      item := none
      xfers := []
      token := none
      waitw := none
      blocked := false })
    let s := qnMod s q (fun n => { n with state := restState s q })
    markFault s

/-- RESUME (R118): traps 0x5 and 0x6 continue at the next instruction; any other halt rejects it. -/
def resumeQ (s : State) (q : Nat) : State :=
  let n := qnAt s q
  if n.state ≠ 2 then s
  else if n.trap = 5 || n.trap = 6 then
    qnMod s q (fun n => { n with state := 1, trap := 0, ctx := nextPc n.ctx })
  else bump s (oQnCmdRej + 0x40 * q)

/-- RETRY of a suspended work item (R299): its transfer continues with the faulting burst, or its instruction is
issued again. -/
def retryQ (s : State) (q : Nat) : State :=
  let s := qnMod s q (fun n => { n with state := 1, trap := 0, token := none })
  match (qnAt s q).xfers.find? (fun x => x.bytes != 0) with
  | some x =>
    let (ok, s) := runXfer q x.tag (x.bytes / 64) s
    if ok then ctxMod s q nextPc else s
  | none => s

/-- The save of a Quern's context completes (R119, R120): its item is halted, suspended or between work items. -/
def saveDone (s : State) (q : Nat) : State :=
  let n := qnAt s q
  match n.saving with
  | some area =>
    if n.state ≠ 3 then s
    else
      let lg := n.item.elim ((servedBy s q).getD 0xFF) (fun i => i.logical)
      let rec_ : Saved := ⟨lg, area, n.ctx, n.item, if n.trap = 0 then 0 else 2, n.trap, n.trapPc,
        storeBytes s q 0 (n.item.elim 0 (fun i => i.live)), sailOf s lg, n.waitw, n.xfers, n.token, false⟩
      let s := { s with qn := { s.qn with saved := s.qn.saved.filter (fun x => x.logical != lg) ++ [rec_] } }
      let s := qnMod s q (fun n => { n with
        state := 0
        trap := 0
        item := none
        xfers := []
        token := none
        waitw := none
        blocked := false
        saving := none })
      qnMod s q (fun n => { n with state := restState s q })
  | none => s

/-- The restore of a logical index's context onto a Quern completes (R121, R123): exactly where the saved one
stopped, or before the sequence's first work item when it has none. -/
def restoreDone (s : State) (q : Nat) : State :=
  let n := qnAt s q
  match n.restoring with
  | some lg =>
    if n.state ≠ 4 then s
    else match s.qn.saved.find? (fun x => x.logical == lg && !x.used) with
      | some v =>
        let s := { s with qn := { s.qn with saved := s.qn.saved.map (fun x => if x.logical = lg then { x with used := true } else x) } }
        let s := sailMod s lg (fun _ => v.sail)
        let s := qnMod s q (fun n => { n with
          ctx := v.ctx
          item := v.item
          state := v.state
          trap := v.trap
          trapPc := v.trapPc
          waitw := v.waitw
          waitReady := false
          xfers := v.xfers
          token := v.token
          blocked := false
          restoring := none })
        let s := if v.live.isEmpty then s else storeWrite s q 0 v.live []
        if v.trap = 3 && v.token.isNone then retryQ s q else s
      | none => qnMod s q (fun n => { n with
          ctx := QCtx.reset
          item := none
          state := 0
          trap := 0
          waitw := none
          xfers := []
          token := none
          blocked := false
          restoring := none })
  | none => s

/-- An overrun above 512 GCLK cycles is noted; 8 in any 64 consecutive Turns mark the Quern slow (R28), and the third
mark in 2^30 Turns moves its grade (R354). -/
def noteOverrun (s : State) (q cycles : Nat) : State :=
  let now := s.time.turn
  let s := qnMod s q (fun n => { n with lastOver := cycles })
  if cycles ≤ 512 then s
  else
    let old := (qnAt s q).overruns.filter (fun t => decide (now < t + 512))
    let l := if old.contains now then old else old ++ [now]
    let s := qnMod s q (fun n => { n with overruns := l })
    if decide (8 ≤ (l.filter (fun t => decide (now < t + 64))).length) && !(qnAt s q).slow then
      let marks := ((qnAt s q).slowMarks.filter (fun t => decide (now < t + 2 ^ 30))) ++ [now]
      let s := event (qnMod s q (fun n => { n with slow := true, slowMarks := marks })) 0x7 (unitQuern q) 0 0 0
      if 3 ≤ marks.length then gradeMinor s (unitQuern q) else s
    else s

/-- A work item that overran completes (R27): a save that waited for it begins. -/
def overrunDone (s : State) (q cycles : Nat) : State :=
  if !quernExists s q || (qnAt s q).state == 1 then s
  else
    let s := noteOverrun s q cycles
    if (qnAt s q).saving.isSome && (qnAt s q).state != 3 then qnMod s q (fun n => { n with state := 3 }) else s

/-- A Quern fails (R342): event, Umber, and it takes no further part; its logical index moves at the next boundary
(R123). -/
def quernFail (s : State) (q cls : Nat) : State :=
  askGrade (event (qnMod s q (fun n => { n with lost := true, blocked := true })) cls (unitQuern q)
    ((qnAt s q).ctx.pc) 0 0) (unitQuern q) 3

def execQnResume (q : Nat) (s : State) : Out := .next (if quernExists s q then resumeQ s q else s)
def execQnDiscard (q : Nat) (s : State) : Out := .next (if quernExists s q then discardQ s q else s)
def execFnanValidClear (q : Nat) (s : State) : Out := .next (qnMod s q (fun n => { n with fnanValid := false }))
def execContextSaveDone (q : Nat) (s : State) : Out := .next (saveDone s q)
def execContextRestoreDone (q : Nat) (s : State) : Out := .next (restoreDone s q)
def execOverrunEnd (q cycles : Nat) (s : State) : Out := .next (overrunDone s q cycles)
/-- A Quern still running 16 Turns after its overrun began (R342). -/
def execQuernHang (q : Nat) (s : State) : Out :=
  .next (if quernExists s q && (qnAt s q).state == 1 && !(qnAt s q).lost then quernFail s q 0x6 else s)

end Sys2Proof.Machine
end

