-- ==== Sys2Proof/Machine/Change.lean ====
section
/-!
DEFINITION. Transactions: staging, the checks made at TXN_COMMIT and at application, the change journal, application
(R25, R96, R100, R126, R155, R167, R168, R170, R220, R250, R294, R324, R350, R368, R380 to R392, R414).
-/
namespace Sys2Proof.Machine

/-! ### Registers staged by a transaction (R7, R380) -/

/-- Writable masks of a register. -/
def regMask (off : Nat) : RegFam := (regAt off).getD ⟨off, 4, 1, 0, 0, 0, 0, 0, 0⟩

/-- Put a committed value into a register's RWT fields. -/
def commitReg (s : State) (off v : Nat) : State :=
  let m := (regMask off).rwt
  regSet s off ((regGet s off &&& (2 ^ 32 - 1 - m)) ||| (v &&& m))

def commitRegs (s : State) (regs : List (Nat × Nat)) : State := regs.foldl (fun s r => commitReg s r.1 r.2) s

/-- A register staged by a transaction. -/
def stagedReg (t : Txn) (off : Nat) : Option Nat := (t.regs.find? (fun r => r.1 == off)).map (fun r => r.2)

/-- Whether any of n registers from a base is staged. -/
def stagesAny (t : Txn) (base n : Nat) : Bool := t.regs.any (fun r => decide (base ≤ r.1) && decide (r.1 < base + 4 * n))

/-! ### Checks of registers -/

/-- QUERN_MAP: no physical index twice, none graded Umber, none that the variant lacks (R126). -/
def mapValid (s : State) : Bool :=
  let ps := (List.range 32).map (fun n => fieldOf (regGet s (oQuernMap + 4 * (n / 4))) (8 * (n % 4) + 7) (8 * (n % 4)))
  let used := ps.filter (fun p => p != 0xFF)
  used.all (fun p => decide (p < 4 * (vnt s).clusters) && gradeOf s (unitQuern p) != 3)
    && decide (used.eraseDups.length = used.length)

/-- Whether a pair of full redundancy lies in one cluster (R350). -/
def pairClash (s : State) : Bool :=
  (List.range 16).any (fun n =>
    let p (n : Nat) : Nat := fieldOf (regGet s (oQuernMap + 4 * (n / 4))) (8 * (n % 4) + 7) (8 * (n % 4))
    p n != 0xFF && p (n + 16) != 0xFF && p n / 4 == p (n + 16) / 4)

/-- Regions a register places in Hopper scratch: register and bytes (R105, R187, R220, R275, R288, R289, R297, R307,
R308, R311, R314, R324, R329, R330, R363, R364, R390). -/
def scratchRegions (s : State) : List (Nat × Nat) :=
  [(oFwrHoldBase, regGet s oFwrHoldSize % 2 ^ 16 * page64k), (oFwrCeilBase, 2 ^ 23), (oFwrNormBase, 2 ^ 15),
   (oPsTtBase, 2 ^ 22), (oPsHsetBase, 2 ^ 15), (oPsFactorBase, 2 ^ 16),
   (oStepRingBase, 2 ^ 17), (oStepLayerBase, 2 ^ 19), (oPubReadyBase, 2 ^ 19),
   (oLeatAppendBase, 2 ^ 14), (oLeatFreeBase, 3 * 2 ^ 16), (oSlFaultBase, 2 ^ 16),
   (oBolDsBase, 1024), (oBolBktBase, 1024), (oBolJobBase, 2 ^ 16), (oSailBase, 258 * 2 ^ 16),
   (oGlRxBase, 96 * 2 ^ 17), (oGlRouteBase, 2 ^ 16), (oGlMcastBase, 2 ^ 12),
   (oFhEvtBase, 2 ^ 16), (oFhCperBase, 2 ^ 17), (oGovCjBase, 2 ^ 18)]
  ++ (List.range 16).map (fun e => (oLeatQBase + 4 * e, 3 * 2 ^ 16))

/-- Whether a granule holds a part of such a region, or a context area the Governor uses (R250). -/
def granuleUsed (s : State) (g : Nat) : Bool :=
  (scratchRegions s).any (fun r => decide (0 < r.2) && decide (baseOf s r.1 < (g + 1) * 2 ^ 28) && decide (g * 2 ^ 28 < baseOf s r.1 + r.2))
    || s.qn.saved.any (fun v => v.area / 256 == g)
    || s.qn.q.any (fun n => n.saving.elim false (fun a => a / 256 == g))

/-- Mask of the granules the variant has. -/
def granuleMask (s : State) : Nat := 2 ^ (vnt s).granules - 1

/-- HOP_GRANULE_MODE (R250). -/
def granulesValid (old new : State) : Bool :=
  let o := regGet old oHopGranuleMode
  let n := regGet new oHopGranuleMode
  (List.range (vnt old).granules).all (fun g =>
    !(bitOf n g && !bitOf o g && granuleUsed new g) && !(bitOf old.hop.bad g && bitOf n g != bitOf o g))

/-- Link credits: every pool even, a class of at least 18, at most 512 a link (R324). -/
def creditsValid (s : State) : Bool :=
  let pools := [fieldOf (regGet s oGlCred0) 8 0, fieldOf (regGet s oGlCred0) 24 16, fieldOf (regGet s oGlCred1) 8 0,
    fieldOf (regGet s oGlCred1) 24 16, fieldOf (regGet s oGlCred2) 8 0, fieldOf (regGet s oGlCred3) 8 0,
    fieldOf (regGet s oGlCred2) 24 16]
  pools.all (fun c => c % 2 == 0 && decide (36 ≤ c)) && decide (pools.foldl (· + ·) 0 ≤ 512)

/-- The refusal rules on staged registers; `new` is the state with the values in place. -/
def regsValid (old new : State) (t : Txn) : Bool :=
  let staged (off : Nat) : Bool := (stagedReg t off).isSome
  let profileOk (p : Nat) : Bool :=
    let w := regGet new (oSlotProfile + 4 * p)
    !staged (oSlotProfile + 4 * p) || decide (fieldOf w 5 0 + fieldOf w 13 8 + fieldOf w 21 16 + fieldOf w 29 24 ≤ 64)
  let ls := regGet new oLsCtl
  (List.range 8).all profileOk
    && (!stagesAny t oQuernMap 8 || mapValid new)
    && (!(staged oStepNextLo || staged oStepNextHi) || old.step.state == 0)
    && (!staged oStepMembers || (decide (1 ≤ regGet new oStepMembers % 2 ^ 15) && decide (regGet new oStepMembers % 2 ^ 15 ≤ 16384)))
    && (!staged oLsCtl || (decide (fieldOf ls 28 24 ≤ 24) && decide (fieldOf ls 20 16 ≤ fieldOf ls 28 24) && ls % 2 ^ 16 != 0))
    && (!staged oHopGranuleMode || granulesValid old new)
    && !t.regs.any (fun r => decide (oSlRootLo + 8 * 48 ≤ r.1) && decide (r.1 < oSlRootLo + 8 * 64))
    && (!stagesAny t oGlCred0 4 || creditsValid new)
    && (!staged oGlVcWeight || (List.range 6).all (fun k => fieldOf (regGet new oGlVcWeight) (4 * k + 3) (4 * k) != 0))
    && (!staged oGlRetry || (regGet new oGlRetry % 2 ^ 4 != 0 && fieldOf (regGet new oGlRetry) 7 4 != 0))
    && (List.range 4).all (fun k => !staged (oFhBktCtl + 4 * k) || regGet new (oFhBktCtl + 4 * k) / 2 ^ 16 != 0)
    && (!(staged oFhPlausCtl && bitOf (regGet new oFhPlausCtl) 31) || !pairClash new)

/-! ### Checks of the tensor table and hyperparameters (R32, R96, R100, R167, R170, R414) -/

/-- Whether the part of a range that lies in one span of DRAM space exists: within a Headrace quarter or a Millpond
group, what exists is a run from its start (R225, R229). -/
def spanExists (s : State) (lo n base size : Nat) : Bool :=
  let hi := min (lo + n) (base + size)
  decide (hi ≤ max lo base) || (dramPlace s (hi - 1)).isSome

/-- Whether a range lies in Millpond or Headrace space that the block has (R225). -/
def inMillpond (s : State) (lo n : Nat) : Bool :=
  decide (0x010000000000 ≤ lo) && decide (lo + n ≤ 0x030000000000)
    && (List.range 8).all (fun g => spanExists s lo n (0x010000000000 + g * 2 ^ 38) (2 ^ 38))
def inHeadrace (s : State) (lo n : Nat) : Bool :=
  decide (lo + n ≤ 0x8000000000) && (List.range 32).all (fun q => spanExists s lo n (q * 2 ^ 34) (2 ^ 34))

/-- Bytes of a tensor's plane region (R159, R165). -/
def planeBytes (t : TEnt) : Nat := 2 * t.wwStride + (if t.short = 0xF then 0 else 2 * t.shortStride)

/-- Regions of an entry this chip owns: slots and gradient store. -/
def ownRegions (s : State) (hs : List Byte) (t : TEnt) : List (Nat × Nat) :=
  let n := slotBytes s hs t
  [(t.slotA, n), (t.slotB, n), (gradStore s hs t, 4 * t.count)]

def rangesMeet (a b : Nat × Nat) : Bool := decide (a.1 < b.1 + b.2) && decide (b.1 < a.1 + a.2)

/-- Whether no two of a list of regions overlap. -/
def allApart : List (Nat × Nat) → Bool
  | [] => true
  | r :: rest => rest.all (fun x => !rangesMeet r x) && allApart rest

/-- Checks of R167 and R32 on one entry's own fields: 1, 3 (RECIPE and COMPACT), 4, 5, 6 (spaces) and 8. -/
def entryValid (s : State) (hs bs : List Byte) : Bool :=
  let t := tentOf bs
  let own := decide (t.owner = s.gl.chip)
  let total := t.total
  let dims := (t.dims.drop t.ndim).all (fun d => d == 1)
  let c1 := decide (t.ndim ≤ 4) && dims && decide (t.start < t.fin) && decide (t.fin ≤ total) && decide (total ≤ 2 ^ 48)
    && t.start % 64 == 0 && (t.fin % 64 == 0 || t.fin == total)
  let c3 := !own || ((decide (1 ≤ t.recipe) && decide (t.recipe ≤ 7)) || (t.custom && s.qn.recipes.any (fun r => r.id == t.recipe)))
    && (!t.compact || decide (1 ≤ t.recipe) && decide (t.recipe ≤ 4))
  let blk := hsetWord hs t.hset 16 * t.cols
  let c4 := !own || (match t.recipe with
    | 5 => t.start == 0 && t.fin == total
    | 6 => blk != 0 && t.start % blk == 0 && (t.fin % blk == 0 || t.fin == total)
    | 7 => t.start == 0 && t.fin == total && decide (min t.rows t.cols ≤ 16384)
    | _ => true)
  let b := t.shortBlock
  let c5 := t.short == 0xF || (decide (4 ≤ t.short) && decide (t.short ≤ 0xA) && decide (t.bsize ≤ 5)
    && (if t.bdir then t.start % (b * t.cols) == 0 && (t.fin % (b * t.cols) == 0 || t.fin == total)
        else t.start % t.cols % b == 0 && t.fin % t.cols % b == 0))
  let c6 := inHeadrace s t.ww (planeBytes t) && (!own || (ownRegions s hs t).all (fun r => inMillpond s r.1 r.2))
  let c8 := decide (leAt bs 0 4 / 2 ^ 24 = 0) && decide (leAt bs 0x20 2 / 2 ^ 14 = 0) && decide (t.pub / 2 ^ 10 = 0)
    && decide (leAt bs 0x3A 2 / 2 ^ 12 = 0) && leAt bs 0x3E 2 == 0
    && (own || (t.recipe == 0 && t.hset == 0 && t.slotA == 0 && t.slotB == 0 && fieldOf t.pub 9 8 == 0))
  c1 && c3 && c4 && c5 && c6 && c8

/-- Check 2: the shards of a tensor cover it once, and its entries agree. Check 3 on recipe 0x03, check 6 between
entries, check 7, and R170 on custom sets. -/
def tableValid (s : State) (hs : List Byte) (tt : List (List Byte)) : Bool :=
  let es := tt.map tentOf
  let mine := es.filter (fun t => decide (t.owner = s.gl.chip))
  let firsts := es.foldl (fun (a : List TEnt) t => if a.any (fun x => x.id == t.id) then a else t :: a) []
  let covered (t : TEnt) : Bool :=
    let sh := es.filter (fun x => x.id == t.id)
    decide ((sh.map TEnt.count).foldl (· + ·) 0 = t.total) && allApart (sh.map (fun x => (x.start, x.count)))
      && sh.all (fun x => x.ndim == t.ndim && x.dims == t.dims && x.ww == t.ww && x.layer == t.layer
        && x.pub % 256 == t.pub % 256 && x.ngrp == t.ngrp)
  let lamb := mine.filter (fun t => decide (t.recipe = 3))
  let groups := (es.map (fun t => t.ngrp)).eraseDups
  let groupSize (g : Nat) : Nat := ((es.filter (fun t => t.ngrp == g)).map TEnt.count).foldl (· + ·) 0
  tt.all (entryValid s hs) && firsts.all covered
    && lamb.all (fun t => lamb.all (fun u => t.ngrp != u.ngrp || t.hset == u.hset))
    && allApart (firsts.map (fun t => (t.ww, planeBytes t)) ++ mine.flatMap (ownRegions s hs))
    && groups.all (fun g => decide (groupSize g ≤ 2 ^ 41))
    && !es.any (fun t => t.custom && es.any (fun u => u.hset == t.hset && u.recipe == 7))

/-- R414 on a set in use. -/
def setValid (hs : List Byte) (es : List TEnt) (h : Nat) : Bool :=
  let w (k : Nat) : Nat := hsetWord hs h k
  let named (r : Nat) : Bool := es.any (fun t => t.hset == h && t.recipe == r)
  let custom := es.any (fun t => t.hset == h && t.custom)
  decide (w 4 ≤ 3) && !((w 4 == 1 || w 4 == 2) && decide (w 3 ≤ w 2)) && !(w 4 == 3 && w 2 == 0)
    && (custom || (decide (w 12 < 2) && (List.range 12).all (fun k => w (20 + k) == 0)))
    && (!named 6 || ([128, 256, 512, 1024, 2048].contains (w 16) && w 17 != 0 && decide (1 ≤ w 18) && decide (w 18 ≤ 32)
      && decide (w 19 ≤ 1)))
    && (!named 7 || (w 17 != 0 && decide (w 19 ≤ 1)))

/-- The hyperparameter sets in scratch. -/
def liveSets (s : State) : List Byte := scrRead s (baseOf s oPsHsetBase) 32768

/-- Checks of the tables a transaction leaves: those of the tensor table only when it stages one. -/
def tablesValid (new : State) (t : Txn) : Bool :=
  let tt := liveTable new
  let hs := liveSets new
  let es := tt.map tentOf
  let mine := es.filter (fun e => decide (e.owner = new.gl.chip))
  let hold := regGet new oFwrHoldSize % 2 ^ 16
  let stagesTable := t.loads.any (fun l => l.1 == 1) || stagesAny t oPsTtBase 1 || stagesAny t oPsTtCount 1
  (!stagesTable || tableValid new hs tt)
    && ((mine.map (fun e => e.hset)).eraseDups).all (setValid hs es)
    && (hold == 0 || mine.all (fun e => decide (e.count * (regGet new oStepMembers % 2 ^ 15) * 4 ≤ hold * page64k)))
    && mine.all (fun e => !e.custom || !t.loads.any (fun l => l.1 == 6) || new.qn.recipes.any (fun r => r.id == e.recipe))

/-! ### Table loads (R381, R382) -/

/-- Whether a load's length is what its table takes (R381). -/
def loadLenOk (code len : Nat) : Bool :=
  match code with
  | 1 => len % 64 == 0 && decide (len ≤ 2 ^ 22)
  | 2 => len % 128 == 0 && decide (len ≤ 2 ^ 15)
  | 3 => len == 65536
  | 4 => len == 4096
  | 5 => decide (64 ≤ len)
  | 6 => len == 0
  | _ => decide (len ≤ 2 ^ 20)

/-- Copy a load's source into staging memory: none when it fails validation (R382). -/
def copyLoad (s : State) (code src len : Nat) : Option (List Byte) × State :=
  let b := baddrOf src
  if code = 6 then ((if len = 0 then some [] else none), s)
  else if isRemote s src || b.space != 1 || src % 64 != 0 || !loadLenOk code len || (len != 0 && !scratchOk s b.off len) then (none, s)
  else
    let (r, s) := rangeRead s 1 b.off len 2 false
    (if r.ok && !r.poison.any id then some r.data else none, s)

/-- Copy every load; false when one fails. -/
def copyLoads (s : State) (t : Txn) : Bool × Txn × State :=
  let (ok, ls, s) := t.loads.foldl (fun (a : Bool × List (Nat × Nat × Nat × List Byte) × State) l =>
    let (c, s) := copyLoad a.2.2 l.1 l.2.1 l.2.2.1
    (a.1 && c.isSome, (l.1, l.2.1, l.2.2.1, c.getD []) :: a.2.1, s)) (true, [], s)
  (ok, { t with loads := ls.reverse }, s)

/-- The scratch offset a table load goes to. -/
def loadDest (s : State) (code : Nat) : Option Nat :=
  match code with
  | 1 => some (baseOf s oPsTtBase)
  | 2 => some (baseOf s oPsHsetBase)
  | 3 => some (baseOf s oGlRouteBase)
  | 4 => some (baseOf s oGlMcastBase)
  | _ => none

/-- Whether an entry of the tensor table in force names a recipe. -/
def recipeNamed (s : State) (id : Nat) : Bool := (liveTable s).any (fun b => (tentOf b).recipe == id)

/-- Put one load in place: the tables in scratch, recipes and firmware; with the loader's answer (R156). -/
def applyLoad (s : State) (l : Nat × Nat × Nat × List Byte) : LoadOut × State :=
  match l.1 with
  | 5 =>
    let o := loadRecipe (stayingCode s (leAt l.2.2.2 4 1)) l.2.2.2
    (o, o.recipe.elim s (placeRecipe s))
  | 6 => (⟨0, 0, 0, none⟩, dropRecipe s (l.2.1 % 256))
  | 7 => (⟨0, 0, 0, none⟩,
      if s.boot.fwActiveB then { s with boot := { s.boot with fwA := l.2.2.2 } }
      else { s with boot := { s.boot with fwB := l.2.2.2 } })
  | c => (⟨0, 0, 0, none⟩, (loadDest s c).elim s (fun o => scrWrite s o l.2.2.2))

/-- Put every load in place: the first loader failure, and the state. -/
def applyLoads (s : State) (t : Txn) : LoadOut × State :=
  t.loads.foldl (fun (a : LoadOut × State) l =>
    let (o, s) := applyLoad a.2 l
    (if a.1.code = 0 then o else a.1, s)) (⟨0, 0, 0, none⟩, s)

/-- A removal of a recipe the resulting table names is refused (R155). -/
def removalBad (new : State) (t : Txn) : Bool := t.loads.any (fun l => l.1 == 6 && recipeNamed new (l.2.1 % 256))

/-- A verdict on a transaction: its result code, 0 when it stands, and the loader's answer. -/
structure Verdict where
  result : Nat
  load : LoadOut
  deriving DecidableEq, Repr

def noLoad : LoadOut := ⟨0, 0, 0, none⟩

/-- Judge a transaction whose loads are copied: the state it leads to, and the verdict (R382). -/
def judge (s : State) (t : Txn) : Verdict × State :=
  let new := commitRegs s t.regs
  let (o, new) := applyLoads new t
  let v : Verdict :=
    if o.code ≠ 0 then ⟨9, o⟩
    else if removalBad new t then ⟨9, loadFail 9 0 0⟩
    else if regsValid s new t && tablesValid new t then ⟨0, noLoad⟩ else ⟨2, noLoad⟩
  (v, new)

/-! ### The change journal (R390) -/

/-- Entries a transaction that applies writes. -/
def cjNeed (s : State) (t : Txn) : Nat :=
  let swap := (stagedReg t oGovFw).elim false (fun v => bitOf v 8 != s.boot.fwActiveB)
  1 + ceilDiv t.regs.length 4 + t.loads.length + b2n swap

/-- Unreserved entries free. -/
def cjFree (s : State) : Nat :=
  let used := (s.gov.cjProd + 2 ^ 32 - regGet s oGovCjCons) % 2 ^ 32
  4096 - used - ((s.gov.pendTx ++ s.gov.checking).map (fun t => t.reserved)).foldl (· + ·) 0

/-- Write one entry: requester, kind, transaction, result, loader code, counts and body. -/
def cjWrite (s : State) (req kind txn result loader nreg ntbl : Nat) (body : List Byte) : State :=
  let e := leBytes 4 0x434A4E31 ++ leBytes 4 s.gov.cjProd ++ leBytes 6 s.time.turn ++ leBytes 1 req ++ leBytes 1 kind
    ++ leBytes 2 txn ++ leBytes 1 result ++ leBytes 1 loader ++ leBytes 2 nreg ++ leBytes 1 ntbl ++ leBytes 1 0 ++ padTo 36 body
  let s := scrWrite s (baseOf s oGovCjBase + 64 * (s.gov.cjProd % 4096)) (e ++ leBytes 4 (crc32c e))
  { s with gov := { s.gov with cjProd := (s.gov.cjProd + 1) % 2 ^ 32 } }

/-- The transaction's own entry. The cost a loader failure holds follows its byte offset (log 32). -/
def cjTxn (s : State) (t : Txn) (v : Verdict) : State :=
  cjWrite s t.owner 1 t.id v.result v.load.code t.regs.length t.loads.length
    (leBytes 4 t.tag ++ leBytes 8 t.at_ ++ leBytes 4 v.load.off ++ leBytes 4 v.load.cost)

/-- Continuation entries of an applied transaction: registers four at a time, then tables. -/
def cjRest (s : State) (t : Txn) : State :=
  let pair (r : Nat × Nat) : List Byte := leBytes 4 r.1 ++ leBytes 4 r.2
  let s := (List.range (ceilDiv t.regs.length 4)).foldl (fun s k =>
    cjWrite s t.owner 3 t.id 0 0 0 0 (((t.regs.drop (4 * k)).take 4).flatMap pair)) s
  t.loads.foldl (fun s l => cjWrite s t.owner 4 t.id 0 0 0 0
    (leBytes 4 l.1 ++ leBytes 4 l.2.2.1 ++ leBytes 8 l.2.1 ++ leBytes 4 (crc32c l.2.2.2))) s

/-- Record the result of a transaction in GOV_TXN_STATUS, which shows the last one closed (R385). -/
def txnResult (s : State) (t : Txn) (r : Nat) : State :=
  if t.id = s.gov.lastId then { s with gov := { s.gov with result := r, lastOwner := t.owner } } else s

/-- A transaction ends without applying and had a reservation: its entry goes there (R390). -/
def txnDropped (s : State) (t : Txn) (v : Verdict) : State := cjTxn (txnResult s t v.result) t v

/-- A refusal or rollback: its entry is written when an unreserved one is free (R390). -/
def txnRefused (s : State) (t : Txn) (v : Verdict) : State :=
  let s := txnResult s t v.result
  if cjFree s = 0 then bump s oGovCjDropCnt else cjTxn s t v

/-! ### Application (R383, R386 to R388) -/

/-- Chips whose route entries two states give differently and to which requests are outstanding (R270). -/
def routesMoved (old new : State) : List Nat :=
  ((old.port.outst.map (fun o => o.chip)).eraseDups).filter (fun c => routeOf old c != routeOf new c)

/-- A staged QUERN_MAP takes effect (R122, R126, R386): a Quern that is mapped anew becomes idle, one no longer mapped a
spare; one that has a work item saves its context first, in an area that is the Governor's choice. -/
def mapQuern (old s : State) (q : Nat) : State :=
  let x := qnAt s q
  let now := servedBy s q
  if servedBy old q == now || x.lost || !(x.state == 0 || x.state == 1 || x.state == 2 || x.state == 5) || x.saving.isSome then s
  else match x.item with
    | some i =>
      if 262144 < i.live then s
      else
        let (n, s) := drawFree s
        qnMod s q (fun x => { x with
          saving := some (Config.freeWord n % 4096)
          state := if x.state = 1 then 1 else 3 })
    | none => qnMod s q (fun x => { x with state := if now.isSome then 0 else 5 })

/-- A new STEP_NEXT: attempts of a step count from 0 again (R191), so the records and decisions of the roles this chip
has, which are of earlier steps, hold for no step to come. -/
def forgetSteps (s : State) : State :=
  { s with root := { s.root with
    openRecs := []
    roundRecs := []
    groupRecs := []
    normParts := []
    decided := []
    standbyDecided := []
    asked := []
    groupSent := [] } }

/-- What committed register values start: STEP_NEXT, granule conversions, a firmware swap, a retrain (R191, R220,
R251, R252, R387, R388). -/
def committedEffects (old new : State) (t : Txn) : State :=
  let staged (off : Nat) : Bool := (stagedReg t off).isSome
  let s := new
  let s := if staged oStepNextLo || staged oStepNextHi then
      forgetSteps { s with step := { s.step with exp := fieldOf (regGet s oLsCtl) 20 16, attempt := 0 } } else s
  let want := regGet s oHopGranuleMode &&& granuleMask s
  let s := if staged oHopGranuleMode then
      { s with hop := { s.hop with
        mode := want
        convert := s.hop.convert ++ ((List.range (vnt s).granules).filter (fun g => bitOf want g != bitOf old.hop.mode g)).map
          (fun g => (g, !bitOf want g)) } } else s
  let sel := bitOf (regGet s oGovFw) 8
  let s := if sel != old.boot.fwActiveB then { s with boot := { s.boot with fwActiveB := sel } } else s
  let g := regGet s oGovMpRetrain
  let s := if staged oGovMpRetrain && bitOf g 8 && s.mem.retrain.isNone then
      { s with mem := { s.mem with retrain := some (g % 8) } } else s
  let s := if stagesAny t oQuernMap 8 then (List.range (4 * (vnt s).clusters)).foldl (mapQuern old) s else s
  let held := (routesMoved old s).filter (fun c => !s.port.routeHold.contains c)
  { s with port := { s.port with routeHold := s.port.routeHold ++ held } }

/-- The checks on block state repeated at application (R383, R387, R388). -/
def stateStops (s new : State) (t : Txn) (atOpen : Bool) : Bool :=
  let swap := bitOf (regGet new oGovFw) 8 != s.boot.fwActiveB
  let idle := if atOpen then !s.pub.busy else s.step.state == 0
  let g := regGet new oGovMpRetrain
  (swap && !idle) || ((stagedReg t oGovMpRetrain).isSome && bitOf g 8 && s.mem.retrain.elim false (fun r => r != g % 8))

/-- Apply a pending transaction at its boundary or at the OPEN it names (R383, R390). -/
def txnApply (s : State) (t : Txn) (atOpen : Bool) : State :=
  let s := { s with gov := { s.gov with pendTx := s.gov.pendTx.filter (fun x => x.id != t.id) } }
  let (v, new) := judge s t
  if v.result ≠ 0 || stateStops s new t atOpen then txnDropped s t ⟨5, v.load⟩
  else
    let swap := bitOf (regGet new oGovFw) 8 != s.boot.fwActiveB
    let n := committedEffects s new t
    let n := { n with gov := { n.gov with copies := n.gov.copies ++ (t.loads.filter (fun l => decide (l.1 ≤ 4))).map (fun l => (l.1, l.2.2.2)) } }
    let n := if t.wh = 2 then { n with work := { n.work with tags := n.work.tags ++ [(t.at_, t.tag)] } } else n
    let n := cjRest (cjTxn (txnResult n t 0) t ⟨0, noLoad⟩) t
    if swap then cjTxn n t ⟨0, noLoad⟩ else n

/-- Whether a pending transaction is due at this Turn boundary (R382). -/
def txnDue (s : State) (t : Txn) : Bool :=
  match t.wh with
  | 0 => true
  | 1 => decide (t.at_ ≤ s.time.turn)
  | _ => s.step.state == 1 && s.step.s == t.at_

/-- Apply the transactions due at this boundary, in commit order. -/
def applyDue (s : State) : State :=
  (s.gov.pendTx.filter (txnDue s)).foldl (fun s t => txnApply s t false) s

/-- Whether the chip has left OPEN for a step, or opened a later one (R197, R382). -/
def stepGone (s : State) (st : Nat) : Bool :=
  let next := regGet s oStepNextLo + regGet s oStepNextHi % 2 ^ 16 * 2 ^ 32
  if s.step.state = 0 || s.step.state = 6 then decide (st < next)
  else if s.step.state = 1 then decide (st < s.step.s)
  else decide (st ≤ s.step.s)

/-- At the OPEN of a step: its transactions apply, and those named for an earlier step are refused. -/
def openNamed (s : State) (st : Nat) : State :=
  let late := s.gov.pendTx.filter (fun t => t.wh == 2 && decide (t.at_ < st))
  let s := { s with gov := { s.gov with pendTx := s.gov.pendTx.filter (fun t => !(t.wh == 2 && decide (t.at_ < st))) } }
  let s := late.foldl (fun s t => txnDropped s t ⟨3, noLoad⟩) s
  (s.gov.pendTx.filter (fun t => t.wh == 2 && t.at_ == st)).foldl (fun s t => txnApply s t true) s

/-! ### The rows (R380 to R384) -/

/-- The answer of a management transfer. -/
def apb (s : State) (data : Nat) (err : Bool) : State := { s with port := { s.port with apb := (data, err) } }

/-- Whether a requester owns the open transaction. -/
def ownsTxn (s : State) (req : Nat) : Bool := s.gov.opened.elim false (fun t => t.owner == req)

/-- TXN_BEGIN (R380). -/
def txnBegin (s : State) (req : Nat) : State :=
  if s.gov.opened.isSome || s.fh.sepia || s.gov.pfDue || s.gov.pfActive || !s.boot.running then apb s 0 true
  else apb { s with gov := { s.gov with opened := some ⟨0, req, [], [], 0, 0, 0, 0⟩ } } 0 false

/-- Close the open transaction with the next id. -/
def closeTxn (s : State) (t : Txn) : Txn × State :=
  let id := (s.gov.lastId + 1) % 2 ^ 16
  ({ t with id := id }, { s with gov := { s.gov with opened := none, lastId := id, lastOwner := t.owner } })

/-- TXN_COMMIT (R382, R385, R390). -/
def txnCommit (s : State) (req wh : Nat) : State :=
  match s.gov.opened with
  | none => apb s 0 true
  | some t =>
    if t.owner ≠ req || 3 ≤ wh then apb s 0 true
    else
      let at_ := regGet s oGovTxnAtLo + regGet s oGovTxnAtHi % 2 ^ 16 * 2 ^ 32
      let (t, s) := closeTxn (apb s 0 false) { t with wh := wh, at_ := if wh = 0 then 0 else at_, tag := regGet s oGovTxnTag }
      let need := cjNeed s t
      if (wh = 1 && decide (at_ < s.time.turn + 64)) || (wh = 2 && stepGone s at_) then txnRefused s t ⟨3, noLoad⟩
      else if 8 ≤ (s.gov.pendTx ++ s.gov.checking).length then txnRefused s t ⟨4, noLoad⟩
      else if cjFree s < need then txnRefused s t ⟨8, noLoad⟩
      else txnResult { s with gov := { s.gov with checking := s.gov.checking ++ [{ t with reserved := need }] } } t 1

/-- TXN_ROLLBACK (R384). -/
def txnRollback (s : State) (req : Nat) : State :=
  match s.gov.opened with
  | none => apb s 0 true
  | some t =>
    if t.owner ≠ req then apb s 0 true
    else
      let (t, s) := closeTxn (apb s 0 false) t
      txnRefused s t ⟨6, noLoad⟩

/-- TXN_VALIDATED (R382). -/
def txnValidated (s : State) : State :=
  match s.gov.checking with
  | [] => s
  | t :: rest =>
    let s := { s with gov := { s.gov with checking := rest } }
    if t.wh = 2 && stepGone s t.at_ then txnRefused s t ⟨3, noLoad⟩
    else
      let (ok, t, s) := copyLoads s t
      if !ok then txnRefused s t ⟨2, noLoad⟩
      else
        let (v, _) := judge s t
        if v.result ≠ 0 then txnRefused s t v
        else { s with gov := { s.gov with pendTx := s.gov.pendTx ++ [t] } }

/-- Whether a pending transaction may still be withdrawn (R384). -/
def cancellable (s : State) (t : Txn) : Bool :=
  let next := match t.wh with
    | 0 => true
    | 1 => decide (t.at_ ≤ s.time.turn + 1)
    | _ => s.step.state == 1 && s.step.s == t.at_
  !next || decide (s.time.cycle < 2040)

/-- TXN_CANCEL (R384). -/
def txnCancel (s : State) (id : Nat) : State :=
  let s := apb s 0 false
  match s.gov.pendTx.find? (fun t => t.id == id) with
  | none => s
  | some t =>
    if cancellable s t then
      txnDropped { s with gov := { s.gov with pendTx := s.gov.pendTx.filter (fun x => x.id != id) } } t ⟨7, noLoad⟩
    else s

/-- A GOV_TXN_TBL_CMD write (R381). -/
def stageLoad (s : State) (req code : Nat) : State :=
  match s.gov.opened with
  | none => apb s 0 true
  | some t =>
    if t.owner ≠ req || 16 ≤ t.loads.length || code = 0 || 8 ≤ code then apb s 0 true
    else
      let src := regGet s oGovTxnTblSrcLo + regGet s oGovTxnTblSrcHi * 2 ^ 32
      let l : Nat × Nat × Nat × List Byte := (code, src, regGet s oGovTxnTblLen, [])
      apb { s with gov := { s.gov with opened := some { t with loads := t.loads ++ [l] } } } 0 false

/-- Stage a write of a register's RWT fields (R7, R380, R381): false when it is refused. -/
def stageWrite (s : State) (req off v : Nat) : Bool × State :=
  match s.gov.opened with
  | none => (false, s)
  | some t =>
    let rest := t.regs.filter (fun r => r.1 != off)
    if t.owner ≠ req || (rest.length = t.regs.length && decide (1024 ≤ t.regs.length)) then (false, s)
    else
      let regs := if rest.length = t.regs.length then t.regs ++ [(off, v)]
        else t.regs.map (fun r => if r.1 = off then (off, v) else r)
      (true, { s with gov := { s.gov with opened := some { t with regs := regs } } })

def execTxnBegin (req : Nat) (s : State) : Out := .next (txnBegin s req)
def execTxnCommit (req wh : Nat) (s : State) : Out := .next (txnCommit s req wh)
def execTxnRollback (req : Nat) (s : State) : Out := .next (txnRollback s req)
def execTxnValidated (s : State) : Out := .next (txnValidated s)
def execTxnCancel (id : Nat) (s : State) : Out := .next (txnCancel s id)
def execLoadTensorTable (req : Nat) (s : State) : Out := .next (stageLoad s req 1)
def execLoadHyperparameterSets (req : Nat) (s : State) : Out := .next (stageLoad s req 2)
def execLoadRouteTable (req : Nat) (s : State) : Out := .next (stageLoad s req 3)
def execLoadMulticastTable (req : Nat) (s : State) : Out := .next (stageLoad s req 4)
def execLoadCustomRecipe (req : Nat) (s : State) : Out := .next (stageLoad s req 5)
def execRecipeRemoval (req : Nat) (s : State) : Out := .next (stageLoad s req 6)
def execLoadGovernorFirmware (req : Nat) (s : State) : Out := .next (stageLoad s req 7)
/-- The table copies of applied transactions are complete (R383). -/
def execTableCopyDone (s : State) : Out := .next { s with gov := { s.gov with copies := [] } }

end Sys2Proof.Machine
end

