-- ==== Sys2Proof/Machine/Clock.lean ====
section
/-!
DEFINITION. QCLK clusters: the power manager's and the temperature sensors' handshakes, voltage and temperature between
clusters (R19 to R22, R358, R406, R407).
-/
namespace Sys2Proof.Machine

def clusterAt (s : State) (c : Nat) : Cluster := s.clk.clusters.getD c Cluster.reset
def clusterMod (s : State) (c : Nat) (f : Cluster → Cluster) : State :=
  { s with clk := { s.clk with clusters := modAt s.clk.clusters c f } }

/-- Clusters the variant has. -/
def clustersOf (s : State) : List Nat := List.range (vnt s).clusters

/-- Adjacent clusters of the 3 × 3 grid. -/
def adjacent (c d : Nat) : Bool :=
  (c / 3 == d / 3 && (c + 1 == d || d + 1 == c)) || (c % 3 == d % 3 && (c + 3 == d || d + 3 == c))

/-- The unit an event of a cluster names: its first Quern. -/
def clusterUnit (c : Nat) : Nat := unitQuern (4 * c)

/-- Acknowledged voltages of two adjacent clusters more than 100 mV apart (R21). -/
def voltSpread (s : State) (c d : Nat) : Bool :=
  let a := (clusterAt s c).volt
  let b := (clusterAt s d).volt
  adjacent c d && a != 0 && b != 0 && decide (100 < max a b - min a b)

/-- Adjacent clusters more than 20 °C apart (R22). -/
def tempSpread (s : State) (c d : Nat) : Bool :=
  adjacent c d && decide (20 < signed 8 (clusterAt s c).temp - signed 8 (clusterAt s d).temp)

/-! ### Requests of the power manager (R19, R406) -/

/-- The point the Governor asks for: the one wanted, lowered while R22 holds the cluster. -/
def pointGoal (x : Cluster) : Nat := x.want - x.stepDown

/-- Ask for a setting: it waits its turn, one request being outstanding at most. -/
def pmAsk (s : State) (c point kind : Nat) : State :=
  { s with clk := { s.clk with pmQueue := s.clk.pmQueue.filter (fun r => r.cluster != c) ++ [⟨c, point, kind, 0⟩] } }

/-- Start the next request: its cluster runs nothing until the acknowledgement (R19). -/
def pmIssue (s : State) : State :=
  match s.clk.pmReq, s.clk.pmQueue with
  | none, r :: rest =>
    clusterMod { s with clk := { s.clk with pmReq := some { r with since := s.time.turn }, pmQueue := rest } } r.cluster
      (fun x => { x with held := true })
  | _, _ => s

/-- Point changes at a Turn boundary: those the Governor wants, then those R22 leaves due. -/
def pointsTurn (s : State) (points : List (Nat × Nat)) : State :=
  let s := (points.filter (fun p => decide (p.1 < (vnt s).clusters) && decide (p.2 ≤ 12))).foldl (fun s p =>
    clusterMod s p.1 (fun x => { x with want := p.2, stepDown := 0 })) s
  let due := (clustersOf s).filter (fun c =>
    let x := clusterAt s c
    pointGoal x != x.point && !x.held && !x.stress)
  pmIssue (due.foldl (fun s c => pmAsk s c (pointGoal (clusterAt s c)) 0) s)

/-- PM_ACK (R19, R21, R358, R406): the setting is in force, or a refused one is given up. -/
def pmAck (s : State) (refused : Bool) (volt : Nat) : State :=
  match s.clk.pmReq with
  | none => s
  | some r =>
    let s := { s with clk := { s.clk with pmReq := none } }
    let s := clusterMod s r.cluster (fun x => { x with
      held := false
      late := x.late + (s.time.turn - r.since)
      volt := volt % 2 ^ 12
      point := if refused then x.point else r.point
      want := if refused && r.kind == 0 then x.point else x.want
      stepDown := if refused && r.kind == 0 then 0 else x.stepDown })
    let s := if refused && r.kind != 0 then
        { s with fh := { s.fh with tests := s.fh.tests.map (fun t => if t.1 < 36 && t.1 / 4 == r.cluster && t.2 < 4 then (t.1, t.2 + 4) else t) } }
      else s
    ((clustersOf s).filter (voltSpread s r.cluster)).foldl (fun s d => event s 0xC (clusterUnit r.cluster) 0 (clusterUnit d) 0) s

/-- PM_ACK_TIMEOUT (R406): the request stays. -/
def pmTimeout (s : State) : State :=
  match s.clk.pmReq with
  | some r => if r.since + 4096 ≤ s.time.turn then event s 0xC (clusterUnit r.cluster) 0 0 0 else s
  | none => s

/-- Dispatch is suspended for clusters in a voltage spread, from a Turn boundary (R21). -/
def voltTurn (s : State) : State :=
  (clustersOf s).foldl (fun s c =>
    let spread := (clustersOf s).any (voltSpread s c)
    clusterMod s c (fun x => { x with voltHold := spread })) s

/-- Once per Wheel the hotter of two adjacent clusters goes down a point; at point 0 a temperature-spread event is
recorded (R22). -/
def thermalWheel (s : State) : State :=
  ((clustersOf s).filter (fun c => (clustersOf s).any (tempSpread s c))).foldl (fun s c =>
    let x := clusterAt s c
    if 0 < pointGoal x then clusterMod s c (fun x => { x with stepDown := x.stepDown + 1 })
    else event s 0xC (clusterUnit c) 0 0 0) s

/-! ### Temperatures (R407) -/

/-- Read sensors in turn. -/
def tempAsk (s : State) (addrs : List Nat) : State :=
  let q := s.clk.tsQueue ++ addrs.filter (fun a => !s.clk.tsQueue.contains a && s.clk.tsReq != some a)
  match s.clk.tsReq, q with
  | none, a :: rest => { s with clk := { s.clk with tsReq := some a, tsQueue := rest } }
  | _, _ => { s with clk := { s.clk with tsQueue := q } }

/-- The next sensor. -/
def tempNext (s : State) : State := tempAsk { s with clk := { s.clk with tsReq := none } } []

/-- TEMP_REPLY. -/
def tempReply (s : State) (temp : Nat) : State :=
  match s.clk.tsReq with
  | none => s
  | some a =>
    let v := temp % 256
    let s := if a < 9 then clusterMod s a (fun x => { x with temp := v })
      else if a < 13 then { s with clk := { s.clk with quadTemp := modAt s.clk.quadTemp (a - 9) (fun _ => v) } }
      else { s with clk := { s.clk with govTemp := v } }
    tempNext s

/-- TEMP_REPLY_TIMEOUT: the previous reading stays in force. The event names the cluster of the sensor, or the
Governor region's first unit. -/
def tempTimeout (s : State) : State :=
  match s.clk.tsReq with
  | none => s
  | some a => tempNext (event s 0xC (if a < 9 then clusterUnit a else 0) 0 a 0)

def execPmAck (refused : Bool) (volt : Nat) (s : State) : Out := .next (pmAck s refused volt)
def execPmAckTimeout (s : State) : Out := .next (pmTimeout s)
def execTempReply (temp : Nat) (s : State) : Out := .next (tempReply s temp)
def execTempReplyTimeout (s : State) : Out := .next (tempTimeout s)

end Sys2Proof.Machine
end

