-- ==== Sys2Proof/Machine/Exact.lean ====
section
/-!
DEFINITION. The correctly rounded functions: reciprocal, reciprocal square root, 2^x and log2 (R143), and the
powers and cosine of the per-step factors (R171). Transcendental values are enclosed between two rationals at
a rising precision until both ends round alike.
-/
namespace Sys2Proof.Machine

/-- Σ_{k=1..n} floor(2^P / (k 2^k)): ln 2 × 2^P from below, short of it by at most n + 1 when n ≥ P. -/
def ln2Fix (P : Nat) : Nat → Nat
  | 0 => 0
  | n + 1 => ln2Fix P n + 2 ^ P / ((n + 1) * 2 ^ (n + 1))

/-- Taylor terms of e^y (y × 2^P below 2^P): the sum of `n` further terms after term i with value t. -/
def expTerms (P y : Nat) : Nat → Nat → Nat → Nat → Nat
  | 0, _, _, acc => acc
  | n + 1, i, t, acc =>
    let t' := t * y / 2 ^ P / i
    expTerms P y n (i + 1) t' (acc + t')

/-- Enclosure of e^(F ln 2) × 2^P for F = num / 2^k in [0, 1). -/
def exp2Frac (P num k : Nat) : Nat × Nat :=
  let L := ln2Fix P (P + 2)
  let y := num * L / 2 ^ k
  let s := expTerms P y (P + 2) 1 (2 ^ P) (2 ^ P)
  (s, s + 16 * (P + 8))

/-- Σ z^(2i+1)/(2i+1) over n terms, z and the result scaled by 2^P, z2 = z². -/
def atanhTerms (P z2 : Nat) : Nat → Nat → Nat → Nat → Nat
  | 0, _, _, acc => acc
  | n + 1, i, t, acc => atanhTerms P z2 n (i + 2) (t * z2 / 2 ^ P) (acc + t / i)

/-- Enclosure of log2(m) × 2^P for m = num / 2^k in [1, 2). -/
def log2Frac (P num k : Nat) : Nat × Nat :=
  let z := (num - 2 ^ k) * 2 ^ P / (num + 2 ^ k)
  let lo := 2 * atanhTerms P (z * z / 2 ^ P) (P + 2) 1 z 0
  let hi := lo + 16 * (P + 8)
  let L := ln2Fix P (P + 2)
  (lo * 2 ^ P / (L + P + 4), hi * 2 ^ P / L + 1)

/-- Round an enclosed inexact magnitude: the first precision at which both ends round alike decides. -/
def zivRound (f : Fmt) (neg : Bool) (enc : Nat → Mag × Mag) : List Nat → FV × Flags
  | [] => roundFV f .rne neg (enc 2048).1
  | P :: ps =>
    let (lo, hi) := enc P
    if (roundFV f .rne neg lo).1 = (roundFV f .rne neg hi).1 then
      let r := roundFV f .rne neg ⟨2 * lo.n + 1, lo.d, lo.e - 1⟩
      (r.1, r.2 ||| flNX)
    else zivRound f neg enc ps

/-- The precisions tried, in bits. -/
def zivLevels : List Nat := [128, 256, 512, 1024]

/-- 1 ÷ x, correctly rounded (R143). -/
def fpRcp (f : Fmt) (a : FV) : FV × Flags := fpDiv f .rne (.fin false 1 0) a

/-- 1 ÷ √x, correctly rounded (R143). -/
def fpRsqrt (f : Fmt) (a : FV) : FV × Flags :=
  match a with
  | .nan _ q _ => (a.quieted, flagIf (!q) flNV)
  | .inf false => (.fin false 0 0, 0)
  | .inf true => (fvNaN, flNV)
  | .fin n 0 _ => (.inf n, flDZ)
  | .fin true _ _ => (fvNaN, flNV)
  | .fin false m e => roundFV f .rne false (sqrtMag (f.fb + 8) 1 m (-e))

/-- 2^x, correctly rounded (R143). Exponents beyond ±20000 give the same overflow or underflow as ±20000. -/
def fpExp2 (f : Fmt) (a : FV) : FV × Flags :=
  match a with
  | .nan _ q _ => (a.quieted, flagIf (!q) flNV)
  | .inf n => (if n then .fin false 0 0 else .inf false, 0)
  | .fin _ 0 _ => (.fin false 1 0, 0)
  | .fin n m e =>
    let l := (magOf m e).log2
    if l > 20 then roundFV f .rne false ⟨1, 1, if n then -20000 else 20000⟩
    else if l < -((f.fb : Int) + 3) then (.fin false 1 0, flNX)
    else if e ≥ 0 then
      let i : Int := signedMant n (m * 2 ^ e.toNat)
      roundFV f .rne false ⟨1, 1, max (-20000) (min 20000 i)⟩
    else
      let k := (-e).toNat
      let ip := m / 2 ^ k
      let fp := m % 2 ^ k
      if fp = 0 then roundFV f .rne false ⟨1, 1, max (-20000) (min 20000 (signedMant n ip))⟩
      else
        let i : Int := if n then -(ip : Int) - 1 else ip
        let fr := if n then 2 ^ k - fp else fp
        let i := max (-20000) (min 20000 i)
        zivRound f false (fun P =>
          let (lo, hi) := exp2Frac P fr k
          (⟨lo, 1, i - P⟩, ⟨hi, 1, i - P⟩)) zivLevels

/-- log2 x, correctly rounded (R143). -/
def fpLog2 (f : Fmt) (a : FV) : FV × Flags :=
  match a with
  | .nan _ q _ => (a.quieted, flagIf (!q) flNV)
  | .inf false => (a, 0)
  | .inf true => (fvNaN, flNV)
  | .fin _ 0 _ => (.inf true, flDZ)
  | .fin true _ _ => (fvNaN, flNV)
  | .fin false m e =>
    let k := Nat.log2 m
    let ex : Int := e + k
    if m = 2 ^ k then
      (if ex = 0 then (.fin false 0 0, 0) else roundFV f .rne (decide (ex < 0)) (magOf ex.natAbs 0))
    else
      zivRound f (decide (ex < 0)) (fun P =>
        let (lo, hi) := log2Frac P m k
        if ex ≥ 0 then (⟨ex.toNat * 2 ^ P + lo, 1, -(P : Int)⟩, ⟨ex.toNat * 2 ^ P + hi, 1, -(P : Int)⟩)
        else
          let b := ex.natAbs * 2 ^ P
          (⟨max 1 (b - hi), 1, -(P : Int)⟩, ⟨max 1 (b - lo), 1, -(P : Int)⟩)) zivLevels

/-- A dyadic cut down to at most P significant bits, toward zero or away from it. -/
def cutBits (P : Nat) (up : Bool) (x : Nat × Int) : Nat × Int :=
  let l := Nat.log2 x.1
  if l < P then x
  else
    let s := l + 1 - P
    (x.1 / 2 ^ s + (if up && decide (x.1 % 2 ^ s ≠ 0) then 1 else 0), x.2 + s)

/-- x^t enclosed from one side by squaring over the bits of t. -/
def powSide (P : Nat) (up : Bool) : Nat → Nat → (Nat × Int) → (Nat × Int) → Nat × Int
  | 0, _, _, acc => acc
  | fuel + 1, t, b, acc =>
    if t = 0 then acc
    else
      let acc' := if t % 2 = 1 then cutBits P up (acc.1 * b.1, acc.2 + b.2) else acc
      powSide P up fuel (t / 2) (cutBits P up (b.1 * b.1, b.2 + b.2)) acc'

/-- A dyadic magnitude whose exponent is limited to ±3000 bits, beyond which binary64 overflows or underflows. -/
def limitMag (x : Nat × Int) : Mag :=
  let l : Int := (Nat.log2 x.1 : Int) + x.2
  if l > 3000 then ⟨1, 1, 3000⟩ else if l < -3000 then ⟨1, 1, -3000⟩ else magOf x.1 x.2

/-- The first precision at which both sides of a power round alike; a power without lost bits is exact. -/
def powRound (f : Fmt) (neg : Bool) (m : Nat) (e : Int) (t : Nat) : List Nat → FV × Flags
  | [] => roundFV f .rne neg (limitMag (powSide 4096 false 64 t (m, e) (1, 0)))
  | P :: ps =>
    let lo := powSide P false 64 t (m, e) (1, 0)
    let hi := powSide P true 64 t (m, e) (1, 0)
    let rl := roundFV f .rne neg (limitMag lo)
    let rh := roundFV f .rne neg (limitMag hi)
    if lo = hi then rl
    else if rl.1 = rh.1 then (rl.1, rl.2 ||| flNX)
    else powRound f neg m e t ps

/-- pow(x, t) for a positive integer t, correctly rounded (R171). -/
def fpPow (f : Fmt) (a : FV) (t : Nat) : FV × Flags :=
  let neg := a.neg? && t % 2 == 1
  match a with
  | .nan _ q _ => (a.quieted, flagIf (!q) flNV)
  | .inf _ => (.inf neg, 0)
  | .fin _ 0 _ => (.fin neg 0 0, 0)
  | .fin _ m e => powRound f neg m e t zivLevels

/-- Σ (-1)^i x^(2i+1)/(2i+1) for x = 1/n, scaled by 2^P. -/
def atanInv (P n : Nat) : Nat → Nat → Nat → Int → Int
  | 0, _, _, acc => acc
  | k + 1, i, t, acc => atanInv P n k (i + 2) (t / (n * n)) (if i % 4 = 1 then acc + (t / i : Nat) else acc - (t / i : Nat))

/-- π × 2^P, within 32 (P + 8) units (Machin's formula). -/
def piFix (P : Nat) : Nat :=
  (16 * atanInv P 5 (P + 2) 1 (2 ^ P / 5) 0 - 4 * atanInv P 239 (P + 2) 1 (2 ^ P / 239) 0).toNat

/-- Alternating Taylor sum of cosine (i starts at 1) or sine (i starts at 2) of y/2^P. -/
def trigTerms (P y : Nat) : Nat → Nat → Nat → Bool → Int → Int
  | 0, _, _, _, acc => acc
  | k + 1, i, t, minus, acc =>
    let t' := t * y / 2 ^ P * y / 2 ^ P / (i * (i + 1))
    trigTerms P y k (i + 2) t' (!minus) (if minus then acc - t' else acc + t')

/-- Enclosure of cos(π num/2^k) × 2^P for num/2^k in (0, 1/2). -/
def cospiFix (P num k : Nat) : Nat × Nat :=
  let pi := piFix P
  let v : Int :=
    if 4 * num ≤ 2 ^ k then
      trigTerms P (num * pi / 2 ^ k) (P + 2) 1 (2 ^ P) true (2 ^ P : Nat)
    else
      let y := (2 ^ k - 2 * num) * pi / 2 ^ (k + 1)
      trigTerms P y (P + 2) 2 y true (y : Nat)
  let err : Int := 64 * ((P : Int) + 8)
  ((max 1 (v - err)).toNat, (v + err).toNat)

/-- cospi(x) = cos(πx) for x in [0, 1], correctly rounded (R171). -/
def fpCospi (f : Fmt) (a : FV) : FV × Flags :=
  match a with
  | .fin _ 0 _ => (.fin false 1 0, 0)
  | .fin _ m e =>
    let k := (-e).toNat
    let num := m * 2 ^ (e + k).toNat
    if num ≥ 2 ^ k then (.fin true 1 0, 0)
    else if 2 * num = 2 ^ k then (.fin false 0 0, 0)
    else
      let big := decide (2 ^ k < 2 * num)
      let n' := if big then 2 ^ k - num else num
      zivRound f big (fun P =>
        let (lo, hi) := cospiFix P n' k
        (⟨lo, 1, -(P : Int)⟩, ⟨hi, 1, -(P : Int)⟩)) zivLevels
  | v => (v.quieted, 0)

end Sys2Proof.Machine
end

