-- ==== Sys2Proof/Machine/Factors.lean ====
section
/-!
DEFINITION. Correctly rounded arithmetic on values with their flags, the per-step factors and LAMB's factor
(R170 to R172, R176, R204).
-/
namespace Sys2Proof.Machine

/-- A value with the flags its computation raised. -/
abbrev FF := FV × Flags

def xMul (f : Fmt) (a b : FF) : FF := let r := fpMul f .rne a.1 b.1; (r.1, a.2 ||| b.2 ||| r.2)
def xAdd (f : Fmt) (a b : FF) : FF := let r := fpAdd f .rne a.1 b.1; (r.1, a.2 ||| b.2 ||| r.2)
def xSub (f : Fmt) (a b : FF) : FF := let r := fpSub f .rne a.1 b.1; (r.1, a.2 ||| b.2 ||| r.2)
def xDiv (f : Fmt) (a b : FF) : FF := let r := fpDiv f .rne a.1 b.1; (r.1, a.2 ||| b.2 ||| r.2)
def xFma (f : Fmt) (a b c : FF) : FF := let r := fpFma f .rne a.1 b.1 c.1; (r.1, a.2 ||| b.2 ||| c.2 ||| r.2)
def xSqrt (f : Fmt) (a : FF) : FF := let r := fpSqrt f .rne a.1; (r.1, a.2 ||| r.2)
def xNeg (a : FF) : FF := (a.1.withSign (!a.1.neg?), a.2)
/-- One rounding to a format. -/
def xTo (f : Fmt) (a : FF) : FF := let r := convertFV f .rne a.1; (r.1, a.2 ||| r.2)
/-- A binary32 or binary64 code as a value. -/
def x32 (c : Nat) : FF := (decodeFV fmtB32 c, 0)
def x64 (c : Nat) : FF := (decodeFV fmtB64 c, 0)
/-- The binary32 code of a value. -/
def c32 (a : FF) : Nat := encodeFV fmtB32 a.1
/-- An integer, exact. -/
def xNat (n : Nat) : FF := (.fin false n 0, 0)
def xOne : FF := xNat 1

/-! ### Hyperparameters and the factor block (R170 to R172) -/

/-- Word k of a set as binary32. -/
def hW (hs : List Byte) (h k : Nat) : FF := x32 (hsetWord hs h k)

/-- n of step s: max(s - T0, 0) (R171). -/
def stepN (hs : List Byte) (h s : Nat) : Nat := s - hsetWord hs h 5

/-- lr_n in binary64 (R172). -/
def lrOf (hs : List Byte) (h s : Nat) : FF :=
  let f := fmtB64
  let n := stepN hs h s
  let peak := hW hs h 0
  let low := hW hs h 1
  let w := hsetWord hs h 2
  let t := hsetWord hs h 3
  let warm := xDiv f (xMul f peak (xNat (n + 1))) (xNat w)
  match hsetWord hs h 4 with
  | 0 => peak
  | 1 =>
    if n < w then warm
    else
      let x := xDiv f (xNat (min (n - w) (t - w))) (xNat (t - w))
      let c := fpCospi f x.1
      xAdd f low (xDiv f (xMul f (xSub f peak low) (xAdd f xOne (c.1, x.2 ||| c.2))) (xNat 2))
  | 2 =>
    if n < w then warm
    else xAdd f low (xDiv f (xMul f (xSub f peak low) (xNat (t - n))) (xNat (t - w)))
  | _ => xMul f peak (xSqrt f (xDiv f (xNat w) (xNat (max (n + 1) w))))

/-- 1 ÷ (1 − pow(β, t)) (R171). -/
def biasOf (b : FF) (t : Nat) : FF :=
  let p := fpPow fmtB64 b.1 t
  xDiv fmtB64 xOne (xSub fmtB64 xOne (p.1, b.2 ||| p.2))

/-- GS: clip ÷ GRAD_DIV, evaluated in binary64 and rounded once to binary32 (R171, R204). -/
def gsWord (hs : List Byte) (h clip : Nat) : Nat := c32 (xTo fmtB32 (xDiv fmtB64 (x32 clip) (hW hs h 10)))

/-- The eight factors of a set for step s (R171); word 7 is zero in a custom set (R170). -/
def factorWords (hs : List Byte) (h s clip : Nat) (custom : Bool) : List Nat :=
  let f := fmtB64
  let lr := lrOf hs h s
  let t := stepN hs h s + 1
  let one (x : FF) : Nat := c32 (xTo fmtB32 x)
  [gsWord hs h clip, one lr, one (xSub f xOne (xMul f lr (hW hs h 9))), one (xSub f xOne (hW hs h 6)),
   one (xSub f xOne (hW hs h 7)), one (biasOf (hW hs h 6) t), one (biasOf (hW hs h 7) t),
   if custom then 0 else one (xMul f lr (hW hs h 15))]

/-- Scratch offset of a set's factor block of step s (R171). -/
def factorOff (s : State) (st h : Nat) : Nat := baseOf s oPsFactorBase + 64 * (256 * (st % 2) + h)

/-- Sets the sampled table uses on this chip, in ascending order (R170). -/
def setsInUse (s : State) : List Nat :=
  (List.range 256).filter (fun h => (ownedIx s).any (fun i => (sampled s i).hset == h))

/-- Whether a custom recipe's entry names a set. -/
def customSet (s : State) (h : Nat) : Bool :=
  (List.range s.work.tt.length).any (fun i => (sampled s i).hset == h && (sampled s i).custom)

/-- Write the factor blocks of the open step (R171, R198); in DEFERRED word 0 is written at SETTLE only. -/
def writeFactors (s : State) (clip : Nat) (word0 : Bool) : State :=
  (setsInUse s).foldl (fun s h =>
    let ws := factorWords s.work.hsets h s.step.s clip (customSet s h)
    let off := factorOff s s.step.s h
    let s := if word0 then scrWrite s off (leBytes 4 (ws.headD 0)) else s
    scrWrite s (off + 4) ((ws.drop 1).flatMap (leBytes 4) ++ zeroBytes 32)) s

/-- Write word 0 of every factor block of the open step (R204). -/
def writeGs (s : State) (clip : Nat) : State :=
  (setsInUse s).foldl (fun s h =>
    scrWrite s (factorOff s s.step.s h) (leBytes 4 (gsWord s.work.hsets h clip))) s

/-- LT of a norm group from S_w and S_r, binary64 codes (R176). -/
def lambFactor (hs : List Byte) (h st sw sr : Nat) : Nat :=
  let f := fmtB64
  let a := x64 sw
  let b := x64 sr
  let cap := hW hs h 14
  let tr := if a.1.isZero || b.1.isZero then xOne
    else
      let q := xDiv f (xSqrt f a) (xSqrt f b)
      if ltZ (.fin false 0 0) cap.1 && ltZ cap.1 q.1 then cap else q
  c32 (xTo fmtB32 (xMul f (lrOf hs h st) tr))

/-- The clip factor of round A from the gradient sums of the norm groups in ascending order (R204). -/
def clipFactor (sums : List Nat) (clipNorm : Nat) : Nat :=
  let f := fmtB64
  let g := sums.foldl (fun a s => xAdd f a (x64 s)) (.fin false 0 0, 0)
  let nrm := xSqrt f g
  let c := x32 clipNorm
  if c.1.isZero || !ltZ c.1 nrm.1 then 0x3F800000
  else c32 (xTo fmtB32 (xDiv f c nrm))

end Sys2Proof.Machine
end

