-- ==== Sys2Proof/Machine/Dot.lean ====
section
/-!
DEFINITION. The dot-product rule (R63 to R79, R83): what an MMA does to each output of a chain, and the value a
drain converts.
-/
namespace Sys2Proof.Machine

/-- Exact sum of one chunk in the window of W bits (R67). -/
def chunkSum (w : Nat) (ps : List FV) : FV × Flags :=
  if ps.any FV.isNan then (fvNaN, 0)
  else
    let pInf := ps.any (fun p => p.isInf && !p.neg?)
    let nInf := ps.any (fun p => p.isInf && p.neg?)
    if pInf && nInf then (fvNaN, flNV)
    else if pInf then (.inf false, 0)
    else if nInf then (.inf true, 0)
    else
      let nz := ps.filter (fun p => !p.isZero)
      match nz with
      | [] => (.fin (ps.all FV.neg?) 0 0, 0)
      | _ =>
        let lead (p : FV) : Int := match p with | .fin _ m e => (Nat.log2 m : Int) + e | _ => 0
        let top := nz.foldl (fun a p => max a (lead p)) (lead (nz.headD (.fin false 1 0)))
        let u := top - (w : Int) + 1
        let s : Int := nz.foldl (fun a p =>
          match p with
          | .fin n m e =>
            let k : Nat := if e ≥ u then m * 2 ^ (e - u).toNat else m / 2 ^ (u - e).toNat
            a + signedMant n k
          | _ => a) 0
        if s = 0 then (.fin false 0 0, 0) else (.fin (decide (s < 0)) s.natAbs u, 0)

/-- Exact products of two element lists in k order, with the flags they raise (R64, R70). -/
def products (as bs : List FV) : List FV × Flags :=
  (as.zip bs).foldr (fun (a, b) (acc : List FV × Flags) =>
    let (p, fl) := mulFV a b
    (p :: acc.1, fl ||| acc.2)) ([], 0)

/-- The canonical NaN in place of any NaN (R36). -/
def canonFV (v : FV) : FV := if v.isNan then fvNaN else v

/-- One chunk entering the T48 running total: NV and OF are the only flags (R68, R70). -/
def accT48 (acc : FV) (cs : FV) : FV × Flags :=
  let (v, fl) := finishFV fmtT48 .rne (addFV .rne acc cs)
  (canonFV v, fl &&& (flNV ||| flOF))

/-- rne_t96(spill + acc) (R69). -/
def accT96 (spill acc : FV) : FV × Flags :=
  let (v, fl) := finishFV fmtT96 .rne (addFV .rne spill acc)
  (canonFV v, fl &&& flNV)

/-- A 64-bit T48 container as a value, and back (R43). -/
def t48FV (x : Nat) : FV := decodeFV fmtT48 (x / 64)
def t48Code (v : FV) : Nat := encodeFV fmtT48 v * 64

/-- T48 of -0: what a cleared chain and a spill restart at (R68, R69). -/
def t48NegZero : Nat := 2 ^ 63

/-- T96 of -0. -/
def t96NegZero : Nat := 2 ^ 95

/-- One chunk's effect on one output: the new total and flags. -/
def chunkStep (w : Nat) (acc : Nat) (as bs : List FV) : Nat × Flags :=
  let (ps, f1) := products as bs
  let (cs, f2) := chunkSum w ps
  let (v, f3) := accT48 (t48FV acc) cs
  (t48Code v, (f1 &&& flNV) ||| f2 ||| f3)

/-- The limbs of a binary32 code, as bfloat16 values h, m, l (R76). A bfloat16 code is the top half of the
binary32 code of the same value. -/
def limbs (x : Nat) : FV × FV × FV :=
  let bf (c : Nat) : FV := decodeFV fmtBF16 (c / 2 ^ 16)
  let zero : FV := .fin false 0 0
  match decodeFV fmtB32 x with
  | .nan _ _ _ => ((decodeFV fmtBF16 (x / 2 ^ 16 ||| 0x40)).quieted, zero, zero)
  | .inf n => (.inf n, zero, zero)
  | v =>
    let h := bf x
    let r1 := (convertFV fmtB32 .rne (addFV .rne v (h.withSign (!h.neg?))).1).1
    let c1 := encodeFV fmtB32 r1
    let m := bf c1
    let r2 := (convertFV fmtB32 .rne (addFV .rne r1 (m.withSign (!m.neg?))).1).1
    (h, m, bf (encodeFV fmtB32 r2))

/-- Limb passes in order, each a pair of limb indices (0 h, 1 m, 2 l) of A and B (R77). -/
def limbPasses (three : Bool) : List (Nat × Nat) :=
  if three then [(2, 0), (0, 2), (1, 1), (1, 0), (0, 1), (0, 0)] else [(1, 0), (0, 1), (0, 0)]

def pickLimb (i : Nat) (x : FV × FV × FV) : FV :=
  match i with
  | 0 => x.1
  | 1 => x.2.1
  | _ => x.2.2

/-- The window of a class (R65): 64 for native binary32, else 40. -/
def windowOf (native32 : Bool) : Nat := if native32 then 64 else 40

/-- One output of a binary64 MMA: sequential fused multiply-adds (R72). -/
def fma64Chain (acc : Nat) (as bs : List FV) : Nat × Flags :=
  (as.zip bs).foldl (fun (st : Nat × Flags) (a, b) =>
    let (v, fl) := fpFma fmtB64 .rne a b (decodeFV fmtB64 st.1)
    (encodeFV fmtB64 v, st.2 ||| fl)) (acc, 0)

/-- Products of integer codes added in k order; the flag tells a saturation event (R73). With `sat` each
addition saturates to the range end of its sign (R74). -/
def intChain (sat : Bool) (acc : Int) (as bs : List Int) : Int × Bool :=
  (as.zip bs).foldl (fun (st : Int × Bool) (a, b) =>
    let x := st.1 + a * b
    if -(2 ^ 31 : Int) ≤ x ∧ x ≤ 2 ^ 31 - 1 then (x, st.2)
    else (if sat then (if x < 0 then -(2 ^ 31) else 2 ^ 31 - 1) else x, true)) (acc, false)

/-- RNE(i / 2^t) of an integer. -/
def rneShift (i : Int) (t : Nat) : Int :=
  let (m, _) := roundAt .rne false ⟨i.natAbs, 1, -(t : Int)⟩ 0
  if i < 0 then -(m : Int) else m

/-- Term of a product in FW96 or FW128: trunc_toward_zero(p × 2^(w - E)); `over` when |p| ≥ 2^E, `bad` for a NaN
or infinity, which has no term (R78, R87, R100). -/
structure Term where
  q : Int
  ovr : Bool
  bad : Bool
  deriving DecidableEq, Repr

def fwTerm (w : Nat) (e : Int) (p : FV) : Term :=
  match p with
  | .fin neg m x =>
    if m ≠ 0 ∧ e ≤ (Nat.log2 m : Int) + x then ⟨0, true, false⟩
    else
      let s := x + (w : Int) - e
      let k : Nat := if s ≥ 0 then m * 2 ^ s.toNat else m / 2 ^ (-s).toNat
      ⟨signedMant neg k, false, false⟩
  | _ => ⟨0, false, true⟩

/-- -0 as a value. -/
def isNegZero (v : FV) : Bool := v.isZero && v.neg?

/-- Sum of T48 epilogue values (R83): each step rounded to T48 by RNE. -/
def epiSum (sq : Bool) (ds : List FV) : Nat × Flags :=
  let (v, fl) := ds.foldl (fun (st : FV × Flags) d =>
    let x := if sq then mulFV d d else (d, 0)
    let (y, f2) := finishFV fmtT48 .rne (addFV .rne st.1 x.1)
    (canonFV y, st.2 ||| f2 ||| x.2)) (.fin true 0 0, 0)
  (t48Code v, fl)

/-- Maximum or minimum over a non-empty list (R57). -/
def foldMaxMin (isMax : Bool) (ds : List FV) : FV × Flags :=
  match ds with
  | [] => (.fin false 0 0, 0)
  | d :: rest => rest.foldl (fun (st : FV × Flags) x =>
      let (v, fl) := fpMaxMin isMax st.1 x
      (v, st.2 ||| fl)) (d.quieted, flagIf d.isSNan flNV)

/-- Index of the first NaN, else the lowest index of the maximum or minimum under the order of R57 (R58). -/
def argMaxMin (isMax : Bool) (ds : List FV) : Nat :=
  match ds.findIdx? FV.isNan with
  | some i => i
  | none =>
    ((ds.zipIdx).foldl (fun (st : Option (FV × Nat)) (x, i) =>
      match st with
      | none => some (x, i)
      | some (b, j) =>
        let better := if isMax then ltZ b x else ltZ x b
        if better then some (x, i) else some (b, j)) none).elim 0 (fun p => p.2)

end Sys2Proof.Machine
end

