-- ==== Sys2Proof/Machine/Fwr.lean ====
section
/-!
DEFINITION. Fixed-window reduction arithmetic (R86 to R92, R95, R98 to R104): terms, totals, finalisation, the
ceiling and norm tables.
-/
namespace Sys2Proof.Machine

/-- The range of a ceiling (R102, R103). -/
def clampCeil (e : Int) : Int := max (-192) (min 160 e)

/-- MAXEXP of no non-zero finite value (R98, R102). -/
def maxExpNone : Int := -512

/-- The smallest e with |v| below 2^e, for a non-zero finite v; else none's value (R98). -/
def expAbove (v : FV) : Int :=
  match v with
  | .fin _ (m + 1) e => (Nat.log2 (m + 1) : Int) + e + 1
  | _ => maxExpNone

/-- One element's totals in a unit (R90). -/
structure FwElem where
  q : Int
  z : Bool
  n : Bool
  count : Nat
  deriving DecidableEq, Repr

/-- Q starts at 0, Z at 1, N at 0 (R90). -/
def fwElem0 : FwElem := ⟨0, true, false, 0⟩

/-- Count one contribution into an element: whether it was a ceiling overflow, which gives no term (R87, R90). -/
def fwCountIn (ceil : Int) (el : FwElem) (x : FV) : FwElem × Bool :=
  let t := fwTerm 79 ceil x
  (⟨el.q + t.q, el.z && isNegZero x, el.n || t.bad, el.count + 1⟩, t.ovr)

/-- Add a partial sum's element (R98). -/
def fwAddElem (a b : FwElem) : FwElem := ⟨a.q + b.q, a.z && b.z, a.n || b.n, a.count + b.count⟩

/-- The reduced gradient of an element: binary32 code and flags, from v = Q × 2^(ceil - 79) (R91, R92, R95). -/
def fwFinal (ceil : Int) (failed : Bool) (el : FwElem) : Nat × Flags :=
  if failed || el.n then (0x7FC00000, 0)
  else if el.q = 0 then ((if el.z then 2 ^ 31 else 0), 0)
  else
    let (v, fl) := convertFV fmtB32 .rne (.fin (decide (el.q < 0)) el.q.natAbs (ceil - 79))
    (encodeFV fmtB32 v, fl)

/-- The largest raise count (R94). -/
def maxRaise : Nat := 4

/-- The smallest r of 0 to 4 at which no listed contribution is a ceiling overflow; 5 when none is (R94, R95). -/
def raiseFor (ceil0 : Int) (xs : List FV) : Nat :=
  let top := xs.foldl (fun a x => max a (expAbove x)) maxExpNone
  -- |x| < 2^(ceil0 + 8r) for all exactly when ceil0 + 8r ≥ top
  let need := top - ceil0
  if xs.all (fun x => expAbove x = maxExpNone) then 0
  else if need ≤ 0 then 0
  else (min 5 (ceilDiv need.toNat 8))

/-- E_n of a norm group (R100). -/
def normExp (ev : Int) (r : Nat) : Int := 2 * (ev + 8 * r) + 1

/-- Norm partial of one group and kind: total, raise count, value exponent, non-finite seen, failed at r = 4. -/
structure NormPart where
  q : Nat
  r : Nat
  vexp : Int
  bad : Bool
  failed : Bool
  redo : Nat
  deriving DecidableEq, Repr

def normPart0 : NormPart := ⟨0, 0, maxExpNone, false, false, 0⟩

/-- FW128 total of squares at one exponent and whether any overflowed it (R100). -/
def normTotal (en : Int) (xs : List FV) : Nat × Bool :=
  xs.foldl (fun (a : Nat × Bool) x =>
    let t := fwTerm 86 en (mulFV x x).1
    (a.1 + t.q.toNat, a.2 || t.ovr)) (0, false)

/-- Raise r from r0 until no square overflows, at most to 4 (R101). -/
def normRaise (ev : Int) (xs : List FV) : Nat → Nat → Nat × Nat × Bool × Nat
  | 0, r => let (q, o) := normTotal (normExp ev r) xs; (q, r, o, 0)
  | f + 1, r =>
    let (q, o) := normTotal (normExp ev r) xs
    if o && decide (r < maxRaise) then
      let (q', r', o', k) := normRaise ev xs f (r + 1)
      (q', r', o', k + 1)
    else (q, r, o, 0)

/-- The partial of a list of values at the value ceiling E_v, from raise count r0 (R100, R101). -/
def normOf (ev : Int) (r0 : Nat) (xs : List FV) : NormPart :=
  let (q, r, o, k) := normRaise ev xs 4 r0
  ⟨q, r, xs.foldl (fun a x => max a (expAbove x)) maxExpNone, xs.any (fun x => !x.isFinite), o, k⟩

/-- The sum S = Q × 2^(E_n - 86) rounded once to binary64 (R101). -/
def normSum (ev : Int) (r q : Nat) : Nat × Flags :=
  let (v, fl) := convertFV fmtB64 .rne (.fin false q (normExp ev r - 86))
  (encodeFV fmtB64 v, fl)

/-- CEIL after a step for an AUTO entry (R104). -/
def autoCeil (failed : Bool) (ceil lastCeil maxExp : Int) : Int :=
  if failed then clampCeil (lastCeil + 8)
  else if maxExp ≠ maxExpNone then clampCeil (maxExp + 4)
  else ceil

/-- A ceiling table entry (R102). -/
structure CeilEntry where
  fail : Bool
  auto : Bool
  raises : Nat
  maxExp : Int
  lastCeil : Int
  ceil : Int
  deriving DecidableEq, Repr

def ceilEntryOf (w : Nat) : CeilEntry :=
  ⟨bitOf w 34, bitOf w 33, fieldOf w 32 30, signed 10 (fieldOf w 29 20), signed 10 (fieldOf w 19 10),
   signed 10 (fieldOf w 9 0)⟩

def ceilEntryCode (c : CeilEntry) : Nat :=
  b2n c.fail * 2 ^ 34 + b2n c.auto * 2 ^ 33 + c.raises * 2 ^ 30 + twosCode 10 c.maxExp * 2 ^ 20
    + twosCode 10 c.lastCeil * 2 ^ 10 + twosCode 10 c.ceil

/-- A norm group table entry: AUTO and the three value ceilings, gradient, weight, update (R103). -/
structure NormEntry where
  auto : Bool
  upd : Int
  weight : Int
  grad : Int
  deriving DecidableEq, Repr

def normEntryOf (w : Nat) : NormEntry :=
  ⟨bitOf w 30, signed 10 (fieldOf w 29 20), signed 10 (fieldOf w 19 10), signed 10 (fieldOf w 9 0)⟩

def normEntryCode (n : NormEntry) : Nat :=
  b2n n.auto * 2 ^ 30 + twosCode 10 n.upd * 2 ^ 20 + twosCode 10 n.weight * 2 ^ 10 + twosCode 10 n.grad

end Sys2Proof.Machine
end

