-- ==== Sys2Proof/Machine/Recipes.lean ====
section
/-!
DEFINITION. The built-in recipes over a shard's state: reading and writing slots and planes, the update, LAMB's
second phase, refreshes, norms and plausibility (R157 to R163, R173 to R182, R100, R348).
-/
namespace Sys2Proof.Machine

/-! ### Shard state (R157 to R163) -/

/-- Bytes of DRAM read by the Querns: data, whether any burst is poisoned or refused, and the first such address. -/
def qRead (s : State) (off n : Nat) : List Byte × Option Nat × State :=
  let (r, s) := rangeRead s 0 off n 1 false
  let bad := if r.ok then (r.poison.findIdx? id).map (fun i => off / 64 * 64 + 64 * i) else some off
  (padTo n r.data, bad, s)

/-- Bytes of DRAM written by the Querns. -/
def qWrite (s : State) (off : Nat) (bs : List Byte) : State := (rangeWrite s 0 off bs [] 1 false).2.2

/-- A field of the state pages: 0 LO, 1 M, 2 V, 3 VS (R161, R162): its offset in the page and its bytes an
element. VS has one byte for 64 elements. -/
def fieldAt (compact : Bool) (k : Nat) : Nat × Nat :=
  match compact, k with
  | _, 0 => (0x100, 2)
  | false, 1 => (0x3400, 4)
  | false, _ => (0x9A00, 4)
  | true, 1 => (0x6680, 2)
  | true, 2 => (0xCC00, 1)
  | true, _ => (0xFEC0, 1)

/-- Pages of a shard: index and element count. -/
def pagesOf (t : TEnt) : List (Nat × Nat) :=
  (List.range (ceilDiv t.count t.pageCap)).map (fun k => (k, min t.pageCap (t.count - k * t.pageCap)))

/-- Bytes of a field in a page with n elements. -/
def fieldLen (compact : Bool) (k n : Nat) : Nat := if k = 3 then ceilDiv n 64 else (fieldAt compact k).2 * n

/-- The bytes of a field over the whole shard. -/
def readField (s : State) (t : TEnt) (slot k : Nat) : List (List Byte) × Option Nat × State :=
  let (l, bad, s) := (pagesOf t).foldl (fun (a : List (List Byte) × Option Nat × State) p =>
    let (bs, b, s) := qRead a.2.2 (slot + page64k * p.1 + (fieldAt t.compact k).1) (fieldLen t.compact k p.2)
    (bs :: a.1, a.2.1 <|> b, s)) ([], none, s)
  (l.reverse, bad, s)

/-- Write a field page by page, the positions beyond the shard zero (R160). -/
def writeField (s : State) (t : TEnt) (slot k : Nat) (pages : List (List Byte)) : State :=
  let full := if t.compact && k == 3 then 320 else (fieldAt t.compact k).2 * t.pageCap
  (pages.zipIdx).foldl (fun s (bs, i) => qWrite s (slot + page64k * i + (fieldAt t.compact k).1) (padTo full bs)) s

/-- Cut elements into their pages. -/
def byPage (t : TEnt) (xs : List Nat) : List (List Nat) :=
  (pagesOf t).map (fun p => (xs.drop (p.1 * t.pageCap)).take p.2)

/-- Values of M or V: binary32, or their compact forms widened exactly (R56, R162). -/
def valuesOf (t : TEnt) (k : Nat) (pages scales : List (List Byte)) : List FV :=
  if !t.compact then pages.flatMap (fun bs => (unpackElems 32 (bs.length / 4) bs).map (decodeFV fmtB32))
  else if k = 1 then pages.flatMap (fun bs => (unpackElems 16 (bs.length / 2) bs).map (decodeFV fmtBF16))
  else
    (pages.zip scales).flatMap (fun (bs, vs) =>
      let sc := vs.toArray
      bs.zipIdx.map (fun (b, i) => (scaledSrc 4 b.toNat (some (sc.getD (i / 64) 0).toNat) none).1.v))

/-- Read M or V of a slot. -/
def readVals (s : State) (t : TEnt) (slot k : Nat) : List FV × Option Nat × State :=
  let (ps, b1, s) := readField s t slot k
  if t.compact && k == 2 then
    let (vs, b2, s) := readField s t slot 3
    (valuesOf t k ps vs, b1 <|> b2, s)
  else (valuesOf t k ps [], b1, s)

/-- Masters of a slot: hi16 of its plane and lo16 of its pages (R157, R158). -/
def readMasters (s : State) (t : TEnt) (p : Nat) : List FV × Option Nat × State :=
  let (hi, b1, s) := qRead s (t.plane p + 2 * t.start) (2 * t.count)
  let (lo, b2, s) := readField s t (t.slot p) 0
  let his := unpackElems 16 t.count hi
  let los := lo.flatMap (fun bs => unpackElems 16 (bs.length / 2) bs)
  ((his.zip los).map (fun (h, l) => decodeFV fmtB32 (h * 2 ^ 16 + l)), b1 <|> b2, s)

/-- Write masters to the planes and LO of a slot (R157, R158). -/
def writeMasters (s : State) (t : TEnt) (p : Nat) (ws : List Nat) : State :=
  let s := qWrite s (t.plane p + 2 * t.start) (ws.flatMap (fun w => leBytes 2 (w / 2 ^ 16)))
  writeField s t (t.slot p) 0 ((byPage t ws).map (fun l => l.flatMap (leBytes 2)))

/-- The stored forms of M or V: bytes by page, scales by page, the values as stored, flags, and blocks that
underflowed (R162). -/
def narrowField (t : TEnt) (k : Nat) (xs : List FF) : List (List Byte) × List (List Byte) × List FF × Flags × Nat :=
  if !t.compact then
    ((byPage t (xs.map c32)).map (fun l => l.flatMap (leBytes 4)), [], xs, 0, 0)
  else if k = 1 then
    let ys := xs.map (fun x => convertFV fmtBF16 .rne x.1)
    ((byPage t (ys.map (fun y => encodeFV fmtBF16 y.1))).map (fun l => l.flatMap (leBytes 2)), [],
      (xs.zip ys).map (fun (x, y) => (y.1, x.2 ||| y.2)), 0, 0)
  else
    let pages := (pagesOf t).map (fun p => (xs.drop (p.1 * t.pageCap)).take p.2)
    let outs := pages.map (fun l =>
      let blocks := (List.range (ceilDiv l.length 64)).map (fun j =>
        blockConvert (((l.drop (64 * j)).take 64).map (fun x => srcOf x.1)) none 4 (.attr .rne) [])
      blocks)
    let bytes := outs.map (fun bs => bs.flatMap (fun b => b.codes.map (BitVec.ofNat 8)))
    let scs := outs.map (fun bs => bs.map (fun b => BitVec.ofNat 8 b.scale))
    let flat := outs.flatMap id
    (bytes, scs, (valuesOf t 2 bytes scs).zip (xs.map (fun x => x.2)), flagsOr (flat.map (fun b => b.flags)),
      (flat.filter (fun b => b.under)).length)

/-- Write the headers of a shard's pages in slot p for the step that will read it (R163). -/
def writeHeaders (s : State) (t : TEnt) (p st form : Nat) : State :=
  (pagesOf t).foldl (fun s k =>
    qWrite s (t.slot p + page64k * k.1) (leBytes 4 0x53504731 ++ leBytes 4 t.id ++ leBytes 4 k.1 ++ leBytes 2 k.2
      ++ leBytes 1 form ++ leBytes 1 (p % 2) ++ leBytes 8 st ++ zeroBytes 232)) s

/-! ### Element recipes (R173 to R177) -/

/-- Words a recipe reads: hyperparameters and factors of step s. -/
structure Fac where
  hs : List Byte
  hset : Nat
  words : List Nat
  deriving DecidableEq, Repr

def Fac.h (k : Fac) (i : Nat) : FF := hW k.hs k.hset i
def Fac.w (k : Fac) (i : Nat) : FF := x32 (k.words.getD i 0)
def Fac.nesterov (k : Fac) : Bool := bitOf (hsetWord k.hs k.hset 12) 0

/-- The factor block of a set for the open step, as it stands in scratch. -/
def facOf (s : State) (h : Nat) : Fac :=
  let off := factorOff s s.step.s h
  ⟨s.work.hsets, h, (List.range 8).map (fun i => scrNat s (off + 4 * i) 4)⟩

/-- Whether the factors and hyperparameters a recipe's computation reads are finite (R348). -/
def Fac.finite (k : Fac) (r : Nat) : Bool :=
  let (ws, hs) := match r with
    | 1 => ([0, 1, 2], [11])
    | 2 => ([0, 1, 2, 3, 4, 5, 6], [6, 7, 8])
    | 3 => ([0, 3, 4, 5, 6], [6, 7, 8, 9])
    | 4 => ([0, 1, 2, 3, 4], [6, 7])
    | 5 => ([0, 1, 2, 4], [7, 13])
    | 6 => ([0, 1, 2, 3, 4], [6, 7])
    | _ => ([0, 2, 7], [8, 11])
  ws.all (fun i => (k.w i).1.isFinite) && hs.all (fun i => (k.h i).1.isFinite)

/-- Whether a recipe uses M, V (R164). -/
def usesM (r : Nat) : Bool := [1, 2, 3, 4, 6, 7].contains r
def usesV (r : Nat) : Bool := r == 2 || r == 3

/-- m1 and v1 of an element, before they are stored. -/
def momentsOf (k : Fac) (r : Nat) (g m v : FF) : FF × FF :=
  let f := fmtB32
  match r with
  | 1 => (xFma f (k.h 11) m g, v)
  | 4 => (xFma f (k.h 7) m (xMul f (k.w 4) g), v)
  | _ => (xFma f (k.h 6) m (xMul f (k.w 3) g), xFma f (k.h 7) v (xMul f (k.w 4) (xMul f g g)))

/-- w1 from the direction u (R174): fma(-LR, u, w × WD). -/
def stepWith (k : Fac) (lr : Nat) (u w : FF) : FF := xFma fmtB32 (xNeg (k.w lr)) u (xMul fmtB32 w (k.w 2))

/-- u of an element, from the moments as stored (R174 to R177); for 0x03 it is r. -/
def directionOf (k : Fac) (r : Nat) (g w m m1 v1 : FF) : FF :=
  let f := fmtB32
  match r with
  | 1 => if k.nesterov then xFma f (k.h 11) m1 g else m1
  | 4 =>
    let c := xFma f (k.h 6) m (xMul f (k.w 3) g)
    if c.1.isNan || c.1.isZero then c
    else (if c.1.neg? then .fin true 1 0 else .fin false 1 0, c.2)
  | _ =>
    let d := xAdd f (xSqrt f (xMul f v1 (k.w 6))) (k.h 8)
    let u := xDiv f (xMul f m1 (k.w 5)) d
    if r = 3 then xFma f (k.h 9) w u else u

/-! ### Matrix products of recipes (R173, R66 to R72) -/

/-- One output of a native chain drained to binary32: chunks of 32 in ascending order. -/
def chainDot (w : Nat) (as bs : List FV) : FF :=
  let n := as.length
  let (acc, fl) := (List.range (ceilDiv n 32)).foldl (fun (a : Nat × Flags) i =>
    let (x, f) := chunkStep w a.1 ((as.drop (32 * i)).take 32) ((bs.drop (32 * i)).take 32)
    (x, a.2 ||| f)) (t48NegZero, 0)
  xTo fmtB32 (t48FV acc, fl)

/-- Precision of a product: binary32 native, binary64, or operands rounded to bfloat16. -/
inductive MatP where
  | f32
  | f64
  | bf16
  deriving DecidableEq, Repr

/-- A matrix as its rows. -/
abbrev Mat := List (List FF)

def matCols (m : Mat) : Mat :=
  (List.range (m.headD []).length).map (fun j => m.map (fun r => r.getD j (.fin false 0 0, 0)))

/-- A × B with B given by its columns. -/
def matMul (p : MatP) (a bc : Mat) : Mat :=
  let prep (m : Mat) : Mat := if p = .bf16 then m.map (fun r => r.map (fun x => xTo fmtBF16 x)) else m
  let a := prep a
  let bc := prep bc
  a.map (fun r =>
    let rv := r.map (fun x => x.1)
    let rf := flagsOr (r.map (fun x => x.2))
    bc.map (fun c =>
      let cv := c.map (fun x => x.1)
      let o := match p with
        | .f32 => chainDot 64 rv cv
        | .bf16 => chainDot 40 rv cv
        | .f64 => let (v, fl) := fma64Chain t48NegZero rv cv; (decodeFV fmtB64 v, fl)
      (o.1, o.2 ||| rf ||| flagsOr (c.map (fun x => x.2)))))

def matMap2 (f : FF → FF → FF) (a b : Mat) : Mat := (a.zip b).map (fun (r, q) => (r.zip q).map (fun (x, y) => f x y))
def matMap (f : FF → FF) (a : Mat) : Mat := a.map (fun r => r.map f)
/-- Rows of n columns. -/
def rowsOf (n : Nat) : Nat → List FF → Mat
  | 0, _ => []
  | k + 1, xs => xs.take n :: rowsOf n k (xs.drop n)

/-! ### Factored second moment (R178) -/

/-- Result of a whole-tensor recipe: u and w1 in element order, new m1, auxiliary bytes. -/
structure Whole where
  u : List FF
  w1 : List FF
  m1 : List FF
  aux : List Byte
  deriving DecidableEq, Repr

def sum64 (xs : List FF) : FF := xs.foldl (fun a x => xAdd fmtB64 a x) (.fin false 0 0, 0)

def factored (k : Fac) (rows cols : Nat) (gs ws : List FF) (rc : List FF × List FF) : Whole :=
  let f := fmtB32
  let g := rowsOf cols rows gs
  let q := matMap (fun x => xFma f x x (k.h 13)) g
  let inv (n : Nat) : FF := xDiv fmtB64 xOne (xNat n)
  let stat (old sums : List FF) (n : Nat) : List FF :=
    (old.zip sums).map (fun (r, t) => xFma f (k.h 7) r (xMul f (k.w 4) (xTo f (xMul fmtB64 t (inv n)))))
  let r1 := stat rc.1 (q.map sum64) cols
  let c1 := stat rc.2 ((matCols q).map sum64) rows
  let rinv := xTo f (xDiv fmtB64 xOne (xMul fmtB64 (sum64 r1) (inv rows)))
  let u := (g.zip r1).map (fun (row, r) =>
    (row.zip c1).map (fun (x, c) => xDiv f x (xSqrt f (xMul f (xMul f r c) rinv))))
  let us := u.flatten
  ⟨us, (us.zip ws).map (fun (x, w) => stepWith k 1 x w), [],
    padTo (roundUp (4 * rows) 64) (r1.flatMap (fun x => leBytes 4 (c32 x))) ++ c1.flatMap (fun x => leBytes 4 (c32 x))⟩

/-! ### Block-preconditioned (R179, R180) -/

/-- A block: first row, rows, first column, columns, and the offset of its matrices in the auxiliary area. -/
structure PBlock where
  r0 : Nat
  nr : Nat
  c0 : Nat
  nc : Nat
  off : Nat
  deriving DecidableEq, Repr

/-- Blocks of a shard in order, with their places (log 26). -/
def pblocks (rows cols b : Nat) : List PBlock :=
  let b := max b 1
  let per := ceilDiv cols b
  ((precBlocks rows cols b).zipIdx.foldl (fun (a : List PBlock × Nat) (x, i) =>
    (⟨i / per * b, x.1, i % per * b, x.2, a.2⟩ :: a.1, a.2 + precBytes x)) ([], 0)).1.reverse

/-- Offsets of L, Rs, PL and PR of a block. -/
def pblockOff (b : PBlock) (k : Nat) : Nat × Nat :=
  let l := roundUp (4 * b.nr * b.nr) 64
  let r := roundUp (4 * b.nc * b.nc) 64
  match k with
  | 0 => (b.off, b.nr)
  | 1 => (b.off + l, b.nc)
  | 2 => (b.off + l + r, b.nr)
  | _ => (b.off + l + r + l, b.nc)

/-- A square matrix of a block in auxiliary bytes. -/
def pmat (aux : List Byte) (b : PBlock) (k : Nat) : Mat :=
  let (o, n) := pblockOff b k
  rowsOf n n ((unpackElems 32 (n * n) ((aux.drop o).take (4 * n * n))).map x32)

def matBytes (m : Mat) : List Byte :=
  let bs := m.flatMap (fun r => r.flatMap (fun x => leBytes 4 (c32 x)))
  padTo (roundUp bs.length 64) bs

/-- One block's update: new statistics, D, and the roots given. -/
def precBlock (k : Fac) (g l r pl pr : Mat) : Mat × Mat × Mat :=
  let f := fmtB32
  let gt := matCols g
  let stat (old p : Mat) : Mat := matMap2 (fun o x => xFma f (k.h 7) o (xMul f (k.w 4) x)) old p
  (stat l (matMul .f32 g g), stat r (matMul .f32 gt gt), matMul .f32 (matMul .f32 pl gt) (matCols pr))

/-- The update of a shard (R179). `roots` is the auxiliary area the new slot takes its roots from. -/
def preconditioned (k : Fac) (rows cols b : Nat) (gs ws ms : List FF) (aux roots : List Byte) : Whole :=
  let f := fmtB32
  let g := rowsOf cols rows gs
  let outs := (pblocks rows cols b).map (fun x =>
    let gb := ((g.drop x.r0).take x.nr).map (fun r => (r.drop x.c0).take x.nc)
    (x, precBlock k gb (pmat aux x 0) (pmat aux x 1) (pmat aux x 2) (pmat aux x 3)))
  let d := (List.range rows).map (fun i =>
    let hits := outs.filter (fun o => decide (o.1.r0 ≤ i) && decide (i < o.1.r0 + o.1.nr))
    hits.flatMap (fun o => o.2.2.2.getD (i - o.1.r0) []))
  let m1 := (ms.zip d.flatten).map (fun (m, x) => xFma f (k.h 6) m (xMul f (k.w 3) x))
  ⟨m1, (m1.zip ws).map (fun (u, w) => stepWith k 1 u w), m1,
    outs.flatMap (fun o => matBytes o.2.1 ++ matBytes o.2.2.1 ++ matBytes (pmat roots o.1 2) ++ matBytes (pmat roots o.1 3))⟩

/-- The inverse fourth root of a statistic (R180). -/
def invRoot (k : Fac) (a : Mat) : Mat :=
  let dbl := hsetWord k.hs k.hset 19 == 1
  let f := if dbl then fmtB64 else fmtB32
  let p := if dbl then MatP.f64 else MatP.f32
  let n := a.length
  let diag (m : Mat) (g : FF → FF) : Mat :=
    (m.zipIdx).map (fun (r, i) => (r.zipIdx).map (fun (x, j) => if i = j then g x else x))
  let ident (x : FF) : Mat := diag ((List.range n).map (fun _ => (List.range n).map (fun _ => (.fin false 0 0, 0)))) (fun _ => x)
  let a1 := diag a (fun x => xAdd f x (k.h 13))
  let t := ((a1.zipIdx).map (fun (r, i) => r.getD i (.fin false 0 0, 0))).foldl (fun s x => xAdd f s x) (.fin false 0 0, 0)
  let x0 := ident (rootQuarter f t)
  let m0 := matMap (fun x => xMul f x (xDiv f xOne t)) a1
  let mul (x y : Mat) : Mat := matMul p x (matCols y)
  let (x, _) := (List.range (hsetWord k.hs k.hset 18)).foldl (fun (st : Mat × Mat) _ =>
    let tt := matMap2 (fun c y => xMul f (xSub f c y) (.fin false 1 (-2), 0)) (ident (xNat 5)) st.2
    let x := mul st.1 tt
    let t2 := mul tt tt
    (x, mul (mul t2 t2) st.2)) (x0, m0)
  matMap (fun y => xTo fmtB32 y) x
where
  /-- t^(-1/4) correctly rounded: the reciprocal of the fourth root, by exact integer roots with a sticky bit. -/
  rootQuarter (f : Fmt) (t : FF) : FF :=
    match t.1 with
    | .fin false (m + 1) e =>
      -- t = (m+1) × 2^e; q = floor((2^(4K) / t)^(1/4)) with K making q longer than the format's significand
      let sh := 4 * (f.fb + 12) + Nat.log2 (m + 1) + 8
      let e' : Int := e - (e % 4)                       -- a multiple of 4
      let r := (e % 4).toNat
      let num := 2 ^ (4 * sh)
      let den := (m + 1) * 2 ^ r
      let q := isqrt (isqrt (num / den))
      let exact := q * q * q * q * den = num
      let v := roundFV f .rne false ⟨2 * q + (if exact then 0 else 1), 1, -(sh : Int) - e' / 4 - 1⟩
      (v.1, t.2 ||| v.2)
    | .fin _ 0 _ => (.inf false, t.2 ||| flDZ)
    | .inf false => (.fin false 0 0, t.2)
    | .nan _ _ _ => t
    | _ => (fvNaN, t.2 ||| flNV)

/-- The refreshed roots of a block, at their offsets (R180). -/
def refreshRoots (k : Fac) (aux : List Byte) (x : PBlock) : List (Nat × List Byte) :=
  [((pblockOff x 2).1, matBytes (invRoot k (pmat aux x 0))), ((pblockOff x 3).1, matBytes (invRoot k (pmat aux x 1)))]

/-! ### Orthogonalised momentum (R181) -/

def orthoU (k : Fac) (rows cols : Nat) (y : List FF) : List FF :=
  let f := fmtB32
  let p := if hsetWord k.hs k.hset 19 = 1 then MatP.f32 else MatP.bf16
  let ss := y.foldl (fun a x => xAdd fmtB64 a (xMul fmtB64 x x)) (.fin false 0 0, 0)
  let nf := xTo f (xDiv fmtB64 xOne (xAdd fmtB64 (xSqrt fmtB64 ss) (k.h 8)))
  let x := rowsOf cols rows (y.map (fun v => xMul f v nf))
  let turn := decide (cols < rows)
  let x := if turn then matCols x else x
  let a := x32 0x405C0000
  let b := x32 0xC0980000
  let c := x32 0x40000000
  let x := (List.range 5).foldl (fun x _ =>
    let am := matMul p x x
    let bm := matMap2 (fun q z => xFma f c q (xMul f b z)) (matMul p am (matCols am)) am
    matMap2 (fun z q => xFma f a z q) x (matMul p bm (matCols x))) x
  (if turn then matCols x else x).flatten

def ortho (k : Fac) (rows cols : Nat) (gs ws ms : List FF) (refresh : Bool) (uOld : List FF) : Whole :=
  let f := fmtB32
  let m1 := (ms.zip gs).map (fun (m, g) => xFma f (k.h 11) m g)
  let y := if k.nesterov then (m1.zip gs).map (fun (m, g) => xFma f (k.h 11) m g) else m1
  let u := if refresh then orthoU k rows cols y else uOld
  ⟨u, (u.zip ws).map (fun (x, w) => stepWith k 7 x w), m1, u.flatMap (fun x => leBytes 4 (c32 x))⟩

/-! ### Norms (R100, R101) -/

/-- Value ceiling of a group and kind as sampled at OPEN (R103). -/
def normCeil (s : State) (group kind : Nat) : Int :=
  let n := normEntryOf (mapGet zeroAt s.work.norm group).toNat
  clampCeil (match kind with | 0 => n.grad | 1 => n.weight | _ => n.upd)

/-- Record the norm terms of a unit's values from the raise count its group has (R100, R101): a failed group or a
non-finite value marks the step overflowed. -/
def noteNorm (s : State) (entry group kind : Nat) (xs : List FV) : State :=
  let ev := normCeil s group kind
  let r0 := (s.work.norms.filter (fun n => n.group == group && n.kind == kind && n.entry != entry)).foldl (fun a n => max a n.r) 0
  let p := normOf ev r0 xs
  let nv := (xs.filter (fun x => !x.isFinite)).length
  let rec_ : NormRec := ⟨entry, group, kind, (List.range 5).map (fun r => (normTotal (normExp ev r) xs).1), p.r, p.vexp,
    p.bad, p.failed⟩
  let s := { s with work := { s.work with
    norms := s.work.norms.filter (fun n => !(n.entry == entry && n.kind == kind)) ++ [rec_] } }
  let s := if p.redo = 0 then s else bumpBy s oFwrNormRedoCnt p.redo
  let s := if nv = 0 then s else bumpBy s oFwrNvCnt nv
  if p.bad || p.failed then markOverflow s else s

/-! ### One unit's update -/

/-- Physical Quern that serves a unit, the slices of an index without one having moved (R123), and its flags register
(R113). -/
def unitQuernIx (s : State) (i : Nat) : Nat :=
  let p := mapOf s (Config.unitLogical i % (vnt s).active)
  let free (p : Nat) : Bool := decide (p < 36) && (qnAt s p).state != 2
  if free p then p
  else ((List.range (vnt s).active).find? (fun n => free (mapOf s n))).elim p (mapOf s)
def unitFlags (s : State) (i : Nat) (fl : Flags) : State :=
  let q := unitQuernIx s i
  if q < 36 then regOr s (oQnFlags + 0x40 * q) fl.toNat else s

/-- Mark the update of a unit done. -/
def unitMod (s : State) (i : Nat) (f : FwUnit → FwUnit) : State :=
  { s with work := { s.work with units := s.work.units.map (fun u => if u.entry = i then f u else u) } }
def unitAt (s : State) (i : Nat) : Option FwUnit := s.work.units.find? (fun u => u.entry == i)

/-- Whether MAG passes (R348). -/
def magPass (s : State) (t : TEnt) (r : NormRec) : Bool :=
  let ctl := regGet s oFhPlausCtl
  let e := normExp (normCeil s t.ngrp 2) r.r - 86
  let b := 2 * signed 8 (fieldOf ctl 15 8)
  -- q × 2^e ≤ n × 2^b, exactly
  let lo := min e b
  decide (r.q.getD r.r 0 * 2 ^ (e - lo).toNat ≤ t.count * 2 ^ (b - lo).toNat)

/-- The checks of R348 on an update: failed checks as bits 0 FIN, 1 MAG, 2 NORM. -/
def plausFails (s : State) (i : Nat) (t : TEnt) (finIn finOut : List Bool) (gs : List FV) : Nat :=
  let ctl := regGet s oFhPlausCtl
  let fin := bitOf ctl 0 && (finIn.zip finOut).any (fun (a, b) => a && !b)
  let mag := bitOf ctl 1 && (s.work.norms.find? (fun n => n.entry == i && n.kind == 2)).elim false
    (fun r => !r.bad && !r.failed && !magPass s t r)
  let norm := bitOf ctl 2 && (s.work.norms.find? (fun n => n.entry == i && n.kind == 0)).elim false
    (fun r => !r.bad && !r.failed && (normTotal (normExp (normCeil s t.ngrp 0) r.r) gs).1 != r.q.getD r.r 0)
  b2n fin + 2 * b2n mag + 4 * b2n norm

/-- Whether every binary32 value of the bytes is finite. -/
def fin32 (bs : List Byte) : Bool :=
  (unpackElems 32 (bs.length / 4) bs).all (fun x => (decodeFV fmtB32 x).isFinite)

/-- FIN's pairs (inputs finite, outputs finite) of the recipes that combine elements (R348): for 0x06 block by block, for
0x05 and 0x07 over the whole tensor; each element's own master besides. -/
def wholeFin (r : Nat) (fin : Bool) (rows cols b : Nat) (gs ws ms : List FV) (aux : List Byte) (o : Whole) :
    List (Bool × Bool) :=
  let at_ (xs : List FV) (j : Nat) : Bool := (xs.getD j (.fin false 0 0)).isFinite
  let out_ (xs : List FF) (j : Nat) : Bool := (xs.getD j (.fin false 0 0, 0)).1.isFinite
  if r = 6 then
    (pblocks rows cols b).flatMap (fun x =>
      let cells := (List.range x.nr).flatMap (fun i => (List.range x.nc).map (fun j => (x.r0 + i) * cols + x.c0 + j))
      let area (bs : List Byte) : List Byte := (bs.drop x.off).take (precBytes (x.nr, x.nc))
      let base := fin && cells.all (at_ gs) && fin32 (area aux)
      (base, fin32 (area o.aux)) :: cells.map (fun j => (base && at_ ws j && at_ ms j, out_ o.m1 j && out_ o.w1 j)))
  else
    let base := fin && gs.all FV.isFinite && ms.all FV.isFinite && fin32 aux
    (base, fin32 o.aux && o.m1.all (fun x => x.1.isFinite)) ::
      (ws.zip o.w1).map (fun (w, x) => (base && w.isFinite, x.1.isFinite))

/-- Hold a unit that failed a check until its replay (R349). -/
def holdPlaus (s : State) (i fails : Nat) : State :=
  if fails = 0 then s
  else { s with fh := { s.fh with plaus := s.fh.plaus ++ [⟨i, fails, unitQuernIx s i⟩] } }

/-- Whether the checks of R348 on a unit are made: those of a built-in recipe with its update, those of a custom one at the
Turn boundary after its last work item. -/
def judgedUnit (s : State) (u : FwUnit) : Bool :=
  u.judged || !(sampled s u.entry).custom || regGet s oFhPlausCtl % 8 = 0

/-- A Quern serving a unit consumed poison (R115, R118, R346, R347): the update stops and the work item halts with
trap 0x2. The address of an instruction of a built-in recipe is open. -/
def unitPoison (s : State) (i addr : Nat) (again : Bool) : State :=
  let q := unitQuernIx s i
  let s := consumePoison s q addr again
  if (qnAt s q).state ≠ 0 then s
  else
    let (n, s) := drawFree s
    qnMod s q (fun x => { x with
      state := 2
      trap := 2
      trapPc := Config.freeWord n % 2 ^ 32
      ctx := { x.ctx with f0 := 0 } })

/-- Whether the factor block or hyperparameters in scratch read poisoned. -/
def facPoison (s : State) (h : Nat) : Bool := scrPoisoned s (factorOff s s.step.s h) 32

/-- Apply a built-in recipe to a unit from its reduced gradients (R173 to R181). -/
def applyRecipe (s : State) (i : Nat) (grads : List Nat) (again : Bool) : State :=
  let t := sampled s i
  let p := s.step.s % 2
  let f := fmtB32
  let k := facOf s t.hset
  if t.custom || t.recipe = 0 || 7 < t.recipe then s
  else if facPoison s t.hset then unitPoison s i (baddrLocal 1 (factorOff s s.step.s t.hset)) false
  else
    let (ws, b0, s) := readMasters s t p
    let (ms, b1, s) := if usesM t.recipe then readVals s t (t.slot p) 1 else ([], none, s)
    let (vs, b2, s) := if usesV t.recipe then readVals s t (t.slot p) 2 else ([], none, s)
    let auxOff := t.slot p + stateBytes s t
    let (aux, b3, s) := if 5 ≤ t.recipe then qRead s auxOff (t.auxBytes k.hs) else ([], none, s)
    match b0 <|> b1 <|> b2 <|> b3 with
    | some a => unitPoison s i (baddrLocal 0 a) again
    | none =>
      let gFV := grads.map (decodeFV f)
      let gs := gFV.map (fun g => xMul f (g, 0) (k.w 0))
      let wf := ws.map (fun w => ((w, 0) : FF))
      let mf := ms.map (fun m => ((m, 0) : FF))
      let vf := vs.map (fun v => ((v, 0) : FF))
      let fin := k.finite t.recipe
      let out : State × List FF × List FF × Flags × Nat × List Bool × List Bool :=
        if t.recipe ≤ 4 then
          let pad := gs.map (fun _ => ((.fin false 0 0, 0) : FF))
          let vf := if usesV t.recipe then vf else pad
          let mv := (gs.zip (mf.zip vf)).map (fun (g, m, v) => momentsOf k t.recipe g m v)
          let (mb, _, m1, fm, _) := narrowField t 1 (mv.map (fun x => x.1))
          let (vb, sb, v1, fv, under) := if usesV t.recipe then narrowField t 2 (mv.map (fun x => x.2))
            else ([], [], pad, 0, 0)
          let us := (gs.zip (wf.zip (mf.zip (m1.zip v1)))).map (fun (g, w, m, a, b) => directionOf k t.recipe g w m a b)
          let s := writeField s t (t.slot (p + 1)) 1 mb
          let s := if usesV t.recipe then writeField s t (t.slot (p + 1)) 2 vb else s
          let s := if usesV t.recipe && t.compact then writeField s t (t.slot (p + 1)) 3 sb else s
          let w1 := if t.recipe = 3 then [] else (us.zip wf).map (fun (u, w) => stepWith k 1 u w)
          let finIn := (gFV.zip (ws.zip (ms.zip vf))).map (fun (g, w, m, v) =>
            fin && g.isFinite && w.isFinite && m.isFinite && v.1.isFinite)
          let finOut := ((m1.zip v1).zip (if w1.isEmpty then m1 else w1)).map (fun ((a, b), c) =>
            a.1.isFinite && b.1.isFinite && c.1.isFinite)
          (s, us, w1, fm ||| fv, under, finIn, finOut)
        else
          let rows := t.count / t.cols
          let refresh := stepN k.hs t.hset s.step.s % max 1 (hsetWord k.hs t.hset 17) == 0
          let blk := hsetWord k.hs t.hset 16
          let fl (bs : List Byte) : List FF := (unpackElems 32 (bs.length / 4) bs).map x32
          let refreshed := s.work.refreshed.contains i
          let roots := if t.recipe = 6 && refreshed then (qRead s (t.slot (p + 1) + stateBytes s t) (t.auxBytes k.hs)).1 else aux
          let o := match t.recipe with
            | 5 => factored k t.rows t.cols gs wf
                (fl (aux.take (4 * t.rows)), fl ((aux.drop (roundUp (4 * t.rows) 64)).take (4 * t.cols)))
            | 6 => preconditioned k rows t.cols blk gs wf mf aux roots
            | _ => ortho k t.rows t.cols gs wf mf refresh (fl aux)
          let (mb, _, _, fm, _) := narrowField t 1 o.m1
          let s := if usesM t.recipe then writeField s t (t.slot (p + 1)) 1 mb else s
          let s := qWrite s (t.slot (p + 1) + stateBytes s t) o.aux
          let ps := wholeFin t.recipe fin rows t.cols blk gFV ws ms aux o
          (s, o.u, o.w1, fm, 0, ps.map (fun x => x.1), ps.map (fun x => x.2))
      let (s, us, w1, fl, under, finIn, finOut) := out
      let s := if w1.isEmpty then s else writeMasters s t (p + 1) (w1.map c32)
      let s := writeHeaders s t (p + 1) (s.step.s + 1) (b2n t.compact)
      let fl := fl ||| flagsOr (us.map (fun x => x.2)) ||| flagsOr (w1.map (fun x => x.2))
      let s := unitFlags s i fl
      let q := unitQuernIx s i
      let s := if under = 0 || 36 ≤ q then s else bumpBy s (oUfbCnt + 0x40 * q) under
      let s := noteNorm s i t.ngrp 1 ws
      let s := noteNorm s i t.ngrp 2 (us.map (fun x => x.1))
      let s := unitMod s i (fun u => { u with updated := true, gs := k.words.getD 0 0 })
      holdPlaus s i (plausFails s i t finIn finOut gFV)

/-- Phase 2 of LAMB for a unit with the group's factor LT (R176): r recomputed from the stored moments. -/
def lambPhase2 (s : State) (i lt : Nat) : State :=
  let t := sampled s i
  let p := s.step.s % 2
  let f := fmtB32
  let k := facOf s t.hset
  let (ws, b0, s) := readMasters s t p
  let (ms, b1, s) := readVals s t (t.slot (p + 1)) 1
  let (vs, b2, s) := readVals s t (t.slot (p + 1)) 2
  match b0 <|> b1 <|> b2 with
  | some a => unitPoison s i (baddrLocal 0 a) false
  | none =>
    let w1 := (ws.zip (ms.zip vs)).map (fun (w, m, v) =>
      let r := directionOf k 3 (w, 0) (w, 0) (m, 0) (m, 0) (v, 0)
      xFma f (xNeg (x32 lt)) r (w, 0))
    let s := writeMasters s t (p + 1) (w1.map c32)
    let s := unitFlags s i (flagsOr (w1.map (fun x => x.2)))
    let s := unitMod s i (fun u => { u with phase2 := true })
    let fin := k.finite 3 && (x32 lt).1.isFinite
    let finIn := (ws.zip (ms.zip vs)).map (fun (w, m, v) => fin && w.isFinite && m.isFinite && v.isFinite)
    holdPlaus s i (plausFails s i t finIn (w1.map (fun x => x.1.isFinite)) [] % 2)

/-- The refresh of a block-preconditioned entry (R180, R182): the roots of the new slot. -/
def refreshEntry (s : State) (i : Nat) : State :=
  let t := sampled s i
  let p := s.step.s % 2
  if t.recipe ≠ 6 then s
  else
    let k : Fac := ⟨s.work.hsets, t.hset, []⟩
    let n := t.auxBytes k.hs
    let (aux, bad, s) := qRead s (t.slot p + stateBytes s t) n
    match bad with
    | some a => unitPoison s i (baddrLocal 0 a) false
    | none =>
      let base := t.slot (p + 1) + stateBytes s t
      let s := (pblocks (t.count / t.cols) t.cols (hsetWord k.hs t.hset 16)).foldl (fun s x =>
        (refreshRoots k aux x).foldl (fun s y => qWrite s (base + y.1) y.2) s) s
      { s with work := { s.work with refreshed := s.work.refreshed ++ [i] } }

/-- Whether an entry has refresh work in the open step (R182). -/
def needsRefresh (s : State) (i : Nat) : Bool :=
  let t := sampled s i
  let n := stepN s.work.hsets t.hset s.step.s
  if t.recipe = 6 then n % max 1 (hsetWord s.work.hsets t.hset 17) == 0
  else if t.custom then (recipeInUse s t.recipe).elim false (fun r => r.every != 0 && s.step.s % r.every == 0)
  else false

end Sys2Proof.Machine
end

