-- ==== Sys2Proof/Machine/Units.lean ====
section
/-!
DEFINITION. Reduction units: which messages belong to the step, role checks, contributions, partial sums, raises,
admission, slices, layer-done words and finalisation (R86 to R99, R188, R189, R191, R195, R196, R199, R217, R333).
-/
namespace Sys2Proof.Machine

/-! ### Steps and roles (R191, R333) -/

/-- STEP_NEXT. -/
def stepNext (s : State) : Nat := regGet s oStepNextLo + regGet s oStepNextHi % 2 ^ 16 * 2 ^ 32

/-- The step the chip is in, or opens next. -/
def curStep (s : State) : Nat := if s.step.state = 0 || s.step.state = 6 then stepNext s else s.step.s

/-- Whether a message is of the current step and attempt, or of the step just committed (R191). -/
def isCurrent (s : State) (m : Msg) : Bool := m.step == curStep s && m.attempt == s.step.attempt
def isCommitted (s : State) (m : Msg) : Bool := !s.pub.tt.isEmpty && m.step == s.pub.s && m.attempt == s.pub.attempt

/-- Whether a message waits to be applied and no earlier one of its link, pool and class does. -/
def msgReady (s : State) (m : Msg) : Bool :=
  match s.gl.rx.find? (fun r => r.m == m) with
  | some r => (s.gl.rx.find? (fun x => x.link == r.link && x.vc == r.vc && x.late == r.late)).elim false (fun x => x.m == m)
  | none => (s.gl.self.find? (fun x => kindPool x.kind == kindPool m.kind)) == some m

/-- Discard a message of another step (R191). -/
def staleMsg (s : State) : State := bump s oStaleMsgCnt

/-- The table a message's step uses. -/
def tableFor (s : State) (m : Msg) : List (List Byte) := if isCurrent s m then s.work.tt else s.pub.tt

/-- Index of the entry of a table that holds a message's tensor and first element. -/
def entryFor (tt : List (List Byte)) (m : Msg) : Option Nat :=
  (List.range tt.length).find? (fun i =>
    let t := tentOf (tt.getD i [])
    t.id == msgTensor m && decide (t.start ≤ msgFirst m) && decide (msgFirst m < t.fin))

/-- What the role check makes of a message (R333). -/
inductive Role where
  | apply (entry : Nat)
  | forward (owner : Nat)
  | drop
  deriving DecidableEq, Repr

/-- The role check (R333): `toOwner` for CONTRIB, `peer` for PARTIAL, RECOMP and DIGEST, otherwise a message from
the owner to its group. -/
def roleOf (s : State) (m : Msg) (tt : List (List Byte)) : Role :=
  let peer := m.kind == 0x28 || m.kind == 0x0C || m.kind == 0x0D
  match entryFor tt m with
  | none => .drop
  | some i =>
    let t := tentOf (tt.getD i [])
    if m.kind = 0x20 || peer then
      if t.owner = s.gl.chip then (if peer || t.epoch == m.roleEpoch then .apply i else .drop)
      else if m.fwd then .drop else .forward t.owner
    else if m.src == t.owner && m.roleEpoch == t.epoch then .apply i else .drop

/-- Apply a shard-addressed message: R191, then the role check, then the effect on its entry. -/
def withRole (s : State) (m : Msg) (ok : Bool) (body : State → Nat → State) : State :=
  if !msgReady s m then s
  else
    let s := consumeMsg s m
    if !ok then staleMsg s
    else match roleOf s m (tableFor s m) with
      | .apply i => body s i
      | .forward c => sendTo (bump s oGlRoleFwdCnt) c { m with fwd := true }
      | .drop => bump s oGlRoleDropCnt

/-! ### A unit's sums (R86 to R98) -/

/-- STEP_MEMBERS and STEP_TOPO (R220). -/
def members (s : State) : Nat := regGet s oStepMembers % 2 ^ 15
def replicas (s : State) : Nat := fieldOf (regGet s oStepTopo) 25 16
def replica (s : State) : Nat := fieldOf (regGet s oStepTopo) 9 0

/-- E_t + l of a unit (R89, R102). -/
def unitExp (s : State) (i : Nat) : Int :=
  clampCeil (ceilEntryOf (mapGet zeroAt s.work.ceil (sampled s i).id).toNat).ceil + s.step.l

/-- The contributions held for an element. -/
def heldFor (u : FwUnit) (e : Nat) : List FV :=
  u.held.filterMap (fun h =>
    if h.first ≤ e ∧ e < h.first + h.codes.length then some (elemFV h.fmt (h.codes.getD (e - h.first) 0)) else none)

/-- Every contribution held, as a value. -/
def heldAll (u : FwUnit) : List FV := u.held.flatMap (fun h => h.codes.map (elemFV h.fmt))

/-- An element's own-group totals at the unit's raise count (R90). -/
def ownElem (s : State) (i : Nat) (u : FwUnit) (e : Nat) : FwElem :=
  if u.failed then ⟨0, false, false, (heldFor u e).length⟩
  else (heldFor u e).foldl (fun a x => (fwCountIn (unitExp s i + 8 * u.r) a x).1) fwElem0

/-- MAXEXP of the contributions held, after division by L (R98). -/
def ownMaxExp (s : State) (u : FwUnit) : Int :=
  let m := (heldAll u).foldl (fun a x => max a (expAbove x)) maxExpNone
  if m = maxExpNone then m else m - s.step.l

/-- Whether the own group's count of every element is complete (R188). -/
def ownComplete (s : State) (i : Nat) (u : FwUnit) : Bool :=
  let t := sampled s i
  (List.range t.count).all (fun k => (heldFor u (t.start + k)).length == members s)

/-- Peer partials that cover an element. -/
def partialsFor (u : FwUnit) (e : Nat) : List PartialRec :=
  u.partials.filter (fun p => decide (p.first ≤ e) && decide (e < p.first + p.q.length))

/-- A partial's totals for an element it covers. -/
def partialElem (p : PartialRec) (e : Nat) : FwElem :=
  ⟨p.q.getD (e - p.first) 0, p.z.getD (e - p.first) false, p.n.getD (e - p.first) false, p.count⟩

/-- Whether every element's count is complete, own group and peers (R90, R188). -/
def unitComplete (s : State) (i : Nat) (u : FwUnit) : Bool :=
  let t := sampled s i
  ownComplete s i u && (List.range t.count).all (fun k => (partialsFor u (t.start + k)).length == replicas s)

/-! ### Raises and failure (R94, R95, R99, R189) -/

/-- A request to a chip to recompute its partial of a unit (R99, R189). -/
def recompMsg (s : State) (i r : Nat) : Msg :=
  let t := sampled s i
  { msgOf s 0x0C t.start (t.id + r * 2 ^ 32) [] with roleEpoch := t.epoch }

/-- Drop the peer partials formed below the unit's raise count and ask their senders to recompute. -/
def dropLow (s : State) (i : Nat) : State :=
  match unitAt s i with
  | none => s
  | some u =>
    let low := u.partials.filter (fun p => decide (p.r < u.r))
    let s := unitMod s i (fun u => { u with partials := u.partials.filter (fun p => decide (u.r ≤ p.r)) })
    (low.map (fun p => p.src)).eraseDups.foldl (fun s c => sendTo s c (recompMsg s i u.r)) s

/-- Raise a unit's r, each step counted (R94). -/
def raiseUnit (s : State) (i r : Nat) : State :=
  match unitAt s i with
  | none => s
  | some u =>
    if r ≤ u.r then s
    else dropLow (bumpBy (unitMod s i (fun u => { u with r := r })) oFwrRaiseCnt (r - u.r)) i

/-- A unit fails (R95). -/
def failUnit (s : State) (i : Nat) : State :=
  match unitAt s i with
  | none => s
  | some u =>
    if u.failed then s
    else markOverflow (unitFlags (bump (unitMod (raiseUnit s i 4) i (fun u => { u with failed := true })) oFwrFailCnt) i flOF)

/-- Detect ceiling overflows among the contributions held (R94, R95). -/
def detectRaise (s : State) (i : Nat) : State :=
  match unitAt s i with
  | none => s
  | some u =>
    let need := raiseFor (unitExp s i) (heldAll u)
    if maxRaise < need then failUnit s i else raiseUnit s i need

/-! ### Partial sums (R98, R188, R189) -/

/-- Bits packed eight to a byte, first lowest, padded to a multiple of 8 bytes. -/
def bitmap (bs : List Bool) : List Byte :=
  let n := ceilDiv bs.length 8
  padTo (roundUp n 8) ((List.range n).map (fun k => BitVec.ofNat 8 (bitsFrom (fun j => bs.getD (8 * k + j) false) 8)))

/-- Elements a PARTIAL message carries at most (log 25): 333 × 12 bytes and two bitmaps of 48. -/
def partialMax : Nat := 333

/-- The messages of a unit's own-group partial sum. -/
def partialMsgs (s : State) (i : Nat) (u : FwUnit) : List Msg :=
  let t := sampled s i
  let els := (List.range t.count).map (fun k => ownElem s i u (t.start + k))
  let nv := els.any (fun e => e.n)
  let aux := t.id + twosCode 10 (ownMaxExp s u) * 2 ^ 20 + u.r * 2 ^ 32 + members s % 2 ^ 17 * 2 ^ 35 + b2n nv * 2 ^ 52
    + b2n u.failed * 2 ^ 53
  (List.range (ceilDiv t.count partialMax)).map (fun k =>
    let part := (els.drop (k * partialMax)).take partialMax
    { msgOf s 0x28 (t.start + k * partialMax) aux
        (part.flatMap (fun e => leBytes 12 (twosCode 96 e.q)) ++ bitmap (part.map (fun e => e.z)) ++ bitmap (part.map (fun e => e.n)))
      with roleEpoch := t.epoch })

/-- Chips that own the shard in the other replica groups (R188). -/
def peerOwners (s : State) (i : Nat) : List Nat :=
  let t := sampled s i
  ((List.range (replicas s + 1)).filter (fun g => g != replica s)).map (fun g => Config.peerOwner t.id t.start g % 2 ^ 14)

/-- Send the own group's partial when its count is complete and it has not been sent at this raise count. -/
def sendPartial (s : State) (i : Nat) : State :=
  match unitAt s i with
  | none => s
  | some u =>
    if replicas s = 0 || u.final || u.sentAt == some u.r || !ownComplete s i u then s
    else
      let s := unitMod s i (fun u => { u with sentAt := some u.r })
      (peerOwners s i).foldl (fun s c => (partialMsgs s i u).foldl (fun s m => sendTo s c m) s) s

/-- Contributions an element of the unit covers with peer sums: above 65,536 the unit fails (R98). -/
def countTooBig (s : State) (u : FwUnit) : Bool :=
  decide (65536 < members s + (u.partials.filter (fun p => p.first == (u.partials.headD ⟨0, 0, 0, 0, 0, false, [], [], []⟩).first)).foldl
    (fun a p => a + p.count) 0)

/-- Take in a PARTIAL message (R98, R189). -/
def takePartial (s : State) (i : Nat) (m : Msg) : State :=
  match unitAt s i with
  | none => staleMsg s
  | some u =>
    let r := min 4 (fieldOf m.aux 34 32)
    let t := sampled s i
    let full := ((List.range (partialMax + 1)).find? (fun n => decide (m.data.length = 12 * n + 2 * roundUp (ceilDiv n 8) 8))).getD 0
    let n := min full (t.fin - msgFirst m)
    let zs := m.data.drop (12 * full)
    let ns := zs.drop (roundUp (ceilDiv full 8) 8)
    let bit (l : List Byte) (k : Nat) : Bool := bitOf (l.getD (k / 8) 0).toNat (k % 8)
    let rec_ : PartialRec := ⟨m.src, msgFirst m, r, fieldOf m.aux 51 35, signed 10 (fieldOf m.aux 29 20), bitOf m.aux 53,
      (List.range n).map (fun k => signed 96 (leAt m.data (12 * k) 12)), (List.range n).map (bit zs), (List.range n).map (bit ns)⟩
    if u.final || n = 0 || (decide (u.r = r) && u.partials.any (fun p => p.src == m.src && p.first == msgFirst m)) then staleMsg s
    else if r < u.r then (if msgFirst m = t.start then sendTo s m.src (recompMsg s i u.r) else s)
    else
      let s := raiseUnit s i r
      let s := unitMod s i (fun u => { u with partials := u.partials ++ [rec_] })
      let s := if bitOf m.aux 52 then markOverflow (unitFlags s i flNV) else s
      let s := if rec_.fail then failUnit s i else s
      let s := match unitAt s i with
        | some u => if countTooBig s u then failUnit s i else s
        | none => s
      sendPartial s i

/-- Take in a RECOMP message (R99, R189). -/
def takeRecomp (s : State) (i r : Nat) : State :=
  sendPartial (raiseUnit (unitMod s i (fun u => { u with wantR := max u.wantR r })) i (min r 4)) i

/-! ### Contributions (R89, R90, R96) -/

/-- Take elements of a contribution into a unit: those whose count is complete, or a finalised unit, are discarded. -/
def takeElems (s : State) (i src fmt first : Nat) (codes : List Nat) : State :=
  match unitAt s i with
  | none => staleMsg s
  | some u =>
    let t := sampled s i
    let codes := codes.take (t.fin - first)
    let ok := (codes.zipIdx).map (fun (c, k) => (c, k, !u.final && decide ((heldFor u (first + k)).length < members s)))
    let fresh := ok.filter (fun x => x.2.2)
    if fresh.isEmpty then staleMsg s
    else
      let runs : List Held := if fresh.length = codes.length then [⟨src, fmt, first, codes⟩]
        else fresh.map (fun x => ⟨src, fmt, first + x.2.1, [x.1]⟩)
      let s := if fresh.length = codes.length then s else staleMsg s
      let bad := (fresh.filter (fun x => !(elemFV fmt x.1).isFinite)).length
      let s := unitMod s i (fun u => { u with held := u.held ++ runs })
      let s := if bad = 0 then s else markOverflow (unitFlags (bumpBy s oFwrNvCnt bad) i flNV)
      sendPartial (detectRaise s i) i

/-- Bytes of a gradient element: binary32 or bfloat16 (R195). -/
def gradBytes (fmt : Nat) : Nat := if fmt = 3 then 2 else 4

/-- Take in a contribution's bytes; poisoned bytes are consumed by the Quern that counts them (R346). -/
def takeContrib (s : State) (i src fmt first : Nat) (data : List Byte) (poison : Nat) : State :=
  let b := gradBytes fmt
  let s := if poison = 0 then s else unitPoison s i (baddrLocal 1 (baseOf s oFwrHoldBase)) false
  takeElems s i src fmt first (unpackElems (8 * b) (data.length / b) data)

/-! ### Admission and slices (R96, R195, R199) -/

/-- Gradient format of a rung layer, binary32 when it has not been rung. -/
def layerFmt (s : State) (layer : Nat) : Nat :=
  (s.work.rung.find? (fun x => x.1 == layer)).elim 1 (fun x => x.2.2)

/-- Hold requirement of a unit in bytes (R96). -/
def holdNeed (s : State) (i fmt : Nat) : Nat := (sampled s i).count * members s * gradBytes fmt

/-- Hold space taken by units admitted and not finalised. -/
def holdUsed (s : State) : Nat :=
  ((s.work.units.filter (fun u => u.admitted && !u.final)).map (fun u => holdNeed s u.entry u.fmt)).foldl (· + ·) 0

/-- The next unit in unit order to admit. -/
def nextUnit (s : State) : Option FwUnit := s.work.units.find? (fun u => !u.admitted)

/-- Whether it fits. -/
def holdFits (s : State) (u : FwUnit) : Bool :=
  decide (holdUsed s + holdNeed s u.entry (layerFmt s (sampled s u.entry).layer) ≤ regGet s oFwrHoldSize % 2 ^ 16 * page64k)

/-- A notice of the owner to its group about a unit (R96, R99, log 23). -/
def groupNotice (s : State) (kind i aux : Nat) : State :=
  let t := sampled s i
  multicast s (regGet s oGlPubGroup % 256) { msgOf s kind t.start (t.id + aux) [] with roleEpoch := t.epoch }

/-- An admission is known here. -/
def noteAdmit (s : State) (i : Nat) : State :=
  if s.work.admits.contains i then s else { s with work := { s.work with admits := s.work.admits ++ [i] } }

/-- Offset of a tensor in its layer's gradient buffer: tensors in ascending id, each on a 64-byte boundary (R195). -/
def bufferOff (s : State) (layer id fmt : Nat) : Nat :=
  let ts := ((List.range s.work.tt.length).map (sampled s)).filter (fun t => t.layer == layer && decide (t.id < id))
  let firsts := ts.foldl (fun (a : List TEnt) t => if a.any (fun x => x.id == t.id) then a else t :: a) []
  (firsts.map (fun t => roundUp (t.total * gradBytes fmt) 64)).foldl (· + ·) 0

/-- Poison bits of 64-byte units of a piece that starts at a scratch offset. -/
def piecePoison (off n : Nat) (marks : List Bool) : Nat :=
  bitsFrom (fun u =>
    let lo := off + 64 * u
    let hi := min (off + n) (lo + 64) - 1
    decide (64 * u < n) && (marks.getD (lo / 64 - off / 64) false || marks.getD (hi / 64 - off / 64) false)) 64

/-- Send one shard slice of a rung layer, in messages of up to 4096 bytes, or count it in when it is this chip's own
(R195, R199, log 25). -/
def sendSlice (s : State) (i layer buf fmt : Nat) : State :=
  let t := sampled s i
  let b := gradBytes fmt
  let off := baddrOf buf |>.off
  let lo := off + bufferOff s layer t.id fmt + t.start * b
  if rangeHeld s 1 lo (t.count * b) then s
  else
    let (d, s) := rangeRead s 1 lo (t.count * b) 2 false
    if !d.ok then markFault s
    else
      let s := { s with work := { s.work with sent := s.work.sent ++ [(i, layer)] } }
      let per := 4096 / b
      (List.range (ceilDiv t.count per)).foldl (fun s k =>
        let n := min (4096) (t.count * b - k * 4096)
        let pz := piecePoison (lo + k * 4096) n (d.poison.drop ((lo + k * 4096) / 64 - lo / 64))
        let bytes := (d.data.drop (k * 4096)).take n
        if t.owner = s.gl.chip then takeContrib s i s.gl.chip fmt (t.start + k * per) bytes pz
        else sendTo s t.owner { msgOf s 0x20 (t.start + k * per) (t.id + fmt * 2 ^ 20) bytes with roleEpoch := t.epoch, poison := pz }) s
where
  /-- A scratch range whose granule is being converted waits (R251). -/
  rangeHeld (s : State) (space off n : Nat) : Bool :=
    space == 1 && (burstSpan off n).any (fun x => s.hop.convert.contains (x.1 / 2 ^ 28, true))

/-- Send every slice that may go: its layer rung, its owner's unit admitted, in GRIND with no notice sent. A buffer
error stops them (R195). -/
def trySlices (s : State) : State :=
  if s.step.state ≠ 2 then s
  else s.work.rung.foldl (fun s (layer, buf, fmt) =>
    (List.range s.work.tt.length).foldl (fun s i =>
      if s.step.earlySent || s.step.earlyDue || (sampled s i).layer ≠ layer || !s.work.admits.contains i
        || s.work.sent.contains (i, layer) then s
      else sendSlice s i layer buf fmt) s) s

/-- Admit the next unit when it fits (R96, R199). -/
def admitNext (s : State) : State :=
  if s.step.state ≠ 2 then s
  else match nextUnit s with
    | none => s
    | some u =>
      if !holdFits s u then s
      else
        let fmt := layerFmt s (sampled s u.entry).layer
        let s := unitMod s u.entry (fun u => { u with admitted := true, fmt := fmt })
        trySlices (noteAdmit (groupNotice s 0x0A u.entry 0) u.entry)

/-- Admit as many as fit; fuel is the number of units. -/
def admitAll : Nat → State → State
  | 0, s => s
  | n + 1, s =>
    match nextUnit s with
    | some u => if holdFits s u then admitAll n (admitNext s) else s
    | none => s

/-! ### Layer-done words (R196) -/

/-- The layer-done word of a layer. -/
def layerWord (s : State) (layer : Nat) : Nat := scrNat s (baseOf s oStepLayerBase + 8 * layer) 8

def writeLayerWord (s : State) (layer : Nat) (aborted : Bool) : State :=
  scrWrite s (baseOf s oStepLayerBase + 8 * layer)
    (leBytes 8 (s.step.attempt % 256 + s.step.s % 2 ^ 48 * 2 ^ 8 + b2n aborted * 2 ^ 63))

/-- Layers of the sampled table. -/
def layersOf (s : State) : List Nat := (((List.range s.work.tt.length).map (fun i => (sampled s i).layer)).eraseDups)

/-- Whether no VC1 message waits and every VC1 credit is home on every up link (log 27). -/
def contribCreditsHome (s : State) : Bool :=
  (List.range 96).all (fun l =>
    let k := linkAt s l
    !linkUp s l || (k.queue.all (fun t => t.vc != 1) && [2, 3].all (fun c => decide (k.cfg.getD c 0 ≤ k.cred.getD c 0))))

/-- LAYER_DONE (R196): every slice of the layer sent and its credits home. -/
def layerDone (s : State) (layer : Nat) : State :=
  let mine := (List.range s.work.tt.length).filter (fun i => (sampled s i).layer == layer)
  if !stepOpenState s || !s.work.rung.any (fun x => x.1 == layer) || s.work.done.contains layer
      || !mine.all (fun i => s.work.sent.contains (i, layer)) || !contribCreditsHome s then s
  else
    let s := writeLayerWord s layer false
    { s with work := { s.work with done := s.work.done ++ [layer] } }

/-- At an abort, the words not yet showing the attempt (R196, R207). -/
def abortLayerWords (s : State) : State :=
  (layersOf s).foldl (fun s l => if s.work.done.contains l then s else writeLayerWord s l true) s

/-! ### Copy before write (R184, R217) -/

/-- Whether a table's entry is the shard of the unit. -/
def sameShard (tt : List (List Byte)) (j : Nat) (t : TEnt) : Bool :=
  let u := tentOf (tt.getD j [])
  u.id == t.id && u.start == t.start

/-- A copy of the slot the open step writes still has to read a unit's records; a working-format export reads the
whole tensor. -/
def copyHolds (s : State) (i : Nat) : Bool :=
  let t := sampled s i
  let writes (w : Nat) : Bool := decide (w ≤ s.step.s) && s.step.s % 2 == w % 2
  (s.copy.ckptBusy && writes s.copy.ckptW && s.copy.ckptTodo.any (fun j => sameShard s.copy.ckptTt j t))
    || (s.copy.expBusy && writes s.copy.expW && s.copy.expTodo.any (fun j =>
      if s.copy.expFormat = 1 then (tentOf (s.copy.expTt.getD j [])).id == t.id else sameShard s.copy.expTt j t))

/-- Whether a unit's digest gate is open (R219): the digests of its shard have been compared. -/
def digestOpen (s : State) (i : Nat) : Bool :=
  let t := sampled s i
  !s.copy.digDue.any (fun j => sameShard s.pub.tt j t)

/-! ### Updates and finalisation (R91, R199, R205) -/

/-- Reduced gradients of a unit as stored. -/
def readGrads (s : State) (i : Nat) : List Nat × Option Nat × State :=
  let t := sampled s i
  let (bs, bad, s) := qRead s (gradStore s s.work.hsets t) (4 * t.count)
  (unpackElems 32 t.count bs, bad, s)

/-- Run the update of a unit from its stored gradients, unless it must wait for a copy (R199, R217). Custom recipes
run as work items. -/
def runUpdate (s : State) (i : Nat) (again : Bool) : State :=
  if s.step.earlySent || s.step.ovf then s
  else if copyHolds s i then unitMod s i (fun u => { u with ckptWait := true })
  else
    let s := unitMod s i (fun u => { u with ckptWait := false })
    if (sampled s i).custom then s
    else
      let (gs, bad, s) := readGrads s i
      match bad with
      | some a => unitPoison s i (baddrLocal 0 a) again
      | none => applyRecipe s i gs again

/-- Finalise a unit (R91, R92, R95), send its notice, and update it in LAGGED and REDO (R199). -/
def finalise (s : State) (i : Nat) : State :=
  match unitAt s i with
  | none => s
  | some u =>
    let t := sampled s i
    if s.step.state ≠ 2 || u.final || !u.admitted || !unitComplete s i u || !digestOpen s i then s
    else
      let e := unitExp s i - s.step.l + 8 * u.r
      let outs := (List.range t.count).map (fun k =>
        let el := (partialsFor u (t.start + k)).foldl (fun a p => fwAddElem a (partialElem p (t.start + k))) (ownElem s i u (t.start + k))
        fwFinal e u.failed el)
      let gs := outs.map (fun o => o.1)
      let fl := flagsOr (outs.map (fun o => o.2))
      let mx := u.partials.foldl (fun a p => max a p.maxExp) (ownMaxExp s u)
      let s := qWrite s (gradStore s s.work.hsets t) (gs.flatMap (leBytes 4))
      let s := unitFlags s i fl
      let s := if gs.any (fun g => (decodeFV fmtB32 g).isInf) then markOverflow s else s
      let s := noteNorm s i t.ngrp 0 (gs.map (decodeFV fmtB32))
      let s := unitMod s i (fun u => { u with final := true, maxExp := mx, held := [], partials := [] })
      let s := groupNotice s 0x0B i (u.r * 2 ^ 32)
      if s.step.clipMode = 2 || s.step.flt then s else runUpdate s i false

/-- A unit's records have been copied and its waiting update proceeds (R217). -/
def ckptWaitEnd (s : State) (i : Nat) : State :=
  match unitAt s i with
  | some u => if u.ckptWait && !copyHolds s i then runUpdate s i u.redo else s
  | none => s

end Sys2Proof.Machine
end

