-- ==== Sys2Proof/Machine/Decide.lean ====
section
/-!
DEFINITION. The roles of decision root, standby root and norm root: records, decisions, acknowledgements, combined
norms (R101, R190, R197, R200 to R203, R207, R323, R332).
-/
namespace Sys2Proof.Machine

/-! ### Who holds which role (R190, R220) -/

def rootChip (s : State) : Nat := regGet s oStepRoot % 2 ^ 14
def standbyChip (s : State) : Nat := fieldOf (regGet s oStepRoot) 29 16
def normChip (s : State) : Nat := regGet s oStepNroot % 2 ^ 14
/-- Whether this chip decides: the decision root, or the standby root once the decision root is lost (R200). -/
def isRoot (s : State) : Bool := rootChip s == s.gl.chip || (standbyChip s == s.gl.chip && s.root.rootLost)
/-- A chip this chip has a route to, itself included. -/
def reachable (s : State) (c : Nat) : Bool := c == s.gl.chip || (routeLink s c).isSome

/-- The chips of the training set, as the expected topology counts them (R371, log 24). -/
def trainingSet (s : State) : List Nat := List.range s.boot.topoChips

/-- The norm root of a replica group (R190). -/
def normRootOf (s : State) (g : Nat) : Nat := if g = replica s then normChip s else Config.normRootOf g % 2 ^ 14

/-! ### Decisions (R197, R200, R323) -/

/-- The code, reason, round and cause chip of a DECISION. -/
def decCode (m : Msg) : Nat := m.aux % 16
def decReason (m : Msg) : Nat := fieldOf m.aux 7 4
def decRound (m : Msg) : Nat := fieldOf m.aux 9 8
def decCause (m : Msg) : Nat := fieldOf m.aux 23 10

/-- A DECISION message of this chip for a step and attempt. -/
def decMsg (s : State) (st att code reason round cause : Nat) (tags : List Nat) : Msg :=
  ⟨0x02, false, s.gl.chip, 0, st, att, 0, code + reason * 16 + round * 2 ^ 8 + cause % 2 ^ 14 * 2 ^ 10, 0, 0, tags.flatMap (leBytes 4)⟩

/-- Keep the last 16 decisions (R200). -/
def keep16 (l : List Msg) (m : Msg) : List Msg := (l ++ [m]).drop ((l.length + 1) - 16)

/-- Whether a list of decisions fixes a round: an ABORT of the attempt, or a decision of that round other than HOLD. -/
def decidedIn (l : List Msg) (st att round : Nat) : Bool :=
  l.any (fun d => d.step == st && d.attempt == att && (decCode d == 5 || (decCode d != 2 && decRound d == round)))

/-- Whether an attempt has ended: ABORT or COMMIT decided. -/
def endedIn (l : List Msg) (st att : Nat) : Bool :=
  l.any (fun d => d.step == st && d.attempt == att && (decCode d == 5 || decCode d == 4))

/-- Send a decision to whom it is for: HOLD to its chip, any other down the settle tree, that of the standby root when
it has taken the role (R197, R200, R330). -/
def deliver (s : State) (d : Decision) : State :=
  match d.dest with
  | some c => sendTo s c d.m
  | none => multicast s (if rootChip s = s.gl.chip then 255 else 254) d.m

/-- The copy of a decision the standby root is sent first (log 31). -/
def standbyCopy (d : Decision) : Msg := { d.m with addr := 1 + (d.dest.getD 0) * 2 }

/-- Issue a decision: to the standby root first, unless it is lost or this is the standby root itself (R200, R201). -/
def issueDecision (s : State) (m : Msg) (dest : Option Nat) : State :=
  let d : Decision := ⟨m, dest, s.time.turn⟩
  if rootChip s != s.gl.chip then
    deliver { s with root := { s.root with decided := keep16 s.root.decided m, standbyDecided := keep16 s.root.standbyDecided m } } d
  else
    let s := { s with root := { s.root with decided := keep16 s.root.decided m } }
    if s.root.standbyLost then deliver s d
    else sendTo { s with root := { s.root with waiting := s.root.waiting ++ [d] } } (standbyChip s) (standbyCopy d)

/-- Decide ABORT for an attempt that has not ended; the round is the root's own when it is in SETTLE (R207, R323). -/
def decideAbort (s : State) (st att reason cause : Nat) : State :=
  if endedIn s.root.decided st att then s
  else issueDecision s (decMsg s st att 5 reason (if s.step.state = 3 then s.step.round else 0) cause []) none

/-- The lost root an ABORT with reason LOST names (R207). -/
def lostCause (s : State) : Nat := if rootChip s = s.gl.chip then standbyChip s else rootChip s

/-- Decide GO, CONTINUE or COMMIT; with the standby root lost, ABORT with reason LOST (R201). -/
def decideOn (s : State) (st att code round : Nat) : State :=
  if decidedIn s.root.decided st att round then s
  else if s.root.standbyLost || s.root.rootLost then decideAbort s st att 7 (lostCause s)
  else issueDecision s (decMsg s st att code 0 round 0 []) none

/-! ### OPEN records (R197, R201) -/

/-- Tags of an OPEN record. -/
def recTags (m : Msg) : List Nat := unpackElems 32 (m.data.length / 4) m.data

/-- The records held for an attempt, one a chip. -/
def recsFor (l : List RootRec) (st att : Nat) : List RootRec := l.filter (fun r => r.2.step == st && r.2.attempt == att)

/-- Replace a chip's record. -/
def putRec (l : List RootRec) (m : Msg) (same : Msg → Bool) : List RootRec :=
  l.filter (fun r => !(r.1 == m.src && same r.2)) ++ [(m.src, m)]

/-- The lowest of a list of chips, 0 for none. -/
def lowest (l : List Nat) : Nat := (l.foldl (fun (a : Option Nat) x => some (a.elim x (min x))) none).getD 0

/-- Judge the OPEN records once every chip's is in. -/
def judgeOpen (s : State) (st att : Nat) : State :=
  let rs := recsFor s.root.openRecs st att
  if decidedIn s.root.decided st att 0 || !(trainingSet s).all (fun c => rs.any (fun r => r.1 == c)) then s
  else
    let own := (rs.find? (fun r => r.1 == s.gl.chip)).getD (rs.headD (0, decMsg s st att 0 0 0 0 []))
    let differ := rs.filter (fun r => r.2.addr != own.2.addr || r.2.aux != own.2.aux)
    if !differ.isEmpty then decideAbort s st att 5 (lowest (differ.map (fun r => r.1)))
    else
      let all := (rs.flatMap (fun r => recTags r.2)).eraseDups
      let lacking := rs.filter (fun r => !all.all (fun t => (recTags r.2).contains t))
      if lacking.isEmpty then decideOn s st att 1 0
      else
        let s := { s with root := { s.root with openRecs := s.root.openRecs.filter (fun r => !lacking.contains r) } }
        lacking.foldl (fun s r =>
          issueDecision s (decMsg s st att 2 0 0 0 (all.filter (fun t => !(recTags r.2).contains t))) (some r.1)) s

/-- An OPEN record arrives at the decision root (R193, R197, R201). -/
def takeOpenRec (s : State) (m : Msg) : State :=
  if !isRoot s then s
  else
    let back := s.root.standbyLost && rootChip s == s.gl.chip && reachable s (standbyChip s)
    let s := if back then { s with root := { s.root with standbyLost := false } } else s
    if s.root.standbyLost || s.root.rootLost then decideAbort s m.step m.attempt 7 (lostCause s)
    else
      let first := (recsFor s.root.openRecs m.step m.attempt).isEmpty
        && !s.root.decided.any (fun d => d.step == m.step && d.attempt == m.attempt)
      let s := { s with root := { s.root with openRecs := putRec s.root.openRecs m (fun x => x.step == m.step && x.attempt == m.attempt) } }
      let s := if first then { s with work := { s.work with tOpen := some s.time.turn } } else s
      judgeOpen s m.step m.attempt

/-! ### Group records (R203, R207) -/

/-- The record of each replica group for a round, those in. -/
def groupRecsFor (s : State) (st att round : Nat) : List RootRec :=
  (recsFor s.root.groupRecs st att).filter (fun r => decRound r.2 == round)

/-- Judge the group records of a round once every group's is in. A mark's cause is the first record that carries it. -/
def judgeGroups (s : State) (st att round : Nat) : State :=
  let rs := groupRecsFor s st att round
  let roots := (List.range (replicas s + 1)).map (normRootOf s)
  if decidedIn s.root.decided st att round || !roots.all (fun c => rs.any (fun r => r.1 == c)) then s
  else
    match rs.find? (fun r => bitOf r.2.aux 0) with
    | some r => decideAbort s st att 1 r.1
    | none =>
      match rs.find? (fun r => bitOf r.2.aux 1) with
      | some r => decideAbort s st att 2 r.1
      | none =>
        let digest (c : Nat) : List Byte := (rs.find? (fun r => r.1 == c)).elim [] (fun r => r.2.data)
        match (roots.drop 1).find? (fun c => digest c != digest (roots.headD 0)) with
        | some c => decideAbort s st att 6 c
        | none => decideOn s st att (if round = 2 then 4 else 3) round

/-- A group record arrives at the decision root (R193, R203). -/
def takeGroupRec (s : State) (m : Msg) : State :=
  if !isRoot s then s
  else
    let round := decRound m
    let first := (groupRecsFor s m.step m.attempt round).isEmpty
    let rs := putRec s.root.groupRecs m (fun x => x.step == m.step && x.attempt == m.attempt && decRound x == round)
    let s := { s with root := { s.root with groupRecs := rs } }
    let s := if first then { s with work := { s.work with tSettle := some s.time.turn } } else s
    judgeGroups s m.step m.attempt round

/-! ### Loss of a root (R200, R201, R332) -/

/-- The round a chip's own state waits for: 0 before GRIND, else the next round of SETTLE. -/
def roundNow (s : State) : Nat := if s.step.state = 1 then 0 else if s.step.state = 3 then max 1 s.step.round else 1

/-- The decision root treats the standby root as lost (R201). -/
def loseStandby (s : State) : State :=
  if rootChip s != s.gl.chip || s.root.standbyLost then s
  else
    let ws := s.root.waiting
    let s := { s with root := { s.root with standbyLost := true, waiting := [] } }
    let s := ws.foldl deliver s
    if stepOpenState s then decideAbort s s.step.s s.step.attempt 7 (standbyChip s) else s

/-- The standby root takes the role of the lost decision root (R200). -/
def loseRoot (s : State) : State :=
  if standbyChip s != s.gl.chip || rootChip s == s.gl.chip || s.root.rootLost then s
  else
    let s := { s with root := { s.root with rootLost := true } }
    if stepOpenState s && !decidedIn s.root.standbyDecided s.step.s s.step.attempt (roundNow s) then
      decideAbort s s.step.s s.step.attempt 7 (rootChip s)
    else s

/-- A LOST notice (R200, R201, R332). -/
def takeLost (s : State) (c : Nat) : State :=
  let s := if c = standbyChip s then loseStandby s else s
  if c = rootChip s then loseRoot s else s

/-- The standby root takes a copy of a decision and acknowledges it (R200). -/
def takeCopy (s : State) (m : Msg) : State :=
  let s := { s with root := { s.root with standbyDecided := keep16 s.root.standbyDecided { m with addr := 0 } } }
  sendTo s m.src { m with kind := 0x06, src := s.gl.chip, data := [] }

/-- An acknowledgement lets the decision go (R200). -/
def takeAck (s : State) (m : Msg) : State :=
  match s.root.waiting.find? (fun d => (standbyCopy d).addr == m.addr && d.m.aux == m.aux && d.m.step == m.step && d.m.attempt == m.attempt) with
  | none => s
  | some d => deliver { s with root := { s.root with waiting := s.root.waiting.erase d } } d

/-- A decision-wait query: the standby root answers with the decision it holds for that round, or, in the decision
root's place, decides ABORT (R200, log 31). -/
def takeQuery (s : State) (m : Msg) : State :=
  if standbyChip s != s.gl.chip then s
  else
    let hits := s.root.standbyDecided.filter (fun d => d.step == m.step && d.attempt == m.attempt
      && (decCode d == 5 || (decCode d != 2 && decRound d == decRound m)))
    match hits.getLast? with
    | some d => sendTo s m.src d
    | none => if s.root.rootLost then decideAbort s m.step m.attempt 7 (rootChip s) else s

/-! ### Norms (R100, R101, R203) -/

/-- An entry of NORM_PART or NORM_SUM: 24 bytes (R323). -/
structure NormEnt where
  group : Nat
  kind : Nat
  r : Nat
  vexp : Int
  q : Nat
  deriving DecidableEq, Repr

def normEnts (m : Msg) : List NormEnt :=
  (List.range (m.data.length / 24)).map (fun i =>
    let e := (m.data.drop (24 * i)).take 24
    ⟨leAt e 0 2 % 2 ^ 12, leAt e 2 1, leAt e 3 1, signed 10 (leAt e 4 2 % 2 ^ 10), leAt e 8 16⟩)

def normEntBytes (e : NormEnt) : List Byte :=
  leBytes 2 e.group ++ leBytes 1 e.kind ++ leBytes 1 e.r ++ leBytes 2 (twosCode 10 e.vexp) ++ zeroBytes 2 ++ leBytes 16 e.q

/-- Entries cut into messages of at most 170, the last with fewer (log 31). -/
def normMsgs (s : State) (kind : Nat) (es : List NormEnt) : List Msg :=
  (List.range (es.length / 170 + 1)).map (fun k =>
    msgOf s kind 0 0 (((es.drop (170 * k)).take 170).flatMap normEntBytes))

/-- This chip's partial of a group and kind at raise count `r` or above: that of its units summed (R101). -/
def ownPart (s : State) (group kind r : Nat) : Option NormEnt :=
  let rs := s.work.norms.filter (fun n => n.group == group && n.kind == kind)
  if rs.isEmpty then none
  else
    let top := rs.foldl (fun a n => max a n.r) (min r 4)
    some ⟨group, kind, top, rs.foldl (fun a n => max a n.vexp) maxExpNone, (rs.map (fun n => n.q.getD top 0)).foldl (· + ·) 0⟩

/-- Norm groups of the units this chip owns, ascending. -/
def ownGroups (s : State) : List Nat :=
  (List.range 4096).filter (fun g => s.work.norms.any (fun n => n.group == g))

/-- This chip's partials of some kinds. -/
def ownParts (s : State) (kinds : List Nat) : List NormEnt :=
  (ownGroups s).flatMap (fun g => kinds.filterMap (fun k => ownPart s g k 0))

/-- Kinds of a round: gradients in A, weights and updates in B (R203, R205). -/
def roundKinds (round : Nat) : List Nat := if round = 2 then [1, 2] else [0]

/-- Send the record of a round with its norm partials before it (R203, R205, log 28). -/
def sendRecord (s : State) (round : Nat) : State :=
  let s := (normMsgs s 0x08 (ownParts s (roundKinds round))).foldl (fun s m => sendTo s (normChip s) m) s
  let s := sendTo s (normChip s) (msgOf s 0x03 0 (b2n s.step.ovf + 2 * b2n s.step.flt + round * 2 ^ 8) [])
  { s with
    step := { s.step with recordSent := true }
    work := { s.work with tDecision := some s.time.turn } }

/-- The entries the norm root holds for an attempt and round, each with its chip, later ones in place of earlier. -/
def heldParts (s : State) (st att round : Nat) : List (Nat × NormEnt) :=
  ((recsFor s.root.normParts st att).flatMap (fun r => (normEnts r.2).map (fun e => (r.1, e)))).foldl
    (fun a x => if (roundKinds round).contains x.2.kind then
      a.filter (fun y => !(y.1 == x.1 && y.2.group == x.2.group && y.2.kind == x.2.kind)) ++ [x] else a) []

/-- The norm root asks a chip to recompute a partial at a higher r (R101 step 2, log 29). -/
def askNorm (s : State) (c : Nat) (e : NormEnt) : State :=
  let key := (c, e.group, e.kind, e.r)
  if s.root.asked.contains key then s
  else sendTo { s with root := { s.root with asked := s.root.asked ++ [key] } } c
    (msgOf s 0x08 1 0 (normEntBytes { e with vexp := 0, q := 0 }))

/-- The combined entries, ascending by group within a kind (R101 step 3). -/
def combine (ps : List NormEnt) (kinds : List Nat) : List NormEnt :=
  kinds.flatMap (fun k => (List.range 4096).filterMap (fun g =>
    let mine := ps.filter (fun e => e.group == g && e.kind == k)
    if mine.isEmpty then none
    else some ⟨g, k, mine.foldl (fun a e => max a e.r) 0, mine.foldl (fun a e => max a e.vexp) maxExpNone,
      (mine.map (fun e => e.q)).foldl (· + ·) 0⟩))

/-- S of a combined entry as binary64 (R101). -/
def entSum (s : State) (e : NormEnt) : Nat := (normSum (normCeil s e.group e.kind) e.r e.q).1

/-- The norm root: when every member's record of a round is in, it asks for the recomputations still needed, and once
none is needed returns the sums and sends the group record (R101, R203). -/
def judgeNorms (s : State) (st att round : Nat) : State :=
  let recs := (recsFor s.root.roundRecs st att).filter (fun r => decRound r.2 == round)
  if recs.length < members s || s.root.groupSent.contains (st, att, round) then s
  else
    let ps := heldParts s st att round
    let top (e : NormEnt) : Nat := (ps.filter (fun x => x.2.group == e.group && x.2.kind == e.kind)).foldl (fun a x => max a x.2.r) 0
    let low := ps.filter (fun x => decide (x.2.r < top x.2))
    if !low.isEmpty then low.foldl (fun s x => askNorm s x.1 { x.2 with r := top x.2 }) s
    else
      let sums := combine (ps.map (fun x => x.2)) (roundKinds round)
      let ms := normMsgs s 0x09 sums
      let s := recs.foldl (fun s r => ms.foldl (fun s m => sendTo s r.1 m) s) s
      let digest (k : Nat) : List Byte :=
        leBytes 8 (crc64 ((sums.filter (fun e => e.kind == k)).flatMap (fun e => leBytes 8 (entSum s e))))
      let ovf := recs.any (fun r => bitOf r.2.aux 0)
      let flt := recs.any (fun r => bitOf r.2.aux 1)
      let s := { s with root := { s.root with groupSent := s.root.groupSent ++ [(st, att, round)] } }
      sendTo s (rootChip s) (msgOf s 0x04 0 (b2n ovf + 2 * b2n flt + round * 2 ^ 8) ((roundKinds round).flatMap digest))

/-- A round record arrives at the norm root. -/
def takeRoundRec (s : State) (m : Msg) : State :=
  if normChip s != s.gl.chip then s
  else
    let round := decRound m
    let rs := putRec s.root.roundRecs m (fun x => x.step == m.step && x.attempt == m.attempt && decRound x == round)
    let s := { s with root := { s.root with roundRecs := rs } }
    judgeNorms s m.step m.attempt round

/-- NORM_PART: partials at the norm root, or its request to recompute at a larger r, which ADDR[0] marks (R101,
log 29). -/
def takeNormPart (s : State) (m : Msg) : State :=
  if bitOf m.addr 0 then
    let es := (normEnts m).filterMap (fun e => ownPart s e.group e.kind e.r)
    sendTo (bumpBy s oFwrNormRedoCnt es.length) (normChip s) (msgOf s 0x08 0 0 (es.flatMap normEntBytes))
  else if normChip s != s.gl.chip then s
  else
    let s := { s with root := { s.root with normParts := s.root.normParts ++ [(m.src, m)] } }
    judgeNorms s m.step m.attempt (if (normEnts m).any (fun e => e.kind != 0) then 2 else 1)

end Sys2Proof.Machine
end

