-- ==== Sys2Proof/Machine/LinkRows.lean ====
section
/-!
DEFINITION. The links' rows: flits, replay, retraining, identity, loss of a link at a Turn boundary, discovery and
group formation (R318, R320, R324 to R327, R331 to R336, R378, R379).
-/
namespace Sys2Proof.Machine

/-! ### Flits (R320, R324, R325) -/

/-- A link that is up at the flit level: up, retraining, or with its peer in Sepia mode (R331). -/
def flitLevel (s : State) (l : Nat) : Bool :=
  let st := (linkAt s l).state
  linkExists s l && (st == 2 || st == 3 || st == 5) && !s.gov.pfDone

/-- A discarded DATA flit: the first since the last in order owes a NAK (R325). -/
def discardFlit (s : State) (l : Nat) : State :=
  linkMod s l (fun k => { k with nakOwed := k.nakOwed || !k.discarding, discarding := true })

/-- A flit whose CRC fails is counted and discarded whole. -/
def badCrc (s : State) (l : Nat) : State := discardFlit (bump s (oGlLcrcCnt + 0x20 * l)) l

def crcHolds (bs : List Byte) : Bool := crc64 (bs.take 248) == leAt bs 248 8

/-- A flit of a type arriving on a link that is up at the flit level. -/
def withFlit (s : State) (l : Nat) (bs : List Byte) (type : Nat) (body : State → FlitHdr → State) : State :=
  if !flitLevel s l || bs.length ≠ 256 then s
  else if !crcHolds bs then badCrc s l
  else
    let h := flitHdrOf (leAt bs 0 8)
    if !flitGood bs || h.type ≠ type then s else body s h

/-- DATA_FLIT (R325). -/
def dataFlit (s : State) (l : Nat) (bs : List Byte) : State :=
  withFlit s l bs 1 (fun s h =>
    let d := (h.seq + 4096 - (linkAt s l).rxSeq) % 4096
    if d = 0 then acceptFlit (flitFields s l h) l h ((bs.drop 8).take 240)
    else if 2048 ≤ d then flitFields s l h
    else discardFlit s l)

/-! ### Ports (R318, R326, R327, R335) -/

def portAt (s : State) (p : Nat) : GPort := s.gl.ports.getD p GPort.reset
def portMod (s : State) (p : Nat) (f : GPort → GPort) : State :=
  { s with gl := { s.gl with ports := modAt s.gl.ports p f } }
def portLinks (p : Nat) : List Nat := [4 * p, 4 * p + 1, 4 * p + 2, 4 * p + 3]

/-- This chip's topology entry of a link: peer chip, peer link, present (R371). -/
def topoEntry (s : State) (l : Nat) : Nat × Nat × Bool :=
  let w := s.boot.topo.getD l 0
  (fieldOf w 13 0, fieldOf w 22 16, bitOf w 31)

/-- Start training a link whose topology entry names a peer and whose grade is not Umber (R334, R355). -/
def startTraining (s : State) (l : Nat) : State :=
  let k := linkAt s l
  if linkExists s l && (topoEntry s l).2.2 && gradeOf s (unitLink l) != 3 && (portAt s (l / 4)).active
      && (k.state == 0 || k.state == 4) then
    linkMod s l (fun k => { k with state := 1, reason := 0, trains := 0 })
  else s

/-- Ask the adapter to retrain a port: its links stop sending DATA (R326). -/
def retrainPort (s : State) (p : Nat) (live : Bool) : State :=
  let s := portMod s p (fun x => { x with retraining := true, live := live })
  (portLinks p).foldl (fun s l => linkMod s l (fun k => if k.state = 2 then { k with state := 3 } else k)) s

/-- A retrained port is back: its links go on from their oldest flit (R326, R327). Full width returns only through a
retrain by command. -/
def portBack (s : State) (p : Nat) (full : Bool) : State :=
  let s := portMod s p (fun x => { x with active := true, half := !full || (x.half && !x.live), retraining := false, live := false })
  (portLinks p).foldl (fun s l =>
    pump (linkMod s l (fun k => if k.state = 3 then { k with state := 2, resends := 0 } else k)) l) s

/-- A retrain that fails takes the links of the port down at the next boundary (R326). -/
def portLost (s : State) (p : Nat) (absent : Bool) : State :=
  let s := portMod s p (fun x => { x with active := false, retraining := false, live := false, absent := absent })
  (portLinks p).foldl (fun s l => linkMod s l (fun k => if k.state = 2 ∨ k.state = 3 then { k with downDue := some 4 } else k)) s

/-- PORT_ACTIVE (R318, R326, R334). -/
def portActive (s : State) (p : Nat) (supported full : Bool) : State :=
  let x := portAt s p
  if (vnt s).ports ≤ p || !s.boot.running then s
  else if !supported then portLost s p true
  else if x.retraining then portBack s p full
  else if x.active || x.absent then s
  else
    let s := portMod s p (fun x => { x with active := true, half := !full })
    (portLinks p).foldl (fun s l => if (linkAt s l).reason = 0 then startTraining s l else s) s

/-- RETRAIN_TIMEOUT (R326). -/
def retrainTimeout (s : State) (p : Nat) : State := if (portAt s p).retraining then portLost s p false else s

/-! ### Identity (R334) -/

/-- The fields of a TRAIN payload (log 13). -/
def trainBytes (s : State) (l : Nat) : List Byte :=
  leBytes 2 s.gl.chip ++ leBytes 2 s.gl.group ++ leBytes 1 s.gl.rank ++ leBytes 1 l ++ zeroBytes 2
    ++ leBytes 4 (regGet s oHuVersion) ++ leBytes 8 s.boot.topoCrc

/-- Reason a peer's TRAIN payload disagrees: 1 identity, 2 version, 3 topology; 0 when it agrees. -/
def trainFault (s : State) (l : Nat) (p : List Byte) : Nat :=
  let e := topoEntry s l
  if leAt p 0 2 ≠ e.1 || leAt p 5 1 ≠ e.2.1 then 1
  else if leAt p 8 4 / 2 ^ 24 ≠ regGet s oHuVersion / 2 ^ 24 then 2
  else if leAt p 12 8 ≠ s.boot.topoCrc then 3 else 0

/-- A link comes up: SEQ and ACK at 0, credits and their counts at the configured values (R334, R391). -/
def linkComesUp (s : State) (l : Nat) (p : List Byte) : State :=
  let cfg := configuredCredits s
  linkMod s l (fun k => { Link.reset with
    state := 2, peerChip := leAt p 0 2, peerLink := leAt p 5 1, lastTrain := p, trains := k.trains,
    cred := cfg, cfg := cfg, retrainTurns := k.retrainTurns })

/-- TRAIN_FLIT (R334). -/
def trainFlit (s : State) (l : Nat) (bs : List Byte) : State :=
  let k := linkAt s l
  let h := flitHdrOf (leAt bs 0 8)
  if !linkExists s l || !(k.state == 1 || k.state == 5) || bs.length ≠ 256 || s.gov.pfDone then s
  else if !crcHolds bs then bump s (oGlLcrcCnt + 0x20 * l)
  else if !flitGood bs || h.type ≠ 3 then s
  else
    let p := (bs.drop 8).take 20
    let n := if p = k.lastTrain && k.trains != 0 then k.trains + 1 else 1
    let s := linkMod s l (fun k => { k with trains := n, lastTrain := p, peerChip := leAt p 0 2, peerLink := leAt p 5 1 })
    if n < 3 then s
    else match trainFault s l p with
      | 0 => linkComesUp s l p
      | r => linkMod (bump s oGlTopoMismatchCnt) l (fun k => { k with state := 0, reason := r, trains := 0 })

/-! ### At a Turn boundary (R326, R331, R332, R354) -/

/-- 2^30 Turns, within which three slow marks or retrains count (R354). -/
def gradeWindow : Nat := 2 ^ 30

/-- A link requests a retrain of its port (R326, R354). -/
def requestRetrain (s : State) (l : Nat) : State :=
  let s := bump s (oGlLretrainCnt + 0x20 * l)
  let s := linkMod s l (fun k => { k with
    retrainDue := false
    attempts := k.attempts + 1
    retrainTurns := (k.retrainTurns.filter (fun t => decide (s.time.turn < t + gradeWindow))) ++ [s.time.turn] })
  let s := if 3 ≤ (linkAt s l).retrainTurns.length then
      linkMod (gradeMinor s (unitLink l)) l (fun k => { k with retrainTurns := [] }) else s
  if (portAt s (l / 4)).retraining then s else retrainPort s (l / 4) false

/-- A link goes down at this boundary: event 0xB when it was up, and its grade unless a command took it down
(R331, R335, R354). -/
def takeDown (s : State) (l reason : Nat) : State :=
  let k := linkAt s l
  let was := k.state == 2 || k.state == 3
  let s := linkDown s l reason (if reason = 5 then 4 else 0)
  if !was then s
  else
    let s := event s 0xB (unitLink l) 0 k.peerChip 0
    if reason = 5 then s else gradeMajor s (unitLink l) true

/-- What is due on one link. -/
def linkTurn (s : State) (l : Nat) : State :=
  let k := linkAt s l
  match k.downDue with
  | some r => takeDown s l r
  | none =>
    if k.sepiaDue then linkDown s l 6 5
    else if k.retrainDue && k.state == 2 then requestRetrain s l
    else s

/-- Accesses outstanding to a chip whose route is lost fail (R271). -/
def failOutst (s : State) (c : Nat) : State :=
  (s.port.outst.filter (fun o => o.chip == c && !s.gl.self.any (fun m => m.kind == 0x3C && m.tag == o.tag))).foldl
    (fun s o => failRemote (bump s oMmRemoteFailCnt) o.tag) s

/-- A chip just marked unreachable: event 0xB, its accesses fail, and a role it held passes on (R200, R201, R332). -/
def chipLost (s : State) (c : Nat) : State :=
  takeLost (failOutst (event s 0xB (unitLink (routeOf s c).1) 0 c 0) c) c

/-- The links at a Turn boundary: what is due, then reachability, then new VC4 requests held for routes that changed
(R270, R326, R331, R332). -/
def linksTurn (s : State) : State :=
  let chips := (s.port.outst.map (fun o => o.chip)).eraseDups
  let routes := chips.map (fun c => (c, routeLink s c))
  let before := s.gl.unreach
  let s := (List.range 96).foldl linkTurn s
  let s := checkReach { s with gl := { s.gl with unreach := s.gl.unreach.filter (fun c => (routeLink s c).isNone) } }
  let s := (s.gl.unreach.filter (fun c => !before.contains c)).foldl chipLost s
  let moved := (routes.filter (fun r => (routeLink s r.1).isSome && routeLink s r.1 != r.2)).map (fun r => r.1)
  { s with port := { s.port with routeHold := s.port.routeHold ++ moved.filter (fun c => !s.port.routeHold.contains c) } }

/-! ### Discovery and group formation (R336, R378, R379) -/

/-- Links the expected topology names and the variant has. -/
def expectedLinks (s : State) : List Nat := (List.range 96).filter (fun l => linkExists s l && (topoEntry s l).2.2)

/-- Whether a link has been up or has failed. -/
def linkSettled (s : State) (l : Nat) : Bool :=
  let k := linkAt s l
  decide (2 ≤ k.state) || (k.state == 0 && k.reason != 0) || (portAt s (l / 4)).absent || gradeOf s (unitLink l) == 3

/-- Whether this chip's own link training has ended. -/
def trainingOver (s : State) : Bool := s.boot.running && (expectedLinks s).all (linkSettled s)

/-- 50, 100 and 400 ms in Turns of 2.048 µs, rounded up. -/
def ms50 : Nat := 24415
def ms100 : Nat := 48829
def ms400 : Nat := 195313

/-- A bit set of chips in bytes. -/
def chipMap (n : Nat) (l : List Nat) : List Byte :=
  (List.range n).map (fun i => BitVec.ofNat 8 (bitsFrom (fun b => l.contains (8 * i + b)) 8))

/-- The link-up bitmap of GL_LINK_UP_0 to GL_LINK_UP_2. -/
def upMap (s : State) : List Byte := chipMap 12 ((List.range 96).filter (linkUp s))

/-- Route entries with no up link: those that name a link at all (R336). -/
def deadRoutes (s : State) : Nat :=
  ((List.range 16384).filter (fun c => c != s.gl.chip && routeOf s c != (0x7F, 0x7F) && (routeLink s c).isNone)).length

/-- DISCOVERY_START at the decision root. -/
def discoveryStart (s : State) : State :=
  if rootChip s ≠ s.gl.chip || !trainingOver s || s.boot.discTurn.isSome then s
  else
    let s := { s with boot := { s.boot with discTurn := some s.time.turn, replies := [s.gl.chip] } }
    multicast s 255 ⟨0x10, false, s.gl.chip, 0, 0, 0, 0, 0, 0, 0, []⟩

/-- Chips that have neither replied nor been recorded as missing. -/
def silentChips (s : State) : List Nat := (trainingSet s).filter (fun c => !s.boot.replies.contains c)

/-- DISCOVER_TIMEOUT at the decision root: the chips that have not replied are missing. -/
def discoverTimeout (s : State) : State :=
  match s.boot.discTurn with
  | some t =>
    if rootChip s = s.gl.chip && decide (t + ms50 ≤ s.time.turn) && s.boot.missing.isEmpty then
      { s with boot := { s.boot with missing := silentChips s } }
    else s
  | none => s

/-- GROUP_FORMATION at the decision root, once every chip has replied or is recorded as missing. -/
def groupFormation (s : State) : State :=
  if rootChip s ≠ s.gl.chip || s.boot.discTurn.isNone || s.boot.groupDone || silentChips s != s.boot.missing then s
  else multicast s 255 ⟨0x10, false, s.gl.chip, 0, 0, 0, 0, 1, 0, 0, chipMap 2048 s.boot.missing⟩

/-- GROUP_FORMATION_TIMEOUT (R378). -/
def groupTimeout (s : State) : State :=
  let late := match s.boot.discTurn, s.boot.trainEnd with
    | some t, _ => decide (t + ms100 ≤ s.time.turn)
    | none, some t => decide (t + ms400 ≤ s.time.turn)
    | none, none => false
  if late && !s.boot.groupDone then { s with boot := { s.boot with groupDone := true } } else s

/-- Whether a chip of this chip's own group is marked missing; the topology names no groups (log 36). -/
def groupMissing (s : State) (m : Msg) : Bool :=
  (trainingSet s).any (fun c => bitOf (m.data.getD (c / 8) 0).toNat (c % 8)
    && (c == s.gl.chip || Config.chipGroup c % 2 ^ 10 == s.gl.group))

/-- Forward a discovery message that came on a link down the tree, its slots held until the child links acknowledge
it (R330, R336). -/
def forwardDiscover (s : State) (m : Msg) : State :=
  match s.gl.rx.find? (fun r => r.m == m) with
  | none => { s with gl := { s.gl with self := s.gl.self.erase m } }
  | some r =>
    let slots := some (r.link, r.vc, r.late, r.flits)
    let s := { s with gl := { s.gl with rx := s.gl.rx.erase r } }
    let kids := (mcastEntry s 255).1
    let ups := kids.filter (linkUp s)
    let s := (kids.filter (fun l => !linkUp s l)).foldl (fun s _ => writeOff (bump s oGlWriteoffCnt) m) s
    if ups.isEmpty then freeSlots s slots else queueOn s ups true 255 0 m slots

/-- DISCOVER (R336, R378, R379): forwarded once this chip's training has ended; the discovery wave is answered with the
link summary, the group-formation wave sets GROUP_OK. -/
def takeDiscover (s : State) (m : Msg) : State :=
  if m.kind ≠ 0x10 || !msgReady s m || !trainingOver s then s
  else
    let s := forwardDiscover s m
    if bitOf m.aux 0 then
      { s with boot := { s.boot with groupOk := s.boot.groupOk || (!s.boot.groupDone && !groupMissing s m), groupDone := true } }
    else
      let s := { s with boot := { s.boot with discTurn := if s.boot.discTurn.isSome then s.boot.discTurn else some s.time.turn } }
      sendTo s (rootChip s) ⟨0x11, false, s.gl.chip, 0, 0, 0, 0, deadRoutes s, 0, 0, upMap s⟩

/-- DISCOVER_REP at the decision root (R336). -/
def takeDiscoverRep (s : State) (m : Msg) : State :=
  if m.kind ≠ 0x11 || !msgReady s m then s
  else
    let s := consumeMsg s m
    if rootChip s ≠ s.gl.chip then s
    else
      let s := if s.boot.replies.contains m.src then s else { s with boot := { s.boot with replies := s.boot.replies ++ [m.src] } }
      if (silentChips s).isEmpty then { s with boot := { s.boot with discDone := true } } else s

/-- LINK_STATUS (R331): with SEPIA = 1 its link is treated as down from the next boundary. -/
def takeLinkStatus (s : State) (m : Msg) : State :=
  if m.kind ≠ 0x12 || !msgReady s m then s
  else match s.gl.rx.find? (fun r => r.m == m) with
    | none => consumeMsg s m
    | some r =>
      let s := consumeMsg s m
      if bitOf m.aux 0 then linkMod s r.link (fun k => if k.state = 5 then k else { k with sepiaDue := true }) else s

/-- This chip's LINK_STATUS (R323, R366). -/
def linkStatusMsg (s : State) : Msg := ⟨0x12, false, s.gl.chip, 0, 0, 0, 0, b2n s.fh.sepia, 0, 0, upMap s⟩

/-- LINK_STATUS on every up link (R366). -/
def sendLinkStatus (s : State) : State :=
  ((List.range 96).filter (linkUp s)).foldl (fun s l =>
    queueOn s [l] false (linkAt s l).peerChip 1 (linkStatusMsg s) none) s

/-- GL_LCMD.RETRAIN: a live recalibration, without counting an attempt (R335). -/
def liveRetrain (s : State) (l : Nat) : State :=
  let x := portAt s (l / 4)
  if linkExists s l && x.active && !x.retraining then retrainPort s (l / 4) true else s

/-- GL_LCMD.DISABLE: the link goes down at the next boundary (R335). -/
def disableLink (s : State) (l : Nat) : State :=
  if linkExists s l then linkMod s l (fun k => { k with downDue := some 5 }) else s

/-! ### The rows -/

def execDataFlit (link : Nat) (flit : List Byte) (s : State) : Out := .next (dataFlit s link flit)
def execIdleFlit (link : Nat) (flit : List Byte) (s : State) : Out :=
  .next (withFlit s link flit 0 (fun s h => flitFields s link h))
/-- A NAK: what its ACK field covers is done, and the rest is sent again (R325). -/
def execNakFlit (link : Nat) (flit : List Byte) (s : State) : Out :=
  .next (withFlit s link flit 2 (fun s h => resendAll (flitFields s link h) link))
def execAckTimeout (link : Nat) (s : State) : Out :=
  .next (if (linkAt s link).state = 2 then resendAll s link else s)
def execPortActive (port : Nat) (supported full : Bool) (s : State) : Out := .next (portActive s port supported full)
def execRetrainTimeout (port : Nat) (s : State) : Out := .next (retrainTimeout s port)
def execTrainFlit (link : Nat) (flit : List Byte) (s : State) : Out := .next (trainFlit s link flit)
def execGlLcmdRetrain (link : Nat) (s : State) : Out := .next (liveRetrain s link)
def execGlLcmdDisable (link : Nat) (s : State) : Out := .next (disableLink s link)
def execGlLcmdEnable (link : Nat) (s : State) : Out := .next (startTraining s link)
def execDiscoveryStart (s : State) : Out := .next (discoveryStart s)
def execDiscoverTimeout (s : State) : Out := .next (discoverTimeout s)
def execGroupFormation (s : State) : Out := .next (groupFormation s)
def execGroupFormationTimeout (s : State) : Out := .next (groupTimeout s)
def execMsgDiscover (m : Msg) (s : State) : Out := .next (takeDiscover s m)
def execMsgDiscoverRep (m : Msg) (s : State) : Out := .next (takeDiscoverRep s m)
def execMsgLinkStatus (m : Msg) (s : State) : Out := .next (takeLinkStatus s m)

end Sys2Proof.Machine
end

