-- ==== Sys2Proof/Machine/Health.lean ====
section
/-!
DEFINITION. Health: leaky buckets, error injection, verdicts of the checks, grades, in-field tests, the journal and CPER
records, Sepia mode (R344, R345, R347, R349 to R366).
-/
namespace Sys2Proof.Machine

/-! ### Buckets and injection (R344, R345) -/

/-- BUCKET_LEAK: each bucket whose LEAK period ends this Turn. -/
def bucketLeak (s : State) : State :=
  { s with fh := { s.fh with units :=
    (s.fh.units.filterMap (fun g =>
      let leak := regGet s (oFhBktCtl + 4 * (g.u / 0x1000)) / 2 ^ 16
      let g' := if leak != 0 && s.time.turn % leak == 0 then { g with bucket := g.bucket - 1 } else g
      if g' = gradedNew g.u then none else some g')) } }

/-! ### Grades at a Turn boundary (R354, R355) -/

/-- An event that leaves the record of events since the last test as it was. -/
def quietEv (s : State) (cls u detail verdict gb ga : Nat) : State :=
  let was := (gradedOf s u).bad
  gradedMod (recordEv s cls u 0 detail verdict gb ga) u (fun g => { g with bad := was })

/-- Declare a DRAM channel dead, from now until the next reset (R228): event 0x4. -/
def channelDead (s : State) (mp : Bool) (ch : Nat) : State :=
  let u := if mp then unitMp ch else unitHr ch
  let l : DramLoc := ⟨mp, ch, 0⟩
  if chanDead s l then s
  else
    let s := if mp then { s with mem := { s.mem with mpDead := modAt s.mem.mpDead (ch / 16) (· ||| 2 ^ (ch % 16)) } }
      else { s with mem := { s.mem with hrDead := modAt s.mem.hrDead (ch / 32) (· ||| 2 ^ (ch % 32)) } }
    event s 0x4 u 0 0 0

/-- What a unit graded Umber does no longer (R355). -/
def retireUnit (s : State) (u : Nat) : State :=
  match u / 0x1000 with
  | 0 => if u < 36 then qnMod s u (fun n => { n with lost := true }) else s
  | 1 => channelDead s false (u % 0x1000)
  | 2 => channelDead s true (u % 0x1000)
  | 4 => linkMod s (u % 0x1000) (fun k => { k with downDue := some 5 })
  | _ => s

/-- One grade change that is due: event 0xF; a streak starts anew; Umber retires, and a link that leaves Umber trains
again (R354 to R356). -/
def changeGrade (s : State) (p : Nat × Nat) : State :=
  let before := gradeOf s p.1
  if before = p.2 then s
  else
    let s := gradedMod s p.1 (fun g => { g with grade := p.2, passes := 0, fails := 0 })
    let s := quietEv s 0xF p.1 0 0 before p.2
    if p.2 = 3 then retireUnit s p.1
    else if before = 3 && p.1 / 0x1000 == 4 then startTraining s (p.1 % 0x1000)
    else s

/-- Grade changes due at this boundary. -/
def gradeTurn (s : State) : State :=
  s.fh.gradeNext.foldl changeGrade { s with fh := { s.fh with gradeNext := [] } }

/-- A grade asked for whatever the present one is (R354's recoveries, R356). -/
def setGrade (s : State) (u g : Nat) : State :=
  { s with fh := { s.fh with gradeNext := s.fh.gradeNext.filter (fun p => p.1 != u) ++ [(u, g)] } }

/-- Whether a unit id names a unit of the variant (R353, R415). -/
def unitExists (s : State) (u : Nat) : Bool :=
  let i := u % 0x1000
  let v := vnt s
  match u / 0x1000 with
  | 0 => decide (i < 4 * v.clusters)
  | 1 => decide (i < 32 * v.hrStacks)
  | 2 => decide (i < 16 * v.groups)
  | 3 => decide (i < v.granules)
  | 4 => decide (i < 4 * v.ports)
  | _ => false

/-- FH_GRADE_SET (R356, R390). -/
def gradeSet (s : State) (req w : Nat) : State :=
  if cjFree s = 0 then apb s 0 true
  else
    let s := apb (cjWrite s req 2 0 0 0 0 0 (leBytes 4 w)) 0 false
    if unitExists s (w % 2 ^ 16) then setGrade s (w % 2 ^ 16) (fieldOf w 17 16) else s

/-! ### Verdicts (R349, R351) -/

/-- The first free spare Quern. -/
def freeSpare (s : State) : Option Nat :=
  (List.range (4 * (vnt s).clusters)).find? (fun q => restState s q == 5 && (qnAt s q).item.isNone
    && (qnAt s q).saving.isNone && (qnAt s q).restoring.isNone && !s.fh.tests.any (fun t => t.1 == q))

/-- A suspect verdict on a Quern (R354). -/
def suspectQuern (s : State) (q : Nat) : State := if q < 36 then gradeMajor s (unitQuern q) true else s

/-- PLAUSIBILITY_REPLAY_DONE: the verdict on the first unit held (R349). VERDICT: bit 0 to 2 the check, bit 3 whether
the replay differs (log 37). -/
def plausDone (s : State) (differs : Bool) : State :=
  match s.fh.plaus with
  | [] => s
  | h :: rest =>
    let other := (freeSpare s).getD 0xFF
    let s := { s with fh := { s.fh with plaus := rest } }
    let s := ((List.range 3).filter (bitOf h.failed)).foldl (fun s b =>
      event s 0x9 (unitQuern h.quern) 0 (h.quern + other * 2 ^ 8) (2 ^ b + 8 * b2n differs)) s
    if differs then suspectQuern s h.quern
    else if bitOf h.failed 2 then markFault (suspectQuern s h.quern)
    else markOverflow s

/-- Physical Querns of a pair (R350). -/
def primaryOf (s : State) (n : Nat) : Nat := mapOf s n
def checkerOf (s : State) (n : Nat) : Nat := mapOf s (n + 16)

/-- The checks on a custom recipe's update (R348): what it wrote is its own, so FIN is an open value; NORM compares the
gradient norm with that of the stored gradients; it forms no update norm for MAG to judge. -/
def judgeCustom (s : State) (i : Nat) : State :=
  let ctl := regGet s oFhPlausCtl
  let (n, s) := drawFree s
  let (gs, _, s) := readGrads s i
  let fin := bitOf ctl 0 && !(Config.customFinite n)
  let norm := plausFails s i (sampled s i) [] [] (gs.map (decodeFV fmtB32)) / 4
  holdPlaus (unitMod s i (fun u => { u with judged := true })) i (b2n fin + 4 * norm)

/-- The custom updates that ended in the Turn before. -/
def customTurn (s : State) : State :=
  ((s.work.units.filter (fun u => u.updated && !judgedUnit s u)).map (fun u => u.entry)).foldl judgeCustom s

/-- Work items reported to have ended with different CRCs in a pair (R350). -/
def checksTurn (s : State) (checks : List (Nat × Nat × Nat)) : State :=
  if !bitOf (regGet s oFhPlausCtl) 31 then s
  else
    let bad := checks.filter (fun c => decide (c.1 < 16) && c.2.1 != c.2.2 && !s.fh.check.any (fun h => h.logical == c.1))
    { s with fh := { s.fh with check := s.fh.check ++ bad.map (fun c => ⟨c.1, c.2.1, c.2.2, none⟩) } }

/-- The verdict on a disagreement. VERDICT: 1 the checker, 2 the primary, 3 two of four agree, 4 none do (log 37). -/
def checkVerdict (s : State) (n verdict : Nat) (suspects : List Nat) : State :=
  let s := event { s with fh := { s.fh with check := s.fh.check.filter (fun h => h.logical != n) } } 0x8
    (unitQuern (if verdict = 1 then checkerOf s n else primaryOf s n)) 0 (checkerOf s n) verdict
  suspects.foldl suspectQuern s

/-- CHECKER_RECOMPUTE_DONE: the third Quern's CRC, or the fourth's (R351). -/
def checkDone (s : State) (crc : Nat) : State :=
  match s.fh.check with
  | [] => s
  | h :: rest =>
    let n := h.logical
    match h.third with
    | none =>
      if crc = h.primary then
        let s := checkVerdict s n 1 []
        if checkerOf s n < 36 then gradeMinor s (unitQuern (checkerOf s n)) else s
      else if crc = h.checker then checkVerdict s n 2 [primaryOf s n]
      else { s with fh := { s.fh with check := { h with third := some ((freeSpare s).getD 0xFF, crc) } :: rest } }
    | some (q3, c3) =>
      if crc ≠ h.primary ∧ crc ≠ h.checker ∧ crc ≠ c3 then markFault (checkVerdict s n 4 [])
      else
        checkVerdict s n 3 ((([(primaryOf s n, h.primary), (checkerOf s n, h.checker), (q3, c3)].filter
          (fun x => x.2 != crc))).map (fun x => x.1))

/-! ### In-field tests (R357 to R359) -/

/-- Turns between tests at a grade: 24 hours, 1 hour, 5 minutes of Turns of 2.048 µs. -/
def testCadence (g : Nat) : Nat :=
  match g with
  | 0 => 42187500000
  | 1 => 1757812500
  | _ => 146484375

/-- Completed scrub passes that cover a unit. -/
def scrubPasses (s : State) (u : Nat) : Nat :=
  match u / 0x1000 with
  | 1 => regGet s oScrubPass % 2 ^ 16
  | 2 => regGet s oScrubPass / 2 ^ 16
  | _ => regGet s oHopScrubPass

/-- Whether a unit's test is due: its cadence has passed, or it waits. -/
def testDue (s : State) (u : Nat) : Bool :=
  let g := gradedOf s u
  unitExists s u && g.grade != 3 && !s.fh.tests.any (fun t => t.1 == u)
    && (g.pendTest || decide (g.lastTest + testCadence g.grade ≤ s.time.turn))

/-- The condition of a Quern's next test, and the rotation after it (R358). -/
def nextCondition (s : State) (u : Nat) : Nat × State :=
  if bitOf (regGet s oFhTestCtl) 30 then
    let k := (s.fh.stressRot.find? (fun x => x.1 == u)).elim 0 (fun x => x.2)
    (k, { s with fh := { s.fh with stressRot := s.fh.stressRot.filter (fun x => x.1 != u) ++ [(u, (k + 1) % 3)] } })
  else (0, s)

/-- Whether the cluster of a Quern is as warm as FH_TEST_CTL.TEMP_TH asks (R358). -/
def warmEnough (s : State) (q : Nat) : Bool :=
  decide (signed 8 (fieldOf (regGet s oFhTestCtl) 23 16) ≤ signed 8 (clusterAt s (q / 4)).temp)

/-- Ask for the stress of a test (R358). -/
def askStress (s : State) (q k : Nat) : State :=
  pmAsk (clusterMod s (q / 4) (fun x => { x with stress := true })) (q / 4) (clusterAt s (q / 4)).point k

/-- Start the test of a free Quern, asking for its stress; a stressed one waits for its temperature first. -/
def startTest (s : State) (q : Nat) : State :=
  let (k, s) := nextCondition s q
  let s := { s with fh := { s.fh with tests := s.fh.tests ++ [(q, k)] } }
  let s := qnMod (gradedMod s q (fun g => { g with pendTest := false })) q (fun n => { n with state := 7 })
  if k = 0 then s
  else if warmEnough s q then askStress s q k
  else { s with fh := { s.fh with testWait := s.fh.testWait ++ [(q, s.time.turn)] } }

/-- A stressed test starts once its cluster is warm, or after a Wheel (R358). -/
def warmTurn (s : State) : State :=
  (s.fh.testWait.filter (fun x => warmEnough s x.1 || decide (x.2 + 512 ≤ s.time.turn))).foldl (fun s x =>
    let k := (s.fh.tests.find? (fun t => t.1 == x.1)).elim 0 (fun t => t.2)
    let s := { s with fh := { s.fh with testWait := s.fh.testWait.filter (fun y => y.1 != x.1) } }
    if k = 0 then s else askStress s x.1 k) s

/-- FIELD_TEST_DUE: a spare Quern's test starts; any other Quern's waits for a takeover; the other units have no test
traffic (R357). -/
def fieldTestDue (s : State) (u : Nat) : State :=
  if !testDue s u || s.fh.sepia || s.gov.pfActive then s
  else if u < 36 then
    if restState s u = 5 && (qnAt s u).item.isNone && (qnAt s u).state == 5 then startTest s u
    else gradedMod s u (fun g => { g with pendTest := true })
  else { s with fh := { s.fh with tests := s.fh.tests ++ [(u, 0)] } }

/-- End a test's hold on its Quern and cluster. -/
def releaseTest (s : State) (u : Nat) (cond : Nat) : State :=
  let waits := s.fh.testWait.any (fun x => x.1 == u)
  let s := { s with fh := { s.fh with
    tests := s.fh.tests.filter (fun t => t.1 != u)
    testWait := s.fh.testWait.filter (fun x => x.1 != u) } }
  if 36 ≤ u then s
  else
    let s := qnMod s u (fun n => { n with state := if n.state = 7 then restState s u else n.state })
    if cond % 4 = 0 || waits then s
    else pmAsk (clusterMod s (u / 4) (fun x => { x with stress := false })) (u / 4) (clusterAt s (u / 4)).point 0

/-- The verdict of a test: a Quern's known answers, or the interval since the last test (R357). -/
def testPass (s : State) (u : Nat) (pass : Bool) : Bool :=
  let g := gradedOf s u
  match u / 0x1000 with
  | 0 => pass
  | 4 => !(linkAt s (u % 0x1000)).retrainTurns.any (fun t => decide (g.lastTest ≤ t))
  | _ => !g.bad && scrubPasses s u != g.scrub

/-- FIELD_TEST_RESULT: event 0xD, the streak, and the grade it leads to (R354, R357). VERDICT: condition, 8 when it was
passed (log 37). -/
def fieldTestResult (s : State) (u : Nat) (pass : Bool) : State :=
  match s.fh.tests.find? (fun t => t.1 == u) with
  | none => s
  | some (_, cond) =>
    if s.fh.testWait.any (fun x => x.1 == u) then s
    else
    let ok := testPass s u pass
    let s := releaseTest s u cond
    let s := gradedMod s u (fun g => { g with
      passes := if ok then (if g.bad then 1 else min 255 (g.passes + 1)) else 0
      fails := if ok then g.fails else min 15 (g.fails + 1)
      lastTest := s.time.turn
      bad := false
      scrub := scrubPasses s u })
    let g := gradedOf s u
    let s := quietEv s 0xD u (g.passes + g.fails * 2 ^ 8) (cond + 8 * b2n ok) g.grade g.grade
    if !ok then gradeMajor s u true
    else if g.grade = 1 && decide (24 ≤ g.passes) then setGrade s u 0
    else if g.grade = 2 && decide (12 ≤ g.passes) then setGrade s u 1
    else s

/-- Whether a service request pre-empts a Quern's test (R359): an abort, a takeover that needs a Quern of its cluster,
or a spread on the cluster. -/
def testPreempted (s : State) (q : Nat) : Bool :=
  let c := q / 4
  let needed := (List.range 32).any (fun n => let p := mapOf s n; p < 36 && (qnAt s p).lost) && (freeSpare s).isNone
  s.fh.testAbort || needed || (clusterAt s c).voltHold || (clustersOf s).any (fun d => tempSpread s c d || tempSpread s d c)

/-- A test resumes under its condition (R358, R359). -/
def keepCondition (s : State) (u cond : Nat) : State :=
  if bitOf (regGet s oFhTestCtl) 30 then
    { s with fh := { s.fh with stressRot := s.fh.stressRot.filter (fun x => x.1 != u) ++ [(u, cond % 4)] } }
  else s

/-- Tests pre-empted at a Turn boundary: they count as nothing and wait for their Quern (R359). -/
def testsTurn (s : State) : State :=
  let gone := s.fh.tests.filter (fun t => decide (t.1 < 36) && testPreempted s t.1)
  let s := gone.foldl (fun s t =>
    gradedMod (keepCondition (releaseTest s t.1 t.2) t.1 t.2) t.1 (fun g => { g with pendTest := true })) s
  warmTurn { s with fh := { s.fh with testAbort := false } }

/-! ### The journal (R360 to R364) -/

/-- The records of the slot in use. -/
def activeSlot (s : State) : List (List Byte) := if s.fh.slot = 0 then s.nor.slot0 else s.nor.slot1
def putSlot (s : State) (k : Nat) (l : List (List Byte)) : State :=
  if k = 0 then { s with nor := { s.nor with slot0 := l } } else { s with nor := { s.nor with slot1 := l } }

/-- The severity of a record's class (R364). -/
def cperSeverity (e : Ev) : Nat :=
  match e.cls with
  | 0x1 => 2
  | 0x3 => b2n (e.verdict == 1)
  | 0xA => b2n (e.verdict == 1)
  | 0xE => 1
  | 0x2 | 0x5 | 0x6 | 0x8 | 0x9 | 0xB => 0
  | _ => 3

/-- The Nirora section (R364). -/
def niroraSection (s : State) (e : Ev) : List Byte :=
  padTo 128 (evRecord e ++ leBytes 4 (regGet s oHuVersion) ++ leBytes 4 (s.gl.chip + s.gl.group * 2 ^ 16 + s.gl.rank * 2 ^ 26)
    ++ (if e.cls = 0xA then leBytes 8 e.op ++ leBytes 8 e.detail else []))

/-- Section type 4e1f7b2c-93d0-4a58-b6e4-2c71f0d98a35, in the byte order of a CPER GUID. -/
def niroraGuid : List Byte :=
  leBytes 4 0x4e1f7b2c ++ leBytes 2 0x93d0 ++ leBytes 2 0x4a58 ++ [0xb6, 0xe4, 0x2c, 0x71, 0xf0, 0xd9, 0x8a, 0x35]

/-- A CPER record: header, one section descriptor, section (R364, log 38). -/
def cperRecord (s : State) (e : Ev) : List Byte :=
  let sev := cperSeverity e
  leBytes 4 0x52455043 ++ leBytes 2 0x0101 ++ leBytes 4 0xFFFFFFFF ++ leBytes 2 1 ++ leBytes 4 sev ++ leBytes 4 0
    ++ leBytes 4 328 ++ zeroBytes 8 ++ zeroBytes 64 ++ leBytes 8 e.seq ++ zeroBytes 24
    ++ leBytes 4 200 ++ leBytes 4 128 ++ leBytes 2 0x0101 ++ zeroBytes 2 ++ zeroBytes 4 ++ niroraGuid ++ zeroBytes 16
    ++ leBytes 4 sev ++ zeroBytes 20 ++ niroraSection s e

/-- Write a record's CPER entry, or count it dropped (R364). -/
def cperAdd (s : State) (e : Ev) : State :=
  let prod := regGet s oFhCperProd
  if (prod + 2 ^ 32 - regGet s oFhCperCons) % 2 ^ 32 = 256 then bump s oFhCperDropCnt
  else regSet (scrWrite s (baseOf s oFhCperBase + (prod % 256) * 512) (padTo 512 (cperRecord s e))) oFhCperProd ((prod + 1) % 2 ^ 32)

/-- A record written at compaction: a grade, or a test streak (R360, log 38). -/
def keepRecord (s : State) (g : Graded) (cls : Nat) : List Byte :=
  evRecord ⟨s.fh.seq, s.time.turn, g.u, cls, g.grade, g.grade, 1, 0, 0, 0, 0, if cls = 0xD then g.passes + g.fails * 2 ^ 8 else 0, 0⟩

/-- The header of a slot. -/
def slotHeader (s : State) (gen : Nat) : List Byte := evRecord ⟨gen, s.time.turn, 0, 0, 0, 0, 1, 0, 0, 0, 0, 0, 0⟩

/-- Compaction when less than an eighth of the slot is free (R360). -/
def compact (s : State) : State :=
  let used := 64 * (activeSlot s).length
  if s.nor.slotBytes ≤ 8 * (s.nor.slotBytes - used) then s
  else
    let gen := (s.fh.generation + 1) % 2 ^ 32
    let k := 1 - s.fh.slot
    let grades := (s.fh.units.filter (fun g => g.grade != 0)).map (fun g => keepRecord s g 0xF)
    let streaks := (s.fh.units.filter (fun g => g.lastTest != 0)).map (fun g => keepRecord s g 0xD)
    putSlot { s with fh := { s.fh with slot := k, generation := gen } } k (slotHeader s gen :: grades ++ streaks)

/-- JOURNAL_WRITE_DONE (R360, R362, R364). -/
def journalDone (s : State) : State :=
  match s.fh.pend with
  | [] => { s with fh := { s.fh with writing := false } }
  | e :: rest =>
    if s.nor.slotBytes = 0 then s
    else
      let s := putSlot s s.fh.slot (activeSlot s ++ [evRecord e])
      compact (cperAdd { s with fh := { s.fh with pend := rest, writing := !rest.isEmpty } } e)

/-! ### Sepia mode and stopping (R365, R366, R394) -/

/-- Leat, Bolter and Tailrace stop at the boundary (R290, R313). -/
def stopUnits (s : State) : State :=
  { s with
    leat := s.leat.map (fun x => { x with preempt := true })
    bol := { s.bol with preempt := true }
    pub := { s.pub with preempt := true } }

/-- The open step is abandoned locally (R366, R394). -/
def abandonStep (s : State) : State :=
  if s.step.state = 0 then s
  else { s with
    step := { s.step with state := 0, move := none, earlyDue := false, recordSent := false }
    work := { WorkSt.reset with ringQ := s.work.ringQ, tags := s.work.tags } }

/-- Every dirty sector of the cache is written back and its lines are dropped (R251, R366). -/
def flushCache (s : State) : State :=
  let s := s.hop.lines.foldl (fun s x => match x.2 with
    | some l => (lineBack s (x.1 % 2 ^ 20) l).2
    | none => s) s
  { s with hop := { s.hop with lines := [] } }

/-- Messages that wait here or on links are discarded with their credits returned, LINK_STATUS apart (R366). -/
def dropTraffic (s : State) : State :=
  let bad := s.gl.rx.filter (fun r => r.m.kind != 0x12)
  let s := bad.foldl (fun s r => freeSlots s (some (r.link, r.vc, r.late, r.flits)))
    { s with gl := { s.gl with rx := s.gl.rx.filter (fun r => r.m.kind == 0x12), self := [] } }
  let queued := (s.gl.links.flatMap (fun k => k.queue)).filter (fun t => t.m.kind != 0x12)
  let started := (s.gl.links.flatMap (fun k => k.replay)).map (fun f => f.msg)
  let gone := s.gl.out.filter (fun o => queued.any (fun t => t.id == o.id) && !started.contains o.id)
  let s := { s with gl := { s.gl with
    out := s.gl.out.filter (fun o => !gone.any (fun g => g.id == o.id))
    links := s.gl.links.map (fun k => { k with queue := k.queue.filter (fun t => t.m.kind == 0x12) }) } }
  gone.foldl (fun s o => freeSlots s o.slots) s

/-- Enter Sepia mode (R365, R366). -/
def enterSepia (s : State) (reason : Nat) : State :=
  if s.fh.sepia then s
  else
    let s := { s with fh := { s.fh with sepia := true, sepiaReason := reason, sepiaDue := 0 } }
    let s := event s 0xE 0 0 0 reason
    sendLinkStatus (dropTraffic (flushCache (abandonStep (stopUnits s))))

/-! ### The rows -/

def execBucketLeak (s : State) : Out := .next (bucketLeak s)
/-- FH_FLIP_CTL.ARM (R345). -/
def execFlipArm (s : State) : Out := .next { s with fh := { s.fh with armed := true } }
def execPlausibilityReplayDone (differs : Bool) (s : State) : Out := .next (plausDone s differs)
def execCheckerRecomputeDone (crc : Nat) (s : State) : Out := .next (checkDone s crc)
def execFhGradeSet (req w : Nat) (s : State) : Out := .next (gradeSet s req w)
def execFieldTestDue (u : Nat) (s : State) : Out := .next (fieldTestDue s u)
def execFieldTestResult (u : Nat) (pass : Bool) (s : State) : Out := .next (fieldTestResult s u pass)
/-- FH_TEST_CTL.ABORT: a running test ends at the next boundary (R359). -/
def execTestAbort (s : State) : Out := .next { s with fh := { s.fh with testAbort := true } }
def execFatalClear (s : State) : Out := .next { s with fh := { s.fh with fatal := false } }
def execStatePoisonClear (s : State) : Out := .next { s with fh := { s.fh with statePoison := false } }
def execJournalWriteDone (s : State) : Out := .next (journalDone s)
/-- FH_SEPIA_CMD.ENTER: entry at the next boundary (R365). -/
def execSepiaEnter (s : State) : Out :=
  .next (if s.fh.sepia then s else { s with fh := { s.fh with sepiaDue := 2 } })
/-- 16 consecutive Turns without a completed boundary sequence (R365). -/
def execGovernorStall (s : State) : Out := .next (if 16 ≤ s.time.stall then enterSepia s 1 else s)

end Sys2Proof.Machine
end

