-- ==== Sys2Proof/Machine/Ports.lean ====
section
/-!
DEFINITION. Host data ports and narrow request ports: reads, writes, atomics and fences (R225, R228, R253, R261 to
R271, R399 to R402).
-/
namespace Sys2Proof.Machine

/-- Index of a port's last response: data ports first, then narrow ports. -/
def portKey (narrow : Bool) (p : Nat) : Nat := if narrow then 64 + p else p

/-- A response on a port. -/
def respond (s : State) (r : AxiReq) (code : Nat) (data : List Byte) (poison : List Bool) : State :=
  { s with port := { s.port with
    resp := mapSet (fun _ => none) s.port.resp (portKey r.narrow r.port) (some ⟨code, data, poison⟩) } }

def okay : Nat := 0
def slverr : Nat := 2
def decerr : Nat := 3

/-- Ports the variant has (R16, R397). -/
def portExists (s : State) (r : AxiReq) : Bool :=
  if r.narrow then decide (r.port < 8) else decide (r.port < (vnt s).dataPorts)

/-- A burst whose home accepts nothing for now: a granule in conversion towards SCRATCH, a row under soft repair, a
group in retraining (R235, R251, R388). -/
def burstHeld (s : State) (space off : Nat) : Bool :=
  if space = 1 then s.hop.convert.contains (off / 2 ^ 28, true)
  else if space = 0 then
    match dramPlace s off with
    | some l => (l.mp && s.mem.retrain == some (l.ch / 16)) || s.mem.pprRows.contains (l.mp, l.ch, Config.rowOf l.mp l.ch l.addr)
    | none => false
  else false

/-- A local range some burst of which is held. -/
def rangeHeld (s : State) (space off n : Nat) : Bool := (burstSpan off n).any (fun x => burstHeld s space x.1)

/-- Class of a host read (R238). -/
def readClass (s : State) (r : AxiReq) : Nat := if regGet s oWeirQos % 16 ≤ r.qos then 0 else 2

/-- What Sepia mode refuses: scratch, every atomic, and accesses to other chips, which nothing carries (R366). -/
def sepiaRefuses (s : State) (r : AxiReq) (atomic : Bool) : Bool :=
  s.fh.sepia && (atomic || (baddrOf r.addr).space == 1 || isRemote s r.addr)

/-- The refusals an access meets before any memory: a port-level error, or none (R270, R366, R399, R402). -/
def portRefusal (s : State) (r : AxiReq) (atomic : Bool) : Option State :=
  let b := baddrOf r.addr
  if r.unsupported then some (respond (bump s oBadAxiCnt) r slverr [] [])
  else if b.remote && decide (2 ≤ b.space) then some (respond (bump s oMmRemoteBadCnt) r decerr [] [])
  else if b.space = 2 then some (respond (bump s oBadAxiCnt) r slverr [] [])
  else if b.space = 3 then some (respond s r decerr [] [])
  else if sepiaRefuses s r atomic then some (respond s r slverr [] [])
  else none

/-- A read performed at its home, or sent to it (R261, R270). -/
def doAxiRead (s : State) (r : AxiReq) : State :=
  match portRefusal s r false with
  | some s => s
  | none =>
    let b := baddrOf r.addr
    if isRemote s r.addr then
      let lo := r.addr / 64 * 64
      sendVc4 s 0x38 b.chip lo (roundUp (r.addr + r.len) 64 - lo) [] 0 (.host r (r.addr % 64))
    else
      let (d, s) := rangeRead s b.space b.off r.len (readClass s r) r.narrow
      if d.ok then respond s r okay d.data d.poison else respond s r decerr [] []

/-- The parts of a write: each burst's offset, its data in place, strobes and poison. -/
def axiBursts (r : AxiReq) (off : Nat) : List (Nat × List Byte × List Bool × Bool) :=
  let strb := if r.strb.isEmpty then List.replicate r.len true else r.strb
  ((burstSpan off r.len).zipIdx).map (fun (x, i) =>
    let at_ := x.1 + x.2.1 - off
    let st := List.replicate x.2.1 false ++ (strb.drop at_).take x.2.2
    (x.1, placeIn x.2.1 ((r.data.drop at_).take x.2.2), st ++ List.replicate (64 - st.length) false, r.poison.getD i false))

/-- A write performed at its home; a remote write is answered at PORT scope (R261, R264, R270). -/
def doAxiWrite (s : State) (r : AxiReq) : State :=
  match portRefusal s r false with
  | some s => s
  | none =>
    let b := baddrOf r.addr
    let parts := (axiBursts r b.off).filter (fun x => x.2.2.1.any id)
    if isRemote s r.addr then
      let base := r.addr / 2 ^ 47 * 2 ^ 47
      let s := parts.foldl (fun s x =>
        if x.2.2.1.all id then sendVc4 s 0x39 b.chip (base + x.1) 0 x.2.1 (b2n x.2.2.2) (.hostWrite r)
        else sendVc4 s 0x3A b.chip (base + x.1) (bitsFrom (fun i => x.2.2.1.getD i false) 64) x.2.1 (b2n x.2.2.2) (.hostWrite r)) s
      respond s r okay [] []
    else
      let (code, s) := parts.foldl (fun (a : Nat × State) x =>
        if !memOk a.2 b.space x.1 then (decerr, a.2)
        else
          let (ok, s) := burstWrite a.2 b.space x.1 x.2.1 x.2.2.1 x.2.2.2 2 r.narrow
          (if ok then a.1 else max a.1 slverr, s)) (okay, s)
      respond s r code [] []

/-- Operand size of an atomic: AtomicCompare carries two values (R253). -/
def atomicSize (r : AxiReq) : Nat := if r.op = 9 then r.len / 2 else r.len

/-- An atomic performed at its home, sent to it, or refused (R241, R253, R402). -/
def doAxiAtomic (s : State) (r : AxiReq) : State :=
  let b := baddrOf r.addr
  let n := atomicSize r
  if !r.unsupported && b.space = 0 then respond (bump s oAtomicRejCnt) r slverr [] []
  else match portRefusal s r true with
  | some s => s
  | none =>
    if r.bigEndian || !(n == 4 || n == 8) || decide (b.off % n ≠ 0) || decide (10 ≤ r.op)
        || (r.op == 9 && decide (r.len ≠ 2 * n)) then respond (bump s oHopAtomicRejCnt) r slverr [] []
    else
      let cmp := if r.op = 9 then leAt r.data 0 n else 0
      let x := if r.op = 9 then leAt r.data n n else leAt r.data 0 n
      if isRemote s r.addr then
        sendVc4 s 0x3B b.chip r.addr (r.op + (if n = 8 then 16 else 0)) (leBytes n x ++ leBytes n cmp) 0 (.host r 0)
      else if !scratchOk s (b.off / 64 * 64) 64 then respond s r decerr [] []
      else
        let (old, pz, s) := atomicAt s b.off n r.op x cmp
        respond s r okay (leBytes n old) [pz]

/-- Whether an access has to wait: the ports are closed (R377), or its home holds it, or an earlier access of the
port to the same burst waits (R233, R261). -/
def mustWait (s : State) (r : AxiReq) : Bool :=
  let b := baddrOf r.addr
  !s.boot.opened || (!isRemote s r.addr && decide (b.space < 2) && !r.unsupported && rangeHeld s b.space b.off r.len)
    || s.port.waiting.any (fun h => h.r.narrow == r.narrow && h.r.port == r.port
      && decide (h.r.addr / 64 ≤ (r.addr + r.len - 1) / 64) && decide (r.addr / 64 ≤ (h.r.addr + h.r.len - 1) / 64))

/-- Perform a host access of a kind. -/
def doAxi (s : State) (kind : Nat) (r : AxiReq) : State :=
  match kind with
  | 0 => doAxiRead s r
  | 1 => doAxiWrite s r
  | _ => doAxiAtomic s r

/-- A host access arrives: it is performed, or waits; during the power-fail sequence it is refused (R394). -/
def axiArrive (s : State) (kind : Nat) (r : AxiReq) : State :=
  if !portExists s r then s
  else if s.gov.pfActive then respond s r slverr [] []
  else if mustWait s r then
    { s with port := { s.port with
      waiting := s.port.waiting ++ [⟨s.port.nextHeld, kind, r⟩]
      nextHeld := s.port.nextHeld + 1 } }
  else doAxi s kind r

/-! ### Fences (R264, R265, R271) -/

/-- Tags of a port's remote writes and atomics not yet answered. -/
def portTags (s : State) (narrow : Bool) (p : Nat) : List Nat :=
  (s.port.outst.filter (fun o => match o.sink with
    | .hostWrite r => r.narrow == narrow && r.port == p
    | .host r _ => o.kind == 0x3B && r.narrow == narrow && r.port == p
    | _ => false)).map (fun o => o.tag)

/-- Release the waiting accesses that no longer wait, in order; the fences that cover one then wait for what it has
sent to other chips. -/
def releaseWaiting (s : State) : State :=
  let all := s.port.waiting
  let s := { s with port := { s.port with waiting := [] } }
  all.foldl (fun s h =>
    if mustWait s h.r then { s with port := { s.port with waiting := s.port.waiting ++ [h] } }
    else
      let old := portTags s h.r.narrow h.r.port
      let s := doAxi s h.kind h.r
      let sent := (portTags s h.r.narrow h.r.port).filter (fun t => !old.contains t)
      { s with port := { s.port with fences := s.port.fences.map (fun f =>
        if f.scope = 2 && f.held.contains h.id then { f with tags := f.tags ++ sent } else f) } }) s

/-- MM_FENCE in space 0b10 (R402). -/
def fenceAddr : Nat := 2 * 2 ^ 47 + 0x2600

/-- A write to MM_FENCE (R265, R402). -/
def hostFence (s : State) (r : AxiReq) : State :=
  let b := baddrOf r.addr
  if !portExists s r then s
  else if b.remote || b.space != 2 || b.off != 0x2600 || r.unsupported then axiArrive s 1 r
  else if s.gov.pfActive then respond s r slverr [] []
  else if r.len ≠ 4 || !r.strb.all id then respond (bump s oBadAxiCnt) r slverr [] []
  else
    let scope := leAt r.data 0 4 % 4
    if scope = 3 then respond (bump s oMmFenceErrCnt) r slverr [] []
    else
      let key := (r.narrow, r.port)
      let held := (s.port.waiting.filter (fun h => h.r.narrow == r.narrow && h.r.port == r.port && h.kind != 0)).map (fun h => h.id)
      let lost := scope == 2 && s.port.lost.contains key
      { s with port := { s.port with
        fences := s.port.fences ++ [⟨r.narrow, r.port, scope, if scope = 2 then portTags s r.narrow r.port else [], held, lost⟩]
        lost := if lost then s.port.lost.filter (fun k => k != key) else s.port.lost } }

/-- Whether every earlier write of a fence is performed at its scope. An earlier write still held at the port is
performed at no scope; once released, a remote one is outstanding under a tag of its own. -/
def fenceDone (s : State) (f : FenceSt) : Bool :=
  f.held.all (fun i => !s.port.waiting.any (fun h => h.id == i))
    && f.tags.all (fun t => !s.port.outst.any (fun o => o.tag == t))

/-- The oldest fence of a port responds when it may. -/
def fenceRespond (s : State) (narrow : Bool) (p : Nat) : State :=
  match s.port.fences.find? (fun f => f.narrow == narrow && f.port == p) with
  | none => s
  | some f =>
    if !s.boot.opened || !fenceDone s f then s
    else
      let s := { s with port := { s.port with fences := s.port.fences.erase f } }
      let r : AxiReq := ⟨p, narrow, fenceAddr, 4, [], [], [], 0, false, 0, false⟩
      if f.lost then respond (bump s oMmFenceErrCnt) r slverr [] [] else respond (bump s oMmFenceCnt) r okay [] []

/-- A remote write of a host port was lost: the next SYSTEM fence that covers it answers SLVERR (R271). -/
def loseWrite (s : State) (narrow : Bool) (p tag : Nat) : State :=
  match s.port.fences.find? (fun f => f.narrow == narrow && f.port == p && f.tags.contains tag) with
  | some f =>
    { s with port := { s.port with fences := s.port.fences.map (fun g => if g = f then { g with lost := true } else g) } }
  | none => { s with port := { s.port with lost := if s.port.lost.contains (narrow, p) then s.port.lost else s.port.lost ++ [(narrow, p)] } }

/-- A burst that breaks the AXI5 protocol: without a byte, longer than 4 KiB or over a 4 KiB boundary (R399). -/
def axiBroken (r : AxiReq) : Bool :=
  r.len == 0 || decide (4096 < r.len) || r.addr / 4096 != (r.addr + r.len - 1) / 4096

/-- A transaction that meets the port definition is performed; of any other R2 and R399 specify nothing. -/
def onPort (r : AxiReq) (t : State) : Out := if axiBroken r then .refused .portViolation else .next t

def execAxiRead (r : AxiReq) (s : State) : Out := onPort r (axiArrive s 0 { r with narrow := false })
def execAxiWrite (r : AxiReq) (s : State) : Out := onPort r (axiArrive s 1 { r with narrow := false })
def execAxiAtomic (r : AxiReq) (s : State) : Out := onPort r (axiArrive s 2 r)
/-- A narrow port beat (R401). -/
def execNarrowSectorRequest (write : Bool) (r : AxiReq) (s : State) : Out :=
  onPort r (axiArrive s (b2n write) { r with narrow := true })
def execHostFence (r : AxiReq) (s : State) : Out := onPort r (hostFence s r)
def execFenceResponse (narrow : Bool) (port : Nat) (s : State) : Out := .next (fenceRespond s narrow port)

end Sys2Proof.Machine
end

