-- ==== Sys2Proof/Machine/MemRows.lean ====
section
/-!
DEFINITION. The memory tiers' rows: DFI initialisation and map-out, fill, dead channels, soft repair, granule
conversion, retraining, patrol scrub (R221 to R223, R228, R229, R234 to R237, R251, R252, R256, R377, R388).
-/
namespace Sys2Proof.Machine

/-! ### Initialisation (R221, R222, R229, R236, R243) -/

/-- Mapped capacity of a stack of n GiB; 0 when it is not supported (R221). -/
def stackCap (n : Nat) : Nat := if n = 32 then 32 else if 64 ≤ n then 64 else 0

/-- Channels of a unit type and group graded Umber at this reset, as a mask. -/
def umberMask (s : State) (base n : Nat) : Nat := bitsFrom (fun c => gradeOf s (base + c) == 3) n

/-- DFI_INITIALISATION_DONE: what is absent, mapped out, repaired and trained. A stack in an unsupported configuration
is recorded as an event of its first channel (log 39). -/
def dfiDone (s : State) (d : DfiIn) : State :=
  if !s.boot.running || s.boot.dfiDone then s
  else
    let v := vnt s
    let caps := (List.range 8).map (fun k =>
      if v.hrStacks ≤ k || bitOf d.hrAbsent k then 0 else stackCap (d.capGib.getD k 0))
    let hrOut := (List.range 8).map (fun k => umberMask s (unitHr (32 * k)) 32 ||| fieldOf d.hrFailed (32 * k + 31) (32 * k))
    let mpOut := (List.range 8).map (fun g => umberMask s (unitMp (16 * g)) 16 ||| fieldOf d.mpFailed (16 * g + 15) (16 * g))
    let present := bitsFrom (fun g => decide (g < v.groups) && decide (14 < (liveIn (mpOut.getD g 0) 0 16).length)) 8
    let s := ((List.range v.hrStacks).filter (fun k => caps.getD k 0 == 0)).foldl (fun s k => event s 0x4 (unitHr (32 * k)) 0 1 0) s
    let rows := s.nor.rows.zipIdx
    let failed := (rows.filter (fun r => bitOf d.hpprFailed r.2)).map (fun r => r.1)
    let s := bumpBy (bumpBy s oHpprCnt rows.length) oHpprFailCnt failed.length
    { s with
      mem := { s.mem with
        hrCap := caps
        hrMapOut := hrOut
        mpMapOut := mpOut
        mpPresent := present
        hrRate := if caps.all (· == 0) then 0 else d.hrRate % 256
        mpRate := if present = 0 then 0 else d.mpRate % 256
        pprRows := s.mem.pprRows ++ failed }
      nor := { s.nor with rows := [] }
      boot := { s.boot with dfiDone := true } }

/-- MEMORY_FILL_DONE: every DRAM burst holds zero data with valid checks and no mark (R377). The Hopper and the Quern
stores were filled before the image's tables were placed. -/
def fillDone (s : State) : State :=
  if !s.boot.dfiDone || s.boot.fillDone then s
  else { s with
    mem := { s.mem with dram := [], dramPoison := [], errs := s.mem.errs.filter (fun e => e.space != 0) }
    boot := { s.boot with fillDone := true } }

/-! ### Soft repair (R235, R236) -/

/-- Whether a burst lies in a row. -/
def inRow (s : State) (key : Bool × Nat × Nat) (b : Nat) : Bool :=
  (dramPlace s (b * 64)).elim false (fun l => l.mp == key.1 && l.ch == key.2.1 && Config.rowOf l.mp l.ch l.addr == key.2.2)

/-- The bursts of a row are read, corrected where possible, and written back with their poison marks. -/
def rewriteRow (s : State) (key : Bool × Nat × Nat) : State :=
  (s.mem.errs.filter (fun e => e.space == 0 && inRow s key e.burst)).foldl (fun s e =>
    match dramPlace s (e.burst * 64) with
    | some l => let (d, s) := dramDecode s l e.burst; dramStore s e.burst d.data d.poison
    | none => s) s

/-- SOFT_PPR_DONE for the first candidate row. -/
def softPprDone (s : State) (ok : Bool) : State :=
  match s.mem.pprRows with
  | [] => s
  | key :: rest =>
    let s := rewriteRow s key
    let s := { s with mem := { s.mem with pprRows := rest } }
    releaseWaiting (if ok then
        bump { s with
          mem := { s.mem with repaired := s.mem.repaired ++ [key] }
          nor := { s.nor with rows := s.nor.rows ++ [key] } } oSpprCnt
      else { s with mem := { s.mem with unrepaired := s.mem.unrepaired ++ [key] } })

/-! ### Granule conversion (R251, R252) -/

/-- Write back every dirty sector of a way and drop its lines: the count of sectors. -/
def emptyWay (s : State) (w : Nat) : Nat × State :=
  let mine := s.hop.lines.filter (fun x => x.1 / 2 ^ 20 == w)
  let (n, s) := mine.foldl (fun (a : Nat × State) x => match x.2 with
    | some l => let (k, s) := lineBack a.2 (x.1 % 2 ^ 20) l; (a.1 + k, s)
    | none => a) (0, s)
  (n, { s with hop := { s.hop with lines := s.hop.lines.filter (fun x => x.1 / 2 ^ 20 != w) } })

/-- A granule of zeros with valid check bits and no mark. -/
def zeroGranule (s : State) (g : Nat) : State :=
  let lo := g * 2 ^ 28
  { s with mem := { s.mem with
    scratch := mapErase s.mem.scratch lo (lo + 2 ^ 28)
    scratchPoison := mapErase s.mem.scratchPoison (lo / 64) (lo / 64 + 2 ^ 22)
    errs := dropErrs s.mem.errs 1 (lo / 64) (lo / 64 + 2 ^ 22 - 1) } }

/-- GRANULE_CONVERT_DONE. -/
def convertDone (s : State) (g : Nat) : State :=
  if !s.hop.convert.any (fun c => c.1 == g) then s
  else
    let (n, s) := emptyWay s g
    let s := bumpBy s oHopConvWbCnt n
    let s := zeroGranule { s with hop := { s.hop with convert := s.hop.convert.filter (fun c => c.1 != g) } } g
    releaseWaiting s

/-! ### Dead channels and retraining (R228, R354, R388) -/

/-- MP_RETRAIN_DONE: channels that failed are declared dead; the held requests go. -/
def retrainDone (s : State) (failed : Nat) : State :=
  match s.mem.retrain with
  | none => s
  | some g =>
    let s := ((List.range 16).filter (bitOf failed)).foldl (fun s c => askGrade s (unitMp (16 * g + c)) 3) s
    let s := regClr { s with mem := { s.mem with retrain := none } } oGovMpRetrain 0x100
    releaseWaiting s

/-! ### Patrol scrub (R234, R256) -/

/-- Whether position x lies in the n bursts from p. -/
def scrubHits (p n x : Nat) : Bool := decide (p ≤ x) && decide (x < p + n)

/-- Scrub one DRAM burst in error: a corrected one is written back, any other is left. -/
def scrubDram (s : State) (b : Nat) : State :=
  match dramPlace s (b * 64) with
  | none => s
  | some l =>
    if chanDead s l then s
    else
      let (d, s) := dramDecode s l b
      if d.poison then s else dramStore s b d.data false

/-- The next position of a pass of `total` bursts, and whether a pass ended. -/
def scrubStep (p n total : Nat) : Nat × Bool := if total ≤ p + n then (0, n != 0 && total != 0) else (p + n, false)

/-- Bursts of the largest Headrace channel and of a Millpond channel. -/
def hrChannelBursts (s : State) : Nat := s.mem.hrCap.foldl max 0 * 2 ^ 19
def mpChannelBursts : Nat := 2 ^ 28

/-- Position of a Hopper burst in its slice (R244). -/
def slicePos (s : State) (b : Nat) : Nat :=
  let h := b * 64
  if (vnt s).granules = 16 then h / 2 ^ 14 * 2 + (h / 64) % 2 else h / 2 ^ 13 * 2 + (h / 64) % 2

/-- Scrub one Hopper burst in error: its corrected words are written back. -/
def scrubHopper (s : State) (b : Nat) : State :=
  let g := b * 64 / 2 ^ 28
  let e := errOf s 1 b
  let (ue, s) := hopDecode s (unitGran g) 1 b (baddrLocal 1 (b * 64))
  let word (i : Nat) : Nat := if i < 64 then i / 8 else i - 64
  let left := e.filter (fun x => secdedBits e (word x.1) != 1)
  let s := { s with mem := { s.mem with
    errs := dropErrs s.mem.errs 1 b b ++ (if left.isEmpty then [] else [⟨1, b, left⟩]) } }
  if ue && granuleScratch s g then { s with mem := { s.mem with scratchPoison := mapSet offAt s.mem.scratchPoison b true } } else s

/-- Patrol scrub of one Turn. -/
def scrubTurn (s : State) : State :=
  let ctl := regGet s oScrubCtl
  let hr := fieldOf ctl 5 0
  let mp := fieldOf ctl 21 16
  let hp := regGet s oHopScrubCtl % 16
  let due := (s.mem.errs.filter (fun e => e.space == 0 && (dramPlace s (e.burst * 64)).elim false (fun l =>
    if l.mp then scrubHits s.mem.mpScrub mp (l.addr / 64) else scrubHits s.mem.hrScrub hr (l.addr / 64)))).map (fun e => e.burst)
  let hdue := (s.mem.errs.filter (fun e => e.space == 1 && scrubHits s.mem.hopScrub hp (slicePos s e.burst))).map (fun e => e.burst)
  let s := hdue.foldl scrubHopper (due.foldl scrubDram s)
  let (a, ea) := scrubStep s.mem.hrScrub hr (hrChannelBursts s)
  let (b, eb) := scrubStep s.mem.mpScrub mp (if s.mem.mpPresent = 0 then 0 else mpChannelBursts)
  let (c, ec) := scrubStep s.mem.hopScrub hp (2 ^ 19)
  let w := regGet s oScrubPass
  let sat (x : Nat) (e : Bool) : Nat := min 0xFFFF (x + b2n e)
  let s := regSet s oScrubPass (sat (w % 2 ^ 16) ea + sat (w / 2 ^ 16) eb * 2 ^ 16)
  let s := if ec then bump s oHopScrubPass else s
  { s with mem := { s.mem with hrScrub := a, mpScrub := b, hopScrub := c } }

/-- Stack temperatures and Millpond refresh requests of a Wheel (R237). -/
def memWheel (s : State) (i : WheelIn) : State :=
  let s := (i.stackTemp.zipIdx).foldl (fun s (t, k) => match t with
    | none => s
    | some t =>
      let c := signed 8 t
      let hot := if 85 < c then true else if c ≤ 82 then false else bitOf s.mem.hrHot k
      { s with mem := { s.mem with
        hrTemp := modAt s.mem.hrTemp k (fun _ => t % 256)
        hrHot := setField s.mem.hrHot k k (b2n hot) } }) s
  { s with mem := { s.mem with mpHot := i.mr4Hot &&& s.mem.mpPresent, ceRows := [] } }

/-! ### The rows -/

def execDfiInitialisationDone (d : DfiIn) (s : State) : Out := .next (dfiDone s d)
def execMemoryFillDone (s : State) : Out := .next (fillDone s)
/-- A PHY fatal error: the channel's grade is Umber, and it is dead, from the next boundary (R228, R354). -/
def execPhyFatalError (mp : Bool) (channel : Nat) (s : State) : Out :=
  let u := if mp then unitMp channel else unitHr channel
  .next (if unitExists s u then askGrade s u 3 else s)
/-- A dfi_phyupd request waits for the next boundary, which grants it (R223). -/
def execPhyUpdateRequest (mp : Bool) (port : Nat) (s : State) : Out :=
  .next (if s.mem.phyUpd.contains (mp, port) then s else { s with mem := { s.mem with phyUpd := s.mem.phyUpd ++ [(mp, port)] } })
def execSoftPprDone (repaired : Bool) (s : State) : Out := .next (softPprDone s repaired)
def execGranuleConvertDone (g : Nat) (s : State) : Out := .next (convertDone s g)
def execMpRetrainDone (failed : Nat) (s : State) : Out := .next (retrainDone s failed)

end Sys2Proof.Machine
end

