-- ==== Sys2Proof/Machine/Boot.lean ====
section
/-!
DEFINITION. Reset and start-up: the SFDP check, the Larrix image, the security verdict, the sections, the journal, the
opening of the ports; the power-fail warning (R255, R355, R360, R369 to R378, R393, R394, R398).
-/
namespace Sys2Proof.Machine

/-! ### Reset (R255, R369, R398, R415) -/

/-- Stop start-up with a boot error (R373, R410). -/
def bootStop (s : State) (err : Nat) : State :=
  irqSet { s with boot := { s.boot with err := err, stopped := true, secWait := false } } irqGov

/-- The state after a reset of this chip: what the NOR records stays, as do the values left open. -/
def coldReset (s : State) : State :=
  let v := variantOf s.chip.variant
  let r := State.reset
  { r with
    chip := s.chip
    nor := s.nor
    pending := s.pending
    free := s.free
    mem := { r.mem with
      hrCap := (List.range 8).map (fun k => if k < v.hrStacks then 64 else 0)
      mpPresent := 2 ^ v.groups - 1 }
    hop := { r.hop with bad := s.chip.fuseBad % 2 ^ v.granules } }

/-- RESET: the block restarts; start-up stops on a NOR without a valid SFDP table or 4-byte addressing. -/
def doReset (s : State) (n : NorFind) : State :=
  let s := coldReset s
  let s := { s with boot := { s.boot with octal := n.octal } }
  if n.signature && n.fourByte then s else bootStop s 5

/-! ### The image (R370 to R373) -/

/-- A section of the image: type, offset, length, CRC. -/
structure Section where
  type : Nat
  flags : Nat
  off : Nat
  len : Nat
  crc : Nat
  deriving DecidableEq, Repr

def sectionsOf (img : List Byte) : List Section :=
  (List.range (min 16 (leAt img 6 2))).map (fun i =>
    let o := 0x40 + 16 * i
    ⟨leAt img o 1, leAt img (o + 1) 1 + leAt img (o + 2) 2 * 256, leAt img (o + 4) 4, leAt img (o + 8) 4, leAt img (o + 12) 4⟩)

def sectionBytes (img : List Byte) (x : Section) : List Byte := (img.drop x.off).take x.len

/-- Whether the section table is valid (R370, R371). -/
def tableOk (img : List Byte) : Bool :=
  let xs := sectionsOf img
  let total := leAt img 8 4
  let count (t : Nat) : Nat := (xs.filter (fun x => x.type == t)).length
  decide (1 ≤ leAt img 6 2) && decide (leAt img 6 2 ≤ 16) && decide (total ≤ img.length)
    && xs.all (fun x => decide (1 ≤ x.type) && decide (x.type ≤ 7) && x.flags == 0 && decide (x.off + x.len ≤ total)
      && decide (0x40 + 16 * xs.length ≤ x.off))
    && [1, 2, 4, 5, 6, 7].all (fun t => count t == 1) && decide (count 3 ≤ 1)
    && allApart (xs.map (fun x => (x.off, x.len)))

/-- Bytes of the first section of a type. -/
def sectionOf (l : List (Nat × List Byte)) (t : Nat) : List Byte := (l.find? (fun x => x.1 == t)).elim [] (fun x => x.2)

/-- The register pairs of a register initialisation section. -/
def initPairs (bs : List Byte) : List (Nat × Nat) :=
  (List.range (bs.length / 8)).map (fun i => (leAt bs (8 * i) 4, leAt bs (8 * i + 4) 4))

/-- Put a value into a register's RW and RWT fields. -/
def initReg (s : State) (off v : Nat) : State :=
  let m := (regMask off).rw ||| (regMask off).rwt
  regSet s off ((regGet s off &&& (2 ^ 32 - 1 - m)) ||| (v &&& m))

/-- The register pairs as one transaction. -/
def initTxn (pairs : List (Nat × Nat)) : Txn := ⟨0, 0, pairs, [], 0, 0, 0, 0⟩

/-- Whether register initialisation is accepted: RW and RWT registers with values no rule refuses (R372). -/
def initOk (s : State) (bs : List Byte) : Bool :=
  let ps := initPairs bs
  bs.length % 8 == 0 && ps.all (fun p => (regAt p.1).elim false (fun f => f.rw ||| f.rwt != 0))
    && regsValid s (ps.foldl (fun s p => initReg s p.1 p.2) s) (initTxn ps)

/-- Chip count of a topology section, and whether its length fits. -/
def topoCount (bs : List Byte) : Nat := leAt bs 0 4
def topoOk (bs : List Byte) : Bool := bs.length == 4 + 384 * topoCount bs

/-- Whether the route tables section has its size and names only chips of the topology (R371, R372). -/
def routesOk (rt topo : List Byte) : Bool :=
  let c := topoCount topo
  rt.length == 16 + 65536 + 4096 && decide (leAt rt 0 4 % 2 ^ 14 < c) && decide (leAt rt 4 4 % 2 ^ 14 < c)
    && decide (fieldOf (leAt rt 4 4) 29 16 < c) && decide (leAt rt 8 4 % 2 ^ 14 < c)

/-- The first failing check of an image, 0 when all pass (R372, R373). -/
def imageFault (s : State) (img : List Byte) : Nat :=
  let xs := sectionsOf img
  let secs := xs.map (fun x => (x.type, sectionBytes img x))
  let good (x : Section) : Bool := crc32c (sectionBytes img x) == x.crc
  let fw := xs.filter (fun x => x.type == 2 || x.type == 3)
  if leAt img 0 4 ≠ 0x4C525831 || leAt img 4 2 ≠ 1 then 1
  else if crc32c (img.take 60) ≠ leAt img 0x3C 4 then 2
  else if leAt img 0xC 4 ≠ 0x4B594834 || regGet s oHuVersion / 256 < leAt img 0x10 4 then 1
  else if 2 ^ 26 < leAt img 8 4 || fw.any (fun x => decide (2 ^ 20 < x.len)) then 6
  else if !tableOk img || !(xs.filter (fun x => x.type != 2 && x.type != 3)).all good
      || (sectionOf secs 6).length ≠ 288 || !topoOk (sectionOf secs 7) then 3
  else if !fw.any good then 7
  else if !initOk s (sectionOf secs 1) || !routesOk (sectionOf secs 5) (sectionOf secs 7) then 8
  else 0

/-- IMAGE_READ_DONE (R372, R374). -/
def imageRead (s : State) (img : List Byte) : State :=
  if s.boot.imageRead || s.boot.stopped then s
  else
    match imageFault s img with
    | 0 =>
      let xs := sectionsOf img
      let fwOf (t : Nat) : List Byte :=
        (xs.find? (fun x => x.type == t && crc32c (sectionBytes img x) == x.crc)).elim [] (sectionBytes img)
      { s with
        boot := { s.boot with
          imageRead := true
          secWait := true
          imgGen := leAt img 0x20 4
          fwPref := leAt img 0x14 1
          fwA := fwOf 2
          fwB := fwOf 3
          sections := xs.map (fun x => (x.type, sectionBytes img x)) }
        nor := { s.nor with slotBytes := leAt img 0x1C 4 } }
    | e => bootStop { s with boot := { s.boot with imageRead := true } } e

/-! ### The journal at reset (R355, R360) -/

/-- A record that is valid: its CRC holds and it is not blank. -/
def recordOk (r : List Byte) : Bool :=
  r.length == 64 && leAt r 0 4 == 0x484A5231 && crc32c (r.take 60) == leAt r 0x3C 4

/-- A slot in use: its generation and its records up to the first invalid one. -/
def slotRead (l : List (List Byte)) : Option (Nat × List (List Byte)) :=
  match l with
  | h :: rest => if recordOk h && leAt h 0x18 1 % 16 == 0 then some (leAt h 4 4, h :: rest.takeWhile recordOk) else none
  | [] => none

/-- What a record says of its unit: the grade after a change, the streak of a test. -/
def takeRecord (l : List Graded) (r : List Byte) : List Graded :=
  let u := leAt r 0xE 2
  let g := (l.find? (fun x => x.u == u)).getD (gradedNew u)
  match leAt r 0x18 1 % 16 with
  | 0xF => putGraded l { g with grade := fieldOf (leAt r 0x19 1) 3 2, passes := 0, fails := 0 }
  | 0xD => putGraded l { g with passes := leAt r 0x28 1, fails := leAt r 0x29 1 }
  | _ => l

/-- Use the slot with the higher generation; a journal with no valid header starts anew in slot 0. -/
def journalStart (s : State) : State :=
  let a := slotRead s.nor.slot0
  let b := slotRead s.nor.slot1
  let pick : Option (Nat × Nat × List (List Byte)) := match a, b with
    | some x, some y => if x.1 < y.1 then some (1, y) else some (0, x)
    | some x, none => some (0, x)
    | none, some y => some (1, y)
    | none, none => none
  match pick with
  | none => putSlot { s with fh := { s.fh with slot := 0, generation := 1 } } 0 [slotHeader s 1]
  | some (k, gen, l) =>
    putSlot { s with fh := { s.fh with slot := k, generation := gen, units := l.foldl takeRecord s.fh.units } } k l

/-- What Umber units do not do after this reset (R355): Querns and granules; channels are mapped out at DFI
initialisation, links do not train. -/
def applyGrades (s : State) : State :=
  let bad := bitsFrom (fun g => gradeOf s (unitGran g) == 3) (vnt s).granules
  { s with
    hop := { s.hop with bad := s.hop.bad ||| bad }
    qn := { s.qn with q := s.qn.q.zipIdx.map (fun (n, q) => { n with lost := n.lost || gradeOf s (unitQuern q) == 3 }) } }

/-! ### The sections (R375) -/

/-- Load recipe images one after another; false when one did not load. -/
def loadRecipes : Nat → State → List Byte → Bool × State
  | 0, s, _ => (true, s)
  | n + 1, s, bs =>
    if bs.length < 64 then (bs.isEmpty, s)
    else
      let len := 64 + leAt bs 8 4
      let o := loadRecipe (stayingCode s (leAt bs 4 1)) (bs.take len)
      let (ok, s) := loadRecipes n (o.recipe.elim s (placeRecipe s)) (bs.drop len)
      (ok && o.code == 0, s)

/-- Register initialisation. -/
def applyInit (s : State) : State :=
  let ps := initPairs (sectionOf s.boot.sections 1)
  committedEffects s (ps.foldl (fun s p => initReg s p.1 p.2) s) (initTxn ps)

/-- The Turn schedule: eight profiles, then 64 words of the Wheel map. -/
def applySchedule (s : State) : State :=
  let bs := sectionOf s.boot.sections 6
  let s := (List.range 8).foldl (fun s i => initReg s (oSlotProfile + 4 * i) (leAt bs (4 * i) 4)) s
  (List.range 64).foldl (fun s i => initReg s (oWheelMap + 4 * i) (leAt bs (32 + 4 * i) 4)) s

/-- The route tables: identity, roots, and the two tables to their places in scratch. -/
def applyRoutes (s : State) : State :=
  let bs := sectionOf s.boot.sections 5
  let id := leAt bs 0 4
  let s := { s with gl := { s.gl with chip := id % 2 ^ 14, group := fieldOf id 25 16, rank := fieldOf id 31 26 } }
  let s := initReg (initReg (initReg s oStepRoot (leAt bs 4 4)) oStepNroot (leAt bs 8 4)) oGlPubGroup (leAt bs 12 4)
  let s := scrWrite s (baseOf s oGlRouteBase) ((bs.drop 16).take 65536)
  scrWrite s (baseOf s oGlMcastBase) ((bs.drop (16 + 65536)).take 4096)

/-- The expected topology: this chip's entries, the chip count, the CRC (R334, R371). -/
def applyTopology (s : State) : State :=
  let bs := sectionOf s.boot.sections 7
  { s with boot := { s.boot with
    topoChips := topoCount bs
    topo := (List.range 96).map (fun l => leAt bs (4 + 384 * s.gl.chip + 4 * l) 4)
    topoCrc := crc64 bs } }

/-- The firmware slot started: FW_PREF when it is valid, else the other. -/
def applyFirmware (s : State) : State :=
  let b := if s.boot.fwPref = 0 then s.boot.fwA.isEmpty else !s.boot.fwB.isEmpty
  let s := { s with boot := { s.boot with fwActiveB := b } }
  regSet s oGovFw (setField (regGet s oGovFw) 8 8 (b2n b))

/-- Journal, sections, Governor (R375, R376). -/
def startUp (s : State) : State :=
  let s := applyGrades (journalStart s)
  let s := applyTopology (applyRoutes (applySchedule (applyInit s)))
  let bs := sectionOf s.boot.sections 4
  let (ok, s) := loadRecipes (bs.length / 64) s bs
  let s := applyFirmware { s with boot := { s.boot with rcpErr := !ok, secWait := false, running := true, sections := [] } }
  { s with qn := { s.qn with q := s.qn.q.zipIdx.map (fun (n, q) =>
    if q < 4 * (vnt s).clusters then { n with state := restState s q } else n) } }

/-- SEC_VERDICT (R374). -/
def secVerdict (s : State) (done ok : Bool) : State :=
  if !s.boot.secWait || !done then s else if ok then startUp s else bootStop s 4

/-- PORTS_OPEN (R377): performed at a Turn boundary; the host accesses that waited proceed. -/
def portsOpen (s : State) : State :=
  if s.boot.opened || !s.boot.fillDone || !trainingOver s || !s.boot.groupDone then s
  else releaseWaiting { s with boot := { s.boot with opened := true, openTurn := s.time.turn } }

/-! ### Power-fail warning (R393, R394) -/

/-- PFW_ASSERT. -/
def pfwAssert (s : State) (b : Bool) : State :=
  let s := { s with gov := { s.gov with pfA := s.gov.pfA || !b, pfB := s.gov.pfB || b } }
  if s.gov.pfDue || s.gov.pfActive then s
  else match s.gov.pfWindow with
    | none => { s with gov := { s.gov with pfWindow := some b } }
    | some c => if c = b then s else { s with gov := { s.gov with pfWindow := none, pfDue := true } }

/-- PFW_WINDOW_EXPIRY: the sequence starts with a discrepancy. -/
def pfwExpiry (s : State) : State :=
  match s.gov.pfWindow with
  | none => s
  | some _ =>
    irqSet (bump (regOr { s with gov := { s.gov with pfWindow := none, pfDue := true } } oGovPfwStatus (2 ^ 29)) oGovPfwDiscCnt) irqGov

/-- The sequence's first steps at a Turn boundary (R394): pending transactions dropped with 0x0A, the units stopped, the
open step abandoned with a notice, no more host requests. -/
def powerFailStart (s : State) : State :=
  if !s.gov.pfDue then s
  else
    let ts := s.gov.pendTx ++ s.gov.checking
    let s := { s with gov := { s.gov with pendTx := [], checking := [], pfDue := false, pfActive := true } }
    let s := ts.foldl (fun s t => txnDropped s t ⟨0x0A, noLoad⟩) s
    let s := if stepOpenState s && !s.fh.sepia then sendTo s (rootChip s) (msgOf s 0x05 0 (2 * 16) []) else s
    abandonStep (stopUnits s)

/-- PF_DONE (R394): once every pending record is written. -/
def pfDone (s : State) : State :=
  if s.gov.pfActive && s.fh.pend.isEmpty then { s with gov := { s.gov with pfDone := true } } else s

/-! ### The rows -/

def execReset (n : NorFind) (s : State) : Out := .next (doReset s n)
def execImageReadDone (image : List Byte) (s : State) : Out := .next (imageRead s image)
def execSecVerdict (done ok : Bool) (s : State) : Out := .next (secVerdict s done ok)
def execPortsOpen (s : State) : Out := .next (portsOpen s)
def execPfwAssert (chanB : Bool) (s : State) : Out := .next (pfwAssert s chanB)
/-- A channel deasserts: a running window or sequence goes on (R393). -/
def execPfwDeassert (chanB : Bool) (s : State) : Out :=
  .next { s with gov := { s.gov with pfA := s.gov.pfA && chanB, pfB := s.gov.pfB && !chanB } }
def execPfwWindowExpiry (s : State) : Out := .next (pfwExpiry s)
def execPfDone (s : State) : Out := .next (pfDone s)

end Sys2Proof.Machine
end

