-- ==== Sys2Proof/Machine/Leat.lean ====
section
/-!
DEFINITION. The Leat engines: queues, checks, copy kinds, conversion, gates, append streams, completion
(R275 to R290).
-/
namespace Sys2Proof.Machine

/-! ### Descriptor fields (R276) -/

def ldKind (d : List Byte) : Nat := leAt d 0 1
def ldCtl (d : List Byte) : Nat := leAt d 1 1
def ldClass (d : List Byte) : Nat := ldCtl d % 4
def ldQs (d : List Byte) : Nat := fieldOf (ldCtl d) 5 4
def ldCtx (d : List Byte) : Nat := leAt d 2 1
def ldQuern (d : List Byte) : Nat := leAt d 3 1
def ldSfmt (d : List Byte) : Nat := leAt d 4 1 % 16
def ldDfmt (d : List Byte) : Nat := leAt d 4 1 / 16
def ldRnd (d : List Byte) : Nat := leAt d 5 1 % 4
def ldSat (d : List Byte) : Bool := bitOf (leAt d 5 1) 2
def ldScl (d : List Byte) : Nat := leAt d 6 2
def ldSrc (d : List Byte) : Nat := leAt d 8 8
def ldDst (d : List Byte) : Nat := leAt d 0x10 8
def ldSscale (d : List Byte) : Nat := leAt d 0x18 8
def ldDscale (d : List Byte) : Nat := leAt d 0x20 8
def ldDim (d : List Byte) (i : Nat) : Nat := leAt d (0x30 + 4 * i) 4
/-- Strides S1 to S3 and D1 to D3, by 1 to 3. -/
def ldS (d : List Byte) (i : Nat) : Int := signed 64 (leAt d (0x38 + 8 * i) 8)
def ldD (d : List Byte) (i : Nat) : Int := signed 64 (leAt d (0x50 + 8 * i) 8)
def ldAux0 (d : List Byte) : Nat := leAt d 0x70 8
def ldAux1 (d : List Byte) : Nat := leAt d 0x78 8
/-- Per-tensor scales when present. -/
def ldSts (d : List Byte) : Option Nat := if bitOf (ldScl d) 5 then some (leAt d 0x28 4) else none
def ldDts (d : List Byte) : Option Nat := if bitOf (ldScl d) 11 then some (leAt d 0x2C 4) else none

/-- Rows of a strided or converted operand. -/
def ldRows (d : List Byte) : Nat := ldDim d 1 * ldDim d 2 * ldDim d 3

/-- Start of row r of an operand with strides st (R281). -/
def rowAddr (d : List Byte) (base : Nat) (st : Nat → Int) (r : Nat) : Nat :=
  let i1 := r % ldDim d 1
  let i2 := r / ldDim d 1 % ldDim d 2
  let i3 := r / ldDim d 1 / ldDim d 2
  twosCode 64 ((base : Int) + i1 * st 1 + i2 * st 2 + i3 * st 3)

/-! ### Im2col geometry (R285) -/

/-- The six u16 values: sh, sw, ph, pw, dh, dw. -/
def imU (d : List Byte) (i : Nat) : Nat := leAt d (0x40 + 2 * i) 2
def imKh (d : List Byte) : Nat := ldDim d 3 % 2 ^ 16
def imKw (d : List Byte) : Nat := ldDim d 3 / 2 ^ 16
/-- Output size along one axis; none when it is below 1. -/
def imOut (len pad dil k st : Nat) : Option Nat :=
  if st = 0 || k = 0 then none
  else
    let x : Int := (len : Int) + 2 * pad - dil * (k - 1 : Nat) - 1
    if x < 0 then none else some (x.toNat / st + 1)
def imOh (d : List Byte) : Option Nat := imOut (ldDim d 0) (imU d 2) (imU d 4) (imKh d) (imU d 0)
def imOw (d : List Byte) : Option Nat := imOut (ldDim d 1) (imU d 3) (imU d 5) (imKw d) (imU d 1)
/-- Bytes of an element of a format im2col permits. -/
def imEl (d : List Byte) : Nat := fmtBits (ldSfmt d) / 8
def imTotal (d : List Byte) : Nat :=
  (imOh d).getD 0 * (imOw d).getD 0 * imKh d * imKw d * ldDim d 2 * imEl d

/-- Source address of byte p of the im2col buffer, or none for padding. -/
def imByte (d : List Byte) (p : Nat) : Option Nat :=
  let el := imEl d
  let c := ldDim d 2
  let cols := imKh d * imKw d * c
  let e := p / el
  let r := e / cols
  let col := e % cols
  let ow := (imOw d).getD 1
  let y : Int := (r / ow : Nat) * (imU d 0 : Int) - imU d 2 + (col / c / imKw d : Nat) * (imU d 4 : Int)
  let x : Int := (r % ow : Nat) * (imU d 1 : Int) - imU d 3 + (col / c % imKw d : Nat) * (imU d 5 : Int)
  if 0 ≤ y ∧ y < ldDim d 0 ∧ 0 ≤ x ∧ x < ldDim d 1 then
    some (ldSrc d + ((y.toNat * ldDim d 1 + x.toNat) * c + col % c) * el + p % el)
  else none

/-! ### Checks before start (R278) -/

/-- Bytes of a row of n elements of a format (R39). -/
def fmtBytes (fmt n : Nat) : Nat := packedBytes (fmtBits fmt) n

/-- Lowest and one past the highest byte a strided operand touches. -/
def strideSpan (d : List Byte) (base : Nat) (st : Nat → Int) (row : Nat) : Int × Int :=
  let ext (i : Nat) : Int := ((ldDim d i - 1 : Nat) : Int) * st i
  let lo := [1, 2, 3].foldl (fun a i => a + min 0 (ext i)) (base : Int)
  let hi := [1, 2, 3].foldl (fun a i => a + max 0 (ext i)) (base : Int)
  (lo, hi + row)

/-- Whether a range stays in the data area of a Quern store (R131, R276). -/
def spanOk (x : Int × Int) : Bool := decide (0 ≤ x.1) && decide (x.2 ≤ 0x3C0000)

/-- The Quern store range of the operand QS names (R276). -/
def qsRangeOk (d : List Byte) : Bool :=
  let k := ldKind d
  let row := if k = 4 then fmtBytes (if ldQs d = 1 then ldSfmt d else ldDfmt d) (ldDim d 0) else ldDim d 0
  match ldQs d with
  | 0 => true
  | 1 =>
    if k = 1 || k = 7 then spanOk (ldSrc d, ldSrc d + ldDim d 0)
    else if k = 5 then spanOk (ldSrc d, ldSrc d + ldDim d 0 * ldDim d 1 * ldDim d 2 * imEl d)
    else if k = 3 then decide (ldSrc d < 0x3C0000)
    else spanOk (strideSpan d (ldSrc d) (ldS d) row)
  | _ =>
    if k = 1 then spanOk (ldDst d, ldDst d + ldDim d 0)
    else if k = 5 then spanOk (ldDst d, ldDst d + imTotal d)
    else if k = 3 then
      spanOk (ldDst d + min 0 (((ldDim d 1 - 1 : Nat) : Int) * ldD d 1),
        ldDst d + max 0 (((ldDim d 1 - 1 : Nat) : Int) * ldD d 1) + ldDim d 0)
    else spanOk (strideSpan d (ldDst d) (ldD d) row)

/-- All bytes of a field range are zero. -/
def zeroRange (d : List Byte) (off n : Nat) : Bool := ((d.drop off).take n).all (fun b => b == 0)

/-- Fields a conversion may name (R32, R46, R53, R61, R283). -/
def convertOk (d : List Byte) : Bool :=
  let sf := ldSfmt d
  let df := ldDfmt d
  let scl := ldScl d
  let al (x : Nat) : Bool := x % 64 == 0
  let part (c : Nat) : Bool := if fmtBits c = 6 then ldDim d 0 % 4 == 0 else if fmtBits c = 4 then ldDim d 0 % 2 == 0 else true
  decide (sf ≤ 0xC) && decide (df ≤ 0xC) && decide (leAt d 5 1 < 8) && decide (scl < 2 ^ 12)
    && (ldRnd d == 0 || (ldRnd d == 2 && decide (2 ≤ df) && decide (df ≤ 0xA)))
    && decide (fieldOf scl 2 0 < 6) && decide (fieldOf scl 8 6 < 6)
    && (isShort sf || (!bitOf scl 4 && !bitOf scl 5)) && (isShort df || (!bitOf scl 10 && !bitOf scl 11))
    && (bitOf scl 4 || ldSscale d == 0) && (bitOf scl 10 || ldDscale d == 0)
    && (bitOf scl 5 || leAt d 0x28 4 == 0) && (bitOf scl 11 || leAt d 0x2C 4 == 0)
    && al (ldSrc d) && al (ldDst d) && [1, 2, 3].all (fun i => ldS d i % 64 == 0 && ldD d i % 64 == 0)
    && part sf && part df && zeroRange d 0x70 16

/-- The checks of R278; a breach refuses the descriptor. -/
def leatLegal (d : List Byte) : Bool :=
  let k := ldKind d
  let one (i : Nat) : Bool := ldDim d i == 1
  let noFmt := zeroRange d 4 4 && zeroRange d 0x28 8
  let noScale := zeroRange d 0x18 16
  decide (1 ≤ k) && decide (k ≤ 7) && !bitOf (ldCtl d) 7 && ldClass d != 0 && ldQs d != 3 && decide (ldCtx d < 64)
    && decide (ldQuern d < 32) && (ldQs d != 0 || ldQuern d == 0) && (k == 7 || !bitOf (ldCtl d) 6) && qsRangeOk d
    && (match k with
      | 1 => noFmt && noScale && one 1 && one 2 && one 3 && zeroRange d 0x40 64
      | 2 => noFmt && noScale && zeroRange d 0x70 16
      | 3 => noFmt && noScale && one 2 && one 3 && zeroRange d 0x40 24 && zeroRange d 0x60 16 && zeroRange d 0x78 8
          && ldDim d 0 % 64 == 0 && ldSrc d % 64 == 0
      | 4 => convertOk d
      | 5 => zeroRange d 5 3 && zeroRange d 0x28 8 && noScale && zeroRange d 0x4C 36 && zeroRange d 0x70 16
          && ldSfmt d == ldDfmt d && [0, 1, 2, 3, 4, 5, 9, 0xB].contains (ldSfmt d) && (imOh d).isSome && (imOw d).isSome
      | 6 => noFmt && (ldSscale d != 0 || ldDscale d == 0)
      | _ => noFmt && zeroRange d 0x10 24 && one 1 && one 2 && one 3 && zeroRange d 0x40 48 && decide (ldAux0 d < 256)
          && zeroRange d 0x78 8 && ldQs d != 2)

/-! ### Engines -/

def leatAt (s : State) (e : Nat) : Leat := s.leat.getD e Leat.reset
def leatEngMod (s : State) (e : Nat) (f : Leat → Leat) : State := { s with leat := modAt s.leat e f }
def leatMod (s : State) (e n : Nat) (f : LeatDesc → LeatDesc) : State :=
  leatEngMod s e (fun g => { g with active := g.active.map (fun x => if x.n = n then f x else x) })
def leatFind (s : State) (e n : Nat) : Option LeatDesc := (leatAt s e).active.find? (fun x => x.n == n)
def leatBase (s : State) (e : Nat) : Nat := baseOf s (oLeatQBase + 4 * e)

/-- What a read of a burst gives an engine: data and poison, a Sluice fault, an error status, or a wait for another
chip. -/
inductive Fetched where
  | ok (data : List Byte) (poison : Bool)
  | fault (va type level : Nat)
  | err
  | wait
  deriving DecidableEq, Repr

/-- Read the burst that holds an address of a descriptor: a Quern store, local memory, or another chip's. -/
def leatBurst (s : State) (e : Nat) (x : LeatDesc) (qs : Bool) (va : Nat) : Fetched × State :=
  let a := va / 64 * 64
  if qs then
    let q := mapOf s (ldQuern x.d)
    if 36 ≤ q || !storeRangeOk a 64 then (.err, s)
    else
      let (marks, s) := storeCheck s q a 64
      (.ok (storeBytes s q a 64) (marks.any id), s)
  else
    let (t, s) := sluice s (ldCtx x.d) a false
    match t with
    | .fault ty lv => (.fault a ty lv, s)
    | .ok b =>
      let f := baddrOf b
      if isRemote s b then
        if 2 ≤ f.space then (.err, bump s oMmRemoteBadCnt)
        else match x.staged.find? (fun y => y.1 == b) with
          | some (_, data, pz) => (if data.isEmpty then .err else .ok data pz, s)
          | none =>
            if x.asked then (.wait, s)
            else (.wait, sendVc4 (leatMod s e x.n (fun y => { y with asked := true })) 0x38 f.chip b 64 [] 0 (.leat e x.n))
      else if memOk s f.space f.off then
        let (r, s) := burstRead s f.space f.off (ldClass x.d) false
        (.ok r.data r.poison, s)
      else (.err, s)

/-- Read n bytes at an address: data and whether any burst is poisoned. -/
def leatRange (s : State) (e : Nat) (x : LeatDesc) (qs : Bool) (a n : Nat) : Fetched × State :=
  (burstSpan a n).foldl (fun (acc : Fetched × State) y =>
    match acc.1 with
    | .ok d p =>
      let (r, s) := leatBurst acc.2 e x qs y.1
      match r with
      | .ok bs pz => (.ok (d ++ (bs.drop y.2.1).take y.2.2) (p || pz), s)
      | o => (o, s)
    | _ => acc) (.ok [] false, s)

/-- What a write of one burst or part of it gives. -/
inductive Wrote where
  | ok
  | fault (va type level : Nat)
  | err
  deriving DecidableEq, Repr

/-- Write bytes inside one burst at an address of a descriptor. -/
def leatPut (s : State) (e : Nat) (x : LeatDesc) (qs : Bool) (va : Nat) (bs : List Byte) (pz : Bool) : Wrote × State :=
  if qs then
    let q := mapOf s (ldQuern x.d)
    if 36 ≤ q || !storeRangeOk va bs.length then (.err, s) else (.ok, storeWrite s q va bs [pz])
  else
    let (t, s) := sluice s (ldCtx x.d) va true
    match t with
    | .fault ty lv => (.fault va ty lv, s)
    | .ok b =>
      let f := baddrOf b
      let lo := b % 64
      if isRemote s b then
        if 2 ≤ f.space then (.err, bump s oMmRemoteBadCnt)
        else if bs.length = 64 then (.ok, sendVc4 s 0x39 f.chip b 0 bs (b2n pz) (.leatWrite e x.n))
        else (.ok, sendVc4 s 0x3A f.chip (b / 64 * 64) ((2 ^ bs.length - 1) * 2 ^ lo) (placeIn lo bs) (b2n pz) (.leatWrite e x.n))
      else if memOk s f.space f.off then
        let (ok, s) := burstWrite s f.space f.off (placeIn lo bs) (strobes lo bs.length) pz (ldClass x.d) false
        (if ok then .ok else .err, s)
      else (.err, s)

/-- Write a range of bytes burst by burst. -/
def leatPutRange (s : State) (e : Nat) (x : LeatDesc) (qs : Bool) (a : Nat) (bs : List Byte) (pz : Bool) : Wrote × State :=
  (burstSpan a bs.length).foldl (fun (acc : Wrote × State) y =>
    match acc.1 with
    | .ok => leatPut acc.2 e x qs (y.1 + y.2.1) ((bs.drop (y.1 + y.2.1 - a)).take y.2.2) pz
    | _ => acc) (.ok, s)

/-- One step of a descriptor: progress and bytes made, poison carried; a fault; an error; a wait; the end; a full page
list. -/
inductive Piece where
  | made (progress bytes : Nat) (poison : Bool)
  | fault (va : Nat) (write : Bool) (type level : Nat)
  | err
  | wait
  | over_
  | full
  deriving DecidableEq, Repr

/-- Runs of source bytes of an im2col chunk: address (none for padding) and length. -/
def imRuns (d : List Byte) (p : Nat) : Nat → List (Option Nat × Nat)
  | 0 => []
  | n + 1 =>
    let a := imByte d p
    match a, imRuns d (p + 1) n with
    | some x, (some y, k) :: rest => if y = x + 1 then (some x, k + 1) :: rest else (some x, 1) :: (some y, k) :: rest
    | none, (none, k) :: rest => (none, k + 1) :: rest
    | a, l => (a, 1) :: l

/-- Read a list of runs. -/
def readRuns (s : State) (e : Nat) (x : LeatDesc) (qs : Bool) (l : List (Option Nat × Nat)) : Fetched × State :=
  l.foldl (fun (acc : Fetched × State) y =>
    match acc.1 with
    | .ok d p =>
      match y.1 with
      | none => (.ok (d ++ zeroBytes y.2) p, acc.2)
      | some a =>
        let (r, s) := leatRange acc.2 e x qs a y.2
        match r with
        | .ok bs pz => (.ok (d ++ bs) (p || pz), s)
        | o => (o, s)
    | _ => acc) (.ok [] false, s)

/-- Whether source and destination of a copy overlap, judged on the descriptor's own addresses (R281, log 18). -/
def copyOverlap (d : List Byte) : Bool :=
  let a := strideSpan d (ldSrc d) (ldS d) (ldDim d 0)
  let b := strideSpan d (ldDst d) (ldD d) (ldDim d 0)
  ldQs d == 0 && decide (a.1 < b.2) && decide (b.1 < a.2)

/-- One destination burst of a byte copy: destination address, source runs (R281, R282, R285). -/
def copyPiece (s : State) (e : Nat) (x : LeatDesc) (dst n : Nat) (runs : List (Option Nat × Nat)) (lap : Bool) :
    Piece × State :=
  let (r, s) := readRuns s e x (ldQs x.d == 1) runs
  match r with
  | .wait => (.wait, s)
  | .err => (.err, s)
  | .fault va ty lv => (.fault va false ty lv, s)
  | .ok bs pz =>
    let (bs, s) := if lap then drawBytes s bs.length else (bs, s)
    let (w, s) := leatPut s e x (ldQs x.d == 2) dst bs pz
    match w with
    | .ok => (.made n n pz, s)
    | .fault va ty lv => (.fault va true ty lv, s)
    | .err => (.err, s)

/-- Bytes to the end of the destination burst or of the run. -/
def pieceLen (dst left : Nat) : Nat := min left (64 - dst % 64)

/-- Linear, strided and gated copies (R281). -/
def stridedPiece (s : State) (e : Nat) (x : LeatDesc) : Piece × State :=
  let n0 := ldDim x.d 0
  if n0 * ldRows x.d ≤ x.progress then (.over_, s)
  else
    let r := x.progress / n0
    let off := x.progress % n0
    let dst := (rowAddr x.d (ldDst x.d) (ldD x.d) r + off) % 2 ^ 64
    let n := pieceLen dst (n0 - off)
    copyPiece s e x dst n [(some ((rowAddr x.d (ldSrc x.d) (ldS x.d) r + off) % 2 ^ 64), n)] (copyOverlap x.d)

/-- Gather (R282): a poisoned index entry, or one that is no multiple of 64, stops the descriptor with status 0x02. -/
def gatherPiece (s : State) (e : Nat) (x : LeatDesc) : Piece × State :=
  let n0 := ldDim x.d 0
  if n0 * ldDim x.d 1 ≤ x.progress then (.over_, s)
  else
    let r := x.progress / n0
    let off := x.progress % n0
    let (ix, s) := leatRange s e x false (ldAux0 x.d + 8 * r) 8
    match ix with
    | .wait => (.wait, s)
    | .err => (.err, s)
    | .fault va ty lv => (.fault va false ty lv, s)
    | .ok bs pz =>
      let i := leNat bs
      if pz || i % 64 ≠ 0 then (.err, s)
      else
        let dst := (twosCode 64 ((ldDst x.d : Int) + r * ldD x.d 1) + off) % 2 ^ 64
        let n := pieceLen dst (n0 - off)
        copyPiece s e x dst n [(some (ldSrc x.d + i + off), n)] false

/-- Im2col (R285). -/
def im2colPiece (s : State) (e : Nat) (x : LeatDesc) : Piece × State :=
  if imTotal x.d ≤ x.progress then (.over_, s)
  else
    let dst := ldDst x.d + x.progress
    let n := pieceLen dst (imTotal x.d - x.progress)
    copyPiece s e x dst n (imRuns x.d x.progress n) false

/-! ### Conversion (R283, R284) -/

/-- A unit's first row, rows, first column, columns. -/
structure CvUnit where
  r0 : Nat
  rows : Nat
  c0 : Nat
  cols : Nat
  deriving DecidableEq, Repr

/-- Rows and columns of a unit: whole destination blocks of at most 4 KiB where a block is no larger (log 19). -/
def unitShape (d : List Byte) : Nat × Nat :=
  let b := fmtBits (ldDfmt d)
  if bitOf (ldScl d) 10 then
    let k := blockSize (fieldOf (ldScl d) 8 6)
    if bitOf (ldScl d) 9 then (k, max 1 (32768 / b / k)) else (1, max k (32768 / b / k * k))
  else (1, 32768 / b / 16 * 16)

/-- Unit k in row-major order, or none at the end. -/
def unitOf (d : List Byte) (k : Nat) : Option CvUnit :=
  let (ur, uc) := unitShape d
  let m := ldRows d
  let n := ldDim d 0
  let per := ceilDiv n uc
  if n = 0 || m = 0 || ceilDiv m ur * per ≤ k then none
  else
    let r0 := k / per * ur
    let c0 := k % per * uc
    some ⟨r0, min ur (m - r0), c0, min uc (n - c0)⟩

/-- Elements c0 to c0 + n - 1 of a row of packed elements. -/
def rowElems (s : State) (e : Nat) (x : LeatDesc) (row c0 n : Nat) : Fetched × State :=
  let b := fmtBits (ldSfmt x.d)
  let lo := c0 * b / 8
  let hi := ceilDiv ((c0 + n) * b) 8
  let (r, s) := leatRange s e x (ldQs x.d == 1) (rowAddr x.d (ldSrc x.d) (ldS x.d) row + lo) (hi - lo)
  match r with
  | .ok bs pz =>
    let w := leNat bs >>> (c0 * b % 8)
    (.ok ((List.range n).flatMap (fun i => leBytes 8 ((w >>> (i * b)) % 2 ^ b))) pz, s)
  | o => (o, s)

/-- Read the elements of a unit, row-major, 8 bytes each. -/
def unitElems (s : State) (e : Nat) (x : LeatDesc) (u : CvUnit) : Fetched × State :=
  (List.range u.rows).foldl (fun (acc : Fetched × State) i =>
    match acc.1 with
    | .ok d p =>
      let (r, s) := rowElems acc.2 e x (u.r0 + i) u.c0 u.cols
      match r with
      | .ok bs pz => (.ok (d ++ bs) (p || pz), s)
      | o => (o, s)
    | _ => acc) (.ok [] false, s)

/-- Index in a scale array of the scale of element (i, j) of an M × N matrix (R53). -/
def scaleAt (bsize : Nat) (col : Bool) (n i j : Nat) : Nat := scaleIndex bsize col n i j

/-- Read the source scales of a unit, one byte for each element, row-major. -/
def unitScales (s : State) (e : Nat) (x : LeatDesc) (u : CvUnit) : Fetched × State :=
  let scl := ldScl x.d
  if bitOf scl 4 then
    let ids := (List.range u.rows).flatMap (fun i => (List.range u.cols).map (fun j =>
      scaleAt (fieldOf scl 2 0) (bitOf scl 3) (ldDim x.d 0) (u.r0 + i) (u.c0 + j)))
    let lo := ids.foldl min (ids.headD 0)
    let hi := ids.foldl max 0
    let (r, s) := leatRange s e x (ldQs x.d == 1) (ldSscale x.d + lo) (hi - lo + 1)
    match r with
    | .ok bs pz =>
      let a := bs.toArray
      (.ok (ids.map (fun i => a.getD (i - lo) 0)) pz, s)
    | o => (o, s)
  else (.ok [] false, s)

/-- An element's conversion to a format with a per-tensor scale and no block scale: the quotient by T, rounded once
(R49, R54, R417). -/
def convOver (code : Nat) (sat : Bool) (r : RndSel) (t : Nat) (x : Src) (w : Nat) : Nat × Flags :=
  if !scaleOk t then (canonNaN code, flNV)
  else
    match x.v with
    | .fin neg (m + 1) e =>
      let tp := if scalePow2 t then (1, (scaleParts t).2 + 23) else scaleParts t
      let y := overT tp (m + 1) e
      let lsb := if scalePow2 t then x.lsb.map (fun b => b - tp.2) else none
      match floatFmt code, intWidth code with
      | some f, _ =>
        let (v, fl) := roundFV f (rmAt r ⟨x.v, lsb⟩ (quantumAt f y) w) neg y
        (elemCode code v, fl)
      | none, some n =>
        let (k, ix) := roundAt (rmAt r ⟨x.v, lsb⟩ 0 w) neg y 0
        let (c, fl) := fitInt n sat (if neg then -(k : Int) else k)
        (c, fl ||| flagIf ix flNX)
      | none, none => (0, 0)
    | _ => convTo code sat r x w

/-- The first stage of a two-stage narrowing (R52). -/
def twoStage (sf df : Nat) (x : Src) : Src × Flags :=
  if (sf = 0 || sf = 0xC) && fmtBits df ≤ 16 then
    let (v, fl) := convertFV fmtB32 .odd x.v
    (srcOf (decodeFV fmtB32 (encodeFV fmtB32 v)), fl)
  else (x, 0)

/-- Whether a conversion is a copy (R62): same format and same scales. -/
def convCopies (d : List Byte) : Bool :=
  let scl := ldScl d
  ldSfmt d == ldDfmt d && bitOf scl 4 == bitOf scl 10 && (!bitOf scl 4 || fieldOf scl 3 0 == fieldOf scl 9 6)
    && (ldSts d).getD 0x3F800000 == (ldDts d).getD 0x3F800000

/-- Words of a unit's elements, row-major, from the descriptor's position (R284). -/
def unitWords (e : Nat) (x : LeatDesc) (u : CvUnit) : List Nat :=
  if ldRnd x.d = 2 then
    let d0 := mapGet natZeroAt x.sail.draws 0
    (List.range u.rows).flatMap (fun i =>
      sailDraws x.sail.seed 0 (2048 + e) x.sail.t (d0 + (u.r0 + i) * ldDim x.d 0 + u.c0) u.cols)
  else []

/-- What a unit's conversion gives: codes and scales of R53's blocks inside it. -/
def unitConvert (e : Nat) (x : LeatDesc) (u : CvUnit) (codes scales : List Nat) : MatOut :=
  let d := x.d
  let scl := ldScl d
  if convCopies d then ⟨codes, [], 0, 0⟩
  else
    let sc := scales.toArray
    let srcs := codes.zipIdx.map (fun (c, i) =>
      let (v, f1) := scaledSrc (ldSfmt d) c (if bitOf scl 4 then some (sc.getD i 0xFF) else none) (ldSts d)
      let (v, f2) := twoStage (ldSfmt d) (ldDfmt d) v
      (v, f1 ||| f2))
    let fl := flagsOr (srcs.map (fun y => y.2))
    let ws := unitWords e x u
    let sel := if ldRnd d = 2 then RndSel.sr else RndSel.attr .rne
    let out :=
      if bitOf scl 10 then
        convertMatrix u.rows u.cols (srcs.map (fun y => y.1)) (ldDfmt d) (some (fieldOf scl 8 6, bitOf scl 9)) (ldDts d)
          (ldSat d) sel ws
      else match ldDts d with
        | some t =>
          let outs := ((srcs.map (fun y => y.1)).zip (ws ++ List.replicate srcs.length 0)).map (fun (v, w) =>
            convOver (ldDfmt d) (ldSat d) sel t v w)
          ⟨outs.map (fun o => o.1), [], flagsOr (outs.map (fun o => o.2)), 0⟩
        | none => convertMatrix u.rows u.cols (srcs.map (fun y => y.1)) (ldDfmt d) none none (ldSat d) sel ws
    { out with flags := out.flags ||| fl }

/-- Write a unit's codes row by row; units start on whole bytes of their rows. -/
def putCodes (s : State) (e : Nat) (x : LeatDesc) (u : CvUnit) (codes : List Nat) (pz : Bool) : Wrote × State :=
  let b := fmtBits (ldDfmt x.d)
  (List.range u.rows).foldl (fun (acc : Wrote × State) i =>
    match acc.1 with
    | .ok =>
      leatPutRange acc.2 e x (ldQs x.d == 2) (rowAddr x.d (ldDst x.d) (ldD x.d) (u.r0 + i) + u.c0 * b / 8)
        (packElems b ((codes.drop (i * u.cols)).take u.cols)) pz
    | _ => acc) (.ok, s)

/-- Write a unit's scales where R53 places them: each block of the unit in the order of its cells. -/
def putScales (s : State) (e : Nat) (x : LeatDesc) (u : CvUnit) (scales : List Nat) (pz : Bool) : Wrote × State :=
  let scl := ldScl x.d
  let bs := fieldOf scl 8 6
  let col := bitOf scl 9
  let cells := (blockCells bs col u.rows u.cols).map (fun c => c.headD (0, 0))
  (cells.zip scales).foldl (fun (acc : Wrote × State) y =>
    match acc.1 with
    | .ok =>
      leatPut acc.2 e x (ldQs x.d == 2)
        (ldDscale x.d + scaleAt bs col (ldDim x.d 0) (u.r0 + y.1.1) (u.c0 + y.1.2)) [BitVec.ofNat 8 y.2] pz
    | _ => acc) (.ok, s)

/-- One unit of a conversion: written only after all of its source has been read. -/
def convertPiece (s : State) (e : Nat) (x : LeatDesc) : Piece × State :=
  match unitOf x.d x.progress with
  | none => (.over_, s)
  | some u =>
    let (r, s) := unitElems s e x u
    match r with
    | .wait => (.wait, s)
    | .err => (.err, s)
    | .fault va ty lv => (.fault va false ty lv, s)
    | .ok bs p1 =>
      let (r, s) := unitScales s e x u
      match r with
      | .wait => (.wait, s)
      | .err => (.err, s)
      | .fault va ty lv => (.fault va false ty lv, s)
      | .ok sb p2 =>
        let n := u.rows * u.cols
        let codes := (List.range n).map (fun i => leAt bs (8 * i) 8)
        let out := unitConvert e x u codes (sb.map BitVec.toNat)
        let pz := p1 || p2
        let scales := if convCopies x.d && bitOf (ldScl x.d) 10 then
            (blockCells (fieldOf (ldScl x.d) 8 6) (bitOf (ldScl x.d) 9) u.rows u.cols).map (fun c =>
              let (i, j) := c.headD (0, 0)
              (sb.getD (i * u.cols + j) 0).toNat)
          else out.scales
        let (w, s) := putCodes s e x u out.codes pz
        match w with
        | .fault va ty lv => (.fault va true ty lv, s)
        | .err => (.err, s)
        | .ok =>
          let (w, s) := putScales s e x u scales pz
          match w with
          | .fault va ty lv => (.fault va true ty lv, s)
          | .err => (.err, s)
          | .ok =>
            let s := if out.underBlocks = 0 then s else bumpBy s (oLeatUfbCnt + 4 * e) out.underBlocks
            let s := regOr s (oLeatFlags + 4 * e) (out.flags.toNat % 64)
            let s := leatMod s e x.n (fun y => { y with flags := y.flags ||| out.flags })
            let s := if ldRnd x.d = 2 && (leatAt s e).sail.epoch == x.sail.epoch then
                leatEngMod s e (fun g => { g with sail := { g.sail with
                  draws := mapSet natZeroAt g.sail.draws 0 (mapGet natZeroAt g.sail.draws 0 + n) } })
              else s
            (.made 1 (n * fmtBits (ldDfmt x.d) / 8 + scales.length) pz, s)

/-! ### Append streams (R287 to R289) -/

/-- Offset of a stream's entry, and of the free lists. -/
def streamAt (s : State) (d : List Byte) : Nat := baseOf s oLeatAppendBase + 64 * (ldAux0 d % 256)
def freeBase (s : State) : Nat := baseOf s oLeatFreeBase

/-- Take a page from a free list (R289): none when it is empty. -/
def takePage (s : State) (f : Nat) : Option Nat × State :=
  let prod := scrNat s (freeBase s + 0x20000 + 4 * f) 4
  let cons := scrNat s (freeBase s + 0x20010 + 4 * f) 4
  if prod = cons then (none, s)
  else
    let page := scrNat s (freeBase s + f * 0x8000 + 8 * (cons % 4096)) 8
    (some page, scrWrite s (freeBase s + 0x20010 + 4 * f) (leBytes 4 ((cons + 1) % 2 ^ 32)))

/-- Write bytes at a block address of local memory, as an engine's own access; false when it is refused. -/
def leatLocal (s : State) (cls addr : Nat) (bs : List Byte) (marks : List Bool) : Bool × State :=
  let b := baddrOf addr
  if isRemote s addr || 2 ≤ b.space then (false, s)
  else
    let (_, ok, s) := rangeWrite s b.space b.off bs marks cls false
    (ok, s)

/-- Make sure the page of position LENGTH div 65,536 has been taken (R288): none when the list waits, false when the
page list is full. -/
def ensurePage (s : State) (x : LeatDesc) : Option Bool × State :=
  let t := streamAt s x.d
  let len := scrNat s (t + 0x20) 8
  let pages := scrNat s (t + 0x18) 4
  if len / 65536 < pages then (some true, s)
  else if scrNat s (t + 0x10) 4 ≤ pages + 1 then (some false, s)
  else
    let (p, s) := takePage s (scrNat s (t + 0x14) 1 % 4)
    match p with
    | none => (none, s)
    | some a =>
      let (_, s) := leatLocal s (ldClass x.d) (scrNat s (t + 8) 8 + 8 * pages) (leBytes 8 a) []
      (some true, scrWrite s (t + 0x18) (leBytes 4 (pages + 1)))

/-- Write staged bytes to the current page (R288 steps 3 and 5). -/
def flushPage (s : State) (x : LeatDesc) (n : Nat) : Option Bool × State :=
  let (p, s) := ensurePage s x
  match p with
  | some true =>
    let t := streamAt s x.d
    let len := scrNat s (t + 0x20) 8
    let plist := baddrOf (scrNat s (t + 8) 8 + 8 * (len / 65536))
    let (pg, s) := rangeRead s plist.space plist.off 8 (ldClass x.d) false
    let stage := baddrOf (scrNat s t 8)
    let (bs, s) := rangeRead s stage.space stage.off n (ldClass x.d) false
    let (ok, s) := leatLocal s (ldClass x.d) (leNat pg.data + len % 65536) (padTo (roundUp n 64) bs.data) bs.poison
    (if ok && pg.ok && bs.ok then some true else some false, s)
  | o => (o, s)

/-- One step of an append: bytes of one source burst into STAGE, a full STAGE to its page, at the end the flush. -/
def appendPiece (s : State) (e : Nat) (x : LeatDesc) : Piece × State :=
  let t := streamAt s x.d
  let fill := scrNat s (t + 0x1C) 4
  if !bitOf (scrNat s (t + 0x15) 1) 0 then (.err, s)
  else if 4096 ≤ fill then
    let (o, s) := flushPage s x 4096
    match o with
    | none => (.wait, s)
    | some false => (.full, s)
    | some true =>
      let s := scrWrite s (t + 0x20) (leBytes 8 (scrNat s (t + 0x20) 8 + 4096))
      (.made 0 0 false, scrWrite s (t + 0x1C) (leBytes 4 0))
  else if x.progress < ldDim x.d 0 then
    let a := ldSrc x.d + x.progress
    let n := min (min (ldDim x.d 0 - x.progress) (64 - a % 64)) (4096 - fill)
    let (r, s) := leatRange s e x (ldQs x.d == 1) a n
    match r with
    | .wait => (.wait, s)
    | .err => (.err, s)
    | .fault va ty lv => (.fault va false ty lv, s)
    | .ok bs pz =>
      let (ok, s) := leatLocal s (ldClass x.d) (scrNat s t 8 + fill) bs [pz, pz]
      if ok then (.made n n pz, scrWrite s (t + 0x1C) (leBytes 4 (fill + n))) else (.err, s)
  else if bitOf (ldCtl x.d) 6 && fill != 0 && x.progress = ldDim x.d 0 then
    let (o, s) := flushPage s x fill
    match o with
    | none => (.wait, s)
    | some false => (.full, s)
    | some true => (.made 1 0 false, s)
  else (.over_, s)

/-! ### Running descriptors -/

/-- One step of a descriptor's kind. -/
def leatPiece (s : State) (e : Nat) (x : LeatDesc) : Piece × State :=
  match ldKind x.d with
  | 3 => gatherPiece s e x
  | 4 => convertPiece s e x
  | 5 => im2colPiece s e x
  | 7 => appendPiece s e x
  | _ => stridedPiece s e x

/-- A descriptor is done with a status; an append frees its place on the stream with it. -/
def leatFinish (s : State) (e n st : Nat) : State :=
  leatMod s e n (fun y => { y with status := some st, waiting := false, asked := false, token := none })

/-- Run a descriptor until it is done or has to wait (R281 to R288). A descriptor of a pre-empted engine, one that is
suspended, waits behind its gates or for another chip does not run. -/
def leatGo (e n : Nat) : Nat → State → State
  | 0, s => s
  | fuel + 1, s =>
    match leatFind s e n with
    | none => s
    | some x =>
      if x.status.isSome || x.token.isSome || (leatAt s e).preempt || (x.waiting && ldKind x.d == 6) then s
      else
        let (p, s) := leatPiece s e x
        match p with
        | .made k b pz =>
          leatGo e n fuel (leatMod s e n (fun y => { y with
            progress := y.progress + k
            bytes := y.bytes + b
            poisoned := y.poisoned || pz
            staged := []
            waiting := false }))
        | .fault va w ty lv =>
          let (tok, s) := raiseFault s ⟨0, e, ldCtx x.d, va, w⟩ ty lv n
          leatMod s e n (fun y => { y with token := some tok })
        | .err => leatFinish s e n 2
        | .full => leatFinish s e n 5
        | .wait => if ldKind x.d = 7 && !(x.asked) then leatMod s e n (fun y => { y with waiting := !y.asked }) else s
        | .over_ => leatFinish s e n (if x.poisoned then 3 else 0)

/-- Fuel of a descriptor: more than the pieces it can have. -/
def leatFuel (d : List Byte) : Nat :=
  match ldKind d with
  | 3 => ldDim d 0 * ldDim d 1 + 2
  | 5 => imTotal d + 2
  | 7 => 2 * ldDim d 0 + 8
  | _ => ldDim d 0 * ldRows d + 2

def leatRun (s : State) (e n : Nat) : State :=
  match leatFind s e n with
  | some x => leatGo e n (leatFuel x.d) s
  | none => s

/-! ### Gates (R286) -/

/-- Whether a gate is open: a word of Hopper scratch, local or remote, read through Sluice. -/
def gateOpen (s : State) (e : Nat) (x : LeatDesc) (va least : Nat) : Option Bool × State :=
  let (r, s) := leatRange s e x false va 8
  match r with
  | .ok bs _ => (some (decide (least ≤ leNat bs)), s)
  | .wait => (none, s)
  | .err => (none, leatFinish s e x.n 2)
  | .fault va ty lv =>
    let (tok, s) := raiseFault s ⟨0, e, ldCtx x.d, va, false⟩ ty lv x.n
    (none, leatMod s e x.n (fun y => { y with token := some tok }))

/-- Read a descriptor's gates; with every gate open its copy starts. -/
def tryGates (s : State) (e n : Nat) : State :=
  match leatFind s e n with
  | none => s
  | some x =>
    if x.status.isSome || x.token.isSome || !x.waiting || ldKind x.d != 6 || (leatAt s e).preempt then s
    else
      let (g1, s) := gateOpen s e x (ldAux0 x.d) (ldAux1 x.d)
      let (g2, s) := match g1 with
        | some true => if ldSscale x.d = 0 then (some true, s) else gateOpen s e x (ldSscale x.d) (ldDscale x.d)
        | o => (o, s)
      let drop (s : State) : State := leatMod s e n (fun y => { y with staged := [] })
      match g2 with
      | some true => leatRun (leatMod (drop s) e n (fun y => { y with waiting := false })) e n
      | some false => drop s
      | none => s

/-! ### Starting and completing -/

/-- Descriptors of a ring waiting to be consumed. -/
def leatReady (s : State) (e : Nat) : Bool :=
  decide (e < 16) && bitOf (regGet s oLeatEn) e && !s.fh.sepia && !s.gov.pfActive && !(leatAt s e).preempt
    && scrNat s (leatBase s e + 0x20000) 4 != (leatAt s e).consumed % 2 ^ 32

/-- The next descriptor of a ring. -/
def leatNext (s : State) (e : Nat) : List Byte :=
  scrRead s (leatBase s e + 128 * ((leatAt s e).consumed % 1024)) 128

/-- Whether the next descriptor may start now (R279, R288). -/
def leatMayStart (s : State) (e : Nat) (d : List Byte) : Bool :=
  let act := (leatAt s e).active
  decide (act.length < 4) && (!bitOf (ldCtl d) 3 || act.isEmpty)
    && !(ldKind d == 4 && ldRnd d == 2 && act.any (fun x => ldKind x.d == 4 && ldRnd x.d == 2))
    && !(ldKind d == 7 && s.leat.any (fun g => g.active.any (fun x =>
      ldKind x.d == 7 && x.status.isNone && ldAux0 x.d % 256 == ldAux0 d % 256)))

/-- Start the next descriptor of an engine when its kind is the row's (R275 to R279); a reserved kind is taken, and
refused, by the row of the linear kind (log 20). -/
def leatStart (s : State) (e kind : Nat) : State :=
  if !leatReady s e then s
  else
    let d := leatNext s e
    let mine := ldKind d == kind || (kind == 1 && (ldKind d == 0 || decide (7 < ldKind d)))
    if !mine || !leatMayStart s e d then s
    else
      let n := (leatAt s e).consumed % 2 ^ 32
      let legal := leatLegal d
      let x : LeatDesc := ⟨n, d, 0, 0, 0, false, [], false, 0, decide (kind = 6) && legal, none,
        if legal then none else some 1, (leatAt s e).sail⟩
      let s := leatEngMod s e (fun g => { g with consumed := n + 1, active := g.active ++ [x] })
      let s := scrWrite s (leatBase s e + 0x20040) (leBytes 4 (n + 1))
      if kind = 6 then tryGates s e n else leatRun s e n

/-- A descriptor's end (R279, R280): nothing of it is still on its way, its record is written, then the count. -/
def leatComplete (s : State) (e n : Nat) : State :=
  match leatFind s e n with
  | none => s
  | some x =>
    match x.status with
    | none => s
    | some st =>
      if s.port.outst.any (fun o => o.sink == .leatWrite e n) then s
      else
        let g := leatAt s e
        let rec_ := leBytes 4 n ++ leBytes 1 st ++ leBytes 1 (x.flags.toNat % 64) ++ zeroBytes 2 ++ leBytes 8 x.bytes
        let s := scrWrite s (leatBase s e + 0x21000 + 16 * (g.completed % 1024)) rec_
        let c := (g.completed + 1) % 2 ^ 32
        let s := scrWrite s (leatBase s e + 0x20080) (leBytes 4 c)
        let s := leatEngMod s e (fun g => { g with completed := c, active := g.active.filter (fun y => y.n != n) })
        let s := if [1, 2, 4, 5, 6].contains st then bump s oLeatErrCnt else s
        if bitOf (ldCtl x.d) 2 then irqSet s irqLeat else s

/-- A wait that reached LEAT_WAIT_TMO Turns (R286, R289). -/
def leatTimeout (s : State) (e n : Nat) : State :=
  match leatFind s e n with
  | some x =>
    let t := regGet s oLeatWaitTmo % 2 ^ 16
    if x.waiting && x.status.isNone && t != 0 && decide (t ≤ x.waited) then leatFinish s e n 4 else s
  | none => s

/-- Once per Turn: waits are counted, and an append that waits for a page tries again (R286, R289). -/
def leatTurn (s : State) : State :=
  (List.range 16).foldl (fun s e =>
    if (leatAt s e).preempt then s
    else (leatAt s e).active.foldl (fun s x =>
      if x.waiting && x.status.isNone && x.token.isNone then
        let s := bump s (if ldKind x.d = 6 then oLeatHaloWaitCnt else oLeatFreeWaitCnt)
        let s := leatMod s e x.n (fun y => { y with waited := y.waited + 1 })
        if ldKind x.d = 7 then leatRun s e x.n else s
      else s) s) s

/-- The answer to a remote read of a descriptor; it then goes on (R270, R286). -/
def leatAnswer (s : State) (e n addr : Nat) (data : List Byte) (poison : Bool) : State :=
  let s := leatMod s e n (fun y => { y with staged := y.staged ++ [(addr, data, poison)], asked := false })
  match leatFind s e n with
  | some x => if ldKind x.d = 6 && x.waiting then tryGates s e n else leatRun s e n
  | none => s

/-- RETRY and DISCARD of a suspended descriptor (R299). -/
def leatRetry (s : State) (e n : Nat) : State :=
  let s := leatMod s e n (fun y => { y with token := none })
  match leatFind s e n with
  | some x => if ldKind x.d = 6 && x.waiting then tryGates s e n else leatRun s e n
  | none => s

/-- Every active descriptor that can run goes on, once its engine is released (R290). -/
def leatRelease (s : State) (e : Nat) : State :=
  let s := leatEngMod s e (fun g => { g with preempt := false })
  (leatAt s e).active.foldl (fun s x => leatRun s e x.n) s

def execLeatLinear (e : Nat) (s : State) : Out := .next (leatStart s e 1)
def execLeatStrided (e : Nat) (s : State) : Out := .next (leatStart s e 2)
def execLeatGather (e : Nat) (s : State) : Out := .next (leatStart s e 3)
def execLeatConvert (e : Nat) (s : State) : Out := .next (leatStart s e 4)
def execLeatIm2col (e : Nat) (s : State) : Out := .next (leatStart s e 5)
def execLeatHaloGated (e : Nat) (s : State) : Out := .next (leatStart s e 6)
def execLeatAppend (e : Nat) (s : State) : Out := .next (leatStart s e 7)
def execHaloGateOpen (e seq : Nat) (s : State) : Out := .next (tryGates s e seq)
def execLeatWaitTimeout (e seq : Nat) (s : State) : Out := .next (leatTimeout s e seq)
def execLeatComplete (e seq : Nat) (s : State) : Out := .next (leatComplete s e seq)

end Sys2Proof.Machine
end

