-- ==== Sys2Proof/Machine/SluiceRows.lean ====
section
/-!
DEFINITION. The Sluice's rows: faults, fault records, resumption and invalidation (R295, R297 to R299).
-/
namespace Sys2Proof.Machine

/-- The Tailrace's own context (R210). -/
def tailraceCtx : Nat := 63

/-- An active descriptor of an engine that runs in a context and may be suspended. -/
def leatSuspendable (s : State) (e ctx : Nat) : Option LeatDesc :=
  (leatAt s e).active.find? (fun x => x.status.isNone && x.token.isNone && ldCtx x.d == ctx)

/-- Suspend the requester of an access that faults (R297); with no such requester at work nothing happens. -/
def suspendFor (s : State) (a : SlAccess) (ty lv : Nat) : State :=
  match a.req with
  | 0 =>
    match leatSuspendable s a.u a.ctx with
    | some x =>
      let (tok, s) := raiseFault s a ty lv x.n
      leatMod s a.u x.n (fun y => { y with token := some tok })
    | none => s
  | 1 =>
    let q := mapOf s a.u
    if quernRuns s q && itemCtx s q == a.ctx then suspendQ s q a.va a.write ty lv else s
  | 2 =>
    match s.bol.job with
    | some j =>
      if s.bol.status.isNone && dsCtx (bolDs s j) == a.ctx then
        let (tok, s) := raiseFault s a ty lv 0
        bolMod s (fun z => { z with susp := z.susp ++ [(a.u % 8, tok)] })
      else s
    | none => s
  | _ =>
    if s.pub.busy && s.pub.susp.isNone && a.ctx == tailraceCtx then
      let (tok, s) := raiseFault s a ty lv 0
      { s with pub := { s.pub with susp := some tok } }
    else s

/-- An access is presented to the Sluice; one that translates and is admitted changes nothing (R291 to R297). -/
def sluiceFault (s : State) (a : SlAccess) : State :=
  let (o, s') := sluice s a.ctx a.va a.write
  match o with
  | .fault ty lv => suspendFor s' a ty lv
  | .ok _ => s

/-- The physical Quern whose work item a token suspends. -/
def tokenQuern (s : State) (token : Nat) : Option Nat :=
  (List.range 36).find? (fun q => (qnAt s q).token == some token)

/-- The descriptor number a token suspends on an engine. -/
def tokenDesc (s : State) (e token : Nat) : Option Nat :=
  ((leatAt s e).active.find? (fun x => x.token == some token)).map (fun x => x.n)

/-- SL_RESUME RETRY (R299). A context saved while suspended is retried when it is restored. -/
def slRetry (s : State) (token : Nat) : State :=
  match s.sl.susp.find? (fun x => x.token == token) with
  | none => bump s oSlResumeRejCnt
  | some x =>
    let s := dropToken s token
    match x.access.req with
    | 0 => (tokenDesc s x.access.u token).elim s (fun n => leatRetry s x.access.u n)
    | 1 =>
      match tokenQuern s token with
      | some q =>
        if (qnAt s q).state = 2 then retryQ s q else qnMod s q (fun n => { n with token := none })
      | none => { s with qn := { s.qn with saved := s.qn.saved.map (fun v => if v.token = some token then { v with token := none } else v) } }
    | 2 => bolRetry s token
    | _ => { s with pub := { s.pub with susp := none } }

/-- End the Tailrace's present range (R212). -/
def pubDiscard (s : State) : State :=
  { s with pub := { s.pub with susp := none, err := true, todo := s.pub.todo.drop 1 } }

/-- SL_RESUME DISCARD (R299), which the Governor also applies to faults of its own contexts (R297). -/
def slDiscard (s : State) (token : Nat) : State :=
  match s.sl.susp.find? (fun x => x.token == token) with
  | none => bump s oSlResumeRejCnt
  | some x =>
    let s := dropToken s token
    match x.access.req with
    | 0 => (tokenDesc s x.access.u token).elim s (fun n => leatFinish s x.access.u n 6)
    | 1 =>
      match tokenQuern s token with
      | some q =>
        if (qnAt s q).state = 3 then
          markFault (qnMod s q (fun n => { n with item := none, trap := 0, token := none, xfers := [], waitw := none }))
        else discardQ s q
      | none => markFault { s with qn := { s.qn with saved := s.qn.saved.filter (fun v => v.token != some token) } }
    | 2 => bolDiscard s
    | _ => pubDiscard s

/-- Write the oldest waiting record; a record of the Governor's contexts is then discarded by it (R151, R297). -/
def recordWrite (s : State) : State :=
  match s.sl.recs with
  | [] => s
  | r :: _ =>
    if faultRingRoom s then
      let s := writeFaultRecord s
      if bitOf (leAt r 0xA 1) 7 then slDiscard s (leAt r 8 2) else s
    else s

/-- SL_INVAL (R295): no translation is kept, so only its progress is state. -/
def slInval (s : State) (ctx : Option Nat) : State :=
  { s with sl := { s.sl with inval := true, invalCtx := ctx } }

def execSluiceFault (a : SlAccess) (s : State) : Out := .next (sluiceFault s a)
def execFaultRecordWrite (s : State) : Out := .next (recordWrite s)
def execSlRetry (token : Nat) (s : State) : Out := .next (slRetry s token)
def execSlDiscard (token : Nat) (s : State) : Out := .next (slDiscard s token)
def execSlInvalAll (s : State) : Out := .next (slInval s none)
def execSlInvalCtx (ctx : Nat) (s : State) : Out := .next (slInval s (some ctx))
def execSlInvalDone (s : State) : Out := .next { s with sl := { s.sl with inval := false, invalCtx := none } }

end Sys2Proof.Machine
end

