-- ==== Sys2Proof/Machine/StepRows.lean ====
section
/-!
DEFINITION. The step's rows: ring entries, opening, admission, settling, timeouts, and the VC0 to VC2 messages of the
step (R168, R189, R191 to R208, R323).
-/
namespace Sys2Proof.Machine

/-! ### The step ring (R194) -/

/-- An entry that is skipped: a reserved CMD or format, a non-zero reserved field, or one read with poison or an error,
which is held with no bytes. -/
def badEntry (e : RingEntry) : Bool :=
  let b := leAt e 1 1
  if e.length ≠ 16 then true
  else match leAt e 0 1 with
    | 1 =>
      let n := decodeFV fmtB32 (leAt e 4 4)
      b % 4 == 3 || decide (8 ≤ b) || decide (32 ≤ leAt e 2 2) || (bitOf b 2 && decide (24 < leAt e 2 2))
        || !n.isFinite || (n.neg? && !n.isZero) || leAt e 14 2 != 0
    | 2 => (b != 1 && b != 3) || leAt e 4 4 != 0
    | 3 => leAt e 1 15 != 0
    | _ => true

/-- Count one entry consumed. -/
def dropEntry (s : State) : State :=
  regSet { s with work := { s.work with ringQ := s.work.ringQ.drop 1 } } oStepCons ((regGet s oStepCons + 1) % 2 ^ 32)

/-- Skip the bad entries at the head; `fuel` is the queue's length. -/
def skipBad : Nat → State → State
  | 0, s => s
  | n + 1, s =>
    match s.work.ringQ with
    | e :: _ => if badEntry e then skipBad n (bump (dropEntry s) oBadCmdCnt) else s
    | [] => s

/-- Consume the head entry. -/
def popRing (s : State) : State := let s := dropEntry s; skipBad s.work.ringQ.length s

/-- The head entry when it has a CMD and the Governor handles entries. -/
def ringHead (s : State) (cmd : Nat) : Option RingEntry :=
  match s.work.ringQ with
  | e :: _ => if leAt e 0 1 = cmd && !s.fh.sepia && !s.gov.pfActive then some e else none
  | [] => none

/-- The head entry is refused or ignored, and counted. -/
def refuseEntry (s : State) : State := popRing (bump s oBadCmdCnt)

/-! ### Opening (R168, R197, R198) -/

/-- Insert in an order, after the elements that are not larger. -/
def insertBy {α : Type} (le : α → α → Bool) (x : α) : List α → List α
  | [] => [x]
  | y :: l => if le x y then x :: y :: l else y :: insertBy le x l

def sortBy {α : Type} (le : α → α → Bool) (l : List α) : List α := l.foldr (insertBy le) []

/-- Unit order: descending LAYER, ascending TENSOR_ID, ascending START (R199). -/
def unitBefore (s : State) (i j : Nat) : Bool :=
  let a := sampled s i
  let b := sampled s j
  decide (b.layer < a.layer) || (a.layer == b.layer && (decide (a.id < b.id) || (a.id == b.id && decide (a.start ≤ b.start))))

/-- A unit nothing has happened to. -/
def unitNew (i : Nat) : FwUnit := ⟨i, false, 1, 0, false, [], none, [], 0, false, maxExpNone, false, 0, false, false, false, false⟩

/-- Whether an exponent field is clamped at OPEN (R102, R103). -/
def clampedField (e : Int) : Nat := b2n (clampCeil e != e)

/-- Sample the tensor table, the sets and the ceiling tables (R102, R103, R168). -/
def sampleAll (s : State) : State :=
  let tt := liveTable s
  let ids := (tt.map (fun b => (tentOf b).id)).eraseDups
  let groups := (tt.map (fun b => (tentOf b).ngrp)).eraseDups
  let ceilWord (i : Nat) : Nat := scrNat s (baseOf s oFwrCeilBase + 8 * i) 8
  let normWord (g : Nat) : Nat := scrNat s (baseOf s oFwrNormBase + 8 * g) 8
  let put (m : Store (BitVec 64)) (k w : Nat) : Store (BitVec 64) := mapSet zeroAt m k (BitVec.ofNat 64 w)
  let clamps := ((ids.map (fun i => clampedField (ceilEntryOf (ceilWord i)).ceil))
    ++ groups.map (fun g => let n := normEntryOf (normWord g); clampedField n.grad + clampedField n.weight + clampedField n.upd)).foldl (· + ·) 0
  let s := { s with work := { s.work with
    tt := tt
    hsets := liveSets s
    ceil := ids.foldl (fun m i => put m i (ceilWord i)) []
    norm := groups.foldl (fun m g => put m g (normWord g)) [] } }
  let s := { s with work := { s.work with units := (sortBy (unitBefore s) (ownedIx s)).map unitNew } }
  bumpBy s oFwrClampCnt clamps

/-- Send the OPEN record (R197, log 30). -/
def sendOpenRec (s : State) : State :=
  let tags := (s.work.tags.filter (fun t => t.1 == s.step.s)).map (fun t => t.2)
  let m := msgOf s 0x01 s.step.clipNorm (s.step.clipMode + s.step.l * 16) (tags.flatMap (leBytes 4))
  sendTo { s with
    step := { s.step with recordSent := true }
    work := { s.work with tDecision := some s.time.turn } } (rootChip s) m

/-- The 128-bit seed of SAIL_SEED_0 to SAIL_SEED_3. -/
def sailSeed (s : State) : Nat :=
  regGet s oSailSeed + regGet s (oSailSeed + 4) * 2 ^ 32 + regGet s (oSailSeed + 8) * 2 ^ 64 + regGet s (oSailSeed + 12) * 2 ^ 96

/-- What an OPEN entry does to the step's fields. -/
def openFields (s : State) (e : RingEntry) : StepSt :=
  let b := leAt e 1 1
  { s.step with
    state := 1
    s := leAt e 8 6
    clipMode := b % 4
    clipNorm := leAt e 4 4
    lsHost := bitOf b 2
    l := if bitOf b 2 then leAt e 2 2 else s.step.exp
    round := 0
    move := none
    ovf := false
    flt := false
    markReason := 0
    earlyDue := false
    earlySent := false
    ready := false
    roundB := false
    recordSent := false
    sumsA := false
    sumsB := false
    holdTags := []
    clipPend := s.step.clip
    jumped := false
    goDone := false }

/-- Open a step: the changes named for it, the tables, the jump-ahead, the OPEN record (R155, R197, R198, R305). -/
def openStep (s : State) (e : RingEntry) : State :=
  let s := { s with qn := { s.qn with oldRecipes := [] } }
  let s := openNamed s (leAt e 8 6)
  let s := { s with
    step := openFields s e
    work := { WorkSt.reset with ringQ := s.work.ringQ, tags := s.work.tags, tOpen := s.work.tOpen, tSettle := s.work.tSettle, tPub := s.work.tPub } }
  let s := sampleAll s
  let s := { s with qn := { s.qn with sailSeed := sailSeed s, sailT := s.step.s, sailEpoch := s.qn.sailEpoch + 1, sailBusy := true } }
  sendOpenRec s

/-- What refuses every OPEN: FATAL, STATE_POISON, an incomplete group, no hold region, no tensor table (R96, R187, R347,
R352, R378). -/
def openBarred (s : State) : Bool :=
  s.fh.fatal || s.fh.statePoison || !s.boot.groupOk || regGet s oFwrHoldSize % 2 ^ 16 == 0 || regGet s oPsTtCount == 0

/-- STEP_OPEN: the OPEN entry at the head of the ring (R192). -/
def stepOpen (s : State) : State :=
  match ringHead s 1 with
  | none => s
  | some e =>
    match s.step.state with
    | 4 => s
    | 5 => s
    | 0 => if leAt e 8 6 = stepNext s && !openBarred s then openStep (popRing s) e else refuseEntry s
    | 6 => if leAt e 8 6 = stepNext s && !openBarred s then openStep (popRing s) e else refuseEntry s
    | _ => refuseEntry s

/-- SAIL_JUMP_DONE: every running lane stands at T = s, j = 0 (R305). -/
def sailJumpDone (s : State) : State :=
  if !s.qn.sailBusy then s
  else
    let p : SailPos := ⟨s.qn.sailSeed, s.qn.sailT, s.qn.sailEpoch, [], []⟩
    { s with
      qn := { s.qn with sailBusy := false, sails := s.qn.sails.map (fun _ => p) }
      leat := s.leat.map (fun x => { x with sail := p })
      step := { s.step with jumped := true } }

/-! ### Layers and aborts (R195, R200, R208) -/

/-- Whether a gradient buffer address names local SCRATCH (R195). -/
def bufferOk (s : State) (a : Nat) : Bool :=
  let b := baddrOf a
  b.space == 1 && (!b.remote || b.chip == s.gl.chip) && b.off % 64 == 0 && granuleScratch s (b.off / 2 ^ 28)

/-- A layer rung in this attempt, sent or held. -/
def layerRung (s : State) (layer : Nat) : Bool :=
  s.work.rung.any (fun x => x.1 == layer) || s.work.heldLayers.any (fun e => leAt e 2 2 == layer)

/-- A rung layer's slices may go. -/
def ringLayer (s : State) (e : RingEntry) : State :=
  { s with work := { s.work with rung := s.work.rung ++ [(leAt e 2 2, leAt e 8 8, leAt e 1 1 % 16)] } }

/-- LAYER_DOORBELL: the LAYER entry at the head of the ring (R195). -/
def layerDoorbell (s : State) : State :=
  match ringHead s 2 with
  | none => s
  | some e =>
    let layer := leAt e 2 2
    if (s.step.state != 1 && s.step.state != 2) || !(layersOf s).contains layer || layerRung s layer || !bufferOk s (leAt e 8 8) then
      refuseEntry s
    else
      let s := popRing s
      if s.step.state = 1 then { s with work := { s.work with heldLayers := s.work.heldLayers ++ [e] } }
      else trySlices (ringLayer s e)

/-- Send the early-abort notice that is due (R192, R200). -/
def sendEarly (s : State) : State :=
  if !s.step.earlyDue || s.step.earlySent || !stepOpenState s then s
  else
    let s := { s with step := { s.step with earlyDue := false, earlySent := true } }
    sendTo s (rootChip s) (msgOf s 0x05 0 (s.step.markReason * 16) [])

/-- HOST_ABORT: the ABORT entry at the head of the ring (R194, R208). -/
def hostAbort (s : State) : State :=
  match ringHead s 3 with
  | none => s
  | some _ =>
    if stepOpenState s && !(s.step.state == 3 && s.step.round == 2 && s.step.recordSent) then
      sendEarly (markWith (popRing s) 3 false false)
    else refuseEntry s

/-! ### Settling (R202 to R205) -/

/-- Local readiness (R202); a halted work item keeps the step in GRIND (R118). -/
def settleReady (s : State) : Bool :=
  s.step.state == 2 && s.step.move.isNone && (layersOf s).all (fun l => s.work.done.contains l)
    && s.work.units.all (fun u => u.final) && !s.step.earlySent && !s.step.earlyDue && !s.qn.q.any (fun n => n.state == 2)

/-- The combined gradient sums in ascending norm group order. -/
def gradSums (s : State) : List Nat :=
  let es := sortBy (fun (a b : NormSumRec) => decide (a.group ≤ b.group)) (s.work.sums.filter (fun e => e.kind == 0))
  es.map (fun e => (normSum (normCeil s e.group 0) e.r e.q).1)

/-- Round A CONTINUE with the sums at hand: the clip factor, and the deferred updates (R204, R205). -/
def doContinue (s : State) : State :=
  let clip := clipFactor (gradSums s) s.step.clipNorm
  let s := { s with
    step := { s.step with clipPend := clip, round := 2, recordSent := false, move := none }
    work := { s.work with tDecision := none } }
  if s.step.clipMode = 2 then
    let s := writeGs s clip
    (s.work.units.map (fun u => u.entry)).foldl (fun s i => runUpdate s i false) s
  else s

/-- Round A CONTINUE: it waits for the sums of the norm root. -/
def takeContinue (s : State) : State :=
  if s.step.state = 3 && s.step.round == 1 && s.step.move.isNone then
    if s.step.sumsA then doContinue s else { s with step := { s.step with move := some 6 } }
  else s

/-- Every update of the attempt has run, or is being rerun (R204). -/
def updatesDone (s : State) : Bool := s.work.units.all (fun u => u.updated && judgedUnit s u || u.redo)

/-- Word 0 that the round A factor gives a unit. -/
def gsOf (s : State) (i : Nat) : Nat := gsWord s.work.hsets (sampled s i).hset s.step.clipPend

/-- REDO_RERUN of a unit (R204, R205). -/
def redoRerun (s : State) (i : Nat) : State :=
  if s.step.state ≠ 3 || s.step.round ≠ 2 || s.step.clipMode ≠ 1 || s.step.recordSent || !updatesDone s then s
  else
    let s := writeGs s s.step.clipPend
    match unitAt s i with
    | none => s
    | some u =>
      if u.redo || u.gs = gsOf s i || s.step.earlySent || s.step.ovf then s
      else
        let s := unitMod (bump s oRedoCnt) i (fun u => { u with redo := true, updated := false, judged := false })
        runUpdate s i true

/-- Whether round B may be reported: reruns, updates, refreshes and checks are over (R205, R349, R351). -/
def roundBReady (s : State) : Bool :=
  s.step.state == 3 && s.step.round == 2 && !s.step.recordSent
    && s.work.units.all (fun u => u.updated && judgedUnit s u && (s.step.clipMode != 1 || u.gs == gsOf s u.entry))
    && (ownedIx s).all (fun i => !needsRefresh s i || s.work.refreshed.contains i)
    && s.fh.plaus.isEmpty && s.fh.check.isEmpty

/-- LT of a norm group for a unit's set, once both sums are there (R176). -/
def ltOf (s : State) (i : Nat) : Option Nat :=
  let t := sampled s i
  let sum (k : Nat) : Option Nat :=
    (s.work.sums.find? (fun e => e.group == t.ngrp && e.kind == k)).map (fun e => (normSum (normCeil s e.group k) e.r e.q).1)
  match sum 1, sum 2 with
  | some a, some b => some (lambFactor s.work.hsets t.hset s.step.s a b)
  | _, _ => none

/-- LAMB's second phase of one unit, its factor stored first (R176). -/
def phase2 (s : State) (i : Nat) : State :=
  let t := sampled s i
  if t.recipe ≠ 3 || s.step.earlySent then s
  else match ltOf s i with
    | some lt =>
      lambPhase2 (scrWrite s (baseOf s oPsFactorBase + 0x8000 + 4 * (4096 * (s.step.s % 2) + t.ngrp)) (leBytes 4 lt)) i lt
    | none => s

/-- NORM_SUM: the combined sums; a message of fewer than 170 entries is the last (R101, R205, log 31). -/
def takeNormSum (s : State) (m : Msg) : State :=
  let es := normEnts m
  let s := { s with work := { s.work with
    sums := s.work.sums.filter (fun x => !es.any (fun e => e.group == x.group && e.kind == x.kind))
      ++ es.map (fun e => (⟨e.group, e.kind, e.r, e.vexp, e.q⟩ : NormSumRec)) } }
  if s.step.state ≠ 3 || es.length = 170 then s
  else if s.step.round = 2 then
    let s := { s with step := { s.step with sumsB := true } }
    (s.work.units.map (fun u => u.entry)).foldl phase2 s
  else
    let s := { s with step := { s.step with sumsA := true } }
    if s.step.move = some 6 then doContinue s else s

/-- Whether COMMIT may take effect: the sums are back, LAMB's second phase has run, no check is open (R205). -/
def commitReady (s : State) : Bool :=
  s.step.sumsB && s.fh.plaus.isEmpty && s.fh.check.isEmpty
    && s.work.units.all (fun u => (sampled s u.entry).recipe != 3 || u.phase2)

/-! ### Messages of the step (R191, R323) -/

/-- Apply a message of a kind: one that is neither of the current nor of the just-committed step is discarded, and one
of the just-committed step has no effect on the current one. -/
def withStep (s : State) (m : Msg) (kind : Nat) (body : State → State) : State :=
  if m.kind ≠ kind || !msgReady s m then s
  else
    let s := consumeMsg s m
    if isCurrent s m then body s else if isCommitted s m then s else staleMsg s

/-- A DECISION of a code: the standby root's copy is stored and acknowledged, any other is applied (R200, log 31). -/
def withDecision (s : State) (m : Msg) (code : Nat) (body : State → State) : State :=
  if decCode m ≠ code then s
  else if m.kind = 2 && msgReady s m && bitOf m.addr 0 then takeCopy (consumeMsg s m) m
  else withStep s m 2 body

/-- A transition for the next Turn boundary; ABORT takes the place of any other. -/
def setMove (s : State) (mv : Nat) : State :=
  if s.step.move = some 5 then s
  else { s with step := { s.step with move := some mv }, work := { s.work with tDecision := none } }

def takeGo (s : State) : State :=
  if s.step.state = 1 then setMove { s with boot := { s.boot with discDone := true } } 2 else s

def takeHold (s : State) (m : Msg) : State :=
  if s.step.state = 1 then
    { s with step := { s.step with holdTags := recTags m, recordSent := false }, work := { s.work with tDecision := none } }
  else s

def takeCommit (s : State) : State := if s.step.state = 3 && s.step.round == 2 then setMove s 4 else s

/-- An ABORT of the step the chip is in; of the step it opens next, it counts as an attempt of that step, so that the
attempt numbers of the training set agree (R191). -/
def takeAbort (s : State) (m : Msg) : State :=
  if stepOpenState s then setMove { s with step := { s.step with abortReason := decReason m, abortChip := decCause m } } 5
  else if s.step.state = 0 || s.step.state = 6 then { s with step := { s.step with attempt := (s.step.attempt + 1) % 256 } }
  else s

/-- A message applied whatever its step (R200, R332). -/
def withAny (s : State) (m : Msg) (kind : Nat) (body : State → State) : State :=
  if m.kind ≠ kind || !msgReady s m then s else body (consumeMsg s m)

/-- EARLY_ABORT at the decision root: the first notice decides (R200, R207). -/
def takeEarly (s : State) (m : Msg) : State :=
  if isRoot s then decideAbort s m.step m.attempt (fieldOf m.aux 7 4) m.src else s

/-- A shard-addressed message of a kind. A contribution or partial sum of a step that has committed finds its unit
finalised and is counted as discarded; one of a step that has aborted is counted in and discarded (R90, R207). -/
def withShard (s : State) (m : Msg) (kind : Nat) (body : State → Nat → State) : State :=
  if m.kind ≠ kind then s
  else withRole s m (isCurrent s m || isCommitted s m) (fun s i =>
    if isCurrent s m && stepOpenState s then body s i
    else if (kind = 0x20 || kind = 0x28) && (!isCurrent s m || s.step.state == 4) then staleMsg s
    else s)

/-! ### Timeouts (R193) -/

/-- Whether `n` Turns have passed since a start. -/
def passed (s : State) (t : Option Nat) (n : Nat) : Bool := t.elim false (fun t => decide (t + n ≤ s.time.turn))

def settleTmo (s : State) : Nat := fieldOf (regGet s oStepTmo) 31 16

/-- OPEN_TIMEOUT at the decision root: ABORT, the lowest chip whose record is missing its cause (R207). -/
def openTimeout (s : State) : State :=
  if !isRoot s || !passed s s.work.tOpen (regGet s oStepTmo % 2 ^ 16) then s
  else
    let s' := { s with work := { s.work with tOpen := none } }
    match s.root.openRecs.getLast? with
    | none => s'
    | some r =>
      let rs := recsFor s.root.openRecs r.2.step r.2.attempt
      let missing := (trainingSet s).filter (fun c => !rs.any (fun x => x.1 == c))
      if decidedIn s.root.decided r.2.step r.2.attempt 0 then s'
      else decideAbort s' r.2.step r.2.attempt 4 (lowest missing)

/-- SETTLE_TIMEOUT at the decision root: ABORT, the lowest norm root whose group record is missing its cause. -/
def settleTimeout (s : State) : State :=
  if !isRoot s || !passed s s.work.tSettle (settleTmo s) then s
  else
    let s' := { s with work := { s.work with tSettle := none } }
    match s.root.groupRecs.getLast? with
    | none => s'
    | some r =>
      let round := decRound r.2
      let rs := groupRecsFor s r.2.step r.2.attempt round
      let missing := ((List.range (replicas s + 1)).map (normRootOf s)).filter (fun c => !rs.any (fun x => x.1 == c))
      if decidedIn s.root.decided r.2.step r.2.attempt round then s'
      else decideAbort s' r.2.step r.2.attempt 4 (lowest missing)

/-- GRIND_TIMEOUT: an early-abort notice with reason TIMEOUT; 0 disables it. -/
def grindTimeout (s : State) : State :=
  let n := regGet s oStepTmoGrind % 2 ^ 16
  if s.step.state ≠ 2 || n = 0 || !passed s s.work.tGrind (512 * n) then s
  else sendEarly (markWith { s with work := { s.work with tGrind := none } } 4 false false)

/-- DECISION_WAIT_TIMEOUT: a query to the standby root; the wait starts again (R200). -/
def decisionWaitTimeout (s : State) : State :=
  if !stepOpenState s || !passed s s.work.tDecision (4 * settleTmo s) then s
  else sendTo { s with work := { s.work with tDecision := some s.time.turn } } (standbyChip s)
    (msgOf s 0x07 0 (s.step.round * 2 ^ 8) [])

/-- STANDBY_ACK_TIMEOUT: the standby root is treated as lost (R201). -/
def standbyAckTimeout (s : State) : State :=
  if s.root.waiting.any (fun d => decide (d.since + settleTmo s ≤ s.time.turn)) then loseStandby s else s

/-- PUB_TIMEOUT: PUB_LATE is set; the committed step stands. -/
def pubTimeout (s : State) : State :=
  if s.pub.busy && passed s s.work.tPub (fieldOf (regGet s oStepTmoGrind) 31 16) then
    { s with pub := { s.pub with late := true }, work := { s.work with tPub := none } }
  else s

/-! ### The rows -/

def execStepOpen (s : State) : Out := .next (stepOpen s)
def execSailJumpDone (s : State) : Out := .next (sailJumpDone s)
def execLayerDoorbell (s : State) : Out := .next (layerDoorbell s)
def execHostAbort (s : State) : Out := .next (hostAbort s)
def execUnitAdmit (s : State) : Out := .next (admitNext s)
def execUnitFinalise (entry : Nat) (s : State) : Out := .next (finalise s entry)
def execLayerDone (layer : Nat) (s : State) : Out := .next (layerDone s layer)
def execSettleReady (s : State) : Out := .next (if settleReady s then setMove s 3 else s)
def execEarlyAbortSend (s : State) : Out := .next (sendEarly s)
def execRedoRerun (entry : Nat) (s : State) : Out := .next (redoRerun s entry)
def execRoundBReady (s : State) : Out :=
  let s := if s.step.state = 3 && s.step.round == 2 && s.step.clipMode == 1 && updatesDone s then writeGs s s.step.clipPend else s
  .next (if roundBReady s then sendRecord { s with step := { s.step with roundB := true } } 2 else s)
def execOpenTimeout (s : State) : Out := .next (openTimeout s)
def execGrindTimeout (s : State) : Out := .next (grindTimeout s)
def execSettleTimeout (s : State) : Out := .next (settleTimeout s)
def execDecisionWaitTimeout (s : State) : Out := .next (decisionWaitTimeout s)
def execStandbyAckTimeout (s : State) : Out := .next (standbyAckTimeout s)
def execPubTimeout (s : State) : Out := .next (pubTimeout s)

def execMsgOpenRec (m : Msg) (s : State) : Out := .next (withStep s m 0x01 (fun s => takeOpenRec s m))
def execMsgDecisionGo (m : Msg) (s : State) : Out := .next (withDecision s m 1 takeGo)
def execMsgDecisionHold (m : Msg) (s : State) : Out := .next (withDecision s m 2 (fun s => takeHold s m))
def execMsgDecisionContinue (m : Msg) (s : State) : Out := .next (withDecision s m 3 takeContinue)
def execMsgDecisionCommit (m : Msg) (s : State) : Out := .next (withDecision s m 4 takeCommit)
def execMsgDecisionAbort (m : Msg) (s : State) : Out := .next (withDecision s m 5 (fun s => takeAbort s m))
def execMsgRoundRec (m : Msg) (s : State) : Out := .next (withStep s m 0x03 (fun s => takeRoundRec s m))
def execMsgGroupRec (m : Msg) (s : State) : Out := .next (withStep s m 0x04 (fun s => takeGroupRec s m))
def execMsgEarlyAbort (m : Msg) (s : State) : Out := .next (withStep s m 0x05 (fun s => takeEarly s m))
def execMsgStandbyAck (m : Msg) (s : State) : Out := .next (withAny s m 0x06 (fun s => takeAck s m))
def execMsgQuery (m : Msg) (s : State) : Out := .next (withAny s m 0x07 (fun s => takeQuery s m))
def execMsgNormPart (m : Msg) (s : State) : Out := .next (withStep s m 0x08 (fun s => takeNormPart s m))
def execMsgNormSum (m : Msg) (s : State) : Out := .next (withStep s m 0x09 (fun s => takeNormSum s m))
def execMsgAdmit (m : Msg) (s : State) : Out :=
  .next (withShard s m 0x0A (fun s i => trySlices (noteAdmit s i)))
/-- A finalisation notice: this block holds no inputs as an intermediate reducer, so nothing is left to free (R99). -/
def execMsgFinal (m : Msg) (s : State) : Out := .next (withShard s m 0x0B (fun s _ => s))
def execMsgRecomp (m : Msg) (s : State) : Out :=
  .next (withShard s m 0x0C (fun s i => takeRecomp s i (fieldOf m.aux 34 32)))
def execMsgLost (m : Msg) (s : State) : Out := .next (withAny s m 0x0F (fun s => takeLost s (m.addr % 2 ^ 14)))
def execMsgContrib (m : Msg) (s : State) : Out :=
  .next (withShard s m 0x20
    (fun s i => takeContrib s i m.src (fieldOf m.aux 23 20) (msgFirst m) m.data m.poison))
def execMsgPartial (m : Msg) (s : State) : Out :=
  .next (withShard s m 0x28 (fun s i => takePartial s i m))

end Sys2Proof.Machine
end

