-- ==== Sys2Proof/Machine/Vc4.lean ====
section
/-!
DEFINITION. Remote access over VC4 at its home and at its requester, and bulk data on VC5 (R215, R270, R271, R323).
-/
namespace Sys2Proof.Machine

/-! ### At the home (R270) -/

/-- The answer of the home to a request. -/
def vc4Answer (s : State) (m : Msg) (kind code poison : Nat) (data : List Byte) : State :=
  sendTo s m.src ⟨kind, false, s.gl.chip, 0, 0, 0, m.addr, code, poison, m.tag, data⟩

/-- Poison bits of a list of bursts. -/
def poisonBits (ps : List Bool) : Nat := bitsFrom (fun i => ps.getD i false) 64

/-- Take a request of a kind, unless its home holds it for now. -/
def withHome (s : State) (m : Msg) (kind len : Nat) (body : State → State) : State :=
  let b := baddrOf m.addr
  if m.kind ≠ kind || !msgReady s m || rangeHeld s b.space b.off len then s else body (consumeMsg s m)

/-- A remote read. -/
def homeRead (s : State) (m : Msg) : State :=
  let b := baddrOf m.addr
  if 2 ≤ b.space then vc4Answer s m 0x3C decerr 0 []
  else
    let (d, s) := rangeRead s b.space b.off m.aux 2 false
    if d.ok then vc4Answer s m 0x3C okay (poisonBits d.poison) d.data else vc4Answer s m 0x3C decerr 0 []

/-- A remote write of whole bursts, or of one burst by strobes: acknowledged when its home has performed it. A write
the home cannot perform is answered by an error response. -/
def homeWrite (s : State) (m : Msg) (strb : List Bool) : State :=
  let b := baddrOf m.addr
  if 2 ≤ b.space then vc4Answer s m 0x3C decerr 0 []
  else
    let (code, s) := ((burstSpan b.off m.data.length).zipIdx).foldl (fun (a : Nat × State) (x, i) =>
      if !memOk a.2 b.space x.1 then (decerr, a.2)
      else
        let (ok, s) := burstWrite a.2 b.space x.1 (placeIn x.2.1 ((m.data.drop (64 * i)).take 64)) strb (bitOf m.poison i) 2 false
        (if ok then a.1 else max a.1 slverr, s)) (okay, s)
    if code = okay then vc4Answer s m 0x3D 0 0 [] else vc4Answer s m 0x3C code 0 []

/-- A remote atomic. -/
def homeAtomic (s : State) (m : Msg) : State :=
  let b := baddrOf m.addr
  let n := if bitOf m.aux 4 then 8 else 4
  if b.space ≠ 1 || b.off % n ≠ 0 || !scratchOk s (b.off / 64 * 64) 64 then vc4Answer s m 0x3C decerr 0 []
  else
    let (old, pz, s) := atomicAt s b.off n (m.aux % 16) (leAt m.data 0 n) (leAt m.data n n)
    vc4Answer s m 0x3C okay (b2n pz) (leBytes n old)

/-! ### At the requester (R270, R271) -/

/-- Once every earlier request to a chip whose route changed has been answered, the requests held for it go. -/
def releaseRoute (s : State) (c : Nat) : State :=
  let held := s.port.heldVc4.filter (fun h => h.1 == c)
  if !s.port.routeHold.contains c
      || s.port.outst.any (fun o => o.chip == c && !held.any (fun h => h.2.tag == o.tag)) then s
  else
    let s := { s with port := { s.port with
      routeHold := s.port.routeHold.filter (fun x => x != c)
      heldVc4 := s.port.heldVc4.filter (fun h => h.1 != c) } }
    held.foldl (fun s h => sendTo s c h.2) s

/-- The end of a host read or atomic: data, an error of the home, or the loss of the route (R271). -/
def hostAnswer (s : State) (r : AxiReq) (off : Nat) (at_ : Bool) (code poison : Nat) (data : List Byte) : State :=
  if code = okay then
    if at_ then respond s r okay data [bitOf poison 0]
    else respond s r okay ((data.drop off).take r.len)
      ((List.range ((off + r.len - 1) / 64 + 1)).map (fun i => bitOf poison i))
  else if poison ≠ 0 && !at_ then
    let (d, s) := drawBytes s r.len
    respond s r code d (List.replicate ((off + r.len - 1) / 64 + 1) true)
  else respond s r code [] []

/-- A Quern that waits for another chip reads nothing: an address that does not exist traps as illegal, a lost or
poisoned answer as poison. -/
def quernAnswerBad (s : State) (q addr code : Nat) : State :=
  let s := qnMod s q (fun n => { n with blocked := false })
  if code = decerr then trapQ s q 1 else trapQ (consumePoison s q addr false) q 2

/-- An answer goes to whom it is for. -/
def giveAnswer (s : State) (o : Outst) (code poison : Nat) (data : List Byte) : State :=
  let good := decide (code = okay)
  let d := if good then data else []
  match o.sink with
  | .host r off => hostAnswer s r off (o.kind == 0x3B) code poison data
  | .hostWrite r => if good then s else loseWrite s r.narrow r.port o.tag
  | .leat e n => leatAnswer s e n o.addr d (bitOf poison 0)
  | .quernGet q _ off =>
    if good then getBurst s q off o.addr data (bitOf poison 0)
    else let (x, s) := drawBytes s 64; getBurst s q off o.addr x true
  | .quernAtom q r size =>
    if !(qnAt s q).blocked then s
    else if !good || bitOf poison 0 then quernAnswerBad s q o.addr code
    else completePlain (qnMod s q (fun n => { n with blocked := false })) q (fun c => setS c r (leAt data 0 size))
  | .quernWaitw q addr value eq =>
    if !(qnAt s q).blocked then
      -- the Governor's own read of the word (R134)
      if good && !bitOf poison 0 && (qnAt s q).waitw == some (addr, value, eq) && waitHolds eq (leAt data (addr % 64) 8) value then
        qnMod s q (fun n => { n with waitReady := true })
      else s
    else if !good || bitOf poison 0 then quernAnswerBad s q addr code
    else finishWaitw (qnMod s q (fun n => { n with blocked := false })) q addr (leAt data (addr % 64) 8) value eq
  | .leatWrite e n => if good then s else leatFinish s e n 2
  | .quernWrite _ _ => s
  | .bolter => bolAnswer s o.addr d (bitOf poison 0)
  | .bolterWrite => if good then s else bolMod s (fun z => { z with status := some 3 })
  | .none => s

/-- VC4 RESP and WACK: the outstanding request with the message's tag ends. -/
def takeAnswer (s : State) (m : Msg) (kind code : Nat) : State :=
  if m.kind ≠ kind || !msgReady s m then s
  else
    let s := consumeMsg s m
    match s.port.outst.find? (fun o => o.tag == m.tag) with
    | none => s
    | some o =>
      let s := { s with port := { s.port with outst := s.port.outst.filter (fun x => x.tag != m.tag) } }
      releaseRoute (giveAnswer s o code m.poison m.data) o.chip

/-! ### Bulk data (R215) -/

/-- VC5 BULK: written whole to this chip's DRAM. -/
def takeBulk (s : State) (m : Msg) : State :=
  let b := baddrOf m.addr
  (rangeWrite s 0 b.off m.data ((List.range 64).map (fun i => bitOf m.poison i)) 3 false).2.2

def execMsgVc4Rd (m : Msg) (s : State) : Out := .next (withHome s m 0x38 m.aux (fun s => homeRead s m))
def execMsgVc4Wr (m : Msg) (s : State) : Out :=
  .next (withHome s m 0x39 m.data.length (fun s => homeWrite s m (strobes 0 64)))
def execMsgVc4Wrs (m : Msg) (s : State) : Out :=
  .next (withHome s m 0x3A 64 (fun s => homeWrite s m ((List.range 64).map (fun i => bitOf m.aux i))))
def execMsgVc4Atom (m : Msg) (s : State) : Out := .next (withHome s m 0x3B 64 (fun s => homeAtomic s m))
def execMsgVc4Resp (m : Msg) (s : State) : Out := .next (takeAnswer s m 0x3C (m.aux % 4))
def execMsgVc4Wack (m : Msg) (s : State) : Out := .next (takeAnswer s m 0x3D okay)
def execMsgBulk (m : Msg) (s : State) : Out :=
  .next (if m.kind ≠ 0x40 || !msgReady s m || rangeHeld s 0 (baddrOf m.addr).off m.data.length then s
    else takeBulk (consumeMsg s m) m)

end Sys2Proof.Machine
end

