-- ==== Sys2Proof/Machine/Publish.lean ====
section
/-!
DEFINITION. Publication: short copies, ranges sent and received, weights-ready words, republication (R159, R183, R209 to
R214, R306, R331).
-/
namespace Sys2Proof.Machine

/-! ### Parts of a range (R159, R165, R210) -/

/-- A part of a shard's publication: its code in AUX, the offset its bytes count from, the first byte and the count. -/
structure PubPart where
  part : Nat
  base : Nat
  lo : Nat
  n : Nat
  deriving DecidableEq, Repr

/-- Scale index of an element of the matrix view. -/
def scaleOfElem (t : TEnt) (e : Nat) : Nat := scaleIndex t.bsize t.bdir t.cols (e / t.cols) (e % t.cols)

/-- The parts of a shard in slot p, in sending order. -/
def pubParts (t : TEnt) (p : Nat) : List PubPart :=
  let plane : PubPart := ⟨0, t.plane p, 2 * t.start, 2 * t.count⟩
  if t.short = 0xF then [plane]
  else
    let b := fmtBits t.short
    let lo := packedBytes b t.start
    let s0 := scaleOfElem t t.start
    [plane, ⟨1, t.shortPlane p, lo, packedBytes b t.fin - lo⟩,
     ⟨2, t.shortPlane p + t.scaleOff, s0, scaleOfElem t (t.fin - 1) + 1 - s0⟩]

/-- The elements of the block a scale covers, in element order, those of the shard. -/
def shortBlock (t : TEnt) (k : Nat) : List Nat :=
  let b := t.shortBlock
  let n := t.cols
  let es :=
    if t.bdir then (List.range b).filterMap (fun x => let r := k / n * b + x; if r < t.rows then some (r * n + k % n) else none)
    else
      let per := ceilDiv n b
      (List.range b).filterMap (fun x => let c := k % per * b + x; if c < n then some (k / per * n + c) else none)
  es.filter (fun e => decide (t.start ≤ e) && decide (e < t.fin))

/-- The first element a byte of a part carries: of a scale, the first element of its block. -/
def partElem (t : TEnt) (part at_ : Nat) : Nat :=
  match part with
  | 0 => at_ / 2
  | 1 => at_ * 8 / fmtBits t.short
  | _ => (shortBlock t at_).headD 0

/-- The byte of a part at which an element stands. -/
def partByte (t : TEnt) (part e : Nat) : Nat :=
  match part with
  | 0 => 2 * e
  | 1 => packedBytes (fmtBits t.short) e
  | _ => scaleOfElem t e

/-- Data bytes of one message: at most 4096, whole groups of four 6-bit elements. -/
def partStep (t : TEnt) (part : Nat) : Nat := if part = 1 && fmtBits t.short == 6 then 4095 else 4096

/-! ### Forming and sending (R183, R210) -/

/-- Form the short copy of a shard for the slot step st + 1 reads (R183, R306, R211). -/
def convertShort (s : State) (t : TEnt) (st seed : Nat) : State :=
  let p := st + 1
  let (ws, bad, s) := readMasters s t p
  let xs := (ws.map srcOf).toArray
  let draws := if t.pubSr then (sailDraws seed 0 (0x100000 + t.id) st 0 t.count).toArray else #[]
  let s0 := scaleOfElem t t.start
  let n := scaleOfElem t (t.fin - 1) + 1 - s0
  let blocks := (List.range n).map (fun k =>
    let es := shortBlock t (s0 + k)
    (es, blockConvert (es.map (fun e => xs.getD (e - t.start) ⟨.fin false 0 0, some 0⟩)) none t.short
      (if t.pubSr then .sr else .attr .rne) (es.map (fun e => draws.getD (e - t.start) 0))))
  let codes := blocks.foldl (fun (a : Array Nat) b =>
    (b.1.zip b.2.codes).foldl (fun a x => a.setIfInBounds (x.1 - t.start) x.2) a) (Array.replicate t.count 0)
  let put (s : State) (x : PubPart) (bs : List Byte) : State :=
    (rangeWrite s 0 (x.base + x.lo) bs ((burstSpan (x.base + x.lo) bs.length).map (fun _ => bad.isSome)) 1 false).2.2
  let s := match pubParts t p with
    | [_, c, z] => put (put s c (packElems (fmtBits t.short) codes.toList)) z (blocks.map (fun b => BitVec.ofNat 8 b.2.scale))
    | _ => s
  let s := regOr s oTrFlags (flagsOr (blocks.map (fun b => b.2.flags))).toNat
  bumpBy s oTrUfbCnt (blocks.filter (fun b => b.2.under)).length

/-- Send one part of a range as PUB messages. -/
def sendPart (s : State) (t : TEnt) (st att : Nat) (x : PubPart) : State :=
  let per := partStep t x.part
  (List.range (ceilDiv x.n per)).foldl (fun s k =>
    let at_ := x.lo + k * per
    let n := min per (x.n - k * per)
    let (d, s) := rangeRead s 0 (x.base + at_) n 1 false
    if !d.ok then { s with pub := { s.pub with err := true } }
    else
      let m : Msg := ⟨0x30, false, s.gl.chip, t.epoch, st, att, partElem t x.part at_, t.id + x.part * 2 ^ 20,
        piecePoison (x.base + at_) n d.poison, 0, d.data⟩
      let s := { s with gl := { s.gl with out := s.gl.out.filter (fun o => !(o.pub && o.m.addr == m.addr && o.m.aux == m.aux)) } }
      multicast s (regGet s oGlPubGroup % 256) m) s

/-! ### Receiving (R209) -/

/-- Bytes of a shard's publication. -/
def pubTotal (t : TEnt) : Nat := ((pubParts t 0).map (fun x => x.n)).foldl (· + ·) 0

/-- Note bytes of an entry as written here; a part noted before counts once. -/
def noteGot (s : State) (st i key n : Nat) : State :=
  if s.pub.got.any (fun g => g.1 == st && g.2.1 == i && g.2.2.1 == key) then s
  else { s with pub := { s.pub with got := s.pub.got ++ [(st, i, key, n)] } }

/-- Whether every part of an entry of the committed step is written here. -/
def entryGot (s : State) (i : Nat) : Bool :=
  decide (pubTotal (tentOf (s.pub.tt.getD i []))
    ≤ ((s.pub.got.filter (fun g => g.1 == s.pub.s && g.2.1 == i)).map (fun g => g.2.2.2)).foldl (· + ·) 0)

/-- Write the weights-ready word of each layer that has become complete (R209). -/
def pubReady (s : State) : State :=
  let ix := List.range s.pub.tt.length
  let layerOf (i : Nat) : Nat := (tentOf (s.pub.tt.getD i [])).layer
  ((ix.map layerOf).eraseDups).foldl (fun s l =>
    if s.pub.readyLayers.contains l || !(ix.filter (fun i => layerOf i == l)).all (entryGot s) then s
    else
      let s := scrWrite s (baseOf s oPubReadyBase + 8 * l) (leBytes 8 (s.pub.s + 1))
      { s with pub := { s.pub with readyLayers := s.pub.readyLayers ++ [l] } }) s

/-- A PUB message: its data into the same range of this chip's plane (s + 1) mod 2. -/
def takePub (s : State) (m : Msg) (i : Nat) : State :=
  let t := tentOf ((tableFor s m).getD i [])
  let part := fieldOf m.aux 21 20
  match (pubParts t (m.step + 1)).find? (fun x => x.part == part) with
  | none => s
  | some x =>
    let off := x.base + partByte t part (msgFirst m)
    let marks := (burstSpan off m.data.length).map (fun y =>
      let lo := y.1 + y.2.1 - off
      bitOf m.poison (lo / 64) || bitOf m.poison ((lo + y.2.2 - 1) / 64))
    let s := (rangeWrite s 0 off m.data marks 1 false).2.2
    let s := noteGot s m.step i (part * 2 ^ 48 + msgFirst m) m.data.length
    if isCommitted s m then pubReady s else s

/-! ### The Tailrace's rows (R210 to R213) -/

/-- PUBLISH_RANGE: the next range is formed and sent. -/
def publishRange (s : State) : State :=
  match s.pub.todo with
  | [] => s
  | r :: rest =>
    if s.pub.susp.isSome || s.pub.preempt || s.fh.sepia || s.gov.pfActive then s
    else
      let t := tentOf (s.pub.tt.getD r.entry [])
      let s := { s with pub := { s.pub with todo := rest, tensor := t.id } }
      let s := if t.short = 0xF then s else convertShort s t r.s s.pub.seed
      let s := (pubParts t (r.s + 1)).foldl (fun s x => sendPart s t r.s s.pub.attempt x) s
      let s := noteGot s r.s r.entry (3 * 2 ^ 48) (pubTotal t)
      let s := if r.republish then bump s oTrRepubCnt else s
      pubReady s

/-- Ranges whose messages are not acknowledged on every child link. -/
def pubUnacked (s : State) : Bool := s.gl.out.any (fun o => o.pub)

/-- PUBLISH_DONE: own sends complete and every layer ready; PUBLISH then ends at the next boundary (R192). -/
def publishDone (s : State) : State :=
  let layers := (s.pub.tt.map (fun b => (tentOf b).layer)).eraseDups
  if !s.pub.busy || !s.pub.todo.isEmpty || pubUnacked s || !layers.all (fun l => s.pub.readyLayers.contains l) then s
  else
    let s := { s with pub := { s.pub with busy := false }, work := { s.work with tPub := none } }
    if s.step.state = 6 then { s with step := { s.step with move := some 7 } } else s

/-- Owned ranges of the committed table in the order of R209, those a test picks. -/
def ownRanges (s : State) (tt : List (List Byte)) (pick : TEnt → Bool) : List Nat :=
  let ent (i : Nat) : TEnt := tentOf (tt.getD i [])
  sortBy (fun i j =>
    let a := ent i
    let b := ent j
    decide (a.layer < b.layer) || (a.layer == b.layer && (decide (a.id < b.id) || (a.id == b.id && decide (a.start ≤ b.start)))))
    ((List.range tt.length).filter (fun i => (ent i).owner == s.gl.chip && pick (ent i)))

/-- Whether a republication is accepted (R212). -/
def repubOk (s : State) : Bool := !s.pub.tt.isEmpty && stepNext s == s.pub.s + 1 && s.step.state != 4

/-- Republish owned ranges. -/
def republish (s : State) (is : List Nat) : State :=
  { s with pub := { s.pub with todo := s.pub.todo ++ is.map (fun i => (⟨i, s.pub.s, true⟩ : PubRange)) } }

/-- TR_REPUB (R212): bit 31 GO, [19:0] the tensor. -/
def trRepub (s : State) (w : Nat) : State :=
  if !bitOf w 31 then s
  else
    let is := ownRanges s s.pub.tt (fun t => t.id == w % 2 ^ 20)
    if repubOk s && !is.isEmpty then republish s is else { s with pub := { s.pub with err := true } }

def execPublishRange (s : State) : Out := .next (publishRange s)
def execPublishDone (s : State) : Out := .next (publishDone s)
def execTrRepub (w : Nat) (s : State) : Out := .next (trRepub s w)
def execMsgPub (m : Msg) (s : State) : Out :=
  .next (if m.kind ≠ 0x30 then s else withRole s m (isCurrent s m || isCommitted s m) (fun s i => takePub s m i))

end Sys2Proof.Machine
end

