-- ==== Sys2Proof/Machine/Copy.lean ====
section
/-!
DEFINITION. Checkpoints, exports, digests, replay, and requests to send again (R166, R184 to R187, R215 to R219, R331,
R352).
-/
namespace Sys2Proof.Machine

/-- Bytes with the poison mark of the burst each came from. -/
abbrev Marked := List (Byte × Bool)

def plain (bs : List Byte) : Marked := bs.map (fun b => (b, false))
def bytesOf (m : Marked) : List Byte := m.map (fun x => x.1)
def anyMark (m : Marked) : Bool := m.any (fun x => x.2)
/-- Zeros up to a multiple of n. -/
def padMarked (n : Nat) (m : Marked) : Marked := m ++ plain (zeroBytes (roundUp m.length n - m.length))

/-- Bytes of DRAM read as class 3 traffic. -/
def readMarked (s : State) (off n : Nat) : Marked × State :=
  let (d, s) := rangeRead s 0 off n 3 false
  ((padTo n d.data).zipIdx.map (fun (b, i) => (b, !d.ok || d.poison.getD ((off % 64 + i) / 64) false)), s)

/-- A field of the state pages over the shard (R161, R162). -/
def fieldMarked (s : State) (t : TEnt) (slot k : Nat) : Marked × State :=
  (pagesOf t).foldl (fun (a : Marked × State) p =>
    let (m, s) := readMarked a.2 (slot + page64k * p.1 + (fieldAt t.compact k).1) (fieldLen t.compact k p.2)
    (a.1 ++ m, s)) ([], s)

/-! ### Records (R163, R166, R185, R186) -/

/-- The boxes of a shard in row-major order, as coordinate pairs (R166). -/
def boxes : List Nat → Nat → Nat → List (List (Nat × Nat))
  | [], _, _ => []
  | [_], a, b => if a < b then [[(a, b)]] else []
  | _ :: ds, a, b =>
    let st := ds.foldl (· * ·) 1
    if a / st = (b - 1) / st then (boxes ds (a % st) (b - a / st * st)).map (fun x => (a / st, a / st + 1) :: x)
    else
      (if a % st = 0 then [] else (boxes ds (a % st) st).map (fun x => (a / st, a / st + 1) :: x))
        ++ (if ceilDiv a st < b / st then [(ceilDiv a st, b / st) :: ds.map (fun d => (0, d))] else [])
        ++ (if b % st = 0 then [] else (boxes ds 0 (b % st)).map (fun x => (b / st, b / st + 1) :: x))

/-- A range entry of 32 bytes. -/
def rangeEntry (x : List (Nat × Nat)) : List Byte := padTo 32 (x.flatMap (fun p => leBytes 4 p.1 ++ leBytes 4 p.2))

/-- Page form of a shard (R163). -/
def formOf (t : TEnt) : Nat := if t.custom then 2 else b2n t.compact

/-- Fields a shard has. -/
def fieldsOf (t : TEnt) (hs : List Byte) : Nat :=
  if t.custom then 0x21 else 0x0F + (if t.auxBytes hs = 0 then 0 else 0x10)

/-- Fields a recipe uses (R164, R215). -/
def usedFields (t : TEnt) (hs : List Byte) : Nat :=
  if t.custom then 0x21
  else 3 + 4 * b2n (usesM t.recipe) + 8 * b2n (usesV t.recipe) + (if t.auxBytes hs = 0 then 0 else 0x10)

/-- The field arrays a mask names, of the slot of parity p (R185). -/
def fieldArrays (s : State) (t : TEnt) (hs : List Byte) (p mask : Nat) : Marked × State :=
  let slot := t.slot p
  let add (on : Bool) (rd : State → Marked × State) (a : Marked × State) : Marked × State :=
    if on then (let (m, s) := rd a.2; (a.1 ++ padMarked 64 m, s)) else a
  let a := add (bitOf mask 0) (fun s => readMarked s (t.plane p + 2 * t.start) (2 * t.count)) ([], s)
  let a := add (bitOf mask 1) (fun s => fieldMarked s t slot 0) a
  let a := add (bitOf mask 2) (fun s => fieldMarked s t slot 1) a
  let a := add (bitOf mask 3) (fun s =>
    let (v, s) := fieldMarked s t slot 2
    if t.compact then (let (x, s) := fieldMarked s t slot 3; (v ++ x, s)) else (v, s)) a
  let a := add (bitOf mask 4) (fun s => readMarked s (slot + stateBytes s t) (t.auxBytes hs)) a
  add (bitOf mask 5) (fun s => readMarked s slot (customStateBytes s t.recipe * t.count)) a

/-- An HSX version 2 record of a shard for the step that reads the slot (R185). -/
def hsxRecord (s : State) (t : TEnt) (hs : List Byte) (st mask : Nat) : Marked × State :=
  let mask := mask &&& fieldsOf t hs
  let bx := boxes (t.dims.take t.ndim) t.start t.fin
  let (arrays, s) := fieldArrays s t hs st mask
  let body := plain (bx.flatMap rangeEntry) ++ arrays
  let head := leBytes 4 0x48535832 ++ leBytes 2 2 ++ leBytes 1 t.ndim ++ leBytes 1 mask ++ leBytes 4 t.id ++ leBytes 1 t.recipe
    ++ leBytes 1 (formOf t) ++ leBytes 2 bx.length ++ leBytes 8 st ++ t.dims.flatMap (leBytes 4) ++ leBytes 8 t.start
    ++ leBytes 8 t.fin ++ leBytes 2 t.epoch ++ leBytes 2 t.owner
    ++ leBytes 4 (if bitOf mask 4 then roundUp (t.auxBytes hs) 64 else 0) ++ leBytes 8 body.length ++ leBytes 4 (crc32c (bytesOf body))
  (plain (head ++ leBytes 4 (crc32c head) ++ zeroBytes 48) ++ body, s)

/-- A working-format record of a whole tensor (R186). -/
def h3wRecord (s : State) (t : TEnt) (st : Nat) : Marked × State :=
  let (d, s) := readMarked s (t.plane st) (2 * t.total)
  (plain (leBytes 4 0x48335746 ++ leBytes 1 1 ++ leBytes 1 t.ndim ++ zeroBytes 2 ++ leBytes 4 t.id ++ t.dims.flatMap (leBytes 4)
    ++ leBytes 4 (crc32c (bytesOf d))) ++ padMarked 64 d, s)

/-! ### Where a copy goes -/

/-- Write bytes at a block address, or send them there on VC5 in messages of at most 4096 bytes (R215). `aux` names the
record for a RESEND. -/
def putCopy (s : State) (dest aux st : Nat) (m : Marked) : State :=
  let b := baddrOf dest
  if isRemote s dest then
    (List.range (ceilDiv m.length 4096)).foldl (fun s k =>
      let part := (m.drop (4096 * k)).take 4096
      let pz := bitsFrom (fun u => anyMark ((part.drop (64 * u)).take 64)) 64
      sendTo s b.chip ⟨0x40, false, s.gl.chip, 0, st, 0, dest + 4096 * k, aux, pz, 0, bytesOf part⟩) s
  else
    let marks := (burstSpan b.off m.length).map (fun y => anyMark ((m.drop (y.1 + y.2.1 - b.off)).take y.2.2))
    (rangeWrite s b.space b.off (bytesOf m) marks 3 false).2.2

/-- AUX of a BULK message: copy (0 checkpoint, 1 export, 2 slot region, 3 plane range), entry, and its record's address in 64-byte units
(log 33). -/
def bulkAux (copy entry base : Nat) : Nat := entry % 2 ^ 17 + copy * 2 ^ 17 + (base % 2 ^ 47) / 64 * 2 ^ 19

/-! ### Checkpoint (R215 to R217) -/

/-- Block address of the area a checkpoint is written to, at the buddy, and locally. -/
def ckptBuddyAddr (s : State) : Nat :=
  2 ^ 63 + regGet s oCkptBuddy % 2 ^ 14 * 2 ^ 49 + (regGet s oCkptDest + s.copy.ckptArea * regGet s oCkptArea) % 2 ^ 31 * page64k
def ckptLocalAddr (s : State) : Nat := (regGet s oCkptLocal + s.copy.ckptArea * regGet s oCkptArea) % 2 ^ 31 * page64k

/-- Write a piece of the checkpoint at an offset of its area. -/
def ckptPut (s : State) (off entry : Nat) (m : Marked) : State :=
  let a := ckptBuddyAddr s + off
  let s := putCopy s a (bulkAux 0 entry a) (s.copy.ckptW - 1) m
  if bitOf (regGet s oCkptCtl) 16 then putCopy s (ckptLocalAddr s + off) 0 0 m else s

/-- Whether the buddy can be reached. -/
def buddyUp (s : State) : Bool := reachable s (regGet s oCkptBuddy % 2 ^ 14)

/-- The copy stops when the buddy is unreachable (R217). -/
def ckptStop (s : State) : State :=
  let link := (routeOf s (regGet s oCkptBuddy % 2 ^ 14)).1
  event { s with copy := { s.copy with ckptBusy := false, ckptFail := true, ckptTodo := [] } } 0xB (unitLink link) 0
    (regGet s oCkptBuddy % 2 ^ 14) 0

/-- Copy the next shard of the checkpoint. -/
def ckptNext (s : State) : State :=
  match s.copy.ckptTodo with
  | [] => s
  | i :: rest =>
    if !buddyUp s then ckptStop s
    else
      let t := tentOf (s.copy.ckptTt.getD i [])
      let (m, s) := hsxRecord s t s.copy.ckptHs (s.copy.ckptW - 1) (usedFields t s.copy.ckptHs)
      let s := ckptPut s s.copy.ckptOff i m
      { s with copy := { s.copy with ckptTodo := rest, ckptOff := s.copy.ckptOff + m.length } }

/-- The completion record. -/
def completion (st count : Nat) : List Byte :=
  let h := leBytes 4 0x434B5054 ++ leBytes 8 st ++ leBytes 4 count
  padTo 64 (h ++ leBytes 4 (crc32c h))

/-- CHECKPOINT_DONE: the records not yet copied, then the completion record. -/
def checkpointDone (s : State) : State :=
  let s := (List.range s.copy.ckptTodo.length).foldl (fun s _ => ckptNext s) s
  if !s.copy.ckptBusy then s
  else if !buddyUp s then ckptStop s
  else
    let st := s.copy.ckptW - 1
    let count := (ownRanges s s.copy.ckptTt (fun _ => true)).length
    let s := ckptPut s s.copy.ckptOff (2 ^ 17 - 1) (plain (completion st count))
    { s with copy := { s.copy with ckptBusy := false, ckptStep := st % 2 ^ 24 } }

/-- At the commit of a checkpoint step s the copy of the slot step s + 1 reads begins; one still running is ended first
(log 34). -/
def startCheckpoint (s : State) (st : Nat) : State :=
  let k := regGet s oCkptCtl % 2 ^ 16
  if k = 0 || (st + 1) % k ≠ 0 then s
  else
    let s := if s.copy.ckptBusy then checkpointDone s else s
    { s with copy := { s.copy with
      ckptBusy := true
      ckptFail := false
      ckptArea := (st + 1) / k % 2
      ckptW := st + 2
      ckptTodo := sortBy (unitBefore s) (ownedIx s)
      ckptOff := 0
      ckptTt := s.work.tt
      ckptHs := s.work.hsets } }

/-! ### Export (R184 to R187) -/

/-- Whether a step is open, so that the sampled tables are in force. -/
def stepHolds (s : State) : Bool := decide (1 ≤ s.step.state) && decide (s.step.state ≤ 5)

/-- EXPORT_START: PS_EXP_CTL.START. -/
def exportStart (s : State) : State :=
  let ctl := regGet s oPsExpCtl
  if s.copy.expBusy then { s with copy := { s.copy with expErr := true, expCode := 1 } }
  else if 2 ≤ ctl % 4 then { s with copy := { s.copy with expErr := true, expCode := 2 } }
  else
    let tt := if stepHolds s then s.work.tt else liveTable s
    let lo := regGet s oPsExpFirst % 2 ^ 20
    let hi := regGet s oPsExpLast % 2 ^ 20
    let ent (i : Nat) : TEnt := tentOf (tt.getD i [])
    let pick (i : Nat) : Bool := decide (lo ≤ (ent i).id) && decide ((ent i).id ≤ hi)
      && (if ctl % 4 = 1 then decide ((List.range i).all (fun j => (ent j).id != (ent i).id)) else (ent i).owner == s.gl.chip)
    let order (i j : Nat) : Bool :=
      decide ((ent i).id < (ent j).id) || ((ent i).id == (ent j).id && decide ((ent i).start ≤ (ent j).start))
    { s with copy := { s.copy with
      expBusy := true
      expErr := false
      expCode := 0
      expRecords := 0
      expStep := stepNext s
      expW := stepNext s + 1
      expTodo := sortBy order ((List.range tt.length).filter pick)
      expOff := 0
      expTt := tt
      expHs := if stepHolds s then s.work.hsets else liveSets s
      expDest := regGet s oPsExpDestLo + regGet s oPsExpDestHi * 2 ^ 32
      expFormat := ctl % 4
      expFields := fieldOf ctl 7 2 } }

/-- Whether a record may be written at a block address: local memory that exists, or the DRAM of a chip with a route. -/
def expLands (s : State) (a n : Nat) : Bool :=
  let b := baddrOf a
  if isRemote s a then b.space == 0 && (routeLink s b.chip).isSome
  else decide (b.space < 2) && (burstSpan b.off n).all (fun x => memOk s b.space x.1)

/-- The publication of a tensor's layer has completed here (R186). -/
def layerPublished (s : State) (t : TEnt) : Bool := !s.pub.busy || s.pub.readyLayers.contains t.layer

/-- Export the next record; poison is copied and reported, a destination that cannot be written ends the export. -/
def expNext (s : State) : State :=
  match s.copy.expTodo with
  | [] => s
  | i :: rest =>
    let t := tentOf (s.copy.expTt.getD i [])
    if s.copy.expFormat = 1 && !layerPublished s t then s
    else
      let (m, s) := if s.copy.expFormat = 1 then h3wRecord s t s.copy.expStep
        else hsxRecord s t s.copy.expHs s.copy.expStep s.copy.expFields
      let a := s.copy.expDest + s.copy.expOff
      if !expLands s a m.length then
        { s with copy := { s.copy with expBusy := false, expErr := true, expCode := 4, expTodo := [] } }
      else
        let s := putCopy s a (bulkAux 1 i a) (s.copy.expW - 1) m
        let bad := anyMark m
        { s with copy := { s.copy with
          expTodo := rest
          expOff := s.copy.expOff + m.length
          expRecords := (s.copy.expRecords + 1) % 2 ^ 24
          expErr := s.copy.expErr || bad
          expCode := if bad then 3 else s.copy.expCode } }

/-- EXPORT_DONE: the records not yet written; BUSY clears after the last. -/
def exportDone (s : State) : State :=
  let s := (List.range s.copy.expTodo.length).foldl (fun s _ => expNext s) s
  if s.copy.expTodo.isEmpty then { s with copy := { s.copy with expBusy := false } } else s

/-- CKPT_WAIT_END: the copies that hold a unit reach it, and its waiting update proceeds (R184, R217). -/
def waitEnd (s : State) (i : Nat) : State :=
  let go (f : State → State) (n : Nat) (s : State) : State := (List.range n).foldl (fun s _ => if copyHolds s i then f s else s) s
  let s := go ckptNext s.copy.ckptTodo.length s
  let s := go expNext s.copy.expTodo.length s
  ckptWaitEnd s i

/-! ### Replay (R218) -/

/-- Replay a built-in or custom unit of the open step. -/
def replayOpen (s : State) (i : Nat) (u : FwUnit) : State :=
  if !u.final || !u.updated then s
  else if (sampled s i).custom then
    let s := unitMod s i (fun u => { u with updated := false, judged := false })
    { s with work := { s.work with refreshed := s.work.refreshed.filter (fun j => j != i) } }
  else
    let again := s.work.refreshed.contains i
    let s := runUpdate (unitMod s i (fun u => { u with updated := false, judged := false })) i u.redo
    let s := if again then refreshEntry { s with work := { s.work with refreshed := s.work.refreshed.filter (fun j => j != i) } } i else s
    if u.phase2 then phase2 s i else s

/-- The state as the Governor sees it when it replays the committed step: its tables and number, no marks. -/
def committedView (s : State) (i : Nat) : State :=
  { s with
    step := { s.step with state := 6, s := s.pub.s, earlySent := false, ovf := false, flt := false }
    work := { WorkSt.reset with tt := s.pub.tt, hsets := s.pub.hs, norm := s.work.norm, units := [{ unitNew i with final := true }] } }

/-- Replay a unit of the committed step and publish its ranges again. -/
def replayCommitted (s : State) (i : Nat) : State :=
  let v := committedView s i
  let t := sampled v i
  if t.owner ≠ s.gl.chip || copyHolds v i then s
  else if t.custom then { s with pub := { s.pub with replay := if s.pub.replay.contains i then s.pub.replay else s.pub.replay ++ [i] } }
  else
    let v := runUpdate v i false
    let v := if needsRefresh v i then refreshEntry v i else v
    let lt := scrNat v (baseOf v oPsFactorBase + 0x8000 + 4 * (4096 * (v.step.s % 2) + t.ngrp)) 4
    let v := if t.recipe = 3 then lambPhase2 v i lt else v
    let fails := v.fh.plaus.filter (fun h => !s.fh.plaus.contains h)
    republish { v with
      step := s.step
      work := s.work
      fh := { v.fh with plaus := v.fh.plaus.filter (fun h => !fails.contains h) } } [i]

/-- Whether the committed step may still be replayed for an entry: its successor has not finalised the unit. -/
def replayable (s : State) (i : Nat) : Bool :=
  !s.pub.tt.isEmpty && stepNext s == s.pub.s + 1 && decide (i < s.pub.tt.length)
    && (s.step.state == 0 || s.step.state == 6 || s.step.s == s.pub.s + 1)
    && !s.work.units.any (fun u => u.final && sameShard s.pub.tt i (sampled s u.entry))

/-- REPLAY of an entry. -/
def replay (s : State) (i : Nat) : State :=
  match (if s.step.state = 2 || s.step.state = 3 then unitAt s i else none) with
  | some u => if u.final then replayOpen s i u else if replayable s i then replayCommitted s i else s
  | none => if replayable s i then replayCommitted s i else s

/-! ### Digests (R219, R352) -/

/-- The digest of the two arrays read (R219). -/
def digestBoth (a : Marked) (b : Marked × State) : Nat × State := (crc64 (bytesOf a ++ bytesOf b.1), b.2)

/-- A shard's digest once its plane is read: the slot's bytes follow (R219). -/
def digestSlot (t : TEnt) (p : Nat) (a : Marked × State) : Nat × State :=
  digestBoth a.1 (readMarked a.2 (t.slot p) (slotBytes a.2 a.2.pub.hs t))

/-- The digest of an owned shard of the committed slot. -/
def shardDigest (s : State) (i : Nat) : Nat × State :=
  digestSlot (tentOf (s.pub.tt.getD i [])) (s.pub.s + 1) (readMarked s ((tentOf (s.pub.tt.getD i [])).plane (s.pub.s + 1)
    + 2 * (tentOf (s.pub.tt.getD i [])).start) (2 * (tentOf (s.pub.tt.getD i [])).count))

def setOwnDigest (s : State) (i d : Nat) : State :=
  { s with copy := { s.copy with digOwn := s.copy.digOwn.filter (fun x => x.1 != i) ++ [(i, d)] } }

/-- Send a digest to every peer owner; `round` 1 after a replay (log 35). -/
def sendDigest (s : State) (i d round : Nat) : State :=
  let t := tentOf (s.pub.tt.getD i [])
  let peers := ((List.range (replicas s + 1)).filter (fun g => g != replica s)).map (fun g => Config.peerOwner t.id t.start g % 2 ^ 14)
  peers.foldl (fun s c => sendTo s c
    ⟨0x0D, false, s.gl.chip, t.epoch, s.pub.s, s.pub.attempt, t.start, t.id + round * 2 ^ 20, 0, 0, leBytes 8 d⟩) s

/-- The digests of a shard have been compared. -/
def digestDone (s : State) (i : Nat) : State :=
  { s with copy := { s.copy with
    digOwn := s.copy.digOwn.filter (fun x => x.1 != i)
    digPeer := s.copy.digPeer.filter (fun x => x.1 != i)
    digAgain := s.copy.digAgain.filter (fun j => j != i)
    digDue := s.copy.digDue.filter (fun j => j != i) } }

/-- Digests of peer owners of a round: chip and digest. -/
def peersOf (s : State) (i round : Nat) : List (Nat × Nat) :=
  (s.copy.digPeer.filter (fun x => x.1 == i && x.2.1 / 2 ^ 14 == round)).map (fun x => (x.2.1 % 2 ^ 14, x.2.2))

/-- The value more than half of the owners hold, with R ≥ 3. -/
def majorityOf (own : Nat) (peers : List (Nat × Nat)) : Option Nat :=
  let all := own :: peers.map (fun x => x.2)
  if all.length < 3 then none else all.find? (fun v => decide (all.length < 2 * (all.filter (fun x => x == v)).length))

/-- Disagreement that remains is fatal (R352). -/
def digestFatal (s : State) (i own : Nat) (peer : Nat × Nat) : State :=
  let s := { s with fh := { s.fh with
    fatal := true
    fatalOwn := own
    fatalPeer := peer.2
    fatalTensor := (tentOf (s.pub.tt.getD i [])).id
    fatalChip := peer.1 } }
  markWith s 6 false true

/-- Ask a majority owner for the shard: where the slot region and the plane range go (log 33). -/
def askShard (s : State) (i chip : Nat) : State :=
  let t := tentOf (s.pub.tt.getD i [])
  let p := s.pub.s + 1
  sendTo s chip ⟨0x0E, false, s.gl.chip, t.epoch, s.pub.s, s.pub.attempt, t.start, t.id + 0x0D * 2 ^ 56, 0, 0,
    leBytes 8 (t.slot p) ++ leBytes 8 (t.plane p + 2 * t.start)⟩

/-- After a replay by a replica in the minority: done where the digest now agrees, else the shard is asked for (R352). -/
def digestRedo (i v : Nat) (peers : List (Nat × Nat)) (a : Nat × State) : State :=
  let s := setOwnDigest a.2 i a.1
  if a.1 = v then digestDone s i else askShard s i ((peers.find? (fun x => x.2 == v)).elim 0 (fun x => x.1))

/-- After a replay without a majority: the second round is opened (R352, log 35). -/
def digestSecond (i : Nat) (a : Nat × State) : State :=
  let s := setOwnDigest a.2 i a.1
  sendDigest { s with copy := { s.copy with digAgain := s.copy.digAgain ++ [i] } } i a.1 1

/-- Compare the digests of a shard once every owner's is in (R219, R352). -/
def digestJudge (s : State) (i : Nat) : State :=
  match s.copy.digOwn.find? (fun x => x.1 == i) with
  | none => s
  | some (_, own) =>
    let round := b2n (s.copy.digAgain.contains i)
    let peers := peersOf s i round
    if !s.copy.digDue.contains i || peers.length < replicas s then s
    else match peers.find? (fun x => x.2 != own) with
      | none => digestDone s i
      | some bad =>
        let u := unitQuern (unitQuernIx s i)
        let s := event (bump s oDigestMismatchCnt) 0xA u own bad.2 round
        if round = 1 then digestDone (digestFatal s i own bad) i
        else match majorityOf own peers with
          | some v =>
            if v = own then digestDone s i else digestRedo i v peers (shardDigest (replayCommitted (gradeMinor s u) i) i)
          | none => digestSecond i (shardDigest (replayCommitted s i) i)

/-- DIGEST_COMPUTE: a digest per owned shard, sent to its peer owners; one formed before is formed again, and compared
with the digests held. -/
def digestCompute (s : State) : State :=
  s.copy.digDue.foldl (fun s i =>
    let (d, s) := shardDigest s i
    if s.copy.digOwn.any (fun x => x.1 == i) then
      let s := setOwnDigest s i d
      let peers := peersOf s i (b2n (s.copy.digAgain.contains i))
      if decide (replicas s ≤ peers.length) && (peers.all (fun x => x.2 == d) || majorityOf d peers == some d) then digestDone s i else s
    else digestJudge (sendDigest (setOwnDigest s i d) i d 0) i) s

/-- Digests fall due at the commit of a digest step (R219). -/
def startDigests (s : State) (st : Nat) : State :=
  let d := regGet s oDigestCtl % 2 ^ 16
  if d = 0 || replicas s = 0 || (st + 1) % d ≠ 0 then s
  else { s with copy := { s.copy with digDue := ownedIx s, digOwn := [], digAgain := [] } }

/-- A DIGEST message: held until it can be compared. -/
def takeDigest (s : State) (m : Msg) (i : Nat) : State :=
  let key := m.src + fieldOf m.aux 20 20 * 2 ^ 14
  let s := { s with copy := { s.copy with
    digPeer := s.copy.digPeer.filter (fun x => !(x.1 == i && x.2.1 == key)) ++ [(i, key, leAt m.data 0 8)] } }
  let s := digestJudge s i
  if s.copy.digAgain.contains i then digestJudge s i else s

/-! ### Requests to send again (R331, R352) -/

/-- A record of a copy sent again whole. -/
def recopy (s : State) (m : Msg) : State :=
  let i := m.aux % 2 ^ 17
  let copy := fieldOf m.aux 18 17
  let base := m.addr / 2 ^ 47 * 2 ^ 47 + fieldOf m.aux 55 19 * 64
  if copy = 0 && m.step + 1 = s.copy.ckptW then
    if i = 2 ^ 17 - 1 then
      putCopy s base (bulkAux 0 i base) m.step (plain (completion m.step (ownRanges s s.copy.ckptTt (fun _ => true)).length))
    else
      let t := tentOf (s.copy.ckptTt.getD i [])
      let (r, s) := hsxRecord s t s.copy.ckptHs m.step (usedFields t s.copy.ckptHs)
      putCopy s base (bulkAux 0 i base) m.step r
  else if copy = 1 && m.step + 1 = s.copy.expW then
    let t := tentOf (s.copy.expTt.getD i [])
    let (r, s) := if s.copy.expFormat = 1 then h3wRecord s t m.step else hsxRecord s t s.copy.expHs m.step s.copy.expFields
    putCopy s base (bulkAux 1 i base) m.step r
  else if 2 ≤ copy && isCommitted s m then
    let t := tentOf (s.pub.tt.getD i [])
    let p := s.pub.s + 1
    let (r, s) := if copy = 2 then readMarked s (t.slot p) (slotBytes s s.pub.hs t) else readMarked s (t.plane p + 2 * t.start) (2 * t.count)
    putCopy s base (bulkAux copy i base) m.step r
  else s

/-- Send what was read to a block address (R352). -/
def putRead (dest aux step : Nat) (a : Marked × State) : State := putCopy a.2 dest aux step a.1

/-- The committed slot region and plane range of a shard sent to a minority owner (R352). -/
def sendShard (s : State) (m : Msg) : State :=
  match entryFor s.pub.tt m with
  | none => s
  | some i =>
    let t := tentOf (s.pub.tt.getD i [])
    let p := s.pub.s + 1
    let dest (off : Nat) : Nat := 2 ^ 63 + m.src * 2 ^ 49 + off % 2 ^ 47
    let slot := dest (leAt m.data 0 8)
    let plane := dest (leAt m.data 8 8)
    let s := putRead slot (bulkAux 2 i slot) m.step (readMarked s (t.slot p) (slotBytes s s.pub.hs t))
    putRead plane (bulkAux 3 i plane) m.step (readMarked s (t.plane p + 2 * t.start) (2 * t.count))

/-- RESEND: the range is republished, the record recopied, or the shard sent (R331, R352, log 15). -/
def takeResend (s : State) (m : Msg) : State :=
  match m.aux / 2 ^ 56 % 256 with
  | 0x30 =>
    if repubOk s && isCommitted s m then
      republish s (ownRanges s s.pub.tt (fun t => t.id == msgTensor m && decide (t.start ≤ msgFirst m) && decide (msgFirst m < t.fin)))
    else s
  | 0x40 => recopy s m
  | 0x0D => if isCommitted s m then sendShard s m else s
  | _ => s

def execCkptWaitEnd (entry : Nat) (s : State) : Out := .next (waitEnd s entry)
def execCheckpointDone (s : State) : Out := .next (checkpointDone s)
def execExportStart (s : State) : Out := .next (exportStart s)
def execExportDone (s : State) : Out := .next (exportDone s)
def execDigestCompute (s : State) : Out := .next (digestCompute s)
def execReplay (entry : Nat) (s : State) : Out := .next (replay s entry)
def execMsgDigest (m : Msg) (s : State) : Out :=
  .next (if m.kind ≠ 0x0D then s else withRole s m (isCurrent s m || isCommitted s m) (fun s i => takeDigest s m i))
def execMsgResend (m : Msg) (s : State) : Out := .next (withAny s m 0x0E (fun s => takeResend s m))

end Sys2Proof.Machine
end

