-- ==== Sys2Proof/Machine/Turn.lean ====
section
/-!
DEFINITION. The Turn boundary and the Wheel boundary: fault hand-over and takeover, application of changes, mode changes
and the step's transitions, pre-emption and context save, the slot table, dispatch, and what the block does once per
Turn and once per Wheel (R22 to R31, R104, R119 to R126, R134, R150 to R153, R182, R191 to R198, R206, R207, R342, R350,
R357, R365, R391, R392).
-/
namespace Sys2Proof.Machine

/-! ### Fault hand-over and takeover (R122, R123, R342, R357) -/

/-- Map a logical index to a physical Quern (R126). -/
def setMap (s : State) (n p : Nat) : State :=
  let off := oQuernMap + 4 * (n / 4)
  regSet s off (setField (regGet s off) (8 * (n % 4) + 7) (8 * (n % 4)) p)

/-- The Querns with an internal error fail (R342). -/
def quernErrorsTurn (s : State) (qs : List Nat) : State :=
  qs.foldl (fun s q => if quernExists s q && !(qnAt s q).lost then quernFail s q 0x5 else s) s

/-- Whether two work items are of one sequence. -/
def sameSequence (a b : Item) : Bool :=
  a.entry == b.entry && a.refresh == b.refresh && a.replay == b.replay && a.step == b.step && a.attempt == b.attempt

/-- The saved context from which a failed Quern's logical index goes on: one it was restoring, or the most recent save
of its present sequence. -/
def takeoverSave (s : State) (n : Nat) (failed : Quern) : Bool :=
  match s.qn.saved.find? (fun v => v.logical == n) with
  | none => false
  | some v => failed.restoring == some n || (match v.item, failed.item with
    | some a, some b => sameSequence a b
    | _, _ => false)

/-- Nothing of a failed Quern is used again (R123). -/
def stripQuern (s : State) (q : Nat) : State :=
  let s := match (qnAt s q).token with
    | some t => dropToken s t
    | none => s
  qnMod s q (fun n => { n with
    state := 6
    trap := 0
    item := none
    xfers := []
    token := none
    waitw := none
    waitReady := false
    saving := none
    restoring := none })

/-- The saved context of a logical index is to be restored again; a suspension that has ended since is over. -/
def reuseSave (s : State) (n : Nat) : State :=
  { s with qn := { s.qn with saved := s.qn.saved.map (fun v => if v.logical = n then
    { v with used := false, token := v.token.filter (fun t => s.sl.susp.any (fun x => x.token == t)) } else v) } }

/-- Unplanned takeover of a failed Quern's logical index (R123). -/
def takeOver (s : State) (q : Nat) : State :=
  let failed := qnAt s q
  match servedBy s q with
  | none => if failed.state = 6 then s else stripQuern s q
  | some n =>
    let s := stripQuern s q
    match freeSpare s with
    | none => setMap s n 0xFF
    | some p =>
      let s := setMap s n p
      if takeoverSave s n failed then qnMod (reuseSave s n) p (fun x => { x with state := 4, restoring := some n })
      else
        let s := if failed.item.isSome then sailMod s n (fun _ => failed.seqSail) else s
        qnMod s p (fun x => { x with state := 0 })

def takeOvers (s : State) : State :=
  ((List.range (4 * (vnt s).clusters)).filter (fun q => (qnAt s q).lost)).foldl takeOver s

/-- A spare that no test waits for. -/
def reliefSpare (s : State) : Option Nat :=
  (List.range (4 * (vnt s).clusters)).find? (fun q => restState s q == 5 && (qnAt s q).state == 5
    && (qnAt s q).restoring.isNone && !(gradedOf s (unitQuern q)).pendTest && !s.fh.tests.any (fun t => t.1 == q))

/-- Planned takeover of an idle Quern that a test waits for (R122, R357). -/
def relieve (s : State) (q : Nat) : State :=
  let x := qnAt s q
  match servedBy s q, reliefSpare s with
  | some n, some p =>
    if (gradedOf s (unitQuern q)).pendTest && x.state == 0 && x.item.isNone && x.saving.isNone then
      qnMod (qnMod (setMap s n p) p (fun y => { y with state := 0 })) q (fun y => { y with state := 5 })
    else s
  | _, _ => s

def reliefs (s : State) : State :=
  if s.fh.sepia || s.gov.pfActive then s else (List.range (4 * (vnt s).clusters)).foldl relieve s

/-! ### The end of a step (R104, R206, R207, R209, R215, R219) -/

/-- The ceiling table entries of the tensors whose units this chip owns (R102, R104). -/
def endCeilings (s : State) : State :=
  let ids := (s.work.units.map (fun u => (sampled s u.entry).id)).eraseDups
  ids.foldl (fun s id =>
    let us := s.work.units.filter (fun u => (sampled s u.entry).id == id)
    let r := us.foldl (fun a u => max a u.r) 0
    let failed := us.any (fun u => u.failed)
    let mx := us.foldl (fun a u => max a u.maxExp) maxExpNone
    let off := baseOf s oFwrCeilBase + 8 * id
    let old := ceilEntryOf (scrNat s off 8)
    let last := clampCeil (ceilEntryOf (mapGet zeroAt s.work.ceil id).toNat).ceil + 8 * r
    scrWrite s off (leBytes 8 (ceilEntryCode ⟨failed, old.auto, r, mx, last,
      if old.auto then autoCeil failed old.ceil last mx else old.ceil⟩))) s

/-- A value ceiling after a step, from the combined sums of a group and kind. -/
def endNormCeil (s : State) (g kind : Nat) (old : Int) : Int :=
  match s.work.sums.find? (fun x => x.group == g && x.kind == kind) with
  | some x => if x.vexp = maxExpNone then old else clampCeil (x.vexp + 4)
  | none => old

/-- The norm group table entries with AUTO set (R103, R104). -/
def endNorms (s : State) : State :=
  let groups := (s.work.tt.map (fun b => (tentOf b).ngrp)).eraseDups
  groups.foldl (fun s g =>
    let off := baseOf s oFwrNormBase + 8 * g
    let old := normEntryOf (scrNat s off 8)
    if !old.auto then s
    else scrWrite s off (leBytes 8 (normEntryCode
      ⟨old.auto, endNormCeil s g 2 old.upd, endNormCeil s g 1 old.weight, endNormCeil s g 0 old.grad⟩))) s

/-- Set STEP_NEXT. -/
def setStepNext (s : State) (n : Nat) : State := regSet (regSet s oStepNextLo (n % 2 ^ 32)) oStepNextHi (n / 2 ^ 32 % 2 ^ 16)

/-- Loss-scale exponent and clean count after a commit (R206). -/
def scaleAfter (ctl exp clean : Nat) : Nat × Nat :=
  if ctl % 2 ^ 16 ≤ clean + 1 then (min (exp + 1) (fieldOf ctl 28 24), 0) else (exp, clean + 1)

/-- What the work of a step leaves behind: entries read from the ring, tags of later changes, timers of the roles this
chip has for others. -/
def restWork (s : State) (from_ : Nat) (tPub : Option Nat) : WorkSt :=
  { WorkSt.reset with
    ringQ := s.work.ringQ
    tags := s.work.tags.filter (fun t => decide (from_ ≤ t.1))
    tOpen := s.work.tOpen
    tSettle := s.work.tSettle
    tPub := tPub }

/-- Publication of the step that commits (R209). -/
def startPublication (s : State) : State :=
  let st := s.step.s
  let tt := s.work.tt
  { s with pub := { s.pub with
    busy := true
    s := st
    attempt := s.step.attempt
    tt := tt
    hs := s.work.hsets
    seed := s.qn.sailSeed
    todo := (ownRanges s tt (fun _ => true)).map (fun i => ⟨i, st, false⟩)
    got := s.pub.got.filter (fun g => g.1 == st)
    readyLayers := []
    late := false
    replay := [] } }

/-- COMMIT's next boundary: slot flip, loss scale, ceilings, publication, checkpoint and digests. -/
def commitDone (s : State) : State :=
  let st := s.step.s
  let (e, c) := scaleAfter (regGet s oLsCtl) s.step.exp s.step.clean
  let s := startPublication (endNorms (endCeilings s))
  let s := setStepNext s (st + 1)
  let s := { s with step := { s.step with state := 6, attempt := 0, clip := s.step.clipPend, exp := e, clean := c, move := none } }
  let s := startDigests (startCheckpoint s st) st
  pubReady { s with work := restWork s (st + 1) (some s.time.turn) }

/-- ABORT's next boundary: nothing is published (R207). -/
def abortDone (s : State) : State :=
  let st := s.step.s
  let ovf := decide (s.step.abortReason = 1)
  let s := endNorms (endCeilings (abortLayerWords s))
  let s := regSet s oStepAbort (s.step.abortReason % 16 * 2 ^ 28 + s.step.abortChip % 2 ^ 14 * 2 ^ 14 + st % 2 ^ 14)
  let s := bump s (if ovf then oAbortOvfCnt else oAbortOtherCnt)
  { s with
    step := { s.step with
      state := 0
      attempt := (s.step.attempt + 1) % 256
      exp := if ovf then s.step.exp - 1 else s.step.exp
      clean := if ovf then 0 else s.step.clean
      move := none }
    work := restWork s st s.work.tPub }

/-- GO: GRIND begins (R192, R198). -/
def enterGrind (s : State) : State :=
  let s := { s with
    step := { s.step with state := 2, goDone := true, move := none }
    work := { s.work with tGrind := some s.time.turn } }
  let s := writeFactors s s.step.clip (decide (s.step.clipMode ≠ 2))
  let s := s.work.heldLayers.foldl ringLayer s
  let s := { s with work := { s.work with heldLayers := [] } }
  trySlices (admitAll s.work.units.length s)

/-- The step's transition at a Turn boundary (R192). -/
def stepTurn (s : State) : State :=
  match s.step.state, s.step.move with
  | 4, _ => commitDone s
  | 5, _ => abortDone s
  | _, some 2 => enterGrind s
  | _, some 3 => sendRecord { s with step := { s.step with state := 3, round := 1, move := none } } 1
  | _, some 4 => if commitReady s then irqSet { s with step := { s.step with state := 4, move := none } } irqStep else s
  | _, some 5 => irqSet { s with step := { s.step with state := 5, move := none } } irqStep
  | 6, some 7 => { s with step := { s.step with state := 0, move := none } }
  | _, _ => s

/-! ### Pre-emption, save and restore (R120 to R122, R213, R290, R313) -/

/-- The save of a Quern's context begins, or waits for its unfinished work item (R27, R120). -/
def beginSave (s : State) (q area : Nat) : State :=
  let n := qnAt s q
  if !quernExists s q || n.lost || n.saving.isSome || n.restoring.isSome || !(n.state == 0 || n.state == 1 || n.state == 2)
      || decide (262144 < n.item.elim 0 (fun i => i.live)) then s
  else qnMod s q (fun n => { n with saving := some area, state := if n.state = 1 then 1 else 3 })

/-- The restore of a saved context begins, on the Quern that serves the logical index or on a spare (R121, R122). -/
def beginRestore (s : State) (n q : Nat) : State :=
  let x := qnAt s q
  let mine := servedBy s q == some n
  if !quernExists s q || !s.qn.saved.any (fun v => v.logical == n && !v.used) || x.item.isSome || x.lost || x.saving.isSome
      || !((mine && x.state == 0) || ((servedBy s q).isNone && x.state == 5)) then s
  else
    let old := mapOf s n
    let s := if mine then s else
      qnMod (setMap s n q) old (fun y => if y.state = 0 && y.item.isNone then { y with state := 5 } else y)
    qnMod s q (fun y => { y with state := 4, restoring := some n })

/-- Engines, Bolter and Tailrace pre-empted, then released. -/
def enginesTurn (s : State) (i : TurnIn) : State :=
  let s := { s with
    leat := s.leat.zipIdx.map (fun (g, e) => if bitOf i.leatPreempt e then { g with preempt := true } else g)
    bol := { s.bol with preempt := s.bol.preempt || i.bolPreempt }
    pub := { s.pub with preempt := s.pub.preempt || i.trPreempt } }
  if s.fh.sepia || s.gov.pfActive then s
  else
    let s := ((List.range 16).filter (fun e => bitOf i.leatRelease e && !bitOf i.leatPreempt e && (leatAt s e).preempt)).foldl leatRelease s
    let s := if i.bolRelease && !i.bolPreempt && s.bol.preempt then bolRun { s with bol := { s.bol with preempt := false } } else s
    if i.trRelease && !i.trPreempt then { s with pub := { s.pub with preempt := false } } else s

/-! ### Dispatch (R21, R26, R134, R150, R153, R182, R218) -/

/-- Issue-cost budget of a Turn at a point (R26). -/
def turnBudget (point : Nat) : Nat := 2048 * (8 + point) / 10 - 64

/-- Elements of a work item with `left` elements to go (R153). -/
def itemCount (cf cp point left : Nat) : Nat :=
  if cp = 0 then left else min left (64 * ((turnBudget point - cf) / cp))

/-- Whether work may be dispatched to a logical index: its Quern idle, its cluster acknowledged and not held. -/
def canDispatch (s : State) (n : Nat) : Bool :=
  let q := mapOf s n
  let x := qnAt s q
  let c := clusterAt s (q / 4)
  decide (n < 32) && quernExists s q && !s.fh.sepia && !s.gov.pfActive && x.state == 0 && !x.lost && x.saving.isNone
    && x.restoring.isNone && !c.held && !c.voltHold && !c.stress && !s.fh.check.any (fun h => h.logical == n)
    && (!bitOf (regGet s oFhPlausCtl) 31 || decide (n < 16))

/-- The context of Quern code of recipe work items (R151, log 16). -/
def recipeCtx : Nat := 48

/-- What an entry's custom sequence works from: its table entry, sets, step and attempt. -/
structure SeqBase where
  t : TEnt
  hs : List Byte
  st : Nat
  att : Nat
  deriving DecidableEq, Repr

def seqBase (s : State) (entry : Nat) (replay : Bool) : SeqBase :=
  if replay then ⟨tentOf (s.pub.tt.getD entry []), s.pub.hs, s.pub.s, s.pub.attempt⟩
  else ⟨sampled s entry, s.work.hsets, s.step.s, s.step.attempt⟩

/-- Whether a replay, an update or a refresh of an entry is due. -/
def itemDue (s : State) (entry : Nat) (refresh replay : Bool) : Bool :=
  if replay then s.pub.replay.contains entry
  else if !stepOpenState s || s.step.earlySent || s.step.ovf || copyHolds s entry then false
  else if refresh then
    (ownedIx s).contains entry && needsRefresh s entry && !s.work.refreshed.contains entry
  else match unitAt s entry with
    | some u => u.final && !u.updated && decide (2 ≤ s.step.state) && (s.step.clipMode != 2 || s.step.round == 2)
    | none => false

/-- Registers of the first work item of a sequence (R150). -/
def firstCtx (s : State) (b : SeqBase) (first count pc : Nat) : QCtx :=
  let regs : List Nat := [first, count, b.st, baddrLocal 1 (factorOff s b.st b.t.hset), baddrLocal 0 (b.t.slot b.st),
    baddrLocal 0 (b.t.slot (b.st + 1)), baddrLocal 0 (gradStore s b.hs b.t + 4 * (first - b.t.start)),
    baddrLocal 0 (b.t.plane (b.st + 1) + 2 * first), baddrLocal 1 (baseOf s oPsHsetBase + 128 * b.t.hset)]
  { QCtx.reset with s := mapRun zeroAt 0 (regs.map (BitVec.ofNat 64)), pc := pc }

/-- The first work item of a custom sequence. -/
def startSequence (s : State) (n q entry : Nat) (refresh replay : Bool) (r : Recipe) : State :=
  let b := seqBase s entry replay
  let kind := if replay then 2 else b2n refresh
  let first := progressOf s kind entry b.t.start
  let point := (clusterAt s (q / 4)).point
  let count := itemCount (if refresh then r.costRf else r.costF) (if refresh then r.costRp else r.costP) point (b.t.fin - first)
  let it : Item := ⟨s.qn.nextItem, n, recipeCtx, entry, refresh, r.id, r.live, b.st, b.att, first + count, replay⟩
  let s := { s with qn := { s.qn with
    nextItem := (s.qn.nextItem + 1) % 2 ^ 32
    saved := s.qn.saved.filter (fun v => !(v.logical == n && v.used)) } }
  let s := if refresh || replay then s
    else unitMod s entry (fun u => { u with gs := scrNat s (factorOff s s.step.s b.t.hset) 4 })
  qnMod s q (fun x => { x with
    state := 1
    trap := 0
    ctx := firstCtx s b first count (r.base + (if refresh then r.refresh else r.update))
    item := some it
    seqSail := sailOf s n
    waitw := none
    waitReady := false })

/-- The next work item of a sequence: s0 and s1 are rewritten. -/
def nextItem (s : State) (q : Nat) (i : Item) (r : Recipe) : State :=
  let first := i.next
  let point := (clusterAt s (q / 4)).point
  let count := itemCount (if i.refresh then r.costRf else r.costF) (if i.refresh then r.costRp else r.costP) point (itemFin s i - first)
  let s := { s with qn := { s.qn with nextItem := (s.qn.nextItem + 1) % 2 ^ 32 } }
  qnMod s q (fun x => { x with
    state := 1
    ctx := setS (setS x.ctx 0 first) 1 count
    item := some { i with id := s.qn.nextItem, next := first + count } })

/-- Dispatch one work item. Updates of built-in recipes are performed at their unit's finalisation; their refreshes
here. -/
def dispatchOne (s : State) (d : Dispatch) : State :=
  let q := mapOf s d.logical
  if !canDispatch s d.logical then s
  else
    let x := qnAt s q
    match x.item.filter (itemCurrent s) with
    | some i =>
      if x.waitw.isSome then s
      else match recipeInUse s i.recipe with
        | some r => nextItem s q i r
        | none => s
    | none =>
      let replay := !d.refresh && s.pub.replay.contains d.entry && !itemDue s d.entry d.refresh false
      if !itemDue s d.entry d.refresh replay then s
      else
        let b := seqBase s d.entry replay
        if b.t.custom then
          match recipeInUse s b.t.recipe with
          | some r => startSequence s d.logical q d.entry d.refresh replay r
          | none => s
        else if d.refresh then refreshEntry s d.entry
        else s

/-- A work item whose WAITW condition was read to hold is dispatched again (R134). -/
def redispatch (s : State) (q : Nat) : State :=
  let x := qnAt s q
  match x.item with
  | some i =>
    if x.waitReady && canDispatch s i.logical && mapOf s i.logical == q then
      qnMod s q (fun x => { x with state := 1, waitw := none, waitReady := false })
    else s
  | none => s

/-- The Governor's read of the word an unmet WAITW waits for (R134). A poisoned or failing read leaves it unmet. -/
def readWait (s : State) (q : Nat) : State :=
  let x := qnAt s q
  match x.waitw with
  | some (a, v, eq) =>
    if x.state != 0 || x.waitReady then s
    else if isRemote s a then
      if s.port.outst.any (fun o => o.sink == .quernWaitw q a v eq) then s
      else sendVc4 s 0x38 (baddrOf a).chip (a / 64 * 64) 64 [] 0 (.quernWaitw q a v eq)
    else
      let off := (baddrOf a).off
      if !scratchOk s (off / 64 * 64) 64 then s
      else
        let (r, s) := scratchRead s (off / 64)
        if !r.poison && waitHolds eq (leAt r.data (off % 64) 8) v then qnMod s q (fun x => { x with waitReady := true }) else s
  | none => s

def dispatchTurn (s : State) (ds : List Dispatch) : State :=
  let s := (List.range 36).foldl redispatch s
  (List.range 36).foldl readWait (ds.foldl dispatchOne s)

/-! ### Once per Turn (R24, R29, R194, R217) -/

/-- The profile that WHEEL_MAP gives the Turn (R24, R30). -/
def slotTurn (s : State) : State :=
  let p := s.time.turn % 512
  { s with time := { s.time with profile := fieldOf (regGet s (oWheelMap + 4 * (p / 8))) (4 * (p % 8) + 2) (4 * (p % 8)) } }

/-- A slow mark is cleared after 512 Turns without an overrun above 512 cycles (R29). -/
def slowTurn (s : State) : State :=
  { s with qn := { s.qn with q := s.qn.q.map (fun n =>
    if n.slow && n.overruns.all (fun t => decide (t + 512 ≤ s.time.turn)) then { n with slow := false, overruns := [] } else n) } }

/-- A ring entry's bytes as read: none where the read failed or was poisoned (R194). -/
def entryRead (r : RangeRd × State) : RingEntry × State := (if r.1.ok && !r.1.poison.any id then r.1.data else [], r.2)

/-- A ring entry as read: no bytes when the read is poisoned or fails (R194). -/
def readEntry (s : State) (k : Nat) : RingEntry × State :=
  entryRead (rangeRead s 1 (baseOf s oStepRingBase + 16 * (k % 4096)) 16 2 false)

/-- Take the ring's new entries up to the producer index read (R194). -/
def ringRead (a : RangeRd × State) : State :=
  let s := a.2
  if !a.1.ok || a.1.poison.any id then s
  else
    let cons := regGet s oStepCons
    let diff := (leNat a.1.data + 2 ^ 32 - cons) % 2 ^ 32
    if 4096 < diff then bump { s with work := { s.work with ringQ := [] } } oBadCmdCnt
    else
      let kept := s.work.ringQ.take diff
      let new := (List.range (diff - kept.length)).foldl (fun (a : List RingEntry × State) k =>
        let e := readEntry a.2 ((cons + kept.length + k) % 2 ^ 32)
        (e.1 :: a.1, e.2)) ([], s)
      let q := kept ++ new.1.reverse
      skipBad q.length { new.2 with work := { new.2.work with ringQ := q } }

/-- The step ring is read up to its producer index (R194). -/
def ringTurn (s : State) : State :=
  if s.fh.sepia || s.gov.pfActive then s
  else ringRead (rangeRead s 1 (baseOf s oStepRingBase + 0x10000) 4 2 false)

/-- After a HOLD: with every named change applied here, the record is sent again (R192, R197). -/
def holdTurn (s : State) : State :=
  let tags := (s.work.tags.filter (fun t => t.1 == s.step.s)).map (fun t => t.2)
  if s.step.state = 1 && !s.step.recordSent && s.step.holdTags.all (fun t => tags.contains t) then sendOpenRec (sampleAll s) else s

/-- Turns in which an update waits for a copy, and in which admission waits for hold space (R96, R217). -/
def waitCounts (s : State) : State :=
  let s := if s.work.units.any (fun u => u.ckptWait) then bump s oCkptWaitCnt else s
  if s.step.state = 2 && (nextUnit s).elim false (fun u => !holdFits s u) then bump s oFwrHoldWaitCnt else s

/-- Owed credits go out with the flits of the Turn on links that are up. -/
def creditsTurn (s : State) : State :=
  { s with gl := { s.gl with links := s.gl.links.map (fun k =>
    if k.state = 2 then { k with owed := List.replicate 14 0 } else k) } }

/-- What the block does at a boundary without the Governor: memory patrol, granted PHY updates, waits, credits. -/
def hardwareTurn (s : State) : State :=
  let s := if s.boot.fillDone then scrubTurn s else s
  let s := { s with mem := { s.mem with phyUpd := [] } }
  creditsTurn (bolTurn (leatTurn s))

/-! ### The Turn boundary (R23) -/

/-- 1: fault hand-over to spares. -/
def faultTurn (s : State) (i : TurnIn) : State :=
  let s := gradeTurn (linksTurn (quernErrorsTurn s i.quernErrors))
  reliefs (takeOvers (checksTurn (customTurn s) i.checks))

/-- 3: mode changes. -/
def modeTurn (s : State) (i : TurnIn) : State :=
  let s := powerFailStart s
  let s := if s.fh.sepiaDue = 0 then s else enterSepia s s.fh.sepiaDue
  let s := stepTurn s
  testsTurn (voltTurn (pointsTurn s i.points))

/-- 4: pre-emption and context save and restore. -/
def saveTurn (s : State) (i : TurnIn) : State :=
  let s := i.saves.foldl (fun s x => beginSave s x.1 x.2) s
  let s := i.restores.foldl (fun s x => beginRestore s x.1 x.2) s
  enginesTurn s i

/-- What the Governor does during the Turn that begins. -/
def governorTurn (s : State) : State :=
  let s := waitCounts (holdTurn (ringTurn (slowTurn s)))
  let s := if s.boot.trainEnd.isNone && trainingOver s then { s with boot := { s.boot with trainEnd := some s.time.turn } } else s
  tempAsk s (clustersOf s)

/-- TURN_BOUNDARY. -/
def turnBoundary (s : State) (i : TurnIn) : State :=
  let s := hardwareTurn { s with time := { s.time with turn := (s.time.turn + 1) % 2 ^ 48, cycle := 0 } }
  if !s.boot.running then s
  else if !i.complete then { s with time := { s.time with stall := s.time.stall + 1 } }
  else
    let s := { s with time := { s.time with stall := 0 } }
    let s := saveTurn (modeTurn (applyDue (faultTurn s i)) i) i
    governorTurn (dispatchTurn (slotTurn s) i.dispatch)

/-! ### Conserved resources (R391, R392) -/

/-- The counts of a conserved resource. -/
structure Ledger where
  cfg : Nat
  held : Nat
  inflight : Nat
  ret : Nat
  woff : Nat
  deriving DecidableEq, Repr

/-- The identity of R391. -/
def Ledger.ok (l : Ledger) : Bool := l.held + l.inflight + l.ret + l.woff == l.cfg

/-- Link credits of a pool and class. -/
def creditLedger (k : Link) (x : Nat) : Ledger :=
  let cfg := k.cfg.getD x 0
  let held := k.cred.getD x 0
  let woff := k.woff.getD x 0
  ⟨cfg, held, cfg - held - woff, 0, woff⟩

/-- Receive slots of a link. -/
def slotLedger (k : Link) : Ledger :=
  let sum (l : List Nat) : Nat := l.foldl (· + ·) 0
  let cfg := sum k.cfg
  ⟨cfg, cfg - sum k.held - sum k.owed, sum k.held, sum k.owed, 0⟩

/-- The counts of the resource a GOV_LEDGER_SEL value selects: class and index; zero for one that does not exist. -/
def ledgerOf (s : State) (cls ix : Nat) : Ledger :=
  match cls with
  | 0 => if linkExists s (ix / 16) && decide (ix % 16 < 14) then creditLedger (linkAt s (ix / 16)) (ix % 16) else ⟨0, 0, 0, 0, 0⟩
  | 1 => if linkExists s ix then slotLedger (linkAt s ix) else ⟨0, 0, 0, 0, 0⟩
  | 2 =>
    let cfg := if ix = 0 then regGet s oFwrHoldSize % 2 ^ 16 else 0
    let used := if ix = 0 then ceilDiv (holdUsed s) page64k else 0
    ⟨cfg, cfg - used, used, 0, 0⟩
  | 3 =>
    let q := mapOf s ix
    if ix < 32 && quernExists s q then
      let busy := b2n ((qnAt s q).state == 1)
      ⟨1, 1 - busy, busy, 0, 0⟩
    else ⟨0, 0, 0, 0, 0⟩
  | 4 =>
    if ix < 16 then
      let n := (leatAt s ix).active.length
      ⟨4, 4 - n, n, 0, 0⟩
    else ⟨0, 0, 0, 0, 0⟩
  | _ => ⟨0, 0, 0, 0, 0⟩

/-- Every resource: class and index. -/
def ledgerAll : List (Nat × Nat) :=
  (List.range 96).flatMap (fun l => (List.range 14).map (fun x => (0, 16 * l + x)))
    ++ (List.range 96).map (fun l => (1, l)) ++ [(2, 0)] ++ (List.range 32).map (fun n => (3, n)) ++ (List.range 16).map (fun e => (4, e))

/-- The Wheel's check: the first failure is latched (R392). -/
def ledgerWheel (s : State) : State :=
  match ledgerAll.find? (fun x => !(ledgerOf s x.1 x.2).ok) with
  | some (c, i) =>
    if s.gov.ledgerErr then s
    else irqSet { s with gov := { s.gov with ledgerErr := true, ledgerClass := c, ledgerIndex := i } } irqGov
  | none => s

/-- WHEEL_BOUNDARY (R22, R237, R366, R392, R407). -/
def wheelBoundary (s : State) (i : WheelIn) : State :=
  if s.time.turn % 512 ≠ 0 || !s.boot.running then s
  else
    let s := tempAsk (thermalWheel s) [9, 10, 11, 12, 13]
    let s := memWheel s i
    let s := if s.fh.sepia then sendLinkStatus s else s
    ledgerWheel s

def execTurnBoundary (i : TurnIn) (s : State) : Out := .next (turnBoundary s i)
def execWheelBoundary (i : WheelIn) (s : State) : Out := .next (wheelBoundary s i)

end Sys2Proof.Machine
end

