-- ==== Sys2Proof/Machine/Mgmt.lean ====
section
/-!
DEFINITION. The management port: what a register reads as, the latch of TURN_NOW_HI, writes under their access codes,
interrupt outputs (R7, R8, R30, R31, R105, R126, R187, R214, R220, R243, R257, R274, R300, R301, R317, R337, R368, R396,
R403, R404, R410, R413, R415).
-/
namespace Sys2Proof.Machine

/-! ### Registers whose value is computed -/

/-- Index of a register in a family at base + stride × i, count n, when the offset is its register at +at_. -/
def famIx (off base stride n at_ : Nat) : Option Nat :=
  if base + at_ ≤ off && (off - base - at_) % stride == 0 && decide ((off - base - at_) / stride < n)
  then some ((off - base - at_) / stride) else none

/-- Channels of a stack or group mapped out or dead (R228, R229). -/
def hrGone (s : State) (k : Nat) : Nat := s.mem.hrMapOut.getD k 0 ||| s.mem.hrDead.getD k 0
def mpGone (s : State) (g : Nat) : Nat := s.mem.mpMapOut.getD g 0 ||| s.mem.mpDead.getD g 0

/-- Dead channels of a quarter at this reset (R229). -/
def quarterDead (s : State) (k q : Nat) : Nat := 8 - (liveIn (s.mem.hrMapOut.getD k 0) (8 * q) 8).length

/-- Mapped capacity of a stack in GiB (R229). -/
def stackMapped (s : State) (k : Nat) : Nat :=
  let quarter := s.mem.hrCap.getD k 0 / 4
  sumTo (fun q => match quarterDead s k q with
    | 0 => quarter
    | 1 => quarter / 8 * 7
    | _ => 0) 4

/-- HR_STACK. -/
def hrStackReg (s : State) (k : Nat) : Nat :=
  b2n (bitOf s.mem.hrHot k) * 2 ^ 31 + s.mem.hrTemp.getD k 0 % 256 * 2 ^ 23 + stackMapped s k % 128 * 2 ^ 16
    + bitsFrom (fun q => decide (2 ≤ quarterDead s k q)) 4 * 16 + bitsFrom (fun q => quarterDead s k q == 1) 4

/-- Live channels of a group at this reset. -/
def groupLive (s : State) (g : Nat) : Nat := (liveIn (s.mem.mpMapOut.getD g 0) 0 16).length

/-- MP_GROUP. -/
def mpGroupReg (s : State) (g : Nat) : Nat :=
  b2n (bitOf s.mem.mpHot g) * 2 ^ 26 + b2n (s.mem.retrain == some g) * 2 ^ 25 + b2n (decide (groupLive s g < 15)) * 2 ^ 24
    + b2n (groupLive s g == 15) * 2 ^ 23 + mpGone s g % 2 ^ 16

/-- MP_CAP: half GiB of every present group. -/
def mpCapReg (s : State) : Nat :=
  sumTo (fun g => if bitOf s.mem.mpPresent g then (if groupLive s g = 16 then 496 else if groupLive s g = 15 then 465 else 0) else 0) 8

/-- CLUSTER_STATE. -/
def clusterReg (s : State) (c : Nat) : Nat :=
  let x := clusterAt s c
  b2n (x.stepDown != 0) * 2 ^ 25 + b2n x.voltHold * 2 ^ 24 + x.temp % 256 * 2 ^ 16 + x.volt % 4096 * 16 + x.point % 16

/-- QN_STATUS. -/
def qnStatusReg (s : State) (q : Nat) : Nat :=
  let n := qnAt s q
  let lg := if s.boot.running then (servedBy s q).getD 0xFF else 0xFF
  lg * 2 ^ 16 + n.trap % 16 * 2 ^ 8 + n.state % 8

/-- The registers of one Quern that are computed, by their offset in its block. -/
def qnReg (s : State) (q at_ : Nat) : Option Nat :=
  let n := qnAt s q
  match at_ with
  | 0x00 => some (qnStatusReg s q)
  | 0x0C => some (n.trapPc % 2 ^ 32)
  | 0x10 => some (n.fnanInsn % 2 ^ 32)
  | 0x14 => some (n.fnanInsn / 2 ^ 32 % 2 ^ 32)
  | 0x18 => some (b2n n.fnanValid * 2 ^ 31 + b2n n.fnanOrigin * 2 ^ 30 + n.fnanItem % 2 ^ 18 * 2 ^ 12 + n.fnanIndex % 2 ^ 12)
  | 0x1C => some (n.fnanPc % 2 ^ 32)
  | 0x20 => some (n.fnanTurn % 2 ^ 32)
  | _ => none

/-- STEP_STATE; its fields of the open step read zero when none is open. -/
def stepStateReg (s : State) : Nat :=
  let x := s.step
  let open_ := stepHolds s
  b2n s.pub.late * 2 ^ 24 + b2n s.pub.busy * 2 ^ 23 + (if x.state = 3 then x.round % 4 else 0) * 2 ^ 21
    + (if open_ then x.l % 32 else 0) * 2 ^ 16 + x.attempt % 256 * 2 ^ 8 + (if open_ then x.clipMode % 4 else 0) * 16 + x.state % 8

/-- LEAT_STATUS. -/
def leatStatusReg (s : State) (e : Nat) : Nat :=
  let g := leatAt s e
  b2n (!g.active.isEmpty) * 2 ^ 31 + b2n (g.active.any (fun x => x.token.isSome)) * 2 ^ 30 + b2n g.preempt * 2 ^ 29
    + g.active.length % 8 * 2 ^ 26 + g.consumed % 1024

/-- BOL_STATUS. -/
def bolStatusReg (s : State) : Nat :=
  b2n s.bol.job.isSome * 2 ^ 31 + b2n s.bol.preempt * 2 ^ 30
    + bitsFrom (fun n => s.bol.susp.any (fun x => x.1 == n)) 8 * 2 ^ 16 + s.bol.ring % 256

/-- Transmit credits of a pool, both classes. -/
def poolCred (s : State) (l vc : Nat) : Nat :=
  ((linkAt s l).cred.getD (2 * vc) 0 + (linkAt s l).cred.getD (2 * vc + 1) 0) % 512

/-- The registers of one link that are computed, by their offset in its block. -/
def linkReg (s : State) (l at_ : Nat) : Option Nat :=
  let k := linkAt s l
  match at_ with
  | 0x00 => some (k.reason % 16 * 2 ^ 28 + k.state % 8)
  | 0x04 => some (k.peerLink % 128 * 2 ^ 16 + k.peerChip % 2 ^ 14)
  | 0x14 => some (poolCred s l 2 * 2 ^ 18 + poolCred s l 1 * 2 ^ 9 + poolCred s l 0)
  | 0x18 => some (poolCred s l 5 * 2 ^ 18 + poolCred s l 6 * 2 ^ 9 + poolCred s l 4)
  | _ => none

/-- FH_UNIT_INFO of the selected unit. -/
def unitInfoReg (s : State) : Nat :=
  let g := gradedOf s (regGet s oFhUnitSel % 2 ^ 16)
  g.grade % 4 * 2 ^ 30 + b2n g.pendTest * 2 ^ 29 + min g.bucket 255 * 2 ^ 16 + min g.passes 255 * 2 ^ 8
    + min g.fails 15 * 16 + g.last % 16

/-- GOV_BOOT_STATUS.PHASE (R396). -/
def bootPhase (s : State) : Nat :=
  let b := s.boot
  if b.opened then 7
  else if b.secWait || b.err == 4 then 1
  else if !b.running then 0
  else if !b.dfiDone then 2
  else if !b.fillDone then 3
  else if b.trainEnd.isNone then 4
  else if b.discTurn.isNone || (rootChip s == s.gl.chip && silentChips s != b.missing) then 5
  else 6

/-- GOV_BOOT_STATUS. -/
def bootStatusReg (s : State) : Nat :=
  b2n s.boot.opened * 2 ^ 31 + b2n s.boot.secWait * 2 ^ 30 + b2n s.boot.groupOk * 2 ^ 29 + b2n s.boot.rcpErr * 2 ^ 28
    + bootPhase s * 2 ^ 24 + s.boot.err % 256 * 2 ^ 16 + b2n s.boot.fwActiveB * 2 ^ 8

/-- The ledger of the selected resource. -/
def ledgerSel (s : State) : Ledger :=
  let w := regGet s oGovLedgerSel
  ledgerOf s (fieldOf w 19 16) (w % 2 ^ 16)

/-- Transactions that are pending: validated, then being validated. -/
def txnsPending (s : State) : List Txn := s.gov.pendTx ++ s.gov.checking

/-- IRQ_STATUS: SLUICE and QUERN are levels (R410). -/
def irqStatus (s : State) : Nat :=
  let sl := s.sl.prod % 2 ^ 32 != regGet s oSlFaultCons
  let qn := s.qn.q.any (fun n => n.state == 2)
  regGet s oIrqStatus + b2n sl * 4 + b2n qn

/-- The interrupt outputs, bit n for IRQ_STATUS bit n (R410). -/
def irqOut (s : State) : Nat := (irqStatus s ||| regGet s oIrqForce) &&& regGet s oIrqEnable

/-- Registers below 0x1000 that are computed. -/
def liveLow (s : State) (off : Nat) : Option Nat :=
  if off = oIrqStatus then some (irqStatus s)
  else if off = oTurnNowLo then some (s.time.turn % 2 ^ 32)
  else if off = oTurnPhase then some (s.time.turn % 512 * 2 ^ 11 + s.time.cycle % 2048)
  else if off = oQuernSlow0 then some (bitsFrom (fun q => (qnAt s q).slow) 32)
  else if off = oQuernSlow1 then some (bitsFrom (fun q => (qnAt s (32 + q)).slow) 4)
  else if off = oFwrStatus then
    some (b2n (s.step.state == 2 && (nextUnit s).elim false (fun u => !holdFits s u)) * 2 ^ 16
      + (s.work.units.filter (fun u => u.admitted && !u.final)).length % 2 ^ 16)
  else if off = oPsExpStatus then
    some (b2n s.copy.expBusy * 2 ^ 31 + b2n s.copy.expErr * 2 ^ 30 + s.copy.expCode % 64 * 2 ^ 24 + s.copy.expRecords % 2 ^ 24)
  else if off = oPsExpStep then some (s.copy.expStep % 2 ^ 32)
  else if off = oStepState then some (stepStateReg s)
  else if off = oLsStatus then some (s.step.exp % 32 * 2 ^ 16 + s.step.clean % 2 ^ 16)
  else if off = oClipValue then some (s.step.clip % 2 ^ 32)
  else if off = oCkptStatus then
    some (b2n s.copy.ckptBusy * 2 ^ 31 + b2n s.copy.ckptFail * 2 ^ 30 + s.copy.ckptArea % 2 * 2 ^ 29 + s.copy.ckptStep % 2 ^ 24)
  else if off = oTrStatus then
    some (b2n s.pub.busy * 2 ^ 31 + b2n s.pub.susp.isSome * 2 ^ 30 + b2n s.pub.preempt * 2 ^ 29 + b2n s.pub.err * 2 ^ 28
      + s.pub.tensor % 2 ^ 20)
  else (famIx off oClusterState 4 9 0).map (clusterReg s)

/-- Registers of the memory tiers, Leat, Sluice and Bolter that are computed. -/
def liveMid (s : State) (off : Nat) : Option Nat :=
  let v := vnt s
  if off = oMemPresent then
    some (s.mem.mpPresent % 256 * 2 ^ 8 + bitsFrom (fun k => decide (k < v.hrStacks) && s.mem.hrCap.getD k 0 != 0) 8)
  else if off = oMemRate then some (s.mem.mpRate % 256 * 2 ^ 8 + s.mem.hrRate % 256)
  else if off = oMpCap then some (mpCapReg s)
  else if off = oHopGranuleState then some (s.hop.bad % 2 ^ 16 * 2 ^ 16 + bitsFrom (fun g => s.hop.convert.any (fun c => c.1 == g)) 16)
  else if off = oHopCfg then some (8 * v.granules * 2 ^ 8 + v.granules)
  else if off = oHopFuse then some (s.chip.fuseCols % 2 ^ 16 * 2 ^ 16 + s.chip.fuseRows % 2 ^ 16)
  else if off = oSlInvalStatus then some (b2n s.sl.inval)
  else if off = oBolStatus then some (bolStatusReg s)
  else if off = oBolJobDone then some (s.bol.done % 2 ^ 32)
  else if off = oSailStatus then some (b2n s.qn.sailBusy)
  else (famIx off oHrStack 4 8 0).map (hrStackReg s)
    <|> (famIx off oHrDead 4 8 0).map (hrGone s)
    <|> (famIx off oMpGroup 4 8 0).map (mpGroupReg s)
    <|> (famIx off oLeatStatus 4 16 0).map (leatStatusReg s)

/-- Registers of the links, health and Governor that are computed. -/
def liveHigh (s : State) (off : Nat) : Option Nat :=
  if off = oGlId then some (s.gl.rank % 64 * 2 ^ 26 + s.gl.group % 1024 * 2 ^ 16 + s.gl.chip % 2 ^ 14)
  else if off = oGlPortUp then some (bitsFrom (fun p => (portAt s p).active) 24)
  else if off = oGlPortHalf then some (bitsFrom (fun p => (portAt s p).half) 24)
  else if off = oGlDiscStatus then some (b2n s.boot.discDone * 2 ^ 31 + s.boot.missing.length % 2 ^ 14)
  else if off = oFhStatus then
    some (b2n s.fh.sepia * 2 ^ 31 + b2n s.fh.fatal * 2 ^ 30 + b2n s.fh.statePoison * 2 ^ 29 + s.fh.sepiaReason % 16)
  else if off = oFhUnitInfo then some (unitInfoReg s)
  else if off = oFhFlipCtl then
    some (b2n s.fh.armed * 2 ^ 31 + b2n s.fh.flipDone * 2 ^ 30 + regGet s oFhFlipCtl % 2 ^ 30)
  else if off = oFhJrnlStatus then some (b2n s.fh.writing * 2 ^ 31 + s.fh.slot % 2 * 2 ^ 30 + s.fh.pend.length % 2 ^ 16)
  else if off = oFhFatalOwnLo then some (s.fh.fatalOwn % 2 ^ 32)
  else if off = oFhFatalOwnHi then some (s.fh.fatalOwn / 2 ^ 32 % 2 ^ 32)
  else if off = oFhFatalPeerLo then some (s.fh.fatalPeer % 2 ^ 32)
  else if off = oFhFatalPeerHi then some (s.fh.fatalPeer / 2 ^ 32 % 2 ^ 32)
  else if off = oFhFatalTensor then some (s.fh.fatalTensor % 2 ^ 20)
  else if off = oFhFatalPeer then some (s.fh.fatalChip % 2 ^ 14)
  else if off = oFhSepiaCmd then some (b2n (s.fh.sepiaDue == 2 || s.fh.sepiaReason == 2))
  else if off = oFhFlipAddrLo then some (s.fh.flipAddr % 2 ^ 32)
  else if off = oFhFlipAddrHi then some (s.fh.flipAddr / 2 ^ 32 % 2 ^ 32)
  else (famIx off oGlLinkUp 4 3 0).map (fun i => bitsFrom (fun b => linkUp s (32 * i + b)) 32)
    <|> (famIx off oGlLcredC 4 96 0).map (fun l => poolCred s l 3)

/-- Registers of the Governor that are computed. -/
def liveGov (s : State) (off : Nat) : Option Nat :=
  if off = oGovBootStatus then some (bootStatusReg s)
  else if off = oGovBootTurn then some (s.boot.openTurn % 2 ^ 32)
  else if off = oGovImgGen then some (s.boot.imgGen % 2 ^ 32)
  else if off = oGovFw then
    some (regGet s oGovFw / 256 % 2 * 256 + b2n (!s.boot.fwB.isEmpty) * 2 + b2n (!s.boot.fwA.isEmpty))
  else if off = oGovFwCrcA then some (if s.boot.fwA.isEmpty then 0 else crc32c s.boot.fwA)
  else if off = oGovFwCrcB then some (if s.boot.fwB.isEmpty then 0 else crc32c s.boot.fwB)
  else if off = oGovTxnStatus then
    some (b2n s.gov.opened.isSome * 2 ^ 31 + b2n (!s.gov.checking.isEmpty) * 2 ^ 30 + s.gov.result % 64 * 2 ^ 24
      + (s.gov.opened.elim s.gov.lastOwner (fun t => t.owner)) % 256 * 2 ^ 16 + s.gov.lastId % 2 ^ 16)
  else if off = oGovTxnPend then
    some (((txnsPending s).head?.elim 0 (fun t => t.id)) % 2 ^ 16 * 2 ^ 16 + (txnsPending s).length % 16)
  else if off = oGovTxnStaged then some (s.gov.opened.elim 0 (fun t => t.loads.length % 32 * 2 ^ 16 + t.regs.length % 2 ^ 11))
  else if off = oGovCjProd then some (s.gov.cjProd % 2 ^ 32)
  else if off = oGovLedgerCfg then some (ledgerSel s).cfg
  else if off = oGovLedgerHeld then some (ledgerSel s).held
  else if off = oGovLedgerInflight then some (ledgerSel s).inflight
  else if off = oGovLedgerReturn then some (ledgerSel s).ret
  else if off = oGovLedgerWoff then some (ledgerSel s).woff
  else if off = oGovLedgerErr then some (b2n s.gov.ledgerErr * 2 ^ 31 + s.gov.ledgerClass % 16 * 2 ^ 16 + s.gov.ledgerIndex % 2 ^ 16)
  else if off = oGovPfwStatus then
    some (b2n s.gov.pfActive * 2 ^ 31 + b2n s.gov.pfDone * 2 ^ 30 + regGet s oGovPfwStatus / 2 ^ 29 % 2 * 2 ^ 29
      + b2n s.gov.pfB * 2 + b2n s.gov.pfA)
  else none

/-! ### Presence (R415) -/

/-- Whether the register at an offset belongs to a unit that the variant has. -/
def regPresent (s : State) (off : Nat) : Bool :=
  let v := vnt s
  let fam (base stride n have_ : Nat) : Bool :=
    if base ≤ off && decide (off < base + stride * n) then decide ((off - base) / stride < have_) else true
  fam oClusterState 4 9 v.clusters && fam oQnStatus 0x40 36 (4 * v.clusters) && fam oHrStack 4 8 v.hrStacks
    && fam oHrDead 4 8 v.hrStacks && fam oMpGroup 4 8 v.groups && fam oGlLstate 0x20 96 (4 * v.ports)
    && fam oGlLcredC 4 96 (4 * v.ports)

/-! ### Reads (R7, R30, R31, R404) -/

/-- Fields of a register that read as zero: write-only and self-clearing ones. -/
def hiddenMask (off : Nat) : Nat := (regMask off).wo ||| (if off = oPsExpCtl then 2 ^ 31 else 0)

/-- What a register reads as to a requester. -/
def readReg (s : State) (req off : Nat) : Nat :=
  if off = oTurnNowHi then mapGet natZeroAt s.time.hiLatch req
  else if !regPresent s off then 0
  else
    let stored := regGet s off &&& (2 ^ 32 - 1 - hiddenMask off)
    let live :=
      if off < 0x1000 then liveLow s off
      else if off < 0x2000 then qnReg s ((off - 0x1000) / 0x40) ((off - 0x1000) % 0x40)
      else if off < 0x4000 then liveMid s off
      else if off < 0x4400 then liveHigh s off
      else if off < 0x5000 then linkReg s ((off - 0x4400) / 0x20) ((off - 0x4400) % 0x20)
      else if off < 0x6000 then liveHigh s off
      else liveGov s off
    live.getD stored

/-- A management read: data and PSLVERR (R403, R404). It changes nothing but the latch of TURN_NOW_LO. -/
def apbRead (s : State) (req off : Nat) : Nat × Bool :=
  if off % 4 ≠ 0 || 0x7000 ≤ off then (0, true) else if (regAt off).isSome then (readReg s req off, false) else (0, false)

/-- TURN_NOW_LO_READ (R31). -/
def turnNowRead (s : State) (req : Nat) : State :=
  let hi := s.time.turn / 2 ^ 32 % 2 ^ 16
  apb { s with time := { s.time with hiLatch := mapSet natZeroAt s.time.hiLatch req hi } } (s.time.turn % 2 ^ 32) false

/-! ### Writes (R7, R8, R403, R404, R413) -/

/-- RW fields take the value written; W1C fields kept in the register are cleared. -/
def plainWrite (s : State) (f : RegFam) (off v : Nat) : State :=
  let old := regGet s off
  let rw := (old &&& (2 ^ 32 - 1 - f.rw)) ||| (v &&& f.rw)
  regSet s off (rw &&& (2 ^ 32 - 1 - (v &&& f.w1c)))

/-- The counters a write-only clear register clears. -/
def clearWrite (s : State) (off v : Nat) : Option State :=
  if off = oPortCntClear then some (clearIf s v 0 oBadAxiCnt)
  else if off = oFwrCntClear then some (clearCounters s oFwrRaiseCnt v 6)
  else if off = oStepCntClear then some (clearCounters s oAbortOvfCnt v 7)
  else if off = oTrCntClear then some (clearCounters s oTrUfbCnt v 2)
  else if off = oMemCntClear then some (clearCounters s oSpprCnt v 8)
  else if off = oHopCntClear then some (clearCounters s oHopCeCnt v 6)
  else if off = oMmCntClear then some (clearCounters s oMmFenceCnt v 4)
  else if off = oLeatCntClear then
    let s := clearCounters s oLeatHaloWaitCnt v 3
    some (if bitOf v 3 then clearLeatUfb s else s)
  else if off = oSlCntClear then some (clearCounters s oSlMultiCnt v 3)
  else if off = oBolCntClear then some (clearCounters s oBolRecCnt v 5)
  else if off = oSailCntClear then some (clearIf s v 0 oSailMissCnt)
  else if off = oGlCntClear then
    some (clearIf (clearIf (clearCounters s oGlWriteoffCnt v 4) v 4 oGlBadmsgCnt) v 5 oGlTopoMismatchCnt)
  else if off = oFhCntClear then
    some (clearIf (clearIf (clearCounters s oFhClassCnt (v / 2) 15) v 16 oFhRingDropCnt) v 17 oFhCperDropCnt)
  else if off = oGovCntClear then some (clearIf (clearIf s v 0 oGovPfwDiscCnt) v 1 oGovCjDropCnt)
  else none

/-- A write to a register of a Quern. -/
def quernWrite (s : State) (q at_ v : Nat) : State :=
  match at_ with
  | 0x08 => if bitOf v 1 then discardQ s q else if bitOf v 0 then resumeQ s q else s
  | 0x18 => if bitOf v 31 then qnMod s q (fun n => { n with fnanValid := false }) else s
  | 0x30 => clearIf (clearIf (clearIf s v 0 (oUfbCnt + 0x40 * q)) v 1 (oRescaleCnt + 0x40 * q)) v 2 (oQnCmdRej + 0x40 * q)
  | _ => s

/-- A write to a link's GL_LCMD: DISABLE wins over the other bits (R337). -/
def lcmdWrite (s : State) (l v : Nat) : State :=
  if bitOf v 1 then disableLink s l
  else
    let s := if bitOf v 3 then clearLink s l else s
    let s := if bitOf v 2 then startTraining s l else s
    if bitOf v 0 then liveRetrain s l else s

/-- SL_RESUME and SL_INVAL. -/
def sluiceWrite (s : State) (off v : Nat) : State :=
  if off = oSlResume then
    (if bitOf v 31 then slDiscard s (v % 2 ^ 16) else if bitOf v 30 then slRetry s (v % 2 ^ 16) else s)
  else slInval s (if bitOf v 31 then none else some (v % 64))

/-- GOV_TXN_CMD (R380, R382, R384). -/
def txnWrite (s : State) (req v : Nat) : State :=
  match fieldOf v 31 30 with
  | 1 => txnBegin s req
  | 2 => txnCommit s req (fieldOf v 29 28)
  | 3 => txnRollback s req
  | _ => apb s 0 true

/-- What a write does beyond the fields kept in the register itself. -/
def sideWrite (s : State) (off v : Nat) : State :=
  let when_ (b : Nat) (f : State → State) (s : State) : State := if bitOf v b then f s else s
  if off = oPsExpCtl then when_ 31 exportStart s
  else if off = oPsExpStatus then when_ 30 (fun s => { s with copy := { s.copy with expErr := false } }) s
  else if off = oStepState then when_ 24 (fun s => { s with pub := { s.pub with late := false } }) s
  else if off = oCkptStatus then when_ 30 (fun s => { s with copy := { s.copy with ckptFail := false } }) s
  else if off = oTrStatus then when_ 28 (fun s => { s with pub := { s.pub with err := false } }) s
  else if off = oTrRepub then trRepub s v
  else if off = oSlResume || off == oSlInval then sluiceWrite s off v
  else if off = oFhStatus then
    when_ 30 (fun s => { s with fh := { s.fh with fatal := false } })
      (when_ 29 (fun s => { s with fh := { s.fh with statePoison := false } }) s)
  else if off = oFhFlipCtl then
    when_ 31 (fun s => { s with fh := { s.fh with armed := true } })
      (when_ 30 (fun s => { s with fh := { s.fh with flipDone := false } }) s)
  else if off = oFhTestCtl then when_ 31 (fun s => { s with fh := { s.fh with testAbort := true } }) s
  else if off = oFhSepiaCmd then when_ 0 (fun s => if s.fh.sepia then s else { s with fh := { s.fh with sepiaDue := 2 } }) s
  else if off = oGovLedgerErr then when_ 31 (fun s => { s with gov := { s.gov with ledgerErr := false } }) s
  else if 0x1000 ≤ off && decide (off < 0x2000) then quernWrite s ((off - 0x1000) / 0x40) ((off - 0x1000) % 0x40) v
  else if 0x4400 ≤ off && decide (off < 0x5000) && (off - 0x4400) % 0x20 == 0x1C then lcmdWrite s ((off - 0x4400) / 0x20) v
  else (clearWrite s off v).getD s

/-- A write of a register that exists, under its access codes (R7, R413). -/
def codedWrite (s : State) (f : RegFam) (req off v : Nat) : State :=
  if off = oGovTxnCmd then txnWrite s req v
  else if off = oGovTxnTblCmd then stageLoad s req (v % 16)
  else if off = oGovTxnCancel then txnCancel s (v % 2 ^ 16)
  else if off = oFhGradeSet then gradeSet s req (v % 2 ^ 18)
  else
    let own := f.rw ||| f.w1c ||| f.w1s ||| f.wo
    if f.rwt = 0 then apb (sideWrite (plainWrite s f off v) off v) 0 false
    else
      let (ok, s) := stageWrite s req off (v &&& f.rwt)
      if own = 0 then apb s 0 (!ok) else apb (sideWrite (plainWrite s f off v) off v) 0 false

/-- REGISTER_WRITE (R403, R404, R415). -/
def registerWrite (s : State) (req addr v strb : Nat) : State :=
  if strb ≠ 15 || addr % 4 ≠ 0 || 0x7000 ≤ addr then apb s 0 true
  else match regAt addr with
    | none => apb s 0 false
    | some f => if regPresent s addr then codedWrite s f req addr (v % 2 ^ 32) else apb s 0 false

def execTurnNowLoRead (req : Nat) (s : State) : Out := .next (turnNowRead s req)
def execRegisterWrite (req addr value strb : Nat) (s : State) : Out := .next (registerWrite s req addr value strb)

end Sys2Proof.Machine
end

