-- ==== Sys2Proof/Machine/QuernMatrix.lean ====
section
/-!
DEFINITION. Quern matrix instructions (0x30 to 0x33; R63 to R79, R83, R140, R141).
-/
namespace Sys2Proof.Machine

/-- Operand classes of R65: 0 16-bit, 1 8- and 6-bit, 2 4-bit, 3 mixed, 4 integer, 5 binary32, 6 binary64. -/
def operandClass (t : Tile) : Option Nat :=
  match t.fmt with
  | 0 => some 6
  | 1 => some 5
  | 2 | 3 => some 0
  | 4 | 5 | 6 | 7 => some 1
  | 8 => some 2
  | 9 => some (if t.scales.isSome then 1 else 4)
  | 0xA => some (if t.scales.isSome then 2 else 4)
  | _ => none

/-- The class of a pair; none when the pairing is refused (R65). -/
def pairClass (a b : Tile) : Option Nat :=
  match operandClass a, operandClass b with
  | some x, some y =>
    if x = y then some x
    else if (x = 1 ∧ y = 2) ∨ (x = 2 ∧ y = 1) then some 3
    else if (x = 0 ∧ (y = 1 ∨ y = 2)) ∨ (y = 0 ∧ (x = 1 ∨ x = 2)) then some 0
    else none
  | _, _ => none

/-- Fields of the configuration word (R140). -/
def cfgSpill (w : Nat) : Nat := fieldOf w 16 0
def cfgRescale (w : Nat) : Bool := bitOf w 17
def cfgLimb (w : Nat) : Nat := fieldOf w 19 18
def cfgFw96 (w : Nat) : Bool := bitOf w 20
def cfgE (w : Nat) : Int := signed 10 (fieldOf w 31 22)
def cfgBase (w : Nat) : Nat := fieldOf w 63 32

/-- Whether a configuration satisfies R69, R78, R82 and R140 for a class on set d. -/
def cfgOk (s : State) (w cls d : Nat) (otherFree : Bool) : Bool :=
  decide (cfgSpill w ≤ 65536) && (!cfgRescale w || cls == 4) && cfgLimb w != 1 && (cfgLimb w == 0 || cls == 5)
    && (!cfgFw96 w || (d == 0 && otherFree && cls != 4 && cls != 6)) && !bitOf w 21
    && (cfgFw96 w || fieldOf w 31 22 == 0)
    && (if cfgSpill w = 0 then cfgBase w == 0 else cfgBase w % 256 == 0 && scratchOk s (cfgBase w) 49152)

/-- The mode of a chain (R65, R76, R78). -/
def chainKind (w cls : Nat) : ChainKind :=
  if cfgFw96 w then .fw96
  else match cls with
    | 4 => .int
    | 6 => .b64
    | 5 => if cfgLimb w = 0 then .t48 64 else .limbs (decide (cfgLimb w = 3))
    | _ => .t48 40

/-- A set, and whether it is free: an FW96 chain on a0 takes both (R78, R109). -/
def setOf (c : QCtx) (d : Nat) : Option Chain := if d = 0 then c.a0 else c.a1
def setFree (c : QCtx) (d : Nat) : Bool :=
  if d = 0 then c.a0.isNone else c.a1.isNone && (match c.a0 with | some ch => ch.kind != .fw96 | none => true)
def putSet (c : QCtx) (d : Nat) (x : Option Chain) : QCtx := if d = 0 then { c with a0 := x } else { c with a1 := x }

/-! ### One MMA -/

/-- Rows of A and columns of B as values, and the flags of an invalid per-tensor scale (R64). -/
def rowVals (t : Tile) (n k : Nat) : Array (List FV) × Flags :=
  let a := t.codes.toArray
  let es := (List.range n).map (fun i => (List.range k).map (fun x => t.elem a i x))
  ((es.map (fun r => r.map (fun e => e.1.v))).toArray, flagsOr (es.map (fun r => flagsOr (r.map (fun e => e.2)))))
def colVals (t : Tile) (n k : Nat) : Array (List FV) × Flags :=
  let a := t.codes.toArray
  let es := (List.range n).map (fun j => (List.range k).map (fun x => t.elem a x j))
  ((es.map (fun r => r.map (fun e => e.1.v))).toArray, flagsOr (es.map (fun r => flagsOr (r.map (fun e => e.2)))))

/-- One limb of every element, scaled by the per-tensor scale (R64, R76). -/
def limbVals (t : Tile) (limb n k : Nat) (col : Bool) : Array (List FV) :=
  let a := t.codes.toArray
  let sc (v : FV) : FV := match t.tscale with
    | none => v
    | some x => if scaleOk x then (mulFV v (decodeFV fmtB32 x)).1 else fvNaN
  ((List.range n).map (fun i => (List.range k).map (fun x =>
    sc (pickLimb limb (limbs (a.getD (if col then 64 * x + i else 64 * i + x) 0)))))).toArray

/-- Chunks of k indices: the first and the count (R66). -/
def chunksOf (k : Nat) : List (Nat × Nat) := if k ≤ 32 then [(0, k)] else [(0, 32), (32, k - 32)]

/-- Spill the accumulators into the T96 totals (R69, R82). -/
def spillChain (s : State) (ch : Chain) : Chain × Flags × State :=
  let base := cfgBase ch.cfg
  let (fl, s) := (ch.acc.zipIdx).foldl (fun (a : Flags × State) (x, e) =>
    let old := if ch.spilled then scrNat a.2 (base + 12 * e) 12 else t96NegZero
    let (v, f) := accT96 (decodeFV fmtT96 old) (t48FV x)
    (a.1 ||| f, scrWrite a.2 (base + 12 * e) (leBytes 12 (encodeFV fmtT96 v)))) ((0 : Flags), s)
  ({ ch with acc := ch.acc.map (fun _ => t48NegZero), spilled := true, nch := 0 }, fl, s)

/-- One chunk of one pass entering every valid output (R67 to R69). -/
def chunkInto (w : Nat) (as bs : Array (List FV)) (s : State) (ch : Chain) (k0 n : Nat) : Chain × Flags × State :=
  let outs := (ch.acc.zipIdx).map (fun (x, e) =>
    let i := e / 64
    let j := e % 64
    if i < ch.rows ∧ j < ch.cols then
      chunkStep w x (((as.getD i []).drop k0).take n) (((bs.getD j []).drop k0).take n)
    else (x, 0))
  let ch := { ch with acc := outs.map (fun o => o.1), nch := ch.nch + 1 }
  let fl := flagsOr (outs.map (fun o => o.2))
  if cfgSpill ch.cfg ≠ 0 && ch.nch == cfgSpill ch.cfg then
    let (ch, f2, s) := spillChain s ch
    (ch, fl ||| f2, s)
  else (ch, fl, s)

/-- One pass of an MMA. -/
def passInto (w k : Nat) (as bs : Array (List FV)) (s : State) (ch : Chain) : Chain × Flags × State :=
  (chunksOf k).foldl (fun (a : Chain × Flags × State) (k0, n) =>
    let (ch, fl, s) := chunkInto w as bs a.2.2 a.1 k0 n
    (ch, a.2.1 ||| fl, s)) (ch, 0, s)

/-- Products of FW96 outputs (R78): totals, records, CO and flags. -/
def fwPass (e : Int) (as bs : Array (List FV)) (ch : Chain) : Chain × Flags :=
  let outs := ((ch.acc.zip ch.negZero).zipIdx).map (fun ((x, z), ix) =>
    let i := ix / 64
    let j := ix % 64
    if i < ch.rows ∧ j < ch.cols then
      ((as.getD i []).zip (bs.getD j [])).foldl (fun (st : Nat × Bool × Bool × Flags) (a, b) =>
        let (p, f) := mulFV a b
        let t := fwTerm 79 e p
        ((st.1 + twosCode 96 t.q) % 2 ^ 96, st.2.1 && isNegZero p, st.2.2.1 || t.ovr || t.bad,
          st.2.2.2 ||| (f &&& flNV) ||| flagIf t.ovr flOF ||| flagIf t.bad flNV)) (x, z, false, (0 : Flags))
    else (x, z, false, (0 : Flags)))
  ({ ch with acc := outs.map (fun o => o.1), negZero := outs.map (fun o => o.2.1), co := ch.co || outs.any (fun o => o.2.2.1) },
   flagsOr (outs.map (fun o => o.2.2.2)))

/-- The integer codes of an element list. -/
def intCodes (t : Tile) (n k : Nat) (col : Bool) : Array (List Int) :=
  let a := t.codes.toArray
  let b := (intWidth t.fmt).getD 8
  ((List.range n).map (fun i => (List.range k).map (fun x =>
    signed b (a.getD (if col then 64 * x + i else 64 * i + x) 0)))).toArray

/-- One try of an integer MMA at shift t, saturating or not: totals and whether an event occurred (R73, R74). -/
def intTry (sat : Bool) (sh : Nat) (as bs : Array (List Int)) (ch : Chain) : List Nat × Bool :=
  let outs := (ch.acc.zipIdx).map (fun (x, ix) =>
    let i := ix / 64
    let j := ix % 64
    if i < ch.rows ∧ j < ch.cols then
      let (v, ev) := intChain sat (signed 32 x) ((as.getD i []).map (fun c => rneShift c sh)) (bs.getD j [])
      (twosCode 32 v, ev)
    else (x, false))
  (outs.map (fun o => o.1), outs.any (fun o => o.2))

/-- An integer MMA with its rescales: the chain, flags and rescale counts (R74). The fuel is the shifts left. -/
def intMma (as bs : Array (List Int)) : Nat → Chain → Chain × Flags × Nat
  | 0, ch =>
    let (acc, ev) := intTry false ch.shift as bs ch
    if !ev then ({ ch with acc := acc }, 0, 0)
    else ({ ch with acc := (intTry true ch.shift as bs ch).1 }, flSAT, b2n (cfgRescale ch.cfg))
  | n + 1, ch =>
    let (acc, ev) := intTry false ch.shift as bs ch
    if !ev then ({ ch with acc := acc }, 0, 0)
    else if cfgRescale ch.cfg then
      let (ch, fl, k) := intMma as bs n { ch with
        shift := ch.shift + 1
        acc := ch.acc.map (fun x => twosCode 32 (rneShift (signed 32 x) 1)) }
      (ch, fl, k + 1)
    else ({ ch with acc := (intTry true ch.shift as bs ch).1 }, flSAT, 0)

/-- One MMA into a chain: the chain, flags, rescales counted, and the state with spills made (R63). -/
def mmaInto (s : State) (ch : Chain) (a b : Tile) (k : Nat) : Chain × Flags × Nat × State :=
  match ch.kind with
  | .int =>
    let (ch, fl, n) := intMma (intCodes a ch.rows k false) (intCodes b ch.cols k true) (3 - ch.shift) ch
    (ch, fl, n, s)
  | .b64 =>
    let (as, fa) := rowVals a ch.rows k
    let (bs, fb) := colVals b ch.cols k
    let outs := (ch.acc.zipIdx).map (fun (x, e) =>
      if e / 64 < ch.rows ∧ e % 64 < ch.cols then fma64Chain x (as.getD (e / 64) []) (bs.getD (e % 64) []) else (x, 0))
    ({ ch with acc := outs.map (fun o => o.1) }, fa ||| fb ||| flagsOr (outs.map (fun o => o.2)), 0, s)
  | .fw96 =>
    if cfgLimb ch.cfg = 0 then
      let (as, fa) := rowVals a ch.rows k
      let (bs, fb) := colVals b ch.cols k
      let (ch, fl) := fwPass (cfgE ch.cfg) as bs { ch with products := ch.products + k }
      (ch, fa ||| fb ||| fl, 0, s)
    else
      let ps := limbPasses (decide (cfgLimb ch.cfg = 3))
      let (ch, fl) := ps.foldl (fun (st : Chain × Flags) p =>
        let (ch, fl) := fwPass (cfgE st.1.cfg) (limbVals a p.1 st.1.rows k false) (limbVals b p.2 st.1.cols k true) st.1
        (ch, st.2 ||| fl)) ({ ch with products := ch.products + k * ps.length }, (0 : Flags))
      (ch, fl, 0, s)
  | .limbs three =>
    let bad := flagIf ((match a.tscale with | some t => !scaleOk t | none => false)
      || (match b.tscale with | some t => !scaleOk t | none => false)) flNV
    let (ch, fl, s) := (limbPasses three).foldl (fun (st : Chain × Flags × State) p =>
      let (ch, fl, s) := passInto 40 k (limbVals a p.1 st.1.rows k false) (limbVals b p.2 st.1.cols k true) st.2.2 st.1
      (ch, st.2.1 ||| fl, s)) (ch, bad, s)
    (ch, fl, 0, s)
  | .t48 w =>
    let (as, fa) := rowVals a ch.rows k
    let (bs, fb) := colVals b ch.cols k
    let (ch, fl, s) := passInto w k as bs s ch
    (ch, fa ||| fb ||| fl, 0, s)

/-- Products an MMA adds to an output of an FW96 chain. -/
def fwCount (w k : Nat) : Nat := if cfgLimb w = 0 then k else k * (limbPasses (decide (cfgLimb w = 3))).length

/-- The accumulators a C tile gives, or a cleared set (R68, R72, R73); none when its format is not permitted. -/
def openAcc (kind : ChainKind) (ct : Option Tile) : Option (List Nat × Flags) :=
  match ct with
  | none =>
    match kind with
    | .int => some (List.replicate 4096 0, 0)
    | .fw96 => some (List.replicate 4096 0, 0)
    | _ => some (List.replicate 4096 t48NegZero, 0)
  | some t =>
    let a := t.codes.toArray
    let fl := t.valid.2
    let each (g : FV → Nat) : Option (List Nat × Flags) :=
      some ((List.range 4096).map (fun e => g (t.elem a (e / 64) (e % 64)).1.v), fl)
    match kind with
    | .int => if t.fmt = 0xB then some (t.codes, 0) else none
    | .fw96 => none
    | .b64 => if [0, 1, 2, 3, 0xC].contains t.fmt then each (fun v => encodeFV fmtB64 (convertFV fmtB64 .rne v).1) else none
    | _ => if [0, 1, 2, 3, 0xC].contains t.fmt then each (fun v => t48Code (canonFV (convertFV fmtT48 .rne v).1)) else none

/-- The lowest output that is NaN in a T48 or binary64 chain. -/
def accNan (ch : Chain) : Option Nat :=
  let p (x : Nat) : Bool := match ch.kind with
    | .int => false
    | .fw96 => false
    | .b64 => (decodeFV fmtB64 x).isNan
    | _ => (t48FV x).isNan
  (ch.acc.zipIdx).findIdx? (fun (x, e) => decide (e / 64 < ch.rows) && decide (e % 64 < ch.cols) && p x)

/-- Whether a source element of an MMA is NaN. -/
def mmaSrcNan (a b : Tile) (rows cols k : Nat) : Bool :=
  (rowVals a rows k).1.any (fun r => r.any FV.isNan) || (colVals b cols k).1.any (fun r => r.any FV.isNan)

/-- Run an MMA on a chain and complete the instruction. -/
def runMma (s : State) (q op : Nat) (f : QFields) (ch : Chain) (a b : Tile) (k : Nat) (f0 : Flags) : State :=
  let old := accNan ch
  let (ch2, fl, n, s) := mmaInto s ch a b k
  let s := if n = 0 then s else bumpBy s (oRescaleCnt + 0x40 * q) n
  let s := ctxMod s q (fun c => raiseFlags (putSet c f.d (some ch2)) (f0 ||| fl))
  complete s q op f (accNan ch2) (old.isSome || mmaSrcNan a b ch.rows ch.cols k)

/-- MCFG (R140). -/
def doMcfg (s : State) (q : Nat) (f : QFields) : State :=
  let c := ctxOf s q
  if !setFree c f.d then trapQ s q 1
  else completePlain s q (fun c => if f.d = 0 then { c with cfg0 := sReg c f.a } else { c with cfg1 := sReg c f.a })

/-- MMA.OPEN (R140). -/
def doMmaOpen (s : State) (q : Nat) (f : QFields) : State :=
  let c := ctxOf s q
  let tile (r : Nat) : Option Tile := mapGet (fun _ => none) c.t r
  let cfg := if f.d = 0 then c.cfg0 else c.cfg1
  let k := f.md % 64 + 1
  match tile f.a, tile f.b with
  | some a, some b =>
    match pairClass a b with
    | none => trapQ s q 1
    | some cls =>
      if !setFree c f.d || !cfgOk s cfg cls f.d c.a1.isNone || a.cols < k || b.rows < k
        || (f.c != 0x3F && (tile f.c).isNone) then trapQ s q 1
      else
        match openAcc (chainKind cfg cls) (if f.c = 0x3F then none else tile f.c) with
        | none => trapQ s q 1
        | some (acc, f0) =>
          let ch : Chain := ⟨chainKind cfg cls, cls, cfg, 0, 0, false, a.rows, b.cols, a.tscale, b.tscale, false, 0, acc,
            List.replicate 4096 true⟩
          let s := ctxMod s q (fun c => if f.d = 0 then { c with cfg0 := 0 } else { c with cfg1 := 0 })
          runMma s q 0x31 f ch a b k f0
  | _, _ => trapQ s q 1

/-- MMA (R63, R78, R140). -/
def doMma (s : State) (q : Nat) (f : QFields) : State :=
  let c := ctxOf s q
  let tile (r : Nat) : Option Tile := mapGet (fun _ => none) c.t r
  let k := f.md % 64 + 1
  match tile f.a, tile f.b, setOf c f.d with
  | some a, some b, some ch =>
    if pairClass a b != some ch.cls || a.cols < k || b.rows < k || a.rows != ch.rows || b.cols != ch.cols
      || (cfgLimb ch.cfg != 0 && (a.fmt != 1 || b.fmt != 1))
      || (ch.kind == .fw96 && decide (65536 < ch.products + fwCount ch.cfg k)) then trapQ s q 1
    else runMma s q 0x32 f ch a b k 0
  | _, _, _ => trapQ s q 1

/-! ### Drain (R71, R72, R75, R79, R83) -/

/-- A per-tensor scale as a value, an absent one 1. -/
def tFV (t : Option Nat) : FV :=
  match t with
  | none => .fin false 1 0
  | some x => if scaleOk x then decodeFV fmtB32 x else fvNaN

/-- exact_total of output e. -/
def drainValue (s : State) (ch : Chain) (e : Nat) : Src :=
  let x := ch.acc.getD e 0
  match ch.kind with
  | .int => srcOf (mulFV (mulFV (.fin (decide (signed 32 x < 0)) (signed 32 x).natAbs ch.shift) (tFV ch.ta)).1 (tFV ch.tb)).1
  | .b64 => srcOf (decodeFV fmtB64 x)
  | .fw96 =>
    let v := signed 96 x
    srcOf (if v = 0 then .fin (ch.negZero.getD e false) 0 0 else .fin (decide (v < 0)) v.natAbs (cfgE ch.cfg - 79))
  | _ =>
    if ch.spilled then
      srcOf (canonFV (addFV .rne (decodeFV fmtT96 (scrNat s (cfgBase ch.cfg + 12 * e) 12)) (t48FV x)).1)
    else srcOf (t48FV x)

/-- Epilogue results by valid row or column, as (index, code) (R83). -/
def epilogue (epi : Nat) (byCol : Bool) (rows cols : Nat) (d : Array FV) : List (Nat × Nat × Flags) :=
  let line (r : Nat) : List FV :=
    if byCol then (List.range rows).map (fun i => d.getD (i * cols + r) fvNaN)
    else (List.range cols).map (fun j => d.getD (r * cols + j) fvNaN)
  (List.range (if byCol then cols else rows)).map (fun r =>
    match epi with
    | 1 => let (v, fl) := foldMaxMin true (line r); (r, t48Code v, fl)
    | 2 => let (v, fl) := epiSum false (line r); (r, v, fl &&& (flNV ||| flOF))
    | 3 => let (v, fl) := epiSum true (line r); (r, v, fl &&& (flNV ||| flOF))
    | _ => (r, argMaxMin true (line r), 0))

/-- What a drain does once it may write: the converted outputs and scales, the epilogue, f0, and the freed set (R71, R72,
R75, R79, R83). -/
def drainOut (s : State) (q : Nat) (f : QFields) (ch : Chain) : State :=
  let c := ctxOf s q
  let o := sReg c f.b
  let epi := f.md % 8
  let bsize := fieldOf f.md 6 4
  let bdir := bitOf f.md 7
  let eo := sReg c f.c
  let cells := (List.range ch.rows).flatMap (fun i => (List.range ch.cols).map (fun j => 64 * i + j))
  let srcs := cells.map (drainValue s ch)
  let tBad := ch.kind == .int && ((tFV ch.ta).isNan || (tFV ch.tb).isNan)
  let (ws, s) := tileWords s q (decide (f.rnd = 2)) srcs.length
  let out : MatOut := if f.fo = 0xD then ⟨cells.map (fun e => ch.acc.getD e 0), [], 0, 0⟩
    else convertMatrix ch.rows ch.cols srcs f.fo (if isShort f.fo then some (bsize, bdir) else none) none f.sat
      (selOf c f.rnd) ws
  let s := putTile s q o f.fo bsize bdir ch.rows ch.cols out.codes out.scales
  let d := (srcs.map (fun x => canonFV (convertFV fmtT48 .rne x.v).1)).toArray
  let eps := if epi = 0 then [] else epilogue epi (bitOf f.md 3) ch.rows ch.cols d
  let w := if epi = 4 then 4 else 8
  let s := eps.foldl (fun s x => storeWrite s q (eo + w * x.1) (leBytes w x.2.1) []) s
  let s := countUnder s q out.underBlocks
  let fl := out.flags ||| flagsOr (eps.map (fun x => x.2.2)) ||| flagIf tBad flNV
  let s := ctxMod s q (fun c => raiseFlags (putSet c f.a none) fl)
  let nanE (p : Nat × Nat) : Bool := f.fo != 0xD && (nanAt f.fo p.2
    || (isShort f.fo && out.scales.getD (if bdir then (p.1 / ch.cols / blockSize bsize) * ch.cols + p.1 % ch.cols
      else (p.1 / ch.cols) * ceilDiv ch.cols (blockSize bsize) + p.1 % ch.cols / blockSize bsize) 0 == 0xFF))
  let nan := match nanIndex ch.cols ((out.codes.zipIdx).map (fun (x, i) => nanE (i, x))) with
    | some i => some i
    | none => (eps.find? (fun x => epi != 4 && (t48FV x.2.1).isNan)).map (fun x => x.1)
  complete s q 0x33 f nan (srcs.any (fun x => x.v.isNan))
where
  /-- Whether a code of a format is a NaN. -/
  nanAt (fmt x : Nat) : Bool := (elemFV fmt x).isNan

/-- DRN (R141). -/
def doDrn (s : State) (q : Nat) (f : QFields) : State :=
  let c := ctxOf s q
  let o := sReg c f.b
  let epi := f.md % 8
  let bsize := fieldOf f.md 6 4
  let bdir := bitOf f.md 7
  match setOf c f.a with
  | none => trapQ s q 1
  | some ch =>
    let fw := ch.kind == .fw96
    let eo := sReg c f.c
    let en := if epi = 0 then 0 else if epi = 4 then 256 else 512
    if f.fo = 0xD && !fw then trapQ s q 1
    else withStore s q o (tileSpan f.fo bsize bdir (isShort f.fo)) false (fun s =>
      if en ≠ 0 && !storeRangeOk eo en then trapQ s q 4
      else if en ≠ 0 && storeBusy s q eo en then s
      else if fw && ch.co then
        (if bitOf c.qcr.toNat 6 then completePlain s q (fun c => raiseFlags c flCO) else trapQ s q 5)
      else
        drainOut s q f ch)

def execMcfg (q : Nat) (f : QFields) (s : State) : Out := .next (issue s q 0x30 f (fun s => doMcfg s q f))
def execMmaOpen (q : Nat) (f : QFields) (s : State) : Out := .next (issue s q 0x31 f (fun s => doMmaOpen s q f))
def execMma (q : Nat) (f : QFields) (s : State) : Out := .next (issue s q 0x32 f (fun s => doMma s q f))
def execDrn (q : Nat) (f : QFields) (s : State) : Out := .next (issue s q 0x33 f (fun s => doDrn s q f))

end Sys2Proof.Machine
end

