-- ==== Sys2Proof/Machine/QuernVector.lean ====
section
/-!
DEFINITION. Quern vector, special-function, conversion, cross-lane, fixed-window and random instructions (0x40 to
0xA2; R142 to R147).
-/
namespace Sys2Proof.Machine

/-- Whether a code of a format is a NaN. -/
def nanCode (fmt x : Nat) : Bool := (elemFV fmt x).isNan

/-- Whether an active lane of any source is a NaN. -/
def anyNan (fmt : Nat) (act : List Bool) (srcs : List (List Nat)) : Bool :=
  srcs.any (fun l => (l.zip act).any (fun (x, on) => on && nanCode fmt x))

/-- Run a function on every active lane of sources in format `fi`, writing codes of `fo` into v[d] with flags
(R130, R142). `fn` gets the lane's source codes. -/
def lanewise (s : State) (q op : Nat) (f : QFields) (fi fo : Nat) (srcs : List Nat) (fn : List Nat → Nat × Flags) : State :=
  let c := ctxOf s q
  let act := activeLanes c f.pred
  let ins := srcs.map (fun r => lanesOf c fi r)
  let lanes := act.zipIdx.map (fun (on, i) => if on then some (fn (ins.map (fun (l : List Nat) => l.getD i 0))) else none)
  let outs := lanes.map (fun x => x.map (fun y => y.1))
  let fl := flagsOr (lanes.map (fun x => x.elim 0 (fun y => y.2)))
  let nan := outs.findIdx? (fun x => x.elim false (nanCode fo))
  complete (ctxMod s q (fun c => raiseFlags (putLanes c fo f.d outs) fl)) q op f nan (anyNan fi act ins)

/-- The float of a vector format code. -/
def vfmt (fi : Nat) : Fmt := (floatFmt fi).getD fmtB32

/-- A lane-wise operation on values in FI with a result in FI. -/
def vecVal (q op : Nat) (f : QFields) (srcs : List Nat) (fn : List FV → FV × Flags) (s : State) : State :=
  lanewise s q op f f.fi f.fi srcs (fun xs =>
    let (v, fl) := fn (xs.map (elemFV f.fi))
    (elemCode f.fi v, fl))

/-- Two-operand form. -/
def vec2 (q op : Nat) (f : QFields) (fn : RM → FV → FV → FV × Flags) (s : State) : State :=
  vecVal q op f [f.a, f.b] (fun xs => fn (rmOf (ctxOf s q) f.rnd) (xs.getD 0 fvNaN) (xs.getD 1 fvNaN)) s

/-- One-operand form. -/
def vec1 (q op : Nat) (f : QFields) (fn : RM → FV → FV × Flags) (s : State) : State :=
  vecVal q op f [f.a] (fun xs => fn (rmOf (ctxOf s q) f.rnd) (xs.getD 0 fvNaN)) s

/-- Sign-bit operations: bits of an FI code, no flag (R142). -/
def signBit (fi : Nat) : Nat := 2 ^ (fmtBits fi - 1)

def execVadd (q : Nat) (f : QFields) (s : State) : Out := .next (issue s q 0x40 f (vec2 q 0x40 f (fpAdd (vfmt f.fi))))
def execVsub (q : Nat) (f : QFields) (s : State) : Out := .next (issue s q 0x41 f (vec2 q 0x41 f (fpSub (vfmt f.fi))))
def execVmul (q : Nat) (f : QFields) (s : State) : Out := .next (issue s q 0x42 f (vec2 q 0x42 f (fpMul (vfmt f.fi))))
def execVfma (q : Nat) (f : QFields) (s : State) : Out :=
  .next (issue s q 0x43 f (fun s => vecVal q 0x43 f [f.a, f.b, f.c] (fun xs =>
    fpFma (vfmt f.fi) (rmOf (ctxOf s q) f.rnd) (xs.getD 0 fvNaN) (xs.getD 1 fvNaN) (xs.getD 2 fvNaN)) s))
def execVdiv (q : Nat) (f : QFields) (s : State) : Out := .next (issue s q 0x44 f (vec2 q 0x44 f (fpDiv (vfmt f.fi))))
def execVmax (q : Nat) (f : QFields) (s : State) : Out := .next (issue s q 0x45 f (vec2 q 0x45 f (fun _ => fpMaxMin true)))
def execVmin (q : Nat) (f : QFields) (s : State) : Out := .next (issue s q 0x46 f (vec2 q 0x46 f (fun _ => fpMaxMin false)))
def execVmaxn (q : Nat) (f : QFields) (s : State) : Out :=
  .next (issue s q 0x47 f (vec2 q 0x47 f (fun _ => fpMaxMinNum true)))
def execVminn (q : Nat) (f : QFields) (s : State) : Out :=
  .next (issue s q 0x48 f (vec2 q 0x48 f (fun _ => fpMaxMinNum false)))
def execVabs (q : Nat) (f : QFields) (s : State) : Out :=
  .next (issue s q 0x49 f (fun s => lanewise s q 0x49 f f.fi f.fi [f.a] (fun xs => (xs.getD 0 0 % signBit f.fi, 0))))
def execVneg (q : Nat) (f : QFields) (s : State) : Out :=
  .next (issue s q 0x4A f (fun s => lanewise s q 0x4A f f.fi f.fi [f.a] (fun xs => (xs.getD 0 0 ^^^ signBit f.fi, 0))))
def execVcpsgn (q : Nat) (f : QFields) (s : State) : Out :=
  .next (issue s q 0x4B f (fun s => lanewise s q 0x4B f f.fi f.fi [f.a, f.b] (fun xs =>
    (xs.getD 0 0 % signBit f.fi + (xs.getD 1 0 / signBit f.fi) * signBit f.fi, 0))))
def execVrem (q : Nat) (f : QFields) (s : State) : Out := .next (issue s q 0x4C f (vec2 q 0x4C f (fun _ => fpRem (vfmt f.fi))))
def execVrint (q : Nat) (f : QFields) (s : State) : Out :=
  .next (issue s q 0x4D f (vec1 q 0x4D f (fun rm => fpRint (vfmt f.fi) rm (bitOf f.md 0))))
/-- VSCALB takes its exponents from the 64 int32 lanes of one register. -/
def execVscalb (q : Nat) (f : QFields) (s : State) : Out :=
  .next (issue s q 0x4E f (fun s =>
    let c := ctxOf s q
    let act := activeLanes c f.pred
    let xs := lanesOf c f.fi f.a
    let ns := vLanes c f.b
    let lanes := (act.zip (xs.zip ns)).map (fun (on, x, n) =>
      if on then some (fpScaleB (vfmt f.fi) (rmOf c f.rnd) (elemFV f.fi x) (signed 32 n)) else none)
    let outs := lanes.map (fun x => x.map (fun y => elemCode f.fi y.1))
    let fl := flagsOr (lanes.map (fun x => x.elim 0 (fun y => y.2)))
    complete (ctxMod s q (fun c => raiseFlags (putLanes c f.fi f.d outs) fl)) q 0x4E f
      (outs.findIdx? (fun x => x.elim false (nanCode f.fi))) (anyNan f.fi act [xs])))
def execVlogb (q : Nat) (f : QFields) (s : State) : Out :=
  .next (issue s q 0x4F f (fun s => lanewise s q 0x4F f f.fi 0xB [f.a] (fun xs => fpLogB (elemFV f.fi (xs.getD 0 0)))))
def execVnext (q : Nat) (f : QFields) (s : State) : Out :=
  .next (issue s q 0x50 f (fun s => lanewise s q 0x50 f f.fi f.fi [f.a] (fun xs =>
    fpNext (vfmt f.fi) (bitOf f.md 0) (xs.getD 0 0))))

/-- Write predicate bits of the active lanes (R130). -/
def putPred (c : QCtx) (d : Nat) (bits : List (Option Bool)) : QCtx :=
  let old := pReg c d
  setP c d (bitsFrom (fun i => (bits.getD i none).getD (bitOf old i)) 64)

def execVcmp (q : Nat) (f : QFields) (s : State) : Out :=
  .next (issue s q 0x51 f (fun s =>
    let c := ctxOf s q
    let act := activeLanes c f.pred
    let outs := (act.zip ((lanesOf c f.fi f.a).zip (lanesOf c f.fi f.b))).map (fun (on, a, b) =>
      if on then some (fpCompare (f.md % 8) (bitOf f.md 3) (elemFV f.fi a) (elemFV f.fi b)) else none)
    let fl := flagsOr (outs.map (fun x => x.elim 0 (fun y => y.2)))
    completePlain s q (fun c => raiseFlags (putPred c f.d (outs.map (fun x => x.map (fun y => y.1)))) fl)))
def execVclass (q : Nat) (f : QFields) (s : State) : Out :=
  .next (issue s q 0x52 f (fun s => lanewise s q 0x52 f f.fi 0xB [f.a] (fun xs =>
    (fpClass (vfmt f.fi) (elemFV f.fi (xs.getD 0 0)), 0))))
def execVsel (q : Nat) (f : QFields) (s : State) : Out :=
  .next (issue s q 0x53 f (fun s =>
    let c := ctxOf s q
    let act := activeLanes c f.pred
    let pick := activeLanes c f.c
    let a := lanesOf c f.fi f.a
    let b := lanesOf c f.fi f.b
    let outs := (act.zip (pick.zip (a.zip b))).map (fun (on, p, x, y) => if on then some (if p then x else y) else none)
    complete (ctxMod s q (fun c => putLanes c f.fi f.d outs)) q 0x53 f
      (outs.findIdx? (fun x => x.elim false (nanCode f.fi))) (anyNan f.fi act [a, b])))

/-- An int32 lane operation: ADD, SUB and MUL obey R41 with SAT, and raise only SAT. -/
def viopLane (op : Nat) (sat : Bool) (a b : Nat) : Nat × Flags :=
  let x := signed 32 a
  let y := signed 32 b
  match op with
  | 0 => fitInt 32 sat (x + y)
  | 1 => fitInt 32 sat (x - y)
  | 2 => fitInt 32 sat (x * y)
  | _ => (aluOp 32 op a b, 0)

def execViop (q : Nat) (f : QFields) (s : State) : Out :=
  .next (issue s q 0x54 f (fun s => lanewise s q 0x54 f 0xB 0xB [f.a, f.b] (fun xs =>
    viopLane f.md f.sat (xs.getD 0 0) (xs.getD 1 0))))
def execVmov (q : Nat) (f : QFields) (s : State) : Out :=
  .next (issue s q 0x55 f (fun s => lanewise s q 0x55 f f.fi f.fi [f.a] (fun xs => (xs.getD 0 0, 0))))
def execVbcast (q : Nat) (f : QFields) (s : State) : Out :=
  .next (issue s q 0x56 f (fun s =>
    let c := ctxOf s q
    let x := sReg c f.a % 2 ^ fmtBits f.fi
    let outs := (activeLanes c f.pred).map (fun on => if on then some x else none)
    complete (ctxMod s q (fun c => putLanes c f.fi f.d outs)) q 0x56 f
      (outs.findIdx? (fun y => y.elim false (nanCode f.fi))) (nanCode f.fi x)))
def execVext (q : Nat) (f : QFields) (s : State) : Out :=
  .next (issue s q 0x57 f (fun s =>
    let c := ctxOf s q
    if bitOf (pReg c f.pred) f.md then
      let x := (lanesOf c f.fi f.a).getD f.md 0
      complete (ctxMod s q (fun c => setS c f.d x)) q 0x57 f (if nanCode f.fi x then some 0 else none) true
    else ctxMod s q nextPc))
def execVlane (q : Nat) (f : QFields) (s : State) : Out :=
  .next (issue s q 0x58 f (fun s => completePlain s q (fun c =>
    putLanes c 0xB f.d ((activeLanes c f.pred).zipIdx.map (fun (on, i) => if on then some i else none)))))

/-- Bits VPK packs a lane into. -/
def packWidth (md : Nat) : Nat :=
  match md with
  | 0 => 4
  | 1 => 6
  | 2 => 8
  | _ => 16

/-- Write lanes under a predicate. -/
def putActive (c : QCtx) (pred d : Nat) (xs : List Nat) : QCtx :=
  putLanes c 0xB d ((activeLanes c pred).zipIdx.map (fun (on, i) => if on then some (xs.getD i 0) else none))

def execVpk (q : Nat) (f : QFields) (s : State) : Out :=
  .next (issue s q 0x59 f (fun s => completePlain s q (fun c =>
    let bs := packElems (packWidth f.md) (vLanes c f.a)
    putActive c f.pred f.d ((List.range 64).map (fun i => leAt bs (4 * i) 4)))))
def execVupk (q : Nat) (f : QFields) (s : State) : Out :=
  .next (issue s q 0x5A f (fun s => completePlain s q (fun c =>
    putActive c f.pred f.d (unpackElems (packWidth f.md) 64 ((vLanes c f.a).flatMap (leBytes 4))))))

def execVrcp (q : Nat) (f : QFields) (s : State) : Out := .next (issue s q 0x60 f (vec1 q 0x60 f (fun _ => fpRcp (vfmt f.fi))))
def execVrsqrt (q : Nat) (f : QFields) (s : State) : Out :=
  .next (issue s q 0x61 f (vec1 q 0x61 f (fun _ => fpRsqrt (vfmt f.fi))))
def execVsqrt (q : Nat) (f : QFields) (s : State) : Out := .next (issue s q 0x62 f (vec1 q 0x62 f (fpSqrt (vfmt f.fi))))
def execVexp2 (q : Nat) (f : QFields) (s : State) : Out := .next (issue s q 0x63 f (vec1 q 0x63 f (fun _ => fpExp2 (vfmt f.fi))))
def execVlog2 (q : Nat) (f : QFields) (s : State) : Out := .next (issue s q 0x64 f (vec1 q 0x64 f (fun _ => fpLog2 (vfmt f.fi))))

/-! ### Conversion (R144) -/

/-- CVT and CVT.ODD: one value per active lane, a word drawn for each under SR. -/
def doCvt (q op : Nat) (f : QFields) (sel : QCtx → RndSel) (s : State) : State :=
  let c := ctxOf s q
  let act := activeLanes c f.pred
  let src := lanesOf c f.fi f.a
  let (ws, s) := if f.rnd = 2 then drawActive s (logicalOf s q) 0 act else (act.map (fun _ => 0), s)
  let lanes := (act.zip (src.zip ws)).map (fun (on, x, w) =>
    if !on then none
    else if f.fi = f.fo && op = 0x70 then some (x, (0 : Flags))
    else some (convTo f.fo f.sat (sel c) (srcOf (elemFV f.fi x)) w))
  let outs := lanes.map (fun x => x.map (fun y => y.1))
  let fl := flagsOr (lanes.map (fun x => x.elim 0 (fun y => y.2)))
  complete (ctxMod s q (fun c => raiseFlags (putLanes c f.fo f.d outs) fl)) q op f
    (outs.findIdx? (fun x => x.elim false (nanCode f.fo))) (anyNan f.fi act [src])

/-- CVTB: block-scaled narrowing of the 64 lanes. -/
def doCvtb (q : Nat) (f : QFields) (s : State) : State :=
  let c := ctxOf s q
  let bsize := fieldOf f.md 14 12
  let t := if bitOf f.md 17 then sReg c f.b % 2 ^ 32 else 0x3F800000
  let src := lanesOf c 1 f.a
  let (ws, s) := if f.rnd = 2 then drawActive s (logicalOf s q) 0 (List.replicate 64 true) else ([], s)
  let out := convertMatrix 1 64 (src.map (fun x => srcOf (elemFV 1 x))) f.fo (some (bsize, false)) (some t) false (selOf c f.rnd) ws
  let s := countUnder s q out.underBlocks
  let scl := (List.range 64).map (fun i => some (out.scales.getD i 0))
  let nan := (out.codes.zipIdx).findIdx? (fun (x, i) => nanCode f.fo x || out.scales.getD (i / blockSize bsize) 0 == 0xFF)
  complete (ctxMod s q (fun c => raiseFlags (putLanes (putLanes c 0xB f.d (out.codes.map some)) 0xB (f.d + 1) scl) out.flags))
    q 0x72 f nan (src.any (nanCode 1))

/-- CVTW: block-scaled widening. -/
def doCvtw (q : Nat) (f : QFields) (s : State) : State :=
  let c := ctxOf s q
  let bs := blockSize (fieldOf f.md 14 12)
  let t := if bitOf f.md 17 then some (sReg c f.b % 2 ^ 32) else none
  let scl := vLanes c (f.a + 1)
  let ins := ((lanesOf c f.fi f.a).zipIdx).map (fun (x, i) => scaledSrc f.fi x (some (scl.getD (i / bs) 0 % 256)) t)
  let outs := ins.map (fun (x, _) => convTo f.fo false (selOf c f.rnd) x 0)
  let fl := flagsOr (ins.map (fun x => x.2)) ||| flagsOr (outs.map (fun x => x.2))
  let codes := outs.map (fun x => x.1)
  complete (ctxMod s q (fun c => raiseFlags (putLanes c f.fo f.d (codes.map some)) fl)) q 0x73 f
    (codes.findIdx? (nanCode f.fo)) (ins.any (fun x => x.1.v.isNan))

def execCvt (q : Nat) (f : QFields) (s : State) : Out := .next (issue s q 0x70 f (doCvt q 0x70 f (fun c => selOf c f.rnd)))
def execCvtOdd (q : Nat) (f : QFields) (s : State) : Out := .next (issue s q 0x71 f (doCvt q 0x71 f (fun _ => .attr .odd)))
def execCvtb (q : Nat) (f : QFields) (s : State) : Out := .next (issue s q 0x72 f (doCvtb q f))
def execCvtw (q : Nat) (f : QFields) (s : State) : Out := .next (issue s q 0x73 f (doCvtw q f))

/-! ### Cross-lane reduction (R57, R58, R130) -/

/-- Active values of a source register, in ascending lane order. -/
def activeVals (c : QCtx) (fi a pred : Nat) : List FV :=
  ((lanesOf c fi a).zip (activeLanes c pred)).filterMap (fun (x, on) => if on then some (elemFV fi x) else none)

/-- A reduction into s[d] of a value in FI. -/
def reduceTo (q op : Nat) (f : QFields) (fn : List FV → FV × Flags) (s : State) : State :=
  let c := ctxOf s q
  let xs := activeVals c f.fi f.a f.pred
  let (v, fl) := fn xs
  complete (ctxMod s q (fun c => raiseFlags (setS c f.d (elemCode f.fi v)) fl)) q op f
    (if v.isNan then some 0 else none) (xs.any FV.isNan)

/-- Fold from -0 in lane order, each step rounded. -/
def foldLanes (fn : FV → FV → FV × Flags) (xs : List FV) : FV × Flags :=
  xs.foldl (fun (a : FV × Flags) x => let (v, fl) := fn a.1 x; (v, a.2 ||| fl)) (.fin true 0 0, 0)

def execVrsum (q : Nat) (f : QFields) (s : State) : Out :=
  .next (issue s q 0x80 f (fun s => reduceTo q 0x80 f (foldLanes (fpAdd (vfmt f.fi) (rmOf (ctxOf s q) f.rnd))) s))
def execVrssq (q : Nat) (f : QFields) (s : State) : Out :=
  .next (issue s q 0x81 f (fun s => reduceTo q 0x81 f
    (foldLanes (fun a x => fpFma (vfmt f.fi) (rmOf (ctxOf s q) f.rnd) x x a)) s))
def execVrmax (q : Nat) (f : QFields) (s : State) : Out := .next (issue s q 0x82 f (reduceTo q 0x82 f (foldMaxMin true)))
def execVrmin (q : Nat) (f : QFields) (s : State) : Out := .next (issue s q 0x83 f (reduceTo q 0x83 f (foldMaxMin false)))
def execVrargmax (q : Nat) (f : QFields) (s : State) : Out :=
  .next (issue s q 0x84 f (fun s => completePlain s q (fun c => setS c f.d (argMaxMin true (activeVals c f.fi f.a 0)))))
def execVrargmin (q : Nat) (f : QFields) (s : State) : Out :=
  .next (issue s q 0x85 f (fun s => completePlain s q (fun c => setS c f.d (argMaxMin false (activeVals c f.fi f.a 0)))))

/-! ### Fixed-window reduction (R145, R146) -/

/-- The words of a triple or quadruple as one number per lane (R129). -/
def wideLanes (c : QCtx) (n r : Nat) : List Nat :=
  (List.range 64).map (fun i => sumTo (fun k => vLane c (r + k) i * 2 ^ (32 * k)) n)

/-- Write wide lanes back. -/
def putWide (c : QCtx) (n r : Nat) (xs : List (Option Nat)) : QCtx :=
  (List.range n).foldl (fun c k => putLanes c 0xB (r + k) (xs.map (fun x => x.map (fun v => v / 2 ^ (32 * k) % 2 ^ 32)))) c

/-- A 10-bit two's-complement exponent of a scalar register. -/
def expOf (c : QCtx) (r : Nat) : Int := signed 10 (sReg c r)

/-- Convert active lanes into terms of w fraction weight: terms, NV, and overflow bits. -/
def termLanes (w : Nat) (e : Int) (act : List Bool) (xs : List FV) : List (Option Term) :=
  (act.zip xs).map (fun (on, x) => if on then some (fwTerm w e x) else none)

def execFwcvt (q : Nat) (f : QFields) (s : State) : Out :=
  .next (issue s q 0x90 f (fun s => completePlain s q (fun c =>
    let act := activeLanes c f.pred
    let xs := (lanesOf c f.fi f.a).map (elemFV f.fi)
    let ts := termLanes 79 (expOf c f.b) act xs
    let pO := f.md % 8
    let pZ := f.md / 8
    let c1 := putWide c 3 f.d (ts.map (fun t => t.map (fun y => twosCode 96 y.q)))
    let c2 := putPred c1 pO (ts.zipIdx.map (fun (t, i) => t.map (fun y => bitOf (pReg c pO) i || y.ovr)))
    let c3 := putPred c2 pZ ((ts.zip xs).zipIdx.map (fun ((t, x), i) => t.map (fun _ => bitOf (pReg c2 pZ) i && isNegZero x)))
    raiseFlags c3 (flagIf (ts.any (fun t => t.elim false (fun y => y.bad))) flNV))))

/-- Lane-wise addition of n-bit totals; a sum outside the range is written wrapped and sets SAT. -/
def wideAdd (n : Nat) (c : QCtx) (f : QFields) : QCtx :=
  let act := activeLanes c f.pred
  let sums := (act.zip ((wideLanes c (n / 32) f.a).zip (wideLanes c (n / 32) f.b))).map (fun (on, a, b) =>
    if on then some (signed n a + signed n b) else none)
  let sat := sums.any (fun x => x.elim false (fun v => decide (v < -(2 ^ (n - 1) : Nat)) || decide ((2 ^ (n - 1) : Nat) ≤ v)))
  raiseFlags (putWide c (n / 32) f.d (sums.map (fun x => x.map (twosCode n)))) (flagIf sat flSAT)

def execFwadd (q : Nat) (f : QFields) (s : State) : Out :=
  .next (issue s q 0x91 f (fun s => completePlain s q (fun c => wideAdd 96 c f)))
def execFwfin (q : Nat) (f : QFields) (s : State) : Out :=
  .next (issue s q 0x92 f (fun s => completePlain s q (fun c =>
    let act := activeLanes c f.pred
    let z := activeLanes c (f.md / 8)
    let e := expOf c f.b
    let outs := (act.zip ((wideLanes c 3 f.a).zip z)).map (fun (on, x, z) =>
      if on then some (fwValue e (signed 96 x) z) else none)
    raiseFlags (putLanes c 1 f.d (outs.map (fun x => x.map (fun y => y.1)))) (flagsOr (outs.map (fun x => x.elim 0 (fun y => y.2)))))))
where
  /-- The binary32 of Q × 2^(E - 79), with the sign of zero from Z (R91). -/
  fwValue (e : Int) (v : Int) (z : Bool) : Nat × Flags :=
    if v = 0 then ((if z then 2 ^ 31 else 0), 0)
    else
      let (y, fl) := convertFV fmtB32 .rne (.fin (decide (v < 0)) v.natAbs (e - 79))
      (encodeFV fmtB32 y, fl)

/-- E_n of a norm instruction from s[B] (R146). -/
def normE (c : QCtx) (r : Nat) : Int := 2 * expOf c r + 1

def execFwsq (q : Nat) (f : QFields) (s : State) : Out :=
  .next (issue s q 0x93 f (fun s => completePlain s q (fun c =>
    let act := activeLanes c f.pred
    let xs := (lanesOf c 1 f.a).map (elemFV 1)
    let ts := (termLanes 86 (normE c f.b) act (xs.map (fun x => (mulFV x x).1)))
    let c1 := putWide c 4 f.d (ts.map (fun t => t.map (fun y => twosCode 128 y.q)))
    let c2 := putPred c1 f.md (ts.zipIdx.map (fun (t, i) => t.map (fun y => bitOf (pReg c f.md) i || y.ovr)))
    raiseFlags c2 (flagIf (ts.any (fun t => t.elim false (fun y => y.bad))) flNV))))
def execFwadd128 (q : Nat) (f : QFields) (s : State) : Out :=
  .next (issue s q 0x94 f (fun s => completePlain s q (fun c => wideAdd 128 c f)))
def execFwfin128 (q : Nat) (f : QFields) (s : State) : Out :=
  .next (issue s q 0x95 f (fun s => completePlain s q (fun c =>
    let act := activeLanes c f.pred
    let e := normE c f.b
    let outs := (act.zip (wideLanes c 4 f.a)).map (fun (on, x) =>
      if on then
        let v := signed 128 x
        let (y, fl) := convertFV fmtB64 .rne (.fin (decide (v < 0)) v.natAbs (e - 86))
        some (encodeFV fmtB64 y, fl)
      else none)
    raiseFlags (putLanes c 0 f.d (outs.map (fun x => x.map (fun y => y.1)))) (flagsOr (outs.map (fun x => x.elim 0 (fun y => y.2)))))))

/-! ### Random words (R147) -/

/-- Draw one raw word for each active lane from the stream in MOD. -/
def doDraw (q : Nat) (f : QFields) (fn : List Bool → List Nat → QCtx → QCtx) (s : State) : State :=
  let act := activeLanes (ctxOf s q) f.pred
  let (ws, s) := drawActive s (logicalOf s q) f.md act
  completePlain s q (fn act ws)

def execRbits (q : Nat) (f : QFields) (s : State) : Out :=
  .next (issue s q 0xA0 f (doDraw q f (fun act ws c =>
    putLanes c 0xB f.d ((act.zip ws).map (fun (on, w) => if on then some w else none)))))
def execRuni (q : Nat) (f : QFields) (s : State) : Out :=
  .next (issue s q 0xA1 f (doDraw q f (fun act ws c =>
    putLanes c 1 f.d ((act.zip ws).map (fun (on, w) =>
      if on then some (encodeFV fmtB32 (.fin false (w / 256) (-24))) else none)))))
def execRbern (q : Nat) (f : QFields) (s : State) : Out :=
  .next (issue s q 0xA2 f (doDraw q f (fun act ws c =>
    putPred c f.d ((act.zip ws).map (fun (on, w) => if on then some (decide (w < sReg c f.a % 2 ^ 32)) else none)))))

end Sys2Proof.Machine
end

