-- ==== Sys2Proof/Machine/Dispatch.lean ====
section
/-!
DEFINITION. One arm per command: a direct call of its meaning.
-/
namespace Sys2Proof.Machine

/-- The effect of a command on everything but the queue. -/
def exec (i : Instr) (s : State) : Host.Outcome State Fault Refusal :=
  match i with
  | .reset n => Sys2Proof.Machine.execReset n s
  | .imageReadDone image => Sys2Proof.Machine.execImageReadDone image s
  | .secVerdict done ok => Sys2Proof.Machine.execSecVerdict done ok s
  | .memoryFillDone => Sys2Proof.Machine.execMemoryFillDone s
  | .portsOpen => Sys2Proof.Machine.execPortsOpen s
  | .turnBoundary t => Sys2Proof.Machine.execTurnBoundary t s
  | .wheelBoundary t => Sys2Proof.Machine.execWheelBoundary t s
  | .overrunEnd q cycles => Sys2Proof.Machine.execOverrunEnd q cycles s
  | .pmAck refused volt => Sys2Proof.Machine.execPmAck refused volt s
  | .pmAckTimeout => Sys2Proof.Machine.execPmAckTimeout s
  | .tempReply temp => Sys2Proof.Machine.execTempReply temp s
  | .tempReplyTimeout => Sys2Proof.Machine.execTempReplyTimeout s
  | .turnNowLoRead req => Sys2Proof.Machine.execTurnNowLoRead req s
  | .registerWrite req addr value strb => Sys2Proof.Machine.execRegisterWrite req addr value strb s
  | .fwrCntClear w => Sys2Proof.Machine.execFwrCntClear w s
  | .qnResume q => Sys2Proof.Machine.execQnResume q s
  | .qnDiscard q => Sys2Proof.Machine.execQnDiscard q s
  | .clrRej q => Sys2Proof.Machine.execClrRej q s
  | .clrRescale q => Sys2Proof.Machine.execClrRescale q s
  | .clrUfb q => Sys2Proof.Machine.execClrUfb q s
  | .fnanValidClear q => Sys2Proof.Machine.execFnanValidClear q s
  | .contextSaveDone q => Sys2Proof.Machine.execContextSaveDone q s
  | .quernHang q => Sys2Proof.Machine.execQuernHang q s
  | .nop q f => Sys2Proof.Machine.execNop q f s
  | .endi q f => Sys2Proof.Machine.execEndi q f s
  | .ends q f => Sys2Proof.Machine.execEnds q f s
  | .br q f => Sys2Proof.Machine.execBr q f s
  | .brc q f => Sys2Proof.Machine.execBrc q f s
  | .loop q f => Sys2Proof.Machine.execLoop q f s
  | .waitw q f => Sys2Proof.Machine.execWaitw q f s
  | .mfence q f => Sys2Proof.Machine.execMfence q f s
  | .atom q f => Sys2Proof.Machine.execAtom q f s
  | .qcrw q f => Sys2Proof.Machine.execQcrw q f s
  | .qcrr q f => Sys2Proof.Machine.execQcrr q f s
  | .frd q f => Sys2Proof.Machine.execFrd q f s
  | .fclr q f => Sys2Proof.Machine.execFclr q f s
  | .sli q f => Sys2Proof.Machine.execSli q f s
  | .saddi q f => Sys2Proof.Machine.execSaddi q f s
  | .salu q f => Sys2Proof.Machine.execSalu q f s
  | .tld q f => Sys2Proof.Machine.execTld q f s
  | .tst q f => Sys2Proof.Machine.execTst q f s
  | .vld q f => Sys2Proof.Machine.execVld q f s
  | .vst q f => Sys2Proof.Machine.execVst q f s
  | .mget q f => Sys2Proof.Machine.execMget q f s
  | .mput q f => Sys2Proof.Machine.execMput q f s
  | .quernTransferDone q tag => Sys2Proof.Machine.execQuernTransferDone q tag s
  | .mwait q f => Sys2Proof.Machine.execMwait q f s
  | .mcfg q f => Sys2Proof.Machine.execMcfg q f s
  | .mmaOpen q f => Sys2Proof.Machine.execMmaOpen q f s
  | .mma q f => Sys2Proof.Machine.execMma q f s
  | .drn q f => Sys2Proof.Machine.execDrn q f s
  | .vadd q f => Sys2Proof.Machine.execVadd q f s
  | .vsub q f => Sys2Proof.Machine.execVsub q f s
  | .vmul q f => Sys2Proof.Machine.execVmul q f s
  | .vfma q f => Sys2Proof.Machine.execVfma q f s
  | .vdiv q f => Sys2Proof.Machine.execVdiv q f s
  | .vmax q f => Sys2Proof.Machine.execVmax q f s
  | .vmin q f => Sys2Proof.Machine.execVmin q f s
  | .vmaxn q f => Sys2Proof.Machine.execVmaxn q f s
  | .vminn q f => Sys2Proof.Machine.execVminn q f s
  | .vabs q f => Sys2Proof.Machine.execVabs q f s
  | .vneg q f => Sys2Proof.Machine.execVneg q f s
  | .vcpsgn q f => Sys2Proof.Machine.execVcpsgn q f s
  | .vrem q f => Sys2Proof.Machine.execVrem q f s
  | .vrint q f => Sys2Proof.Machine.execVrint q f s
  | .vscalb q f => Sys2Proof.Machine.execVscalb q f s
  | .vlogb q f => Sys2Proof.Machine.execVlogb q f s
  | .vnext q f => Sys2Proof.Machine.execVnext q f s
  | .vcmp q f => Sys2Proof.Machine.execVcmp q f s
  | .vclass q f => Sys2Proof.Machine.execVclass q f s
  | .vsel q f => Sys2Proof.Machine.execVsel q f s
  | .viop q f => Sys2Proof.Machine.execViop q f s
  | .vmov q f => Sys2Proof.Machine.execVmov q f s
  | .vbcast q f => Sys2Proof.Machine.execVbcast q f s
  | .vext q f => Sys2Proof.Machine.execVext q f s
  | .vlane q f => Sys2Proof.Machine.execVlane q f s
  | .vpk q f => Sys2Proof.Machine.execVpk q f s
  | .vupk q f => Sys2Proof.Machine.execVupk q f s
  | .vrcp q f => Sys2Proof.Machine.execVrcp q f s
  | .vrsqrt q f => Sys2Proof.Machine.execVrsqrt q f s
  | .vsqrt q f => Sys2Proof.Machine.execVsqrt q f s
  | .vexp2 q f => Sys2Proof.Machine.execVexp2 q f s
  | .vlog2 q f => Sys2Proof.Machine.execVlog2 q f s
  | .cvt q f => Sys2Proof.Machine.execCvt q f s
  | .cvtOdd q f => Sys2Proof.Machine.execCvtOdd q f s
  | .cvtb q f => Sys2Proof.Machine.execCvtb q f s
  | .cvtw q f => Sys2Proof.Machine.execCvtw q f s
  | .vrsum q f => Sys2Proof.Machine.execVrsum q f s
  | .vrssq q f => Sys2Proof.Machine.execVrssq q f s
  | .vrmax q f => Sys2Proof.Machine.execVrmax q f s
  | .vrmin q f => Sys2Proof.Machine.execVrmin q f s
  | .vrargmax q f => Sys2Proof.Machine.execVrargmax q f s
  | .vrargmin q f => Sys2Proof.Machine.execVrargmin q f s
  | .fwcvt q f => Sys2Proof.Machine.execFwcvt q f s
  | .fwadd q f => Sys2Proof.Machine.execFwadd q f s
  | .fwfin q f => Sys2Proof.Machine.execFwfin q f s
  | .fwsq q f => Sys2Proof.Machine.execFwsq q f s
  | .fwadd128 q f => Sys2Proof.Machine.execFwadd128 q f s
  | .fwfin128 q f => Sys2Proof.Machine.execFwfin128 q f s
  | .rbits q f => Sys2Proof.Machine.execRbits q f s
  | .runi q f => Sys2Proof.Machine.execRuni q f s
  | .rbern q f => Sys2Proof.Machine.execRbern q f s
  | .exportStart => Sys2Proof.Machine.execExportStart s
  | .exportDone => Sys2Proof.Machine.execExportDone s
  | .stepOpen => Sys2Proof.Machine.execStepOpen s
  | .sailJumpDone => Sys2Proof.Machine.execSailJumpDone s
  | .layerDoorbell => Sys2Proof.Machine.execLayerDoorbell s
  | .hostAbort => Sys2Proof.Machine.execHostAbort s
  | .unitAdmit => Sys2Proof.Machine.execUnitAdmit s
  | .unitFinalise entry => Sys2Proof.Machine.execUnitFinalise entry s
  | .ckptWaitEnd entry => Sys2Proof.Machine.execCkptWaitEnd entry s
  | .layerDone layer => Sys2Proof.Machine.execLayerDone layer s
  | .settleReady => Sys2Proof.Machine.execSettleReady s
  | .earlyAbortSend => Sys2Proof.Machine.execEarlyAbortSend s
  | .redoRerun entry => Sys2Proof.Machine.execRedoRerun entry s
  | .roundBReady => Sys2Proof.Machine.execRoundBReady s
  | .openTimeout => Sys2Proof.Machine.execOpenTimeout s
  | .grindTimeout => Sys2Proof.Machine.execGrindTimeout s
  | .settleTimeout => Sys2Proof.Machine.execSettleTimeout s
  | .decisionWaitTimeout => Sys2Proof.Machine.execDecisionWaitTimeout s
  | .standbyAckTimeout => Sys2Proof.Machine.execStandbyAckTimeout s
  | .pubTimeout => Sys2Proof.Machine.execPubTimeout s
  | .publishRange => Sys2Proof.Machine.execPublishRange s
  | .publishDone => Sys2Proof.Machine.execPublishDone s
  | .trRepub w => Sys2Proof.Machine.execTrRepub w s
  | .trCntClear w => Sys2Proof.Machine.execTrCntClear w s
  | .checkpointDone => Sys2Proof.Machine.execCheckpointDone s
  | .digestCompute => Sys2Proof.Machine.execDigestCompute s
  | .replay entry => Sys2Proof.Machine.execReplay entry s
  | .stepCntClear w => Sys2Proof.Machine.execStepCntClear w s
  | .phyFatalError mp channel => Sys2Proof.Machine.execPhyFatalError mp channel s
  | .phyUpdateRequest mp port => Sys2Proof.Machine.execPhyUpdateRequest mp port s
  | .softPprDone repaired => Sys2Proof.Machine.execSoftPprDone repaired s
  | .memCntClear w => Sys2Proof.Machine.execMemCntClear w s
  | .granuleConvertDone g => Sys2Proof.Machine.execGranuleConvertDone g s
  | .hopCntClear w => Sys2Proof.Machine.execHopCntClear w s
  | .axiRead r => Sys2Proof.Machine.execAxiRead r s
  | .axiWrite r => Sys2Proof.Machine.execAxiWrite r s
  | .axiAtomic r => Sys2Proof.Machine.execAxiAtomic r s
  | .narrowSectorRequest write r => Sys2Proof.Machine.execNarrowSectorRequest write r s
  | .hostFence r => Sys2Proof.Machine.execHostFence r s
  | .fenceResponse narrow port => Sys2Proof.Machine.execFenceResponse narrow port s
  | .mmCntClear w => Sys2Proof.Machine.execMmCntClear w s
  | .leatLinear e => Sys2Proof.Machine.execLeatLinear e s
  | .leatStrided e => Sys2Proof.Machine.execLeatStrided e s
  | .leatGather e => Sys2Proof.Machine.execLeatGather e s
  | .leatConvert e => Sys2Proof.Machine.execLeatConvert e s
  | .leatIm2col e => Sys2Proof.Machine.execLeatIm2col e s
  | .leatHaloGated e => Sys2Proof.Machine.execLeatHaloGated e s
  | .haloGateOpen e seq => Sys2Proof.Machine.execHaloGateOpen e seq s
  | .leatAppend e => Sys2Proof.Machine.execLeatAppend e s
  | .leatWaitTimeout e seq => Sys2Proof.Machine.execLeatWaitTimeout e seq s
  | .leatComplete e seq => Sys2Proof.Machine.execLeatComplete e seq s
  | .leatCntClear w => Sys2Proof.Machine.execLeatCntClear w s
  | .leatClrUfb => Sys2Proof.Machine.execLeatClrUfb s
  | .sluiceFault a => Sys2Proof.Machine.execSluiceFault a s
  | .faultRecordWrite => Sys2Proof.Machine.execFaultRecordWrite s
  | .slRetry token => Sys2Proof.Machine.execSlRetry token s
  | .slDiscard token => Sys2Proof.Machine.execSlDiscard token s
  | .slInvalAll => Sys2Proof.Machine.execSlInvalAll s
  | .slInvalCtx ctx => Sys2Proof.Machine.execSlInvalCtx ctx s
  | .slInvalDone => Sys2Proof.Machine.execSlInvalDone s
  | .slCntClear w => Sys2Proof.Machine.execSlCntClear w s
  | .bolterJobStart => Sys2Proof.Machine.execBolterJobStart s
  | .batchWrite => Sys2Proof.Machine.execBatchWrite s
  | .bolterJobDone => Sys2Proof.Machine.execBolterJobDone s
  | .bolCntClear w => Sys2Proof.Machine.execBolCntClear w s
  | .sailCntClear w => Sys2Proof.Machine.execSailCntClear w s
  | .nakFlit link flit => Sys2Proof.Machine.execNakFlit link flit s
  | .ackTimeout link => Sys2Proof.Machine.execAckTimeout link s
  | .portActive port supported full => Sys2Proof.Machine.execPortActive port supported full s
  | .retrainTimeout port => Sys2Proof.Machine.execRetrainTimeout port s
  | .trainFlit link flit => Sys2Proof.Machine.execTrainFlit link flit s
  | .glLcmdRetrain link => Sys2Proof.Machine.execGlLcmdRetrain link s
  | .glLcmdDisable link => Sys2Proof.Machine.execGlLcmdDisable link s
  | .glLcmdEnable link => Sys2Proof.Machine.execGlLcmdEnable link s
  | .glLcmdClr link => Sys2Proof.Machine.execGlLcmdClr link s
  | .glCntClear w => Sys2Proof.Machine.execGlCntClear w s
  | .discoveryStart => Sys2Proof.Machine.execDiscoveryStart s
  | .discoverTimeout => Sys2Proof.Machine.execDiscoverTimeout s
  | .groupFormation => Sys2Proof.Machine.execGroupFormation s
  | .groupFormationTimeout => Sys2Proof.Machine.execGroupFormationTimeout s
  | .msgOpenRec m => Sys2Proof.Machine.execMsgOpenRec m s
  | .msgDecisionGo m => Sys2Proof.Machine.execMsgDecisionGo m s
  | .msgDecisionHold m => Sys2Proof.Machine.execMsgDecisionHold m s
  | .msgDecisionContinue m => Sys2Proof.Machine.execMsgDecisionContinue m s
  | .msgDecisionCommit m => Sys2Proof.Machine.execMsgDecisionCommit m s
  | .msgDecisionAbort m => Sys2Proof.Machine.execMsgDecisionAbort m s
  | .msgRoundRec m => Sys2Proof.Machine.execMsgRoundRec m s
  | .msgGroupRec m => Sys2Proof.Machine.execMsgGroupRec m s
  | .msgEarlyAbort m => Sys2Proof.Machine.execMsgEarlyAbort m s
  | .msgStandbyAck m => Sys2Proof.Machine.execMsgStandbyAck m s
  | .msgQuery m => Sys2Proof.Machine.execMsgQuery m s
  | .msgNormPart m => Sys2Proof.Machine.execMsgNormPart m s
  | .msgNormSum m => Sys2Proof.Machine.execMsgNormSum m s
  | .msgAdmit m => Sys2Proof.Machine.execMsgAdmit m s
  | .msgFinal m => Sys2Proof.Machine.execMsgFinal m s
  | .msgRecomp m => Sys2Proof.Machine.execMsgRecomp m s
  | .msgDigest m => Sys2Proof.Machine.execMsgDigest m s
  | .msgResend m => Sys2Proof.Machine.execMsgResend m s
  | .msgLost m => Sys2Proof.Machine.execMsgLost m s
  | .msgDiscover m => Sys2Proof.Machine.execMsgDiscover m s
  | .msgDiscoverRep m => Sys2Proof.Machine.execMsgDiscoverRep m s
  | .msgLinkStatus m => Sys2Proof.Machine.execMsgLinkStatus m s
  | .msgContrib m => Sys2Proof.Machine.execMsgContrib m s
  | .msgPartial m => Sys2Proof.Machine.execMsgPartial m s
  | .msgPub m => Sys2Proof.Machine.execMsgPub m s
  | .msgVc4Rd m => Sys2Proof.Machine.execMsgVc4Rd m s
  | .msgVc4Wr m => Sys2Proof.Machine.execMsgVc4Wr m s
  | .msgVc4Wrs m => Sys2Proof.Machine.execMsgVc4Wrs m s
  | .msgVc4Atom m => Sys2Proof.Machine.execMsgVc4Atom m s
  | .msgVc4Resp m => Sys2Proof.Machine.execMsgVc4Resp m s
  | .msgVc4Wack m => Sys2Proof.Machine.execMsgVc4Wack m s
  | .msgBulk m => Sys2Proof.Machine.execMsgBulk m s
  | .bucketLeak => Sys2Proof.Machine.execBucketLeak s
  | .flipArm => Sys2Proof.Machine.execFlipArm s
  | .plausibilityReplayDone differs => Sys2Proof.Machine.execPlausibilityReplayDone differs s
  | .checkerRecomputeDone crc => Sys2Proof.Machine.execCheckerRecomputeDone crc s
  | .fhGradeSet req w => Sys2Proof.Machine.execFhGradeSet req w s
  | .fieldTestDue u => Sys2Proof.Machine.execFieldTestDue u s
  | .fieldTestResult u pass => Sys2Proof.Machine.execFieldTestResult u pass s
  | .testAbort => Sys2Proof.Machine.execTestAbort s
  | .fatalClear => Sys2Proof.Machine.execFatalClear s
  | .statePoisonClear => Sys2Proof.Machine.execStatePoisonClear s
  | .journalWriteDone => Sys2Proof.Machine.execJournalWriteDone s
  | .sepiaEnter => Sys2Proof.Machine.execSepiaEnter s
  | .governorStall => Sys2Proof.Machine.execGovernorStall s
  | .clrClass w => Sys2Proof.Machine.execClrClass w s
  | .clrRing => Sys2Proof.Machine.execClrRing s
  | .clrCper => Sys2Proof.Machine.execClrCper s
  | .txnBegin req => Sys2Proof.Machine.execTxnBegin req s
  | .txnCommit req wh => Sys2Proof.Machine.execTxnCommit req wh s
  | .txnRollback req => Sys2Proof.Machine.execTxnRollback req s
  | .txnValidated => Sys2Proof.Machine.execTxnValidated s
  | .txnCancel id => Sys2Proof.Machine.execTxnCancel id s
  | .loadTensorTable req => Sys2Proof.Machine.execLoadTensorTable req s
  | .loadHyperparameterSets req => Sys2Proof.Machine.execLoadHyperparameterSets req s
  | .loadRouteTable req => Sys2Proof.Machine.execLoadRouteTable req s
  | .loadMulticastTable req => Sys2Proof.Machine.execLoadMulticastTable req s
  | .loadCustomRecipe req => Sys2Proof.Machine.execLoadCustomRecipe req s
  | .recipeRemoval req => Sys2Proof.Machine.execRecipeRemoval req s
  | .loadGovernorFirmware req => Sys2Proof.Machine.execLoadGovernorFirmware req s
  | .mpRetrainDone failed => Sys2Proof.Machine.execMpRetrainDone failed s
  | .clrDisc => Sys2Proof.Machine.execClrDisc s
  | .clrCjDrop => Sys2Proof.Machine.execClrCjDrop s
  | .pfwAssert chanB => Sys2Proof.Machine.execPfwAssert chanB s
  | .pfwWindowExpiry => Sys2Proof.Machine.execPfwWindowExpiry s
  | .pfDone => Sys2Proof.Machine.execPfDone s
  | .portCntClear w => Sys2Proof.Machine.execPortCntClear w s
  | .dfiInitialisationDone d => Sys2Proof.Machine.execDfiInitialisationDone d s
  | .dataFlit link flit => Sys2Proof.Machine.execDataFlit link flit s
  | .idleFlit link flit => Sys2Proof.Machine.execIdleFlit link flit s
  | .contextRestoreDone q => Sys2Proof.Machine.execContextRestoreDone q s
  | .tableCopyDone => Sys2Proof.Machine.execTableCopyDone s
  | .pfwDeassert chanB => Sys2Proof.Machine.execPfwDeassert chanB s

end Sys2Proof.Machine
end

