-- ==== Sys2Proof/Machine/Step.lean ====
section
/-!
DEFINITION. One step: the command at the front of the queue, or one GCLK cycle when no command waits.
-/
namespace Sys2Proof.Machine

/-- Run the first waiting command with the rest of the queue; on an empty queue one GCLK cycle of the Turn passes,
up to its last (R17, log 11). -/
def step (s : State) : Host.Outcome State Fault Refusal :=
  match s.pending with
  | c :: rest => exec c { s with pending := rest }
  | [] => .next { s with time := { s.time with cycle := min (s.time.cycle + 1) 2047 } }

/-- The state with the command a table word spells at the front of its queue. -/
def State.withFetchWord (s : State) (nbits w : Nat) : State :=
  match Sys2Proof.decodeTableWord nbits w with
  | some c => { s with pending := c :: s.pending }
  | none => s

end Sys2Proof.Machine
end

