-- ==== Sys2Proof/Safety.lean ====
section
/-!
DEFINITION. What counts as a safe state: every store in its canonical form, the fixed numbers of units, and a run that
neither faults nor refuses.
-/
namespace Sys2Proof

open Sys2Proof.Machine

/-- The canonical form of the block's memories (R8 and the tiers' rules): DRAM and scratch bytes and poison marks. -/
def Memory.wf (m : MemSt) : Bool :=
  mapWf zeroAt m.dram && mapWf zeroAt m.scratch && mapWf offAt m.dramPoison && mapWf offAt m.scratchPoison

/-- The register file lists only registers that differ from their reset value. -/
def regsWf (s : State) : Bool := mapWf (regDefault s.chip.variant) s.regs

/-- How many Querns, Sail streams, clusters, links, Genle ports and Leat engines the state lists. -/
def shapeOf (s : State) : List Nat :=
  [s.qn.q.length, s.qn.sails.length, s.clk.clusters.length, s.gl.links.length, s.gl.ports.length, s.leat.length]

/-- The block's fixed numbers of units: those of the largest variant, whichever the chip has. -/
def shapeWf (s : State) : Bool := shapeOf s == [36, 32, 9, 96, 24, 16]

/-- A step that neither faults nor refuses. -/
def Goes (s : State) : Prop := ∃ t, step s = .next t

end Sys2Proof
end

