-- ==== Sys2Proof/WellFormed.lean ====
section
/-!
DEFINITION. Which commands are well formed: every operand inside the range the spec gives the thing it names.
-/
namespace Sys2Proof

/-- The fields of an instruction word fit their bit ranges (R127). -/
def QFields.wf (f : QFields) : Bool :=
  decide (f.d < 64) && decide (f.a < 64) && decide (f.b < 64) && decide (f.c < 64) && decide (f.fi < 16)
    && decide (f.fo < 16) && decide (f.rnd < 4) && decide (f.pred < 8) && decide (f.md < 2 ^ 18)

/-- A physical Quern (R106). -/
def quernOk (q : Nat) : Bool := decide (q < 36)

/-- The header fields of a message fit (R321). -/
def Msg.wf (m : Msg) : Bool :=
  decide (m.kind < 256) && decide (m.src < 2 ^ 14) && decide (m.roleEpoch < 2 ^ 16) && decide (m.step < 2 ^ 48)
    && decide (m.attempt < 256) && decide (m.addr < 2 ^ 64) && decide (m.aux < 2 ^ 64) && decide (m.poison < 2 ^ 64)
    && decide (m.tag < 2 ^ 16) && decide (m.data.length ≤ 4096)

/-- A port that exists, a burst of at most 4 KiB within a 4 KiB block, and data, strobes and poison of matching lengths
(R397, R399 to R401). -/
def AxiReq.wf (r : AxiReq) : Bool :=
  decide (r.port < (if r.narrow then 8 else 64)) && decide (0 < r.len) && decide (r.len ≤ 4096)
    && decide (r.addr / 4096 = (r.addr + r.len - 1) / 4096)
    && (r.data.isEmpty || decide (r.data.length = r.len)) && (r.strb.isEmpty || decide (r.strb.length = r.len))
    && decide (r.addr < 2 ^ 64) && decide (r.qos < 16)

/-- A flit is 256 bytes on a link that exists (R320). -/
def flitOk (link : Nat) (flit : List Byte) : Bool := decide (link < 96) && decide (flit.length = 256)

/-- A 32-bit register word. -/
def wordOk (w : Nat) : Bool := decide (w < 2 ^ 32)

/-- A requester id of the management port (R403). -/
def reqOk (req : Nat) : Bool := decide (req < 256)

/-- Well-formed commands. -/
def Instr.wf : Instr → Bool
  | .reset _ => true
  | .imageReadDone _ => true
  | .secVerdict _ _ => true
  | .memoryFillDone => true
  | .portsOpen => true
  | .turnBoundary _ => true
  | .wheelBoundary _ => true
  | .overrunEnd q cycles => quernOk q && decide (cycles < 2 ^ 32)
  | .pmAck _ volt => decide (volt < 4096)
  | .pmAckTimeout => true
  | .tempReply temp => decide (temp < 256)
  | .tempReplyTimeout => true
  | .turnNowLoRead req => reqOk req
  | .registerWrite req addr value strb => reqOk req && decide (addr < 2 ^ 16) && wordOk value && decide (strb < 16)
  | .fwrCntClear w => wordOk w
  | .qnResume q => quernOk q
  | .qnDiscard q => quernOk q
  | .clrRej q => quernOk q
  | .clrRescale q => quernOk q
  | .clrUfb q => quernOk q
  | .fnanValidClear q => quernOk q
  | .contextSaveDone q => quernOk q
  | .quernHang q => quernOk q
  | .nop q f => quernOk q && f.wf
  | .endi q f => quernOk q && f.wf
  | .ends q f => quernOk q && f.wf
  | .br q f => quernOk q && f.wf
  | .brc q f => quernOk q && f.wf
  | .loop q f => quernOk q && f.wf
  | .waitw q f => quernOk q && f.wf
  | .mfence q f => quernOk q && f.wf
  | .atom q f => quernOk q && f.wf
  | .qcrw q f => quernOk q && f.wf
  | .qcrr q f => quernOk q && f.wf
  | .frd q f => quernOk q && f.wf
  | .fclr q f => quernOk q && f.wf
  | .sli q f => quernOk q && f.wf
  | .saddi q f => quernOk q && f.wf
  | .salu q f => quernOk q && f.wf
  | .tld q f => quernOk q && f.wf
  | .tst q f => quernOk q && f.wf
  | .vld q f => quernOk q && f.wf
  | .vst q f => quernOk q && f.wf
  | .mget q f => quernOk q && f.wf
  | .mput q f => quernOk q && f.wf
  | .quernTransferDone q tag => quernOk q && decide (tag < 8)
  | .mwait q f => quernOk q && f.wf
  | .mcfg q f => quernOk q && f.wf
  | .mmaOpen q f => quernOk q && f.wf
  | .mma q f => quernOk q && f.wf
  | .drn q f => quernOk q && f.wf
  | .vadd q f => quernOk q && f.wf
  | .vsub q f => quernOk q && f.wf
  | .vmul q f => quernOk q && f.wf
  | .vfma q f => quernOk q && f.wf
  | .vdiv q f => quernOk q && f.wf
  | .vmax q f => quernOk q && f.wf
  | .vmin q f => quernOk q && f.wf
  | .vmaxn q f => quernOk q && f.wf
  | .vminn q f => quernOk q && f.wf
  | .vabs q f => quernOk q && f.wf
  | .vneg q f => quernOk q && f.wf
  | .vcpsgn q f => quernOk q && f.wf
  | .vrem q f => quernOk q && f.wf
  | .vrint q f => quernOk q && f.wf
  | .vscalb q f => quernOk q && f.wf
  | .vlogb q f => quernOk q && f.wf
  | .vnext q f => quernOk q && f.wf
  | .vcmp q f => quernOk q && f.wf
  | .vclass q f => quernOk q && f.wf
  | .vsel q f => quernOk q && f.wf
  | .viop q f => quernOk q && f.wf
  | .vmov q f => quernOk q && f.wf
  | .vbcast q f => quernOk q && f.wf
  | .vext q f => quernOk q && f.wf
  | .vlane q f => quernOk q && f.wf
  | .vpk q f => quernOk q && f.wf
  | .vupk q f => quernOk q && f.wf
  | .vrcp q f => quernOk q && f.wf
  | .vrsqrt q f => quernOk q && f.wf
  | .vsqrt q f => quernOk q && f.wf
  | .vexp2 q f => quernOk q && f.wf
  | .vlog2 q f => quernOk q && f.wf
  | .cvt q f => quernOk q && f.wf
  | .cvtOdd q f => quernOk q && f.wf
  | .cvtb q f => quernOk q && f.wf
  | .cvtw q f => quernOk q && f.wf
  | .vrsum q f => quernOk q && f.wf
  | .vrssq q f => quernOk q && f.wf
  | .vrmax q f => quernOk q && f.wf
  | .vrmin q f => quernOk q && f.wf
  | .vrargmax q f => quernOk q && f.wf
  | .vrargmin q f => quernOk q && f.wf
  | .fwcvt q f => quernOk q && f.wf
  | .fwadd q f => quernOk q && f.wf
  | .fwfin q f => quernOk q && f.wf
  | .fwsq q f => quernOk q && f.wf
  | .fwadd128 q f => quernOk q && f.wf
  | .fwfin128 q f => quernOk q && f.wf
  | .rbits q f => quernOk q && f.wf
  | .runi q f => quernOk q && f.wf
  | .rbern q f => quernOk q && f.wf
  | .exportStart => true
  | .exportDone => true
  | .stepOpen => true
  | .sailJumpDone => true
  | .layerDoorbell => true
  | .hostAbort => true
  | .unitAdmit => true
  | .unitFinalise e => decide (e < 2 ^ 17)
  | .ckptWaitEnd e => decide (e < 2 ^ 17)
  | .layerDone l => decide (l < 2 ^ 16)
  | .settleReady => true
  | .earlyAbortSend => true
  | .redoRerun e => decide (e < 2 ^ 17)
  | .roundBReady => true
  | .openTimeout => true
  | .grindTimeout => true
  | .settleTimeout => true
  | .decisionWaitTimeout => true
  | .standbyAckTimeout => true
  | .pubTimeout => true
  | .publishRange => true
  | .publishDone => true
  | .trRepub w => wordOk w
  | .trCntClear w => wordOk w
  | .checkpointDone => true
  | .digestCompute => true
  | .replay e => decide (e < 2 ^ 17)
  | .stepCntClear w => wordOk w
  | .phyFatalError mp c => decide (c < (if mp then 128 else 256))
  | .phyUpdateRequest mp p => decide (p < (if mp then 8 else 8))
  | .softPprDone _ => true
  | .memCntClear w => wordOk w
  | .granuleConvertDone g => decide (g < 16)
  | .hopCntClear w => wordOk w
  | .axiRead r => r.wf
  | .axiWrite r => r.wf
  | .axiAtomic r => r.wf
  | .narrowSectorRequest _ r => r.wf && r.narrow
  | .hostFence r => r.wf
  | .fenceResponse narrow port => decide (port < (if narrow then 8 else 64))
  | .mmCntClear w => wordOk w
  | .leatLinear e => decide (e < 16)
  | .leatStrided e => decide (e < 16)
  | .leatGather e => decide (e < 16)
  | .leatConvert e => decide (e < 16)
  | .leatIm2col e => decide (e < 16)
  | .leatHaloGated e => decide (e < 16)
  | .haloGateOpen e n => decide (e < 16) && decide (n < 1024)
  | .leatAppend e => decide (e < 16)
  | .leatWaitTimeout e n => decide (e < 16) && decide (n < 1024)
  | .leatComplete e n => decide (e < 16) && decide (n < 1024)
  | .leatCntClear w => wordOk w
  | .leatClrUfb => true
  | .sluiceFault a => decide (a.ctx < 64)
  | .faultRecordWrite => true
  | .slRetry t => decide (t < 2 ^ 16)
  | .slDiscard t => decide (t < 2 ^ 16)
  | .slInvalAll => true
  | .slInvalCtx c => decide (c < 64)
  | .slInvalDone => true
  | .slCntClear w => wordOk w
  | .bolterJobStart => true
  | .batchWrite => true
  | .bolterJobDone => true
  | .bolCntClear w => wordOk w
  | .sailCntClear w => wordOk w
  | .nakFlit l f => flitOk l f
  | .ackTimeout l => decide (l < 96)
  | .portActive p _ _ => decide (p < 24)
  | .retrainTimeout p => decide (p < 24)
  | .trainFlit l f => flitOk l f
  | .glLcmdRetrain l => decide (l < 96)
  | .glLcmdDisable l => decide (l < 96)
  | .glLcmdEnable l => decide (l < 96)
  | .glLcmdClr l => decide (l < 96)
  | .glCntClear w => wordOk w
  | .discoveryStart => true
  | .discoverTimeout => true
  | .groupFormation => true
  | .groupFormationTimeout => true
  | .msgOpenRec m => m.wf
  | .msgDecisionGo m => m.wf
  | .msgDecisionHold m => m.wf
  | .msgDecisionContinue m => m.wf
  | .msgDecisionCommit m => m.wf
  | .msgDecisionAbort m => m.wf
  | .msgRoundRec m => m.wf
  | .msgGroupRec m => m.wf
  | .msgEarlyAbort m => m.wf
  | .msgStandbyAck m => m.wf
  | .msgQuery m => m.wf
  | .msgNormPart m => m.wf
  | .msgNormSum m => m.wf
  | .msgAdmit m => m.wf
  | .msgFinal m => m.wf
  | .msgRecomp m => m.wf
  | .msgDigest m => m.wf
  | .msgResend m => m.wf
  | .msgLost m => m.wf
  | .msgDiscover m => m.wf
  | .msgDiscoverRep m => m.wf
  | .msgLinkStatus m => m.wf
  | .msgContrib m => m.wf
  | .msgPartial m => m.wf
  | .msgPub m => m.wf
  | .msgVc4Rd m => m.wf
  | .msgVc4Wr m => m.wf
  | .msgVc4Wrs m => m.wf
  | .msgVc4Atom m => m.wf
  | .msgVc4Resp m => m.wf
  | .msgVc4Wack m => m.wf
  | .msgBulk m => m.wf
  | .bucketLeak => true
  | .flipArm => true
  | .plausibilityReplayDone _ => true
  | .checkerRecomputeDone c => decide (c < 2 ^ 64)
  | .fhGradeSet req w => reqOk req && wordOk w
  | .fieldTestDue u => decide (u < 2 ^ 16)
  | .fieldTestResult u _ => decide (u < 2 ^ 16)
  | .testAbort => true
  | .fatalClear => true
  | .statePoisonClear => true
  | .journalWriteDone => true
  | .sepiaEnter => true
  | .governorStall => true
  | .clrClass w => wordOk w
  | .clrRing => true
  | .clrCper => true
  | .txnBegin r => reqOk r
  | .txnCommit req wh => reqOk req && decide (wh < 4)
  | .txnRollback r => reqOk r
  | .txnValidated => true
  | .txnCancel i => decide (i < 2 ^ 16)
  | .loadTensorTable r => reqOk r
  | .loadHyperparameterSets r => reqOk r
  | .loadRouteTable r => reqOk r
  | .loadMulticastTable r => reqOk r
  | .loadCustomRecipe r => reqOk r
  | .recipeRemoval r => reqOk r
  | .loadGovernorFirmware r => reqOk r
  | .mpRetrainDone f => decide (f < 2 ^ 16)
  | .clrDisc => true
  | .clrCjDrop => true
  | .pfwAssert _ => true
  | .pfwWindowExpiry => true
  | .pfDone => true
  | .portCntClear w => wordOk w
  | .dfiInitialisationDone _ => true
  | .dataFlit l f => flitOk l f
  | .idleFlit l f => flitOk l f
  | .contextRestoreDone q => quernOk q
  | .tableCopyDone => true
  | .pfwDeassert _ => true

end Sys2Proof
end

