-- ==== Sys2Proof/Certificates/Slice0/Obligations.lean ====
section
/-!
DEFINITION. The statements for the provers. `Gives c s P` says that command `c` answers a next state with property `P`.
-/
namespace Sys2Proof.Spec

open Sys2Proof Sys2Proof.Machine

/-- The invariant: the memories and the register file in canonical form, the block's fixed numbers of units, and a Turn
count of 48 bits. -/
def Inv (s : State) : Prop := Memory.wf s.mem = true ∧ regsWf s = true ∧ shapeWf s = true ∧ s.time.turn < 2 ^ 48

/-- Command `c` answers a next state on `s`, and that state has property `P`. -/
def Gives (c : Instr) (s : State) (P : State → Prop) : Prop := ∃ t, exec c s = .next t ∧ P t

/-- The counters `base + 4 i` whose bit i of `w` is set. -/
def countersOf (base n w : Nat) : List Nat := ((List.range n).filter (bitOf w)).map (fun k => base + 4 * k)

/-- The registers named read 0, every other register and everything but the register file is unchanged. -/
def Cleared (s t : State) (offs : List Nat) : Prop :=
  t = { s with regs := t.regs } ∧ (∀ o ∈ offs, regGet t o = 0) ∧ ∀ o, o ∉ offs → regGet t o = regGet s o

/-- Register `off` reads `v`, every other register and everything but the register file is unchanged. -/
def OneReg (s t : State) (off v : Nat) : Prop :=
  t = { s with regs := t.regs } ∧ regGet t off = v ∧ ∀ o, o ≠ off → regGet t o = regGet s o

/-- A management write that reaches a register of plain RW and W1C fields and starts nothing: word-wide, aligned, inside
the window, present, without RWT fields, and with no effect beyond the register. -/
def PlainWrite (s : State) (f : RegFam) (addr v : Nat) : Prop :=
  addr % 4 = 0 ∧ addr < 0x7000 ∧ regAt addr = some f ∧ regPresent s addr = true ∧ f.rwt = 0 ∧
    addr ≠ oGovTxnCmd ∧ addr ≠ oGovTxnTblCmd ∧ addr ≠ oGovTxnCancel ∧ addr ≠ oFhGradeSet ∧
    ∀ u, sideWrite u addr (v % 2 ^ 32) = u

/-- Only physical Quern `q` changes. -/
def OnlyQuern (s t : State) (q : Nat) : Prop :=
  t = { s with qn := { s.qn with q := t.qn.q } } ∧ ∀ p, p ≠ q → qnAt t p = qnAt s p

/-- The state a Turn boundary begins with: the Turn has advanced and the hardware's own part is done. -/
def begun (s : State) : State :=
  hardwareTurn { s with time := { s.time with turn := (s.time.turn + 1) % 2 ^ 48, cycle := 0 } }

/-- The Quern, operation code and fields of a Quern instruction. -/
def quernCmd : Instr → Option (Nat × Nat × QFields)
  | .nop q f => some (q, 0x01, f)
  | .endi q f => some (q, 0x02, f)
  | .ends q f => some (q, 0x03, f)
  | .br q f => some (q, 0x04, f)
  | .brc q f => some (q, 0x05, f)
  | .loop q f => some (q, 0x06, f)
  | .waitw q f => some (q, 0x07, f)
  | .mfence q f => some (q, 0x08, f)
  | .atom q f => some (q, 0x09, f)
  | .qcrw q f => some (q, 0x0A, f)
  | .qcrr q f => some (q, 0x0B, f)
  | .frd q f => some (q, 0x0C, f)
  | .fclr q f => some (q, 0x0D, f)
  | .sli q f => some (q, 0x10, f)
  | .saddi q f => some (q, 0x11, f)
  | .salu q f => some (q, 0x12, f)
  | .tld q f => some (q, 0x20, f)
  | .tst q f => some (q, 0x21, f)
  | .vld q f => some (q, 0x22, f)
  | .vst q f => some (q, 0x23, f)
  | .mget q f => some (q, 0x24, f)
  | .mput q f => some (q, 0x25, f)
  | .mwait q f => some (q, 0x26, f)
  | .mcfg q f => some (q, 0x30, f)
  | .mmaOpen q f => some (q, 0x31, f)
  | .mma q f => some (q, 0x32, f)
  | .drn q f => some (q, 0x33, f)
  | .vadd q f => some (q, 0x40, f)
  | .vsub q f => some (q, 0x41, f)
  | .vmul q f => some (q, 0x42, f)
  | .vfma q f => some (q, 0x43, f)
  | .vdiv q f => some (q, 0x44, f)
  | .vmax q f => some (q, 0x45, f)
  | .vmin q f => some (q, 0x46, f)
  | .vmaxn q f => some (q, 0x47, f)
  | .vminn q f => some (q, 0x48, f)
  | .vabs q f => some (q, 0x49, f)
  | .vneg q f => some (q, 0x4A, f)
  | .vcpsgn q f => some (q, 0x4B, f)
  | .vrem q f => some (q, 0x4C, f)
  | .vrint q f => some (q, 0x4D, f)
  | .vscalb q f => some (q, 0x4E, f)
  | .vlogb q f => some (q, 0x4F, f)
  | .vnext q f => some (q, 0x50, f)
  | .vcmp q f => some (q, 0x51, f)
  | .vclass q f => some (q, 0x52, f)
  | .vsel q f => some (q, 0x53, f)
  | .viop q f => some (q, 0x54, f)
  | .vmov q f => some (q, 0x55, f)
  | .vbcast q f => some (q, 0x56, f)
  | .vext q f => some (q, 0x57, f)
  | .vlane q f => some (q, 0x58, f)
  | .vpk q f => some (q, 0x59, f)
  | .vupk q f => some (q, 0x5A, f)
  | .vrcp q f => some (q, 0x60, f)
  | .vrsqrt q f => some (q, 0x61, f)
  | .vsqrt q f => some (q, 0x62, f)
  | .vexp2 q f => some (q, 0x63, f)
  | .vlog2 q f => some (q, 0x64, f)
  | .cvt q f => some (q, 0x70, f)
  | .cvtOdd q f => some (q, 0x71, f)
  | .cvtb q f => some (q, 0x72, f)
  | .cvtw q f => some (q, 0x73, f)
  | .vrsum q f => some (q, 0x80, f)
  | .vrssq q f => some (q, 0x81, f)
  | .vrmax q f => some (q, 0x82, f)
  | .vrmin q f => some (q, 0x83, f)
  | .vrargmax q f => some (q, 0x84, f)
  | .vrargmin q f => some (q, 0x85, f)
  | .fwcvt q f => some (q, 0x90, f)
  | .fwadd q f => some (q, 0x91, f)
  | .fwfin q f => some (q, 0x92, f)
  | .fwsq q f => some (q, 0x93, f)
  | .fwadd128 q f => some (q, 0x94, f)
  | .fwfin128 q f => some (q, 0x95, f)
  | .rbits q f => some (q, 0xA0, f)
  | .runi q f => some (q, 0xA1, f)
  | .rbern q f => some (q, 0xA2, f)
  | _ => none

/-- Quern `q` can issue the legal instruction of operation code `op` with fields `f`: it runs a work item, and the word
satisfies R128 and R129. -/
def Issues (s : State) (q op : Nat) (f : QFields) : Prop := quernRuns s q = true ∧ quernLegal op f = true

/-- Only Quern q's context changes, to `c`. -/
def QuernSets (s t : State) (q : Nat) (c : QCtx) : Prop := OnlyQuern s t q ∧ qnAt t q = { qnAt s q with ctx := c }

/-- Quern q halts with a trap at its program address, and nothing else changes (R115). -/
def QuernTraps (s t : State) (q code : Nat) : Prop :=
  OnlyQuern s t q ∧ qnAt t q = { qnAt s q with state := 2, trap := code, trapPc := (ctxOf s q).pc }

/-- Whether lane i is active under a predicate register (R130). -/
def laneOn (s : State) (q pred i : Nat) : Bool := bitOf (pReg (ctxOf s q) pred) i

/-- Lane i of a vector operand in a format (R130). -/
def laneOf (s : State) (q fmt r i : Nat) : Nat := (lanesOf (ctxOf s q) fmt r).getD i 0

/-- The result of each lane: `fn` on active lanes, none on the others (R130). -/
def laneOuts (s : State) (q : Nat) (f : QFields) (fn : Nat → Nat × Flags) : List (Option Nat) :=
  (List.range 64).map (fun i => if laneOn s q f.pred i then some (fn i).1 else none)

/-- The flags any active lane raises (R60). -/
def laneFlags (s : State) (q : Nat) (f : QFields) (fn : Nat → Nat × Flags) : Flags :=
  flagsOr ((List.range 64).map (fun i => if laneOn s q f.pred i then (fn i).2 else 0))

/-- Whether an active lane of a source is NaN. -/
def srcNan (s : State) (q : Nat) (f : QFields) (fi : Nat) (srcs : List Nat) : Bool :=
  srcs.any (fun r => (List.range 64).any (fun i => laneOn s q f.pred i && nanCode fi (laneOf s q fi r i)))

/-- A lane-wise instruction: v[D] takes `fn` of every active lane in format `fo`, f0 the flags, and the instruction
completes with its first-NaN test; read lane by lane, every lane not active and every other register is as before. -/
def LaneWise (s t : State) (q op : Nat) (f : QFields) (fi fo : Nat) (srcs : List Nat) (fn : Nat → Nat × Flags) : Prop :=
  t = complete (ctxMod s q (fun c => raiseFlags (putLanes c fo f.d (laneOuts s q f fn)) (laneFlags s q f fn))) q op f
    ((laneOuts s q f fn).findIdx? (fun x => x.elim false (nanCode fo))) (srcNan s q f fi srcs) ∧
  (∀ i, i < 64 → laneOf t q fo f.d i
    = if laneOn s q f.pred i then (fn i).1 % 2 ^ fmtBits fo else laneOf s q fo f.d i) ∧
  (∀ r i, r ≠ f.d → (isPair fo = true → r ≠ f.d + 1) → i < 64 →
    vLane (ctxOf t q) r i = vLane (ctxOf s q) r i) ∧
  ∀ j, sReg (ctxOf t q) j = sReg (ctxOf s q) j ∧ pReg (ctxOf t q) j = pReg (ctxOf s q) j

/-- A lane-wise operation on values: its result rounded by `g` in format FI. -/
def valLane (f : QFields) (y : FV × Flags) : Nat × Flags := (elemCode f.fi y.1, y.2)

/-- The value of lane i of a register in FI, and the rounding attribute of the word. -/
def valOf (s : State) (q : Nat) (f : QFields) (r i : Nat) : FV := elemFV f.fi (laneOf s q f.fi r i)
def rmq (s : State) (q : Nat) (f : QFields) : RM := rmOf (ctxOf s q) f.rnd

/-- A reduction into s[D] of active values in FI. -/
def Reduces (s t : State) (q op : Nat) (f : QFields) (y : FV × Flags) : Prop :=
  t = complete (ctxMod s q (fun c => raiseFlags (setS c f.d (elemCode f.fi y.1)) y.2)) q op f
    (if y.1.isNan then some 0 else none) ((activeVals (ctxOf s q) f.fi f.a f.pred).any FV.isNan)

/-- The words a rounding draws: one for each active lane under SR, else none (R147). -/
def drawn (s : State) (q : Nat) (sr : Bool) (act : List Bool) : List Nat × State :=
  if sr then drawActive s (logicalOf s q) 0 act else (act.map (fun _ => 0), s)

/-- The value (-1)^n · m · 2^e. -/
def ratOf (n : Bool) (m : Nat) (e : Int) : ℚ := (if n then (-1 : ℚ) else 1) * (m : ℚ) * (2 : ℚ) ^ e

/-- The state an instruction's translated access leaves, and what it found (R291 to R296). -/
def trans (s : State) (q va : Nat) (write : Bool) : SlOut × State := sluice s (itemCtx s q) va write

/-- No byte of the bursts a store range touches has an error or a poison mark (R110). -/
def StoreClean (s : State) (q o n : Nat) : Prop :=
  ∀ x ∈ burstSpan o n, errOf s (2 + q) (x.1 / 64) = [] ∧ mapGet offAt (qnAt s q).storePoison (x.1 / 64) = false

/-- A store range an instruction may use at once: aligned, inside the data area, outside every transfer (R110, R131, R148). -/
def StoreFree (s : State) (q o n : Nat) : Prop := o % 64 = 0 ∧ storeRangeOk o n = true ∧ storeBusy s q o n = false

/-- How an instruction that uses a store range fails or waits before it has any effect: trap 0x1 for a misaligned address
(log 17), trap 0x4 outside the data area, and a wait while a transfer uses the range (R110, R115, R148). -/
def StoreStops (c : Instr) (s : State) (q o n : Nat) : Prop :=
  (o % 64 ≠ 0 → Gives c s (fun t => QuernTraps s t q 1)) ∧
  (o % 64 = 0 → storeRangeOk o n = false → Gives c s (fun t => QuernTraps s t q 4)) ∧
  (o % 64 = 0 → storeRangeOk o n = true → storeBusy s q o n = true → Gives c s (· = s))

/-- Nothing but Quern q, its protection, an armed checker test, counters and Sail draws changes: every byte of DRAM and
scratch and every other Quern stays. -/
def QuernSide (s t : State) (q : Nat) : Prop :=
  t = { s with
    regs := t.regs, mem := { s.mem with errs := t.mem.errs }, fh := t.fh
    qn := { s.qn with q := t.qn.q, sails := t.qn.sails } } ∧
  ∀ p, p ≠ q → qnAt t p = qnAt s p

/-- Store bytes outside a range are as before. -/
def StoreKeeps (s t : State) (q lo hi : Nat) : Prop :=
  ∀ a, a < lo ∨ hi ≤ a → mapGet zeroAt (qnAt t q).store a = mapGet zeroAt (qnAt s q).store a

/-- A host access that the port performs at once: the port exists, the burst keeps the protocol, no power-fail sequence
runs, and its home holds nothing (R16, R377, R394, R399). -/
def AtOnce (s : State) (r : AxiReq) : Prop :=
  axiBroken r = false ∧ portExists s r = true ∧ s.gov.pfActive = false ∧ mustWait s r = false

/-- The last response of a port. -/
def respOf (s : State) (narrow : Bool) (p : Nat) : Option Resp := mapGet (fun _ => none) s.port.resp (portKey narrow p)

/-- `t` is `s` with one more response, on the port of `r`, and perhaps a counter. -/
def OnlyResponds (s t : State) (r : AxiReq) (code : Nat) : Prop :=
  t = { s with regs := t.regs, port := { s.port with resp := t.port.resp } } ∧
  respOf t r.narrow r.port = some ⟨code, [], []⟩ ∧
  ∀ k, k ≠ portKey r.narrow r.port → mapGet (fun _ => none) t.port.resp k = mapGet (fun _ => none) s.port.resp k

/-- The rows that start a Leat descriptor, with its kind. -/
def leatRow (e : Nat) : List (Instr × Nat) :=
  [(.leatLinear e, 1), (.leatStrided e, 2), (.leatGather e, 3), (.leatConvert e, 4), (.leatIm2col e, 5),
    (.leatHaloGated e, 6), (.leatAppend e, 7)]

/-- The state in which an engine has taken its next descriptor: counted as consumed, in the ring's word too, and active. -/
def leatTaken (s : State) (e kind : Nat) : State :=
  let d := leatNext s e
  let n := (leatAt s e).consumed % 2 ^ 32
  let x : LeatDesc := ⟨n, d, 0, 0, 0, false, [], false, 0, decide (kind = 6) && leatLegal d, none,
    if leatLegal d then none else some 1, (leatAt s e).sail⟩
  scrWrite (leatEngMod s e (fun g => { g with consumed := n + 1, active := g.active ++ [x] }))
    (leatBase (leatEngMod s e (fun g => { g with consumed := n + 1, active := g.active ++ [x] })) e + 0x20040) (leBytes 4 (n + 1))

/-- `t` is `s` but for one link, registers apart. -/
def OnlyLink (s t : State) (l : Nat) : Prop :=
  t = { s with regs := t.regs, gl := { s.gl with links := t.gl.links } } ∧ ∀ p, p ≠ l → linkAt t p = linkAt s p

/-- A flit discarded: the first since the last one in order owes a NAK (R325). -/
def Discards (s t : State) (l : Nat) : Prop :=
  OnlyLink s t l ∧ linkAt t l = { linkAt s l with
    nakOwed := (linkAt s l).nakOwed || !(linkAt s l).discarding, discarding := true }

/-- The fields of a flit header that fit their bit ranges (R320). -/
def FlitHdrFits (h : FlitHdr) : Prop :=
  h.type < 2 ^ 4 ∧ h.vc < 2 ^ 3 ∧ h.seq < 2 ^ 12 ∧ h.ack < 2 ^ 12 ∧ h.cvc < 2 ^ 3 ∧ h.ccnt < 2 ^ 6 ∧ h.dest < 2 ^ 14 ∧
    h.hops < 2 ^ 3

/-- A received message at the front of its pool, of a kind. -/
def Ready (s : State) (m : Msg) (kind : Nat) : Prop := m.kind = kind ∧ msgReady s m = true

/-- A management command is refused with an error response and has no other effect. -/
def ApbRefuses (s t : State) : Prop := t = { s with port := { s.port with apb := (0, true) } }

/-- The rows that stage a table load or recipe removal, with the code of GOV_TXN_TBL_CMD (R381). -/
def loadRow (req : Nat) : List (Instr × Nat) :=
  [(.loadTensorTable req, 1), (.loadHyperparameterSets req, 2), (.loadRouteTable req, 3), (.loadMulticastTable req, 4),
    (.loadCustomRecipe req, 5), (.recipeRemoval req, 6), (.loadGovernorFirmware req, 7)]

/-- The change journal takes one more entry for a closed transaction: when a place is free the entry is written with its
result, otherwise only the drop is counted (R390). -/
def Journals (u t : State) (x : Txn) (v : Verdict) : Prop :=
  let u' := txnResult u x v.result
  (cjFree u' = 0 → t = { u' with regs := t.regs } ∧
    regGet t oGovCjDropCnt = min (regGet u oGovCjDropCnt + 1) 0xFFFFFFFF) ∧
  (cjFree u' ≠ 0 → t = { u' with mem := t.mem, gov := { u'.gov with cjProd := (u.gov.cjProd + 1) % 2 ^ 32 } })

/-- The rows of messages applied when they belong to the current step, with their kind and effect (R191, R323). -/
def stepRow (m : Msg) : List (Instr × Nat × (State → State)) :=
  [(.msgOpenRec m, 0x01, fun s => takeOpenRec s m), (.msgRoundRec m, 0x03, fun s => takeRoundRec s m),
    (.msgGroupRec m, 0x04, fun s => takeGroupRec s m), (.msgEarlyAbort m, 0x05, fun s => takeEarly s m),
    (.msgNormPart m, 0x08, fun s => takeNormPart s m), (.msgNormSum m, 0x09, fun s => takeNormSum s m)]

/-- The rows of messages applied whatever their step (R200, R331, R332). -/
def anyRow (m : Msg) : List (Instr × Nat × (State → State)) :=
  [(.msgStandbyAck m, 0x06, fun s => takeAck s m), (.msgQuery m, 0x07, fun s => takeQuery s m),
    (.msgResend m, 0x0E, fun s => takeResend s m), (.msgLost m, 0x0F, fun s => takeLost s (m.addr % 2 ^ 14))]

/-- The rows of messages addressed to a shard of the open step (R89 to R100). -/
def shardRow (m : Msg) : List (Instr × Nat × (State → Nat → State)) :=
  [(.msgAdmit m, 0x0A, fun s i => trySlices (noteAdmit s i)), (.msgFinal m, 0x0B, fun s _ => s),
    (.msgRecomp m, 0x0C, fun s i => takeRecomp s i (fieldOf m.aux 34 32)),
    (.msgContrib m, 0x20, fun s i => takeContrib s i m.src (fieldOf m.aux 23 20) (msgFirst m) m.data m.poison),
    (.msgPartial m, 0x28, fun s i => takePartial s i m)]

/-- The rows of messages addressed to a shard of the open or the committed step (R209, R219). -/
def copyRow (m : Msg) : List (Instr × Nat × (State → Nat → State)) :=
  [(.msgPub m, 0x30, fun s i => takePub s m i), (.msgDigest m, 0x0D, fun s i => takeDigest s m i)]

/-- The rows of the decision root's messages, with their code (R192, R200). -/
def decisionRow (m : Msg) : List (Instr × Nat × (State → State)) :=
  [(.msgDecisionGo m, 1, takeGo), (.msgDecisionHold m, 2, fun s => takeHold s m), (.msgDecisionContinue m, 3, takeContinue),
    (.msgDecisionCommit m, 4, takeCommit), (.msgDecisionAbort m, 5, fun s => takeAbort s m)]

/-- What a shard's message does once consumed: nothing but a count when it is of no known step, its effect at the role's
holder, a forward to the shard's new owner, a count when neither (R191, R332). -/
def RoleTakes (u t : State) (m : Msg) (ok : Bool) (body : State → Nat → State) : Prop :=
  (ok = false → OneReg u t oStaleMsgCnt (min (regGet u oStaleMsgCnt + 1) 0xFFFFFFFF)) ∧
  (ok = true → ∀ i, roleOf u m (tableFor u m) = .apply i → t = body u i) ∧
  (ok = true → ∀ c, roleOf u m (tableFor u m) = .forward c → t = sendTo (bump u oGlRoleFwdCnt) c { m with fwd := true }) ∧
  (ok = true → roleOf u m (tableFor u m) = .drop → OneReg u t oGlRoleDropCnt (min (regGet u oGlRoleDropCnt + 1) 0xFFFFFFFF))

end Sys2Proof.Spec

open Sys2Proof Sys2Proof.Machine Sys2Proof.Spec

/-! ### The queue -/

/-- A step runs the command at the front of the queue on the state with the queue's rest (the block's own form of a
step). -/
def Obligations.StepRunsTheFrontCommand : Prop :=
  ∀ (c : Instr) (rest : List Instr) (s : State),
    step { s with pending := c :: rest } = exec c { s with pending := rest }

/-- On an empty queue a step passes one GCLK cycle of the Turn, at most to the Turn's last, and changes nothing else
(the model's choice, log 11). -/
def Obligations.EmptyQueueStepPassesOneCycle : Prop :=
  ∀ s : State, s.pending = [] →
    ∃ t, step s = .next t ∧ t = { s with time := t.time } ∧ t.time = { s.time with cycle := t.time.cycle } ∧
      (s.time.cycle < 2047 → t.time.cycle = s.time.cycle + 1) ∧ (s.time.cycle = 2047 → t.time.cycle = 2047)

/-- Every step takes one command off the queue's front and adds none, keeps the chip's fixed properties, and keeps the
canonical form of the memories and of the register file, the numbers of units and the 48-bit Turn (R23). -/
def Obligations.EveryStepTakesOneCommandAndKeepsTheForm : Prop :=
  ∀ s t : State, step s = .next t → t.pending = s.pending.tail ∧ t.chip = s.chip ∧ (Inv s → Inv t)

/-- The Turn count changes only at a Turn boundary, which adds 1 modulo 2^48, and at reset, which starts it at 0. -/
def Obligations.OnlyTheTurnBoundaryAdvancesTheTurn : Prop :=
  (∀ (s : State) (i : TurnIn), Gives (.turnBoundary i) s (fun t => t.time.turn = (s.time.turn + 1) % 2 ^ 48)) ∧
  (∀ (s : State) (n : NorFind), Gives (.reset n) s (fun t => t.time.turn = 0)) ∧
  ∀ (s t : State), step s = .next t →
    t.time.turn = s.time.turn ∨ (∃ i, s.pending.head? = some (.turnBoundary i)) ∨ ∃ n, s.pending.head? = some (.reset n)

/-- The state right after reset has the canonical form and no command waiting. -/
def Obligations.ResetHasTheCanonicalForm : Prop :=
  Inv State.reset ∧ State.reset.pending = []

/-! ### Clearing counters -/

/-- The clear registers: each counter whose bit is written 1 reads 0, every other register and all other state stay. -/
def Obligations.CounterClearWritesClearExactlyTheNamedCounters : Prop :=
  ∀ (s : State) (w : Nat),
    Gives (.fwrCntClear w) s (fun t => Cleared s t (countersOf oFwrRaiseCnt 6 w)) ∧
    Gives (.trCntClear w) s (fun t => Cleared s t (countersOf oTrUfbCnt 2 w)) ∧
    Gives (.stepCntClear w) s (fun t => Cleared s t (countersOf oAbortOvfCnt 7 w)) ∧
    Gives (.memCntClear w) s (fun t => Cleared s t (countersOf oSpprCnt 8 w)) ∧
    Gives (.hopCntClear w) s (fun t => Cleared s t (countersOf oHopCeCnt 6 w)) ∧
    Gives (.mmCntClear w) s (fun t => Cleared s t (countersOf oMmFenceCnt 4 w)) ∧
    Gives (.slCntClear w) s (fun t => Cleared s t (countersOf oSlMultiCnt 3 w)) ∧
    Gives (.bolCntClear w) s (fun t => Cleared s t (countersOf oBolRecCnt 5 w)) ∧
    Gives (.clrClass w) s (fun t => Cleared s t (countersOf oFhClassCnt 15 (w / 2))) ∧
    Gives (.leatCntClear w) s (fun t => Cleared s t (countersOf oLeatHaloWaitCnt 3 w
      ++ if bitOf w 3 then countersOf oLeatUfbCnt 16 0xFFFF else [])) ∧
    Gives (.glCntClear w) s (fun t => Cleared s t (countersOf oGlWriteoffCnt 4 w
      ++ (if bitOf w 4 then [oGlBadmsgCnt] else []) ++ if bitOf w 5 then [oGlTopoMismatchCnt] else []))

/-- The clear commands of one counter or of one Quern or link clear exactly the counters the rules name; those of an
absent Quern or link change nothing. -/
def Obligations.SingleClearsClearExactlyTheirCounters : Prop :=
  ∀ (s : State) (w q link : Nat),
    (quernExists s q = true →
      Gives (.clrRej q) s (fun t => Cleared s t [oQnCmdRej + 0x40 * q]) ∧
      Gives (.clrRescale q) s (fun t => Cleared s t [oRescaleCnt + 0x40 * q]) ∧
      Gives (.clrUfb q) s (fun t => Cleared s t [oUfbCnt + 0x40 * q])) ∧
    (quernExists s q = false →
      Gives (.clrRej q) s (· = s) ∧ Gives (.clrRescale q) s (· = s) ∧ Gives (.clrUfb q) s (· = s)) ∧
    (linkExists s link = true → link < 96 →
      Gives (.glLcmdClr link) s (fun t => Cleared s t
        ([oGlLcrcCnt + 0x20 * link] ++ [oGlLreplayCnt + 0x20 * link] ++ [oGlLretrainCnt + 0x20 * link]))) ∧
    (linkExists s link = false ∨ 96 ≤ link → Gives (.glLcmdClr link) s (· = s)) ∧
    Gives .leatClrUfb s (fun t => Cleared s t (countersOf oLeatUfbCnt 16 0xFFFF)) ∧
    Gives (.sailCntClear w) s (fun t => Cleared s t (if bitOf w 0 then [oSailMissCnt] else [])) ∧
    Gives (.portCntClear w) s (fun t => Cleared s t (if bitOf w 0 then [oBadAxiCnt] else [])) ∧
    Gives .clrRing s (fun t => Cleared s t [oFhRingDropCnt]) ∧
    Gives .clrCper s (fun t => Cleared s t [oFhCperDropCnt]) ∧
    Gives .clrDisc s (fun t => Cleared s t [oGovPfwDiscCnt]) ∧
    Gives .clrCjDrop s (fun t => Cleared s t [oGovCjDropCnt])

/-! ### Reset and start-up -/

/-- RESET: every state of the block restarts; the NOR's contents, the chip and the waiting commands stay (R398). A NOR
without a valid SFDP table or 4-byte addressing stops start-up with error 0x05 (R369, R373). -/
def Obligations.ResetRestartsEverythingButTheNor : Prop :=
  ∀ (s : State) (n : NorFind),
    (n.signature = true → n.fourByte = true → Gives (.reset n) s (fun t =>
      t = { State.reset with
        chip := s.chip, nor := s.nor, pending := s.pending, free := s.free
        boot := { State.reset.boot with octal := n.octal }
        mem := { State.reset.mem with hrCap := t.mem.hrCap, mpPresent := t.mem.mpPresent }
        hop := { State.reset.hop with bad := t.hop.bad } })) ∧
    (n.signature = false ∨ n.fourByte = false → Gives (.reset n) s (fun t =>
      t.boot = { State.reset.boot with octal := n.octal, err := 5, stopped := true } ∧ t.chip = s.chip ∧ t.nor = s.nor ∧
      t.pending = s.pending ∧ t.mem.dram = [] ∧ t.mem.scratch = [] ∧ t.qn = State.reset.qn ∧ t.step = State.reset.step ∧
      t.fh = State.reset.fh ∧ t.gov = State.reset.gov ∧ bitOf (regGet t oIrqStatus) irqGov = true))

/-- IMAGE_READ_DONE: an image that passes its checks waits for the security verdict; the first failing check stops
start-up with its error, MAGIC before every other check (R372 to R374). -/
def Obligations.AnImageIsCheckedBeforeItIsUsed : Prop :=
  ∀ (s : State) (img : List Byte), s.boot.imageRead = false → s.boot.stopped = false →
    (imageFault s img = 0 → Gives (.imageReadDone img) s (fun t =>
      t = { s with boot := t.boot, nor := { s.nor with slotBytes := leAt img 0x1C 4 } } ∧
      t.boot.imageRead = true ∧ t.boot.secWait = true ∧ t.boot.stopped = false ∧ t.boot.err = s.boot.err)) ∧
    (imageFault s img ≠ 0 → Gives (.imageReadDone img) s (fun t =>
      t.boot = { s.boot with imageRead := true, err := imageFault s img, stopped := true, secWait := false } ∧
      bitOf (regGet t oIrqStatus) irqGov = true)) ∧
    (leAt img 0 4 ≠ 0x4C525831 → imageFault s img = 1) ∧ imageFault s img ≤ 8

/-- SEC_VERDICT while it is waited for: with sec_img_done and sec_img_ok at 1 the block starts, with sec_img_ok at 0 it
stops with error 0x04, and without sec_img_done nothing changes (R374). -/
def Obligations.TheSecurityVerdictStartsOrStopsTheBlock : Prop :=
  ∀ s : State, s.boot.secWait = true →
    Gives (.secVerdict true true) s (fun t => t.boot.running = true ∧ t.boot.secWait = false ∧ t.boot.sections = []) ∧
    Gives (.secVerdict true false) s (fun t =>
      t.boot = { s.boot with err := 4, stopped := true, secWait := false } ∧ bitOf (regGet t oIrqStatus) irqGov = true) ∧
    ∀ ok, Gives (.secVerdict false ok) s (· = s)

/-- The memory's bring-up: DFI initialisation maps out the channels that failed or are Umber (R221, R222), the fill
leaves DRAM zero and unmarked, and the ports open once the fill, link bring-up and group formation are over (R377). -/
def Obligations.MemoryIsBroughtUpBeforeThePortsOpen : Prop :=
  (∀ (s : State) (d : DfiIn), s.boot.running = true → s.boot.dfiDone = false →
    Gives (.dfiInitialisationDone d) s (fun t => t.boot.dfiDone = true ∧ t.nor.rows = [] ∧
      t.mem.hrMapOut = (List.range 8).map (fun k =>
        umberMask s (unitHr (32 * k)) 32 ||| fieldOf d.hrFailed (32 * k + 31) (32 * k)) ∧
      t.mem.mpMapOut = (List.range 8).map (fun g =>
        umberMask s (unitMp (16 * g)) 16 ||| fieldOf d.mpFailed (16 * g + 15) (16 * g)))) ∧
  (∀ s : State, s.boot.dfiDone = true → s.boot.fillDone = false →
    Gives .memoryFillDone s (fun t => t.mem.dram = [] ∧ t.mem.dramPoison = [] ∧ t.mem.scratch = s.mem.scratch ∧
      t = { s with mem := t.mem, boot := { s.boot with fillDone := true } })) ∧
  (∀ s : State, s.boot.opened = false → s.boot.fillDone = true → trainingOver s = true → s.boot.groupDone = true →
    Gives .portsOpen s (· = releaseWaiting { s with boot := { s.boot with opened := true, openTurn := s.time.turn } })) ∧
  ∀ s : State, s.boot.fillDone = false → Gives .portsOpen s (· = s)

/-! ### The management port -/

/-- A read of TURN_NOW_LO answers the low 32 bits and writes the latch of its own requester, with the high 16; a read of
TURN_NOW_HI answers its requester's latch, which reads 0 after reset and which no other command writes (R31). -/
def Obligations.TurnNowLatchesPerRequester : Prop :=
  (∀ (s : State) (req : Nat), Gives (.turnNowLoRead req) s (fun t =>
    t = { s with time := { s.time with hiLatch := t.time.hiLatch }, port := t.port } ∧
    t.port = { s.port with apb := (s.time.turn % 2 ^ 32, false) } ∧
    readReg t req oTurnNowHi = s.time.turn / 2 ^ 32 % 2 ^ 16 ∧
    ∀ other, other ≠ req → readReg t other oTurnNowHi = readReg s other oTurnNowHi)) ∧
  (∀ (s : State) (n : NorFind) (req : Nat), Gives (.reset n) s (fun t => readReg t req oTurnNowHi = 0)) ∧
  ∀ (s t : State) (req : Nat), step s = .next t →
    readReg t req oTurnNowHi = readReg s req oTurnNowHi ∨ s.pending.head? = some (.turnNowLoRead req) ∨
      ∃ n, s.pending.head? = some (.reset n)

/-- A management write: a transfer that is not one aligned word inside the window is refused, an offset without a
register ignores it, and a register of RW and W1C fields takes the value written in the first and clears the ones
written 1 in the second, keeping every other bit and register (R7, R403, R404). -/
def Obligations.ManagementWritesFollowTheAccessCodes : Prop :=
  ∀ (s : State) (req addr v strb : Nat),
    (strb ≠ 15 ∨ addr % 4 ≠ 0 ∨ 0x7000 ≤ addr → Gives (.registerWrite req addr v strb) s (fun t =>
      t = { s with port := { s.port with apb := (0, true) } })) ∧
    (addr % 4 = 0 → addr < 0x7000 → regAt addr = none → Gives (.registerWrite req addr v 15) s (fun t =>
      t = { s with port := { s.port with apb := (0, false) } })) ∧
    ∀ f, PlainWrite s f addr v → Gives (.registerWrite req addr v 15) s (fun t =>
      t = { s with regs := t.regs, port := { s.port with apb := (0, false) } } ∧
      regGet t addr = ((regGet s addr &&& (2 ^ 32 - 1 - f.rw)) ||| (v % 2 ^ 32 &&& f.rw))
        &&& (2 ^ 32 - 1 - (v % 2 ^ 32 &&& f.w1c)) ∧
      ∀ o, o ≠ addr → regGet t o = regGet s o)

/-! ### Clusters and temperatures -/

/-- PM_ACK and PM_ACK_TIMEOUT (R19, R406): an acknowledgement ends the request, releases its cluster, puts the point in
force unless it is refused and takes the voltage; a missing one after 4096 Turns is recorded and the request stays. -/
def Obligations.ThePowerManagersAnswerSettlesTheRequest : Prop :=
  ∀ (s : State) (r : PmReq), Inv s → s.clk.pmReq = some r → r.cluster < 9 →
    (∀ (refused : Bool) (volt : Nat), Gives (.pmAck refused volt) s (fun t =>
      t.clk.pmReq = none ∧ t.clk.pmQueue = s.clk.pmQueue ∧
      (clusterAt t r.cluster).held = false ∧ (clusterAt t r.cluster).volt = volt % 2 ^ 12 ∧
      (clusterAt t r.cluster).point = (if refused then (clusterAt s r.cluster).point else r.point) ∧
      ∀ c, c ≠ r.cluster → clusterAt t c = clusterAt s c)) ∧
    (r.since + 4096 ≤ s.time.turn → Gives .pmAckTimeout s (fun t =>
      t = event s 0xC (clusterUnit r.cluster) 0 0 0 ∧ t.clk = s.clk))

/-- A temperature reply becomes the reading of the sensor asked for, and the next sensor is asked; after a missing reply
every reading stays and the event is recorded (R407). -/
def Obligations.TemperatureRepliesAreTheAskedSensors : Prop :=
  ∀ (s : State) (a : Nat), Inv s → s.clk.tsReq = some a →
    (∀ temp, a < 9 → Gives (.tempReply temp) s (fun t =>
      (clusterAt t a).temp = temp % 256 ∧ (∀ c, c ≠ a → clusterAt t c = clusterAt s c) ∧
      t.clk.tsReq = s.clk.tsQueue.head? ∧ t = { s with clk := t.clk })) ∧
    (∀ temp, 13 ≤ a → Gives (.tempReply temp) s (fun t =>
      t.clk.govTemp = temp % 256 ∧ t.clk.clusters = s.clk.clusters ∧ t.clk.quadTemp = s.clk.quadTemp ∧
      t.clk.tsReq = s.clk.tsQueue.head? ∧ t = { s with clk := t.clk })) ∧
    Gives .tempReplyTimeout s (fun t =>
      t = tempNext (event s 0xC (if a < 9 then clusterUnit a else 0) 0 a 0) ∧
      t.clk.clusters = s.clk.clusters ∧ t.clk.quadTemp = s.clk.quadTemp ∧ t.clk.govTemp = s.clk.govTemp ∧
      t.clk.tsReq = s.clk.tsQueue.head?)

/-! ### The power-fail warning -/

/-- The first channel to assert opens the window, the other channel within it makes the sequence due, an expired window
makes it due with a discrepancy, a deassertion changes only its own pin, and the sequence is done once no journal
record is pending (R393, R394). -/
def Obligations.ThePowerFailSequenceNeedsBothChannelsOrTheWindowsEnd : Prop :=
  (∀ (s : State) (b : Bool), s.gov.pfDue = false → s.gov.pfActive = false → s.gov.pfWindow = none →
    Gives (.pfwAssert b) s (fun t => t = { s with gov := { s.gov with
      pfA := s.gov.pfA || !b, pfB := s.gov.pfB || b, pfWindow := some b } })) ∧
  (∀ (s : State) (b : Bool), s.gov.pfDue = false → s.gov.pfActive = false → s.gov.pfWindow = some (!b) →
    Gives (.pfwAssert b) s (fun t => t = { s with gov := { s.gov with
      pfA := s.gov.pfA || !b, pfB := s.gov.pfB || b, pfWindow := none, pfDue := true } })) ∧
  (∀ (s : State) (b : Bool), Gives (.pfwDeassert b) s (fun t => t = { s with gov := { s.gov with
      pfA := s.gov.pfA && b, pfB := s.gov.pfB && !b } })) ∧
  (∀ s : State, s.gov.pfWindow.isSome = true → Gives .pfwWindowExpiry s (fun t =>
      t = { s with regs := t.regs, gov := { s.gov with pfWindow := none, pfDue := true } } ∧
      bitOf (regGet t oGovPfwStatus) 29 = true ∧ bitOf (regGet t oIrqStatus) irqGov = true ∧
      regGet t oGovPfwDiscCnt = min (regGet s oGovPfwDiscCnt + 1) 0xFFFFFFFF)) ∧
  ∀ s : State, s.gov.pfActive = true → s.fh.pend = [] →
    Gives .pfDone s (fun t => t = { s with gov := { s.gov with pfDone := true } })

/-! ### Turn and Wheel boundaries -/

/-- What a Turn boundary does, in R23's order: hand-over to spares, changes due, mode changes, saves and restores, then
the slot's profile and dispatch; without the Governor's completion only the stall is counted (R23, R365), and before
start-up the hardware's part alone takes place. -/
def Obligations.TheTurnBoundaryWorksInOrder : Prop :=
  ∀ (s : State) (i : TurnIn),
    ((begun s).boot.running = true → i.complete = true → Gives (.turnBoundary i) s (fun t =>
      t = governorTurn (dispatchTurn (slotTurn (saveTurn (modeTurn (applyDue (faultTurn
        { begun s with time := { (begun s).time with stall := 0 } } i)) i) i)) i.dispatch))) ∧
    ((begun s).boot.running = true → i.complete = false → Gives (.turnBoundary i) s (fun t =>
      t = { begun s with time := { (begun s).time with stall := (begun s).time.stall + 1 } })) ∧
    ((begun s).boot.running = false → Gives (.turnBoundary i) s (· = begun s))

/-- A Wheel boundary lowers hot clusters, asks the remaining sensors, looks after the memory, in Sepia mode sends its
link status, and latches the first conserved resource whose counts do not add up (R22, R237, R366, R392). At any other
Turn nothing happens. -/
def Obligations.TheWheelBoundaryChecksEveryResource : Prop :=
  ∀ (s : State) (i : WheelIn),
    (s.time.turn % 512 = 0 → s.boot.running = true →
      let u := memWheel (tempAsk (thermalWheel s) [9, 10, 11, 12, 13]) i
      let v := if u.fh.sepia then sendLinkStatus u else u
      Gives (.wheelBoundary i) s (fun t =>
        t = ledgerWheel v ∧
        (t.gov.ledgerErr = true ↔ v.gov.ledgerErr = true ∨ ∃ x ∈ ledgerAll, (ledgerOf v x.1 x.2).ok = false) ∧
        (v.gov.ledgerErr = true → t = v))) ∧
    (s.time.turn % 512 ≠ 0 → Gives (.wheelBoundary i) s (· = s))

/-! ### Work items of the Querns -/

/-- RESUME continues a work item halted by trap 0x5 or 0x6 at its next instruction and is rejected and counted at any
other trap (R118); on a Quern that is not halted it has no effect. -/
def Obligations.ResumeContinuesOnlyTrapsFiveAndSix : Prop :=
  ∀ (s : State) (q : Nat), Inv s → quernExists s q = true →
    ((qnAt s q).state = 2 → (qnAt s q).trap = 5 ∨ (qnAt s q).trap = 6 → Gives (.qnResume q) s (fun t =>
      OnlyQuern s t q ∧ qnAt t q = { qnAt s q with state := 1, trap := 0, ctx := nextPc (ctxOf s q) })) ∧
    ((qnAt s q).state = 2 → (qnAt s q).trap ≠ 5 → (qnAt s q).trap ≠ 6 → Gives (.qnResume q) s (fun t =>
      OneReg s t (oQnCmdRej + 0x40 * q) (min (regGet s (oQnCmdRej + 0x40 * q) + 1) 0xFFFFFFFF))) ∧
    ((qnAt s q).state ≠ 2 → Gives (.qnResume q) s (· = s))

/-- DISCARD of a halted work item ORs its flags into QN_FLAGS, ends it with its transfers and marks the open step
faulted (R113, R118); the other Querns, the memories and everything outside the Querns, that register, the step and the
Sluice's suspensions stay. -/
def Obligations.DiscardEndsTheHaltedWorkItem : Prop :=
  ∀ (s : State) (q : Nat), Inv s → quernExists s q = true → (qnAt s q).state = 2 →
    Gives (.qnDiscard q) s (fun t =>
      regGet t (oQnFlags + 0x40 * q) = (regGet s (oQnFlags + 0x40 * q) ||| (ctxOf s q).f0.toNat) % 2 ^ 32 ∧
      (∀ o, o ≠ oQnFlags + 0x40 * q → regGet t o = regGet s o) ∧
      (qnAt t q).item = none ∧ (qnAt t q).trap = 0 ∧ (qnAt t q).xfers = [] ∧ (qnAt t q).token = none ∧
      (qnAt t q).state = restState s q ∧ (qnAt t q).ctx = ctxOf s q ∧ (∀ p, p ≠ q → qnAt t p = qnAt s p) ∧
      t.step.flt = (s.step.flt || stepOpenState s) ∧ t.step.state = s.step.state ∧ t.step.s = s.step.s ∧
      t.mem = s.mem ∧ t = { s with regs := t.regs, qn := t.qn, sl := t.sl, step := t.step })

/-- The end of a context save keeps the whole context under the logical index and frees the Quern; the end of a restore
gives it back exactly as it was saved, a suspended access being tried again (R119 to R121, R123). -/
def Obligations.ContextsAreSavedAndRestoredWhole : Prop :=
  (∀ (s : State) (q area : Nat), Inv s → q < 36 → (qnAt s q).saving = some area → (qnAt s q).state = 3 →
    Gives (.contextSaveDone q) s (fun t =>
      (let lg := (qnAt s q).item.elim ((servedBy s q).getD 0xFF) (fun i => i.logical)
       t.qn.saved = s.qn.saved.filter (fun x => x.logical != lg) ++ [{
         logical := lg, area := area, used := false, ctx := ctxOf s q, item := (qnAt s q).item
         state := if (qnAt s q).trap = 0 then 0 else 2, trap := (qnAt s q).trap, trapPc := (qnAt s q).trapPc
         live := storeBytes s q 0 ((qnAt s q).item.elim 0 (fun i => i.live)), sail := sailOf s lg
         waitw := (qnAt s q).waitw, xfers := (qnAt s q).xfers, token := (qnAt s q).token }]) ∧
      (qnAt t q).item = none ∧ (qnAt t q).saving = none ∧ (qnAt t q).state = restState s q ∧
      (∀ p, p ≠ q → qnAt t p = qnAt s p) ∧ t = { s with qn := t.qn })) ∧
  (∀ (s : State) (q lg : Nat) (v : Saved), Inv s → q < 36 → (qnAt s q).restoring = some lg → (qnAt s q).state = 4 →
    s.qn.saved.find? (fun x => x.logical == lg && !x.used) = some v →
    Gives (.contextRestoreDone q) s (fun t => ∃ u,
      t = (if v.trap = 3 && v.token.isNone then retryQ u q else u) ∧
      qnAt u q = { qnAt s q with
        ctx := v.ctx, item := v.item, state := v.state, trap := v.trap, trapPc := v.trapPc, waitw := v.waitw
        waitReady := false, xfers := v.xfers, token := v.token, blocked := false, restoring := none
        store := (qnAt u q).store, storePoison := (qnAt u q).storePoison } ∧
      storeBytes u q 0 v.live.length = v.live ∧ (∀ p, p ≠ q → qnAt u p = qnAt s p) ∧ (lg < 32 → sailOf u lg = v.sail) ∧
      u = { s with mem := u.mem, fh := u.fh, qn := { s.qn with q := u.qn.q, sails := u.qn.sails, saved := u.qn.saved } })) ∧
  ∀ (s : State) (q lg : Nat), Inv s → q < 36 → (qnAt s q).restoring = some lg → (qnAt s q).state = 4 →
    s.qn.saved.find? (fun x => x.logical == lg && !x.used) = none →
    Gives (.contextRestoreDone q) s (fun t => OnlyQuern s t q ∧
      (qnAt t q).item = none ∧ (qnAt t q).state = 0 ∧ (qnAt t q).ctx = QCtx.reset ∧ (qnAt t q).restoring = none)

/-- FNAN_VALID_CLEAR clears VALID and nothing else (R117). A Quern still running 16 Turns after its overrun began fails: it
takes no further part, its event is recorded and its grade falls to Umber at the next boundary (R342). The end of an
overrun of at most 512 cycles is only noted, and a save that waited for it begins (R27, R28). A transfer with every
burst moved and answered frees its tag (R139). -/
def Obligations.QuernEventsChangeTheirQuern : Prop :=
  ∀ (s : State) (q : Nat), Inv s → q < 36 →
    Gives (.fnanValidClear q) s (fun t => OnlyQuern s t q ∧ qnAt t q = { qnAt s q with fnanValid := false }) ∧
    (quernExists s q = true → (qnAt s q).state = 1 → (qnAt s q).lost = false → Gives (.quernHang q) s (fun t =>
      t = askGrade (event (qnMod s q (fun n => { n with lost := true, blocked := true })) 0x6 (unitQuern q)
        (ctxOf s q).pc 0 0) (unitQuern q) 3 ∧
      qnAt t q = { qnAt s q with lost := true, blocked := true } ∧ (∀ p, p ≠ q → qnAt t p = qnAt s p))) ∧
    (∀ cycles, quernExists s q = true → (qnAt s q).state ≠ 1 → cycles ≤ 512 → Gives (.overrunEnd q cycles) s (fun t =>
      OnlyQuern s t q ∧ qnAt t q = { qnAt s q with
        lastOver := cycles
        state := if (qnAt s q).saving.isSome then 3 else (qnAt s q).state })) ∧
    (∀ tag x, (qnAt s q).xfers.find? (fun x => x.tag == tag) = some x → x.bytes = 0 → s.port.outst = [] →
      Gives (.quernTransferDone q tag) s (fun t => OnlyQuern s t q ∧
        qnAt t q = { qnAt s q with xfers := (qnAt s q).xfers.filter (fun x => x.tag != tag) }))

/-! ### Quern instructions -/

/-- A Quern instruction whose word violates the legality rules takes the illegal-instruction trap and has no other effect
(R128); on a Quern that runs no work item nothing happens. -/
def Obligations.IllegalQuernWordsTrapAndDoNothingElse : Prop :=
  ∀ (c : Instr) (s : State) (q op : Nat) (f : QFields), quernCmd c = some (q, op, f) →
    (quernRuns s q = true → quernLegal op f = false → Gives c s (fun t => QuernTraps s t q 1)) ∧
    (quernRuns s q = false → Gives c s (· = s))

/-- Registers read back as written: an s register modulo 2^64, a p register other than p0, which reads as all ones
whatever is written; the other registers stay (R107). A vector write gives each written lane its value in the format,
leaves the others, and touches no register outside the operand (R107, R130). -/
def Obligations.RegisterWritesReadBack : Prop :=
  (∀ (c : QCtx) (r v j : Nat), sReg (setS c r v) j = if j = r then v % 2 ^ 64 else sReg c j) ∧
  (∀ (c : QCtx) (r v j : Nat),
    pReg (setP c r v) j = if j = 0 then 2 ^ 64 - 1 else if j = r then v % 2 ^ 64 else pReg c j) ∧
  ∀ (c : QCtx) (fmt d : Nat) (xs : List (Option Nat)), okFmt fmt = true → xs.length = 64 →
    (∀ i, i < 64 → (lanesOf (putLanes c fmt d xs) fmt d).getD i 0
      = (xs.getD i none).elim ((lanesOf c fmt d).getD i 0) (fun v => v % 2 ^ fmtBits fmt)) ∧
    (∀ r i, r ≠ d → (isPair fmt = true → r ≠ d + 1) → i < 64 → vLane (putLanes c fmt d xs) r i = vLane c r i) ∧
    (isPair fmt = false → ∀ i v, i < 64 → xs.getD i none = some v →
      vLane (putLanes c fmt d xs) d i = v % 2 ^ fmtBits fmt) ∧
    ∀ j, sReg (putLanes c fmt d xs) j = sReg c j ∧ pReg (putLanes c fmt d xs) j = pReg c j

/-- Completion with the first-NaN test (R117): with no NaN in the destination, or FNAN capture off or already taken, the
program address advances; otherwise the first NaN is recorded, and the trap 0x6 taken where QCR[5] is set. -/
def Obligations.TheFirstNanIsRecorded : Prop :=
  ∀ (s : State) (q op : Nat) (f : QFields) (nan : Option Nat) (src : Bool), quernRuns s q = true →
    let arms := (ctxOf s q).qcr.toNat / 16 % 2 = 1 ∧ (qnAt s q).fnanValid = false
    (nan = none ∨ ¬ arms → QuernSets s (complete s q op f nan src) q (nextPc (ctxOf s q))) ∧
    ∀ i, nan = some i → arms → OnlyQuern s (complete s q op f nan src) q ∧
      ∃ n : Quern, n = { qnAt s q with
          fnanValid := true, fnanOrigin := !src, fnanInsn := quernWord op f
          fnanItem := (qnAt s q).item.elim 0 (fun i => i.id), fnanIndex := i, fnanPc := (ctxOf s q).pc
          fnanTurn := s.time.turn % 2 ^ 32 } ∧
        qnAt (complete s q op f nan src) q = if (ctxOf s q).qcr.toNat / 32 % 2 = 1
          then { n with state := 2, trap := 6, trapPc := (ctxOf s q).pc } else { n with ctx := nextPc (ctxOf s q) }

/-- The instructions that only move or compute scalar registers, flags and QCR (R114, R127): the destination takes the
value given and every other register, flag and unit stays. QCRW of a reserved rounding code takes trap 0x1. -/
def Obligations.ScalarInstructionsChangeOneRegister : Prop :=
  ∀ (s : State) (q : Nat) (f : QFields),
    let c := ctxOf s q
    (Issues s q 0x01 f → Gives (.nop q f) s (fun t => QuernSets s t q (nextPc c))) ∧
    (Issues s q 0x0A f → sReg c f.a % 8 < 5 → Gives (.qcrw q f) s (fun t => QuernSets s t q
      (nextPc { c with qcr := BitVec.ofNat 32 (sReg c f.a % 8 + fieldOf (sReg c f.a) 6 4 * 16) }))) ∧
    (Issues s q 0x0A f → 5 ≤ sReg c f.a % 8 → Gives (.qcrw q f) s (fun t => QuernTraps s t q 1)) ∧
    (Issues s q 0x0B f → Gives (.qcrr q f) s (fun t => QuernSets s t q (nextPc (setS c f.d c.qcr.toNat)))) ∧
    (Issues s q 0x0C f → Gives (.frd q f) s (fun t => QuernSets s t q (nextPc (setS c f.d c.f0.toNat)))) ∧
    (Issues s q 0x0D f → Gives (.fclr q f) s (fun t => QuernSets s t q
      (nextPc { c with f0 := c.f0 &&& ~~~(BitVec.ofNat 7 f.md) }))) ∧
    (Issues s q 0x10 f → Gives (.sli q f) s (fun t => QuernSets s t q
      (nextPc (setS c f.d (setField (sReg c f.d) (min 63 (18 * f.a + 17)) (18 * f.a) f.md))))) ∧
    (Issues s q 0x11 f → Gives (.saddi q f) s (fun t => QuernSets s t q
      (nextPc (setS c f.d (twosCode 64 ((sReg c f.a : Int) + signed 18 f.md)))))) ∧
    (Issues s q 0x12 f → Gives (.salu q f) s (fun t => QuernSets s t q
      (nextPc (setS c f.d (aluOp 64 f.md (sReg c f.a) (sReg c f.b))))))

/-- Branches and loops (R133): BR and BRC reach a target inside the innermost open loop body and trap on any other; BRC
not taken falls through; LOOP of zero passes skips its body, and otherwise opens it, unless it is the fifth or leaves the
outer body. At the end of a body the next pass starts until none is left. -/
def Obligations.BranchesAndLoopsFollowTheirBodies : Prop :=
  (∀ (s : State) (q : Nat) (f : QFields),
    let c := ctxOf s q
    (Issues s q 0x04 f → branchOk c (c.pc + 8 * f.md) = true →
      Gives (.br q f) s (fun t => QuernSets s t q (goPc c (c.pc + 8 * f.md)))) ∧
    (Issues s q 0x04 f → branchOk c (c.pc + 8 * f.md) = false → Gives (.br q f) s (fun t => QuernTraps s t q 1)) ∧
    (Issues s q 0x05 f → branchOk c (c.pc + 8 * (f.md % 2 ^ 15)) = true → Gives (.brc q f) s (fun t => QuernSets s t q
      (if brcHolds (f.md / 2 ^ 15) (sReg c f.a) (sReg c f.b) then goPc c (c.pc + 8 * (f.md % 2 ^ 15)) else nextPc c))) ∧
    (Issues s q 0x05 f → branchOk c (c.pc + 8 * (f.md % 2 ^ 15)) = false →
      Gives (.brc q f) s (fun t => QuernTraps s t q 1)) ∧
    (Issues s q 0x06 f → c.loops = [] → sReg c f.a = 0 → Gives (.loop q f) s (fun t =>
      QuernSets s t q { c with pc := c.pc + 8 + 8 * f.md })) ∧
    (Issues s q 0x06 f → c.loops.length < 4 → (∀ l ∈ c.loops.head?, c.pc + 8 + 8 * f.md ≤ l.start + 8 * l.len) →
      sReg c f.a ≠ 0 → Gives (.loop q f) s (fun t =>
        QuernSets s t q { c with pc := c.pc + 8, loops := ⟨sReg c f.a - 1, c.pc + 8, f.md⟩ :: c.loops })) ∧
    (Issues s q 0x06 f → 4 ≤ c.loops.length → Gives (.loop q f) s (fun t => QuernTraps s t q 1))) ∧
  ∀ (c : QCtx) (l : LoopSt) (rest : List LoopSt), c.loops = l :: rest →
    (c.pc + 8 ≠ l.start + 8 * l.len → nextPc c = { c with pc := c.pc + 8 }) ∧
    (c.pc + 8 = l.start + 8 * l.len → 0 < l.left →
      nextPc c = { c with pc := l.start, loops := { l with left := l.left - 1 } :: rest }) ∧
    (c.pc + 8 = l.start + 8 * l.len → l.left = 0 → rest = [] → nextPc c = { c with pc := c.pc + 8, loops := [] })

/-- ENDI and ENDS (R113, R132, R133): inside a loop body they trap, they wait for every transfer, and otherwise f0 is ORed
into QN_FLAGS and the Quern is idle, after ENDS with no work item. -/
def Obligations.TheEndOfAWorkItemKeepsItsFlags : Prop :=
  ∀ (s : State) (q : Nat) (f : QFields),
    (∀ c op, (c = .endi q f ∧ op = 0x02) ∨ (c = .ends q f ∧ op = 0x03) → Issues s q op f →
      ((ctxOf s q).loops ≠ [] → Gives c s (fun t => QuernTraps s t q 1)) ∧
      ((ctxOf s q).loops = [] → (ctxOf s q).a0 = none → (ctxOf s q).a1 = none → (qnAt s q).xfers ≠ [] → Gives c s (· = s)) ∧
      ((ctxOf s q).loops = [] → (ctxOf s q).a0 = none → (ctxOf s q).a1 = none → (qnAt s q).xfers = [] → Gives c s (fun t =>
        regGet t (oQnFlags + 0x40 * q) = (regGet s (oQnFlags + 0x40 * q) ||| (ctxOf s q).f0.toNat) % 2 ^ 32 ∧
        (∀ o, o ≠ oQnFlags + 0x40 * q → regGet t o = regGet s o) ∧
        qnAt t q = { qnAt s q with
          state := 0, ctx := nextPc (ctxOf s q), item := if op = 0x03 then none else (qnAt s q).item } ∧
        (∀ p, p ≠ q → qnAt t p = qnAt s p) ∧ t.mem = s.mem ∧
        t = { s with regs := t.regs, qn := t.qn, work := t.work, pub := t.pub } ∧
        (op = 0x02 → t.work = s.work ∧ t.pub = s.pub)))) ∧
    (Issues s q 0x03 f → (ctxOf s q).loops = [] → (ctxOf s q).a0.isSome = true ∨ (ctxOf s q).a1.isSome = true →
      Gives (.ends q f) s (fun t => QuernTraps s t q 1)) ∧
    (∀ i, (qnAt s q).item = some i → Issues s q 0x03 f → (ctxOf s q).loops = [] → (ctxOf s q).a0 = none →
      (ctxOf s q).a1 = none → (qnAt s q).xfers = [] → itemCurrent s i = true → itemFin s i ≤ i.next →
      i.replay = false → Gives (.ends q f) s (fun t =>
        (i.refresh = true → t.work.refreshed = s.work.refreshed ++ [i.entry]) ∧
        (i.refresh = false → ∀ u ∈ t.work.units, u.entry = i.entry → u.updated = true)))

/-- Vector arithmetic and special functions (R142, R143): each active lane of v[D] takes the operation on the lanes of the
sources under the word's rounding, f0 the flags of every active lane; the other lanes and registers stay. -/
def Obligations.VectorArithmeticWritesExactlyTheActiveLanes : Prop :=
  ∀ (s : State) (q : Nat) (f : QFields),
    (Issues s q 0x40 f → Gives (.vadd q f) s (fun t => LaneWise s t q 0x40 f f.fi f.fi [f.a, f.b] (fun i =>
      valLane f (fpAdd (vfmt f.fi) (rmq s q f) (valOf s q f f.a i) (valOf s q f f.b i))))) ∧
    (Issues s q 0x41 f → Gives (.vsub q f) s (fun t => LaneWise s t q 0x41 f f.fi f.fi [f.a, f.b] (fun i =>
      valLane f (fpSub (vfmt f.fi) (rmq s q f) (valOf s q f f.a i) (valOf s q f f.b i))))) ∧
    (Issues s q 0x42 f → Gives (.vmul q f) s (fun t => LaneWise s t q 0x42 f f.fi f.fi [f.a, f.b] (fun i =>
      valLane f (fpMul (vfmt f.fi) (rmq s q f) (valOf s q f f.a i) (valOf s q f f.b i))))) ∧
    (Issues s q 0x43 f → Gives (.vfma q f) s (fun t => LaneWise s t q 0x43 f f.fi f.fi [f.a, f.b, f.c] (fun i =>
      valLane f (fpFma (vfmt f.fi) (rmq s q f) (valOf s q f f.a i) (valOf s q f f.b i) (valOf s q f f.c i))))) ∧
    (Issues s q 0x44 f → Gives (.vdiv q f) s (fun t => LaneWise s t q 0x44 f f.fi f.fi [f.a, f.b] (fun i =>
      valLane f (fpDiv (vfmt f.fi) (rmq s q f) (valOf s q f f.a i) (valOf s q f f.b i))))) ∧
    (Issues s q 0x4C f → Gives (.vrem q f) s (fun t => LaneWise s t q 0x4C f f.fi f.fi [f.a, f.b] (fun i =>
      valLane f (fpRem (vfmt f.fi) (valOf s q f f.a i) (valOf s q f f.b i))))) ∧
    (Issues s q 0x4D f → Gives (.vrint q f) s (fun t => LaneWise s t q 0x4D f f.fi f.fi [f.a] (fun i =>
      valLane f (fpRint (vfmt f.fi) (rmq s q f) (bitOf f.md 0) (valOf s q f f.a i))))) ∧
    (Issues s q 0x4E f → Gives (.vscalb q f) s (fun t => LaneWise s t q 0x4E f f.fi f.fi [f.a] (fun i =>
      valLane f (fpScaleB (vfmt f.fi) (rmq s q f) (valOf s q f f.a i) (signed 32 (vLane (ctxOf s q) f.b i)))))) ∧
    (Issues s q 0x60 f → Gives (.vrcp q f) s (fun t => LaneWise s t q 0x60 f f.fi f.fi [f.a] (fun i =>
      valLane f (fpRcp (vfmt f.fi) (valOf s q f f.a i))))) ∧
    (Issues s q 0x61 f → Gives (.vrsqrt q f) s (fun t => LaneWise s t q 0x61 f f.fi f.fi [f.a] (fun i =>
      valLane f (fpRsqrt (vfmt f.fi) (valOf s q f f.a i))))) ∧
    (Issues s q 0x62 f → Gives (.vsqrt q f) s (fun t => LaneWise s t q 0x62 f f.fi f.fi [f.a] (fun i =>
      valLane f (fpSqrt (vfmt f.fi) (rmq s q f) (valOf s q f f.a i))))) ∧
    (Issues s q 0x63 f → Gives (.vexp2 q f) s (fun t => LaneWise s t q 0x63 f f.fi f.fi [f.a] (fun i =>
      valLane f (fpExp2 (vfmt f.fi) (valOf s q f f.a i))))) ∧
    (Issues s q 0x64 f → Gives (.vlog2 q f) s (fun t => LaneWise s t q 0x64 f f.fi f.fi [f.a] (fun i =>
      valLane f (fpLog2 (vfmt f.fi) (valOf s q f f.a i)))))

/-- Comparisons of value, sign-bit operations, classification, selection, integer operations and moves (R142): each active
lane of v[D] takes its result, the other lanes and registers stay. -/
def Obligations.VectorSelectionWritesExactlyTheActiveLanes : Prop :=
  ∀ (s : State) (q : Nat) (f : QFields),
    (Issues s q 0x45 f → Gives (.vmax q f) s (fun t => LaneWise s t q 0x45 f f.fi f.fi [f.a, f.b] (fun i =>
      valLane f (fpMaxMin true (valOf s q f f.a i) (valOf s q f f.b i))))) ∧
    (Issues s q 0x46 f → Gives (.vmin q f) s (fun t => LaneWise s t q 0x46 f f.fi f.fi [f.a, f.b] (fun i =>
      valLane f (fpMaxMin false (valOf s q f f.a i) (valOf s q f f.b i))))) ∧
    (Issues s q 0x47 f → Gives (.vmaxn q f) s (fun t => LaneWise s t q 0x47 f f.fi f.fi [f.a, f.b] (fun i =>
      valLane f (fpMaxMinNum true (valOf s q f f.a i) (valOf s q f f.b i))))) ∧
    (Issues s q 0x48 f → Gives (.vminn q f) s (fun t => LaneWise s t q 0x48 f f.fi f.fi [f.a, f.b] (fun i =>
      valLane f (fpMaxMinNum false (valOf s q f f.a i) (valOf s q f f.b i))))) ∧
    (Issues s q 0x49 f → Gives (.vabs q f) s (fun t => LaneWise s t q 0x49 f f.fi f.fi [f.a] (fun i =>
      (laneOf s q f.fi f.a i % signBit f.fi, 0)))) ∧
    (Issues s q 0x4A f → Gives (.vneg q f) s (fun t => LaneWise s t q 0x4A f f.fi f.fi [f.a] (fun i =>
      (laneOf s q f.fi f.a i ^^^ signBit f.fi, 0)))) ∧
    (Issues s q 0x4B f → Gives (.vcpsgn q f) s (fun t => LaneWise s t q 0x4B f f.fi f.fi [f.a, f.b] (fun i =>
      (laneOf s q f.fi f.a i % signBit f.fi + laneOf s q f.fi f.b i / signBit f.fi * signBit f.fi, 0)))) ∧
    (Issues s q 0x4F f → Gives (.vlogb q f) s (fun t => LaneWise s t q 0x4F f f.fi 0xB [f.a] (fun i =>
      fpLogB (valOf s q f f.a i)))) ∧
    (Issues s q 0x50 f → Gives (.vnext q f) s (fun t => LaneWise s t q 0x50 f f.fi f.fi [f.a] (fun i =>
      fpNext (vfmt f.fi) (bitOf f.md 0) (laneOf s q f.fi f.a i)))) ∧
    (Issues s q 0x52 f → Gives (.vclass q f) s (fun t => LaneWise s t q 0x52 f f.fi 0xB [f.a] (fun i =>
      (fpClass (vfmt f.fi) (valOf s q f f.a i), 0)))) ∧
    (Issues s q 0x53 f → Gives (.vsel q f) s (fun t => LaneWise s t q 0x53 f f.fi f.fi [f.a, f.b] (fun i =>
      (if laneOn s q f.c i then laneOf s q f.fi f.a i else laneOf s q f.fi f.b i, 0)))) ∧
    (Issues s q 0x55 f → Gives (.vmov q f) s (fun t => LaneWise s t q 0x55 f f.fi f.fi [f.a] (fun i =>
      (laneOf s q f.fi f.a i, 0)))) ∧
    (Issues s q 0x54 f → Gives (.viop q f) s (fun t => LaneWise s t q 0x54 f 0xB 0xB [f.a, f.b] (fun i =>
      viopLane f.md f.sat (laneOf s q 0xB f.a i) (laneOf s q 0xB f.b i))))

/-- VCMP, VLANE, VPK, VUPK, VBCAST and VEXT (R142): predicate bits, lane numbers and packed words under PRED, a scalar into
every active lane, and one active lane into a scalar. -/
def Obligations.CrossFileMovesFollowThePredicate : Prop :=
  ∀ (s : State) (q : Nat) (f : QFields),
    let c := ctxOf s q
    let cmp := fun i => fpCompare (f.md % 8) (bitOf f.md 3) (valOf s q f f.a i) (valOf s q f f.b i)
    (Issues s q 0x51 f → Gives (.vcmp q f) s (fun t =>
      QuernSets s t q (nextPc (raiseFlags (putPred c f.d ((List.range 64).map (fun i =>
          if laneOn s q f.pred i then some (cmp i).1 else none)))
        (flagsOr ((List.range 64).map (fun i => if laneOn s q f.pred i then (cmp i).2 else 0))))) ∧
      (f.d ≠ 0 → ∀ i, i < 64 → bitOf (pReg (ctxOf t q) f.d) i
        = if laneOn s q f.pred i then (cmp i).1 else bitOf (pReg c f.d) i))) ∧
    (Issues s q 0x58 f → Gives (.vlane q f) s (fun t => QuernSets s t q (nextPc (putLanes c 0xB f.d
      ((List.range 64).map (fun i => if laneOn s q f.pred i then some i else none)))))) ∧
    (Issues s q 0x59 f → Gives (.vpk q f) s (fun t => QuernSets s t q (nextPc (putActive c f.pred f.d
      ((List.range 64).map (fun i => leAt (packElems (packWidth f.md) (vLanes c f.a)) (4 * i) 4)))))) ∧
    (Issues s q 0x5A f → Gives (.vupk q f) s (fun t => QuernSets s t q (nextPc (putActive c f.pred f.d
      (unpackElems (packWidth f.md) 64 ((vLanes c f.a).flatMap (leBytes 4))))))) ∧
    (Issues s q 0x56 f → Gives (.vbcast q f) s (fun t =>
      let x := sReg c f.a % 2 ^ fmtBits f.fi
      let outs := (List.range 64).map (fun i => if laneOn s q f.pred i then some x else none)
      t = complete (ctxMod s q (fun c => putLanes c f.fi f.d outs)) q 0x56 f
        (outs.findIdx? (fun y => y.elim false (nanCode f.fi))) (nanCode f.fi x) ∧
      ∀ i, i < 64 → laneOf t q f.fi f.d i = if laneOn s q f.pred i then x else laneOf s q f.fi f.d i)) ∧
    (Issues s q 0x57 f → laneOn s q f.pred f.md = true → Gives (.vext q f) s (fun t =>
      let x := laneOf s q f.fi f.a f.md
      t = complete (ctxMod s q (fun c => setS c f.d x)) q 0x57 f (if nanCode f.fi x then some 0 else none) true ∧
      sReg (ctxOf t q) f.d = x % 2 ^ 64)) ∧
    (Issues s q 0x57 f → laneOn s q f.pred f.md = false → Gives (.vext q f) s (fun t => QuernSets s t q (nextPc c)))

/-- Conversions (R144): CVT and CVT.ODD convert each active lane, taking a word for each under SR, CVTB narrows the 64
lanes with block scales beside them and counts its underflowed blocks, CVTW widens them. -/
def Obligations.ConversionsWriteTheirFormats : Prop :=
  ∀ (s : State) (q : Nat) (f : QFields),
    let c := ctxOf s q
    let act := activeLanes c f.pred
    let src := lanesOf c f.fi f.a
    (∀ cmd op sel, (cmd = .cvt q f ∧ op = 0x70 ∧ sel = selOf c f.rnd) ∨ (cmd = .cvtOdd q f ∧ op = 0x71 ∧ sel = .attr .odd) →
      Issues s q op f → Gives cmd s (fun t =>
        let d := drawn s q (decide (f.rnd = 2)) act
        let lanes := (act.zip (src.zip d.1)).map (fun (on, x, w) =>
          if !on then none else if f.fi = f.fo && op = 0x70 then some (x, (0 : Flags))
          else some (convTo f.fo f.sat sel (srcOf (elemFV f.fi x)) w))
        let outs := lanes.map (fun x => x.map (fun y => y.1))
        t = complete (ctxMod d.2 q (fun c => raiseFlags (putLanes c f.fo f.d outs)
          (flagsOr (lanes.map (fun x => x.elim 0 (fun y => y.2)))))) q op f
          (outs.findIdx? (fun x => x.elim false (nanCode f.fo))) (anyNan f.fi act [src]))) ∧
    (Issues s q 0x72 f → Gives (.cvtb q f) s (fun t =>
      let d := if f.rnd = 2 then drawActive s (logicalOf s q) 0 (List.replicate 64 true) else ([], s)
      let bsize := fieldOf f.md 14 12
      let out := convertMatrix 1 64 ((lanesOf c 1 f.a).map (fun x => srcOf (elemFV 1 x))) f.fo (some (bsize, false))
        (some (if bitOf f.md 17 then sReg c f.b % 2 ^ 32 else 0x3F800000)) false (selOf c f.rnd) d.1
      t = complete (ctxMod (countUnder d.2 q out.underBlocks) q (fun c => raiseFlags (putLanes (putLanes c 0xB f.d
          (out.codes.map some)) 0xB (f.d + 1) ((List.range 64).map (fun i => some (out.scales.getD i 0)))) out.flags)) q 0x72 f
        ((out.codes.zipIdx).findIdx? (fun (x, i) => nanCode f.fo x || out.scales.getD (i / blockSize bsize) 0 == 0xFF))
        ((lanesOf c 1 f.a).any (nanCode 1)))) ∧
    (Issues s q 0x73 f → Gives (.cvtw q f) s (fun t =>
      let ins := (src.zipIdx).map (fun (x, i) => scaledSrc f.fi x
        (some ((vLanes c (f.a + 1)).getD (i / blockSize (fieldOf f.md 14 12)) 0 % 256))
        (if bitOf f.md 17 then some (sReg c f.b % 2 ^ 32) else none))
      let outs := ins.map (fun (x, _) => convTo f.fo false (selOf c f.rnd) x 0)
      t = complete (ctxMod s q (fun c => raiseFlags (putLanes c f.fo f.d (outs.map (fun x => some x.1)))
          (flagsOr (ins.map (fun x => x.2)) ||| flagsOr (outs.map (fun x => x.2))))) q 0x73 f
        ((outs.map (fun x => x.1)).findIdx? (nanCode f.fo)) (ins.any (fun x => x.1.v.isNan))))

/-- Reductions over the active lanes in ascending order: sums and sums of squares rounded at each step from minus zero,
maxima and minima, and the index of the extreme, written to s[D]. The index of an argmax or argmin is that of the first NaN
if there is one, else the lowest index whose value is the maximum or minimum, +0 being above -0 (R58). -/
def Obligations.ReductionsFoldTheActiveLanesInOrder : Prop :=
  ∀ (s : State) (q : Nat) (f : QFields),
    let c := ctxOf s q
    let xs := activeVals c f.fi f.a f.pred
    (Issues s q 0x80 f → Gives (.vrsum q f) s (fun t =>
      Reduces s t q 0x80 f (foldLanes (fpAdd (vfmt f.fi) (rmq s q f)) xs))) ∧
    (Issues s q 0x81 f → Gives (.vrssq q f) s (fun t =>
      Reduces s t q 0x81 f (foldLanes (fun a x => fpFma (vfmt f.fi) (rmq s q f) x x a) xs))) ∧
    (Issues s q 0x82 f → Gives (.vrmax q f) s (fun t => Reduces s t q 0x82 f (foldMaxMin true xs))) ∧
    (Issues s q 0x83 f → Gives (.vrmin q f) s (fun t => Reduces s t q 0x83 f (foldMaxMin false xs))) ∧
    (Issues s q 0x84 f → Gives (.vrargmax q f) s (fun t =>
      QuernSets s t q (nextPc (setS c f.d (argMaxMin true (activeVals c f.fi f.a 0)))))) ∧
    (Issues s q 0x85 f → Gives (.vrargmin q f) s (fun t =>
      QuernSets s t q (nextPc (setS c f.d (argMaxMin false (activeVals c f.fi f.a 0)))))) ∧
    (∀ (isMax : Bool) (vs : List FV), vs ≠ [] →
      (∀ i, vs.findIdx? FV.isNan = some i → argMaxMin isMax vs = i) ∧
      ((∀ v ∈ vs, v.isNan = false) → ∃ v, vs[argMaxMin isMax vs]? = some v ∧ ∀ j w, vs[j]? = some w →
        (if isMax then ltZ v w else ltZ w v) = false ∧
        (j < argMaxMin isMax vs → (if isMax then ltZ w v else ltZ v w) = true))) ∧
    (∀ (n k : Bool) (m l : Nat) (d e : Int), ltZ (.fin n m d) (.fin k l e) = true ↔
      ratOf n m d < ratOf k l e ∨ ratOf n m d = ratOf k l e ∧ n = true ∧ k = false) ∧
    (∀ (y : FV × Flags) (op : Nat), quernRuns s q = true → sReg (ctxOf (complete (ctxMod s q (fun c => raiseFlags (setS c f.d (elemCode f.fi y.1))
      y.2)) q op f (if y.1.isNan then some 0 else none) (xs.any FV.isNan)) q) f.d = elemCode f.fi y.1 % 2 ^ 64)

/-- Fixed-window conversion, addition and rounding (R145, R146): 96-bit and 128-bit totals in register triples and
quadruples, overflow and minus-zero records in predicates, and NV and SAT in f0. -/
def Obligations.FixedWindowInstructionsKeepTheirTotals : Prop :=
  ∀ (s : State) (q : Nat) (f : QFields),
    let c := ctxOf s q
    let act := activeLanes c f.pred
    (Issues s q 0x90 f → Gives (.fwcvt q f) s (fun t =>
      let xs := (lanesOf c f.fi f.a).map (elemFV f.fi)
      let ts := termLanes 79 (expOf c f.b) act xs
      let c1 := putWide c 3 f.d (ts.map (fun t => t.map (fun y => twosCode 96 y.q)))
      let c2 := putPred c1 (f.md % 8) (ts.zipIdx.map (fun (t, i) => t.map (fun y => bitOf (pReg c (f.md % 8)) i || y.ovr)))
      let c3 := putPred c2 (f.md / 8) ((ts.zip xs).zipIdx.map (fun ((t, x), i) =>
        t.map (fun _ => bitOf (pReg c2 (f.md / 8)) i && isNegZero x)))
      QuernSets s t q (nextPc (raiseFlags c3 (flagIf (ts.any (fun t => t.elim false (fun y => y.bad))) flNV))))) ∧
    (Issues s q 0x91 f → Gives (.fwadd q f) s (fun t => QuernSets s t q (nextPc (wideAdd 96 c f)))) ∧
    (Issues s q 0x94 f → Gives (.fwadd128 q f) s (fun t => QuernSets s t q (nextPc (wideAdd 128 c f)))) ∧
    (Issues s q 0x92 f → Gives (.fwfin q f) s (fun t =>
      let outs := (act.zip ((wideLanes c 3 f.a).zip (activeLanes c (f.md / 8)))).map (fun (on, x, z) =>
        if on then some (execFwfin.fwValue (expOf c f.b) (signed 96 x) z) else none)
      QuernSets s t q (nextPc (raiseFlags (putLanes c 1 f.d (outs.map (fun x => x.map (fun y => y.1))))
        (flagsOr (outs.map (fun x => x.elim 0 (fun y => y.2)))))))) ∧
    (Issues s q 0x93 f → Gives (.fwsq q f) s (fun t =>
      let xs := (lanesOf c 1 f.a).map (elemFV 1)
      let ts := termLanes 86 (normE c f.b) act (xs.map (fun x => (mulFV x x).1))
      let c1 := putWide c 4 f.d (ts.map (fun t => t.map (fun y => twosCode 128 y.q)))
      let c2 := putPred c1 f.md (ts.zipIdx.map (fun (t, i) => t.map (fun y => bitOf (pReg c f.md) i || y.ovr)))
      QuernSets s t q (nextPc (raiseFlags c2 (flagIf (ts.any (fun t => t.elim false (fun y => y.bad))) flNV))))) ∧
    (Issues s q 0x95 f → Gives (.fwfin128 q f) s (fun t =>
      let rounded := fun (x : Nat) => convertFV fmtB64 .rne (.fin (decide (signed 128 x < 0)) (signed 128 x).natAbs (normE c f.b - 86))
      let outs := (act.zip (wideLanes c 4 f.a)).map (fun (on, x) =>
        if on then some (encodeFV fmtB64 (rounded x).1, (rounded x).2) else none)
      QuernSets s t q (nextPc (raiseFlags (putLanes c 0 f.d (outs.map (fun x => x.map (fun y => y.1))))
        (flagsOr (outs.map (fun x => x.elim 0 (fun y => y.2)))))))) ∧
    (∀ n (a b : Nat), n = 96 ∨ n = 128 → a < 2 ^ n → b < 2 ^ n → twosCode n (signed n a + signed n b) = (a + b) % 2 ^ n)

/-- Random draws (R147): RBITS, RUNI and RBERN take one word for each active lane from the stream in MOD, and write the
word, the word's 24 high bits as a fraction, or whether it is below the threshold. -/
def Obligations.RandomDrawsTakeOneWordPerActiveLane : Prop :=
  ∀ (s : State) (q : Nat) (f : QFields),
    let act := activeLanes (ctxOf s q) f.pred
    let d := drawActive s (logicalOf s q) f.md act
    (Issues s q 0xA0 f → Gives (.rbits q f) s (fun t =>
      QuernSets d.2 t q (nextPc (putLanes (ctxOf s q) 0xB f.d ((act.zip d.1).map (fun (on, w) => if on then some w else none)))))) ∧
    (Issues s q 0xA1 f → Gives (.runi q f) s (fun t =>
      QuernSets d.2 t q (nextPc (putLanes (ctxOf s q) 1 f.d ((act.zip d.1).map (fun (on, w) =>
        if on then some (encodeFV fmtB32 (.fin false (w / 256) (-24))) else none)))))) ∧
    (Issues s q 0xA2 f → Gives (.rbern q f) s (fun t =>
      QuernSets d.2 t q (nextPc (putPred (ctxOf s q) f.d ((act.zip d.1).map (fun (on, w) =>
        if on then some (decide (w < sReg (ctxOf s q) f.a % 2 ^ 32)) else none)))))) ∧
    d.2 = { s with regs := d.2.regs, qn := { s.qn with sails := d.2.qn.sails } } ∧ d.1.length = 64

/-- The 64-bit instruction word (R127): the operation code and every field read back from the word of any fields that fit
their bit ranges, so no bit of an instruction is lost. -/
def Obligations.QuernWordsDecodeToTheirFields : Prop :=
  ∀ (op : Nat) (f : QFields), op < 256 → f.wf = true →
    quernOp (quernWord op f) = op ∧ quernFields (quernWord op f) = f ∧ quernWord op f < 2 ^ 64

/-- MFENCE and MWAIT wait, without effect, while what they wait for is outstanding, and otherwise pass (R139, R148). -/
def Obligations.FencesAndWaitsHoldUntilTransfersEnd : Prop :=
  ∀ (s : State) (q : Nat) (f : QFields),
    (Issues s q 0x08 f → (f.md = 2 → writesOut s q = false) →
      Gives (.mfence q f) s (fun t => QuernSets s t q (nextPc (ctxOf s q)))) ∧
    (Issues s q 0x08 f → f.md = 2 → writesOut s q = true → Gives (.mfence q f) s (· = s)) ∧
    (Issues s q 0x26 f → (∀ x ∈ (qnAt s q).xfers, bitOf f.md x.tag = false) →
      Gives (.mwait q f) s (fun t => QuernSets s t q (nextPc (ctxOf s q)))) ∧
    (Issues s q 0x26 f → (∃ x ∈ (qnAt s q).xfers, bitOf f.md x.tag = true) → Gives (.mwait q f) s (· = s))

/-- WAITW (R134): a local word that meets the condition makes it a NOP; one that does not ends the work item with the
address, value and condition kept; in a loop body it traps, it waits for transfers, a fault of its translation suspends the
item, an address that is no scratch word traps, poison traps with 0x2, and another chip's word is asked for. -/
def Obligations.WaitwEndsTheItemUntilItsWordHolds : Prop :=
  ∀ (s : State) (q : Nat) (f : QFields), Inv s → Issues s q 0x07 f →
    let c := ctxOf s q
    let eq := decide (f.md = 1)
    let u := (trans s q (sReg c f.a) false).2
    (c.loops ≠ [] → Gives (.waitw q f) s (fun t => QuernTraps s t q 1)) ∧
    (c.loops = [] → (qnAt s q).xfers ≠ [] → Gives (.waitw q f) s (· = s)) ∧
    (c.loops = [] → (qnAt s q).xfers = [] →
      (∀ ty lv, (trans s q (sReg c f.a) false).1 = .fault ty lv → Gives (.waitw q f) s (fun t =>
        t = suspendQ u q (sReg c f.a) false ty lv ∧ (qnAt t q).state = 2 ∧ (qnAt t q).trap = 3 ∧
        (qnAt t q).token = some u.sl.nextToken)) ∧
      ∀ a, (trans s q (sReg c f.a) false).1 = .ok a →
        (scratchWord u a 8 = false → Gives (.waitw q f) s (fun t => QuernTraps u t q 1)) ∧
        (scratchWord u a 8 = true → isRemote u a = true → Gives (.waitw q f) s (fun t =>
          t = sendVc4 (qnMod u q (fun n => { n with blocked := true })) 0x38 (baddrOf a).chip (a / 64 * 64) 64 [] 0
            (.quernWaitw q a (sReg c f.b) eq))) ∧
        (scratchWord u a 8 = true → isRemote u a = false →
          let r := scratchRead u ((baddrOf a).off / 64)
          let word := leAt r.1.data ((baddrOf a).off % 64) 8
          (r.1.poison = true → Gives (.waitw q f) s (fun t => t = trapQ (consumePoison r.2 q a false) q 2)) ∧
          (r.1.poison = false → waitHolds eq word (sReg c f.b) = true → Gives (.waitw q f) s (fun t =>
            QuernSets r.2 t q (nextPc (ctxOf r.2 q)))) ∧
          (r.1.poison = false → waitHolds eq word (sReg c f.b) = false → Gives (.waitw q f) s (fun t =>
            qnAt t q = { qnAt r.2 q with state := 0, waitw := some (a, sReg c f.b, eq) } ∧
            ∀ p, p ≠ q → qnAt t p = qnAt r.2 p))))

/-- ATOM (R135): a local atomic operation writes the word's previous value to s[D]; a misaligned or unsuitable address
traps, a fault of its translation suspends the item, poison traps with 0x2, and another chip's word is asked for. -/
def Obligations.AtomReturnsThePreviousValue : Prop :=
  ∀ (s : State) (q : Nat) (f : QFields), Inv s → Issues s q 0x09 f → (f.md / 32 = 2 → writesOut s q = false) →
    let c := ctxOf s q
    let size := if bitOf f.md 4 then 8 else 4
    let w := decide (f.md % 16 ≠ 0xA)
    let x := sReg c f.b % 2 ^ (8 * size)
    let cmp := sReg c f.c % 2 ^ (8 * size)
    let u := (trans s q (sReg c f.a) w).2
    (sReg c f.a % size ≠ 0 → Gives (.atom q f) s (fun t => QuernTraps s t q 1)) ∧
    (sReg c f.a % size = 0 →
      (∀ ty lv, (trans s q (sReg c f.a) w).1 = .fault ty lv →
        Gives (.atom q f) s (fun t => t = suspendQ u q (sReg c f.a) w ty lv)) ∧
      ∀ a, (trans s q (sReg c f.a) w).1 = .ok a →
        (scratchWord u a size = false → Gives (.atom q f) s (fun t => QuernTraps u t q 1)) ∧
        (scratchWord u a size = true → isRemote u a = true → Gives (.atom q f) s (fun t =>
          t = sendVc4 (qnMod u q (fun n => { n with blocked := true })) 0x3B (baddrOf a).chip a
            (f.md % 16 + (if size = 8 then 16 else 0)) (leBytes size x ++ leBytes size cmp) 0 (.quernAtom q f.d size))) ∧
        (scratchWord u a size = true → isRemote u a = false →
          let r := atomicAt u (baddrOf a).off size (f.md % 16) x cmp
          (r.2.1 = true → Gives (.atom q f) s (fun t => t = trapQ (consumePoison r.2.2 q a false) q 2)) ∧
          (r.2.1 = false → Gives (.atom q f) s (fun t =>
            QuernSets r.2.2 t q (nextPc (setS (ctxOf r.2.2 q) f.d r.1))))))

/-- Loads from the store (R136, R138): TLD and VLD read their range once it is free and clean, a tile register taking every
element, VLD the active lanes; poison in the range traps with 0x2 and loads nothing. -/
def Obligations.LoadsReadTheStoreWhole : Prop :=
  ∀ (s : State) (q : Nat) (f : QFields), Inv s →
    let c := ctxOf s q
    (∀ cmd op o n, (cmd = .tld q f ∧ op = 0x20 ∧ o = sReg c f.a ∧
          n = tileSpan f.fi (fieldOf f.md 14 12) (bitOf f.md 15) (bitOf f.md 16)) ∨
        (cmd = .vld q f ∧ op = 0x22 ∧ o = vecAddr (sReg c f.a) f.md ∧ n = vecBytes f.fi) → Issues s q op f →
      StoreStops cmd s q o n ∧
      (StoreFree s q o n → ∀ i, (storeCheck s q o n).1.findIdx? id = some i →
        Gives cmd s (fun t => t = trapPoison (storeCheck s q o n).2 q (o / 64 + i)))) ∧
    (Issues s q 0x20 f →
      let o := sReg c f.a
      let n := tileSpan f.fi (fieldOf f.md 14 12) (bitOf f.md 15) (bitOf f.md 16)
      let tile := tileOf f (sReg c f.b) (storeBytes s q o n)
      StoreFree s q o n → StoreClean s q o n → Gives (.tld q f) s (fun t =>
        t = complete (ctxMod s q (fun c => { c with t := mapSet (fun _ => none) c.t f.d (some tile) })) q 0x20 f
          (nanIndex tile.cols (tile.valid.1.map (fun x => x.v.isNan))) true ∧
        mapGet (fun _ => none) (ctxOf t q).t f.d = some tile ∧
        ∀ r, r ≠ f.d → mapGet (fun _ => none) (ctxOf t q).t r = mapGet (fun _ => none) c.t r)) ∧
    (Issues s q 0x22 f →
      let o := vecAddr (sReg c f.a) f.md
      let es := unpackElems (fmtBits f.fi) 64 (storeBytes s q o (vecBytes f.fi))
      let xs := (es.zip (activeLanes c f.pred)).map (fun (x, on) => if on then some x else none)
      StoreFree s q o (vecBytes f.fi) → StoreClean s q o (vecBytes f.fi) → Gives (.vld q f) s (fun t =>
        t = complete (ctxMod s q (fun c => putLanes c f.fi f.d xs)) q 0x22 f
          (xs.findIdx? (fun x => x.elim false (fun v => (elemFV f.fi v).isNan))) true))

/-- Stores to the store (R137, R138): VST writes the active lanes' bits and TST a tile's valid elements, converted unless
nothing needs converting; nothing outside the range they name changes, in the store or anywhere else. -/
def Obligations.StoresWriteOnlyTheirRange : Prop :=
  ∀ (s : State) (q : Nat) (f : QFields), Inv s →
    let c := ctxOf s q
    (Issues s q 0x23 f →
      let o := vecAddr (sReg c f.b) f.md
      let n := vecBytes f.fi
      StoreStops (.vst q f) s q o n ∧
      (StoreFree s q o n → Gives (.vst q f) s (fun t => QuernSide s t q ∧ StoreKeeps s t q o (o + n) ∧
        ctxOf t q = { c with pc := (ctxOf t q).pc, loops := (ctxOf t q).loops }))) ∧
    (Issues s q 0x21 f → mapGet (fun _ => none) c.t f.a = none → Gives (.tst q f) s (fun t => QuernTraps s t q 1)) ∧
    (Issues s q 0x21 f → ∀ tile, mapGet (fun _ => none) c.t f.a = some tile →
      let o := sReg c f.b
      let n := tileSpan f.fo (fieldOf f.md 14 12) (bitOf f.md 15) (isShort f.fo)
      StoreStops (.tst q f) s q o n ∧
      (StoreFree s q o n → Gives (.tst q f) s (fun t => QuernSide s t q ∧ StoreKeeps s t q o (o + n) ∧
        ctxOf t q = { c with pc := (ctxOf t q).pc, loops := (ctxOf t q).loops, f0 := (ctxOf t q).f0 })))

/-- MGET and MPUT (R139): a misaligned, empty or too long transfer traps with 0x1 and one outside the data area with 0x4; a
tag in use or a busy range makes it wait; otherwise its bursts move in order under its tag, and it passes once every burst
has moved, or stays at a burst whose translation faults. -/
def Obligations.TransfersMoveBurstByBurst : Prop :=
  ∀ (s : State) (q : Nat) (f : QFields) (cmd : Instr) (get : Bool) (op : Nat), Inv s →
    (cmd = .mget q f ∧ get = true ∧ op = 0x24) ∨ (cmd = .mput q f ∧ get = false ∧ op = 0x25) → Issues s q op f →
    let c := ctxOf s q
    let va := sReg c f.a
    let o := sReg c f.b
    let n := sReg c f.c
    let tag := f.md % 8
    let fits := va % 64 = 0 ∧ o % 64 = 0 ∧ n % 64 = 0 ∧ n ≠ 0 ∧ n ≤ 0x20000
    (¬ fits → Gives cmd s (fun t => QuernTraps s t q 1)) ∧
    (fits → storeRangeOk o n = false → Gives cmd s (fun t => QuernTraps s t q 4)) ∧
    (fits → storeRangeOk o n = true → (∃ x ∈ (qnAt s q).xfers, x.tag = tag) ∨ storeBusy s q o n = true →
      Gives cmd s (· = s)) ∧
    (fits → storeRangeOk o n = true → (∀ x ∈ (qnAt s q).xfers, x.tag ≠ tag) → storeBusy s q o n = false →
      let m := if get then ([], s) else storeCheck s q o n
      let x : Xfer := ⟨tag, get, va, o, n, if get then [] else storeBytes m.2 q o n, m.1, o, n⟩
      let r := runXfer q tag (n / 64) (qnMod m.2 q (fun k => { k with xfers := k.xfers ++ [x] }))
      Gives cmd s (fun t => t = if r.1 then ctxMod r.2 q nextPc else r.2))

/-- Accumulator sets (R63, R78, R140, R141): MCFG writes the configuration of a free set and traps on one in use; MMA.OPEN
takes and clears the configuration and opens the set, MMA adds to the open set, and DRN, when it may write, frees it; a
refused pairing, shape or set traps, and a CO chain drains nothing. -/
def Obligations.AccumulatorSetsOpenAccumulateAndDrain : Prop :=
  ∀ (s : State) (q : Nat) (f : QFields), Inv s →
    let c := ctxOf s q
    let tile := fun r => mapGet (fun _ => none) c.t r
    let k := f.md % 64 + 1
    (Issues s q 0x30 f → setFree c f.d = true → Gives (.mcfg q f) s (fun t => QuernSets s t q
      (nextPc (if f.d = 0 then { c with cfg0 := sReg c f.a } else { c with cfg1 := sReg c f.a })))) ∧
    (Issues s q 0x30 f → setFree c f.d = false → Gives (.mcfg q f) s (fun t => QuernTraps s t q 1)) ∧
    (Issues s q 0x31 f → tile f.a = none ∨ tile f.b = none ∨ setFree c f.d = false →
      Gives (.mmaOpen q f) s (fun t => QuernTraps s t q 1)) ∧
    (Issues s q 0x31 f → ∀ a b cls acc f0, tile f.a = some a → tile f.b = some b → pairClass a b = some cls →
      setFree c f.d = true →
      let cfg := if f.d = 0 then c.cfg0 else c.cfg1
      cfgOk s cfg cls f.d c.a1.isNone = true → k ≤ a.cols → k ≤ b.rows → (f.c ≠ 0x3F → (tile f.c).isSome = true) →
      openAcc (chainKind cfg cls) (if f.c = 0x3F then none else tile f.c) = some (acc, f0) →
      Gives (.mmaOpen q f) s (fun t =>
        t = runMma (ctxMod s q (fun c => if f.d = 0 then { c with cfg0 := 0 } else { c with cfg1 := 0 })) q 0x31 f
          ⟨chainKind cfg cls, cls, cfg, 0, 0, false, a.rows, b.cols, a.tscale, b.tscale, false, 0, acc,
            List.replicate 4096 true⟩ a b k f0)) ∧
    (Issues s q 0x32 f → setOf c f.d = none → Gives (.mma q f) s (fun t => QuernTraps s t q 1)) ∧
    (Issues s q 0x32 f → ∀ a b ch, tile f.a = some a → tile f.b = some b → setOf c f.d = some ch →
      pairClass a b = some ch.cls → k ≤ a.cols → k ≤ b.rows → a.rows = ch.rows → b.cols = ch.cols →
      (cfgLimb ch.cfg ≠ 0 → a.fmt = 1 ∧ b.fmt = 1) → (ch.kind = .fw96 → ch.products + fwCount ch.cfg k ≤ 65536) →
      Gives (.mma q f) s (fun t => t = runMma s q 0x32 f ch a b k 0)) ∧
    (Issues s q 0x33 f → setOf c f.a = none → Gives (.drn q f) s (fun t => QuernTraps s t q 1)) ∧
    (Issues s q 0x33 f → ∀ ch, setOf c f.a = some ch → (f.fo = 0xD → ch.kind = .fw96) →
      let o := sReg c f.b
      let en := if f.md % 8 = 0 then 0 else if f.md % 8 = 4 then 256 else 512
      StoreFree s q o (tileSpan f.fo (fieldOf f.md 6 4) (bitOf f.md 7) (isShort f.fo)) →
      (en ≠ 0 → storeRangeOk (sReg c f.c) en = true ∧ storeBusy s q (sReg c f.c) en = false) →
      ((ch.kind = .fw96 → ch.co = false) → Gives (.drn q f) s (fun t =>
        t = drainOut s q f ch ∧ setOf (ctxOf t q) f.a = none ∧ QuernSide s t q)) ∧
      (ch.kind = .fw96 → ch.co = true → bitOf c.qcr.toNat 6 = false → Gives (.drn q f) s (fun t => QuernTraps s t q 5)) ∧
      (ch.kind = .fw96 → ch.co = true → bitOf c.qcr.toNat 6 = true → Gives (.drn q f) s (fun t =>
        QuernSets s t q (nextPc (raiseFlags c flCO)))))

/-! ### The memories -/

/-- Memory events: a PHY fatal error asks for Umber of its channel (R228, R354); a PHY update waits for the boundary (R223);
a soft repair rewrites the row and lists it as repaired or not (R235, R236); a converted granule holds zeros without a mark
and no cache line (R251, R252); retraining ends with its failed channels asked to be Umber (R388). What waited for the home
is then tried again. -/
def Obligations.MemoryEventsActOnTheirUnits : Prop :=
  (∀ (s : State) (mp : Bool) (c : Nat),
    let u := if mp then unitMp c else unitHr c
    (unitExists s u = true → gradeOf s u < 3 → s.fh.gradeNext.find? (fun p => p.1 == u) = none →
      Gives (.phyFatalError mp c) s (fun t =>
        t = { s with fh := { s.fh with gradeNext := s.fh.gradeNext.filter (fun p => p.1 != u) ++ [(u, 3)] } })) ∧
    (unitExists s u = false → Gives (.phyFatalError mp c) s (· = s))) ∧
  (∀ (s : State) (mp : Bool) (port : Nat), Gives (.phyUpdateRequest mp port) s (fun t =>
    t = { s with mem := { s.mem with phyUpd := t.mem.phyUpd } } ∧ (mp, port) ∈ t.mem.phyUpd ∧
    ∀ x, x ≠ (mp, port) → (x ∈ t.mem.phyUpd ↔ x ∈ s.mem.phyUpd))) ∧
  (∀ (s : State) (ok : Bool) (key : Bool × Nat × Nat) (rest : List (Bool × Nat × Nat)), s.mem.pprRows = key :: rest →
    let v := rewriteRow s key
    Gives (.softPprDone ok) s (fun t => ∃ u, t = releaseWaiting u ∧
      u = { v with regs := u.regs, nor := u.nor, mem := { v.mem with
        pprRows := rest, repaired := u.mem.repaired, unrepaired := u.mem.unrepaired } } ∧
      (ok = true → u.mem.repaired = v.mem.repaired ++ [key] ∧ u.mem.unrepaired = v.mem.unrepaired ∧
        u.nor.rows = v.nor.rows ++ [key] ∧ regGet u oSpprCnt = min (regGet v oSpprCnt + 1) 0xFFFFFFFF) ∧
      (ok = false → u.mem.repaired = v.mem.repaired ∧ u.mem.unrepaired = v.mem.unrepaired ++ [key] ∧
        u.nor = v.nor ∧ u.regs = v.regs))) ∧
  (∀ (s : State) (g : Nat), (s.hop.convert.any (fun c => c.1 == g)) = true → Gives (.granuleConvertDone g) s (fun t =>
    ∃ u, t = releaseWaiting u ∧ (∀ c ∈ u.hop.convert, c.1 ≠ g) ∧ (∀ x ∈ u.hop.lines, x.1 / 2 ^ 20 ≠ g) ∧
      (∀ a, a / 2 ^ 28 = g → mapGet zeroAt u.mem.scratch a = 0) ∧
      ∀ b, b / 2 ^ 22 = g → mapGet offAt u.mem.scratchPoison b = false)) ∧
  (∀ (s : State) (failed g : Nat), s.mem.retrain = some g → Gives (.mpRetrainDone failed) s (fun t =>
    ∃ u, t = releaseWaiting u ∧ u.mem = { s.mem with retrain := none } ∧ bitOf (regGet u oGovMpRetrain) 8 = false ∧
      (∀ o, o ≠ oGovMpRetrain → regGet u o = regGet s o) ∧
      ∀ c, c < 16 → bitOf failed c = true → gradeOf s (unitMp (16 * g + c)) < 3 →
        (unitMp (16 * g + c), 3) ∈ u.fh.gradeNext ∨
          ∃ p ∈ s.fh.gradeNext, p.1 = unitMp (16 * g + c) ∧ 3 ≤ p.2)) ∧
  (∀ (s : State) (failed : Nat), s.mem.retrain = none → Gives (.mpRetrainDone failed) s (· = s)) ∧
  ∀ s : State, s.port.waiting = [] → releaseWaiting s = s

/-! ### The host ports -/

/-- Host accesses (R261, R270, R399 to R401): a port performs an access at once, answering it with its data or its error,
holds one whose home accepts nothing for now, answers SLVERR during the power-fail sequence, and sends one of another chip
to its home; a burst that breaks the protocol is outside what the spec describes (R2). -/
def Obligations.HostPortsPerformRefuseOrHoldAccesses : Prop :=
  ∀ (s : State) (r r' : AxiReq) (cmd : Instr) (kind : Nat),
    (cmd = .axiRead r ∧ kind = 0 ∧ r' = { r with narrow := false }) ∨
      (cmd = .axiWrite r ∧ kind = 1 ∧ r' = { r with narrow := false }) ∨ (cmd = .axiAtomic r ∧ kind = 2 ∧ r' = r) ∨
      (cmd = .narrowSectorRequest false r ∧ kind = 0 ∧ r' = { r with narrow := true }) ∨
      (cmd = .narrowSectorRequest true r ∧ kind = 1 ∧ r' = { r with narrow := true }) →
    let b := baddrOf r'.addr
    (axiBroken r = true → exec cmd s = .refused .portViolation) ∧
    (axiBroken r = false → portExists s r' = false → Gives cmd s (· = s)) ∧
    (axiBroken r = false → portExists s r' = true → s.gov.pfActive = true →
      Gives cmd s (fun t => OnlyResponds s t r' slverr)) ∧
    (axiBroken r = false → portExists s r' = true → s.gov.pfActive = false → mustWait s r' = true →
      Gives cmd s (fun t => t = { s with port := { s.port with
        waiting := s.port.waiting ++ [⟨s.port.nextHeld, kind, r'⟩], nextHeld := s.port.nextHeld + 1 } })) ∧
    (AtOnce s r' → kind < 2 → r'.unsupported = true → Gives cmd s (fun t => OnlyResponds s t r' slverr ∧
      regGet t oBadAxiCnt = min (regGet s oBadAxiCnt + 1) 0xFFFFFFFF)) ∧
    (AtOnce s r' → kind < 2 → r'.unsupported = false → b.space = 3 → Gives cmd s (fun t => OnlyResponds s t r' decerr)) ∧
    (AtOnce s r' → kind = 2 → r'.unsupported = false → b.space = 0 → Gives cmd s (fun t => OnlyResponds s t r' slverr ∧
      regGet t oAtomicRejCnt = min (regGet s oAtomicRejCnt + 1) 0xFFFFFFFF)) ∧
    (AtOnce s r' → kind = 0 → portRefusal s r' false = none → isRemote s r'.addr = false →
      let d := rangeRead s b.space b.off r'.len (readClass s r') r'.narrow
      Gives cmd s (fun t => t = { d.2 with port := { d.2.port with resp := t.port.resp } } ∧
        respOf t r'.narrow r'.port = some (if d.1.ok then ⟨okay, d.1.data, d.1.poison⟩ else ⟨decerr, [], []⟩))) ∧
    (AtOnce s r' → kind = 0 → portRefusal s r' false = none → isRemote s r'.addr = true →
      Gives cmd s (fun t => t = sendVc4 s 0x38 b.chip (r'.addr / 64 * 64)
        (roundUp (r'.addr + r'.len) 64 - r'.addr / 64 * 64) [] 0 (.host r' (r'.addr % 64)))) ∧
    (AtOnce s r' → kind = 1 → portRefusal s r' false = none → isRemote s r'.addr = false → b.space = 1 →
      scratchOk s b.off 64 = true → b.off % 64 = 0 → r'.len = 64 → r'.data.length = 64 → r'.strb = [] →
      Gives cmd s (fun t => respOf t r'.narrow r'.port = some ⟨okay, [], []⟩ ∧
        ∀ a, mapGet zeroAt t.mem.scratch a
          = if b.off ≤ a ∧ a < b.off + 64 then r'.data.getD (a - b.off) 0 else mapGet zeroAt s.mem.scratch a)) ∧
    (AtOnce s r' → kind = 2 → portRefusal s r' true = none → isRemote s r'.addr = false → b.space = 1 →
      scratchOk s (b.off / 64 * 64) 64 = true → r'.bigEndian = false → r'.len = 4 ∨ r'.len = 8 → b.off % r'.len = 0 →
      r'.op < 9 →
      let a := atomicAt s b.off r'.len r'.op (leAt r'.data 0 r'.len) 0
      Gives cmd s (fun t => t = { a.2.2 with port := { a.2.2.port with resp := t.port.resp } } ∧
        respOf t r'.narrow r'.port = some ⟨okay, leBytes r'.len a.1, [a.2.1]⟩))

/-- MM_FENCE (R265, R271, R402): a write of scope 0 to 2 opens a fence over the port's earlier writes, scope 3 and a partial
word are refused and counted; the fence's response comes once every earlier write it covers is performed, SLVERR where one
was lost. -/
def Obligations.FencesRespondOnceTheirWritesArePerformed : Prop :=
  (∀ (s : State) (r : AxiReq), axiBroken r = false → portExists s r = true → s.gov.pfActive = false →
    r.unsupported = false → (baddrOf r.addr).remote = false → (baddrOf r.addr).space = 2 → (baddrOf r.addr).off = 0x2600 →
    let scope := leAt r.data 0 4 % 4
    let lost := decide (scope = 2) && s.port.lost.contains (r.narrow, r.port)
    (r.len ≠ 4 ∨ r.strb.all id = false → Gives (.hostFence r) s (fun t => OnlyResponds s t r slverr ∧
      regGet t oBadAxiCnt = min (regGet s oBadAxiCnt + 1) 0xFFFFFFFF)) ∧
    (r.len = 4 → r.strb.all id = true → scope = 3 → Gives (.hostFence r) s (fun t => OnlyResponds s t r slverr ∧
      regGet t oMmFenceErrCnt = min (regGet s oMmFenceErrCnt + 1) 0xFFFFFFFF)) ∧
    (r.len = 4 → r.strb.all id = true → scope ≠ 3 → Gives (.hostFence r) s (fun t =>
      t = { s with port := { s.port with fences := t.port.fences, lost := t.port.lost } } ∧
      (∃ held, t.port.fences = s.port.fences ++ [⟨r.narrow, r.port, scope,
          if scope = 2 then portTags s r.narrow r.port else [], held, lost⟩] ∧
        ∀ i, i ∈ held ↔ ∃ h ∈ s.port.waiting, h.r.narrow = r.narrow ∧ h.r.port = r.port ∧ h.kind ≠ 0 ∧ h.id = i) ∧
      (lost = true → (r.narrow, r.port) ∉ t.port.lost) ∧ (lost = false → t.port.lost = s.port.lost)))) ∧
  (∀ (s : State) (narrow : Bool) (p : Nat) (f : FenceSt),
    s.port.fences.find? (fun f => f.narrow == narrow && f.port == p) = some f → s.boot.opened = true →
    (fenceDone s f = true → Gives (.fenceResponse narrow p) s (fun t =>
      t = { s with regs := t.regs, port := { s.port with fences := s.port.fences.erase f, resp := t.port.resp } } ∧
      respOf t narrow p = some ⟨if f.lost then slverr else okay, [], []⟩ ∧
      (let o := if f.lost then oMmFenceErrCnt else oMmFenceCnt
       regGet t o = min (regGet s o + 1) 0xFFFFFFFF ∧ ∀ k, k ≠ o → regGet t k = regGet s k))) ∧
    (fenceDone s f = false → Gives (.fenceResponse narrow p) s (· = s))) ∧
  ∀ (s : State) (narrow : Bool) (p : Nat), s.port.fences = [] → Gives (.fenceResponse narrow p) s (· = s)

/-! ### Leat -/

/-- Leat (R275 to R280, R286): an engine takes the next descriptor of its ring by its kind, counts it as consumed and runs
it, one that breaks a check ending at once with status 1; a gated copy waits until its words are reached; a wait that
reaches its limit ends with status 4; a finished descriptor is recorded, counted and leaves its engine. -/
def Obligations.LeatDescriptorsStartWaitAndComplete : Prop :=
  (∀ (s : State) (e : Nat) (cmd : Instr) (kind : Nat), Inv s → (cmd, kind) ∈ leatRow e →
    let d := leatNext s e
    let n := (leatAt s e).consumed % 2 ^ 32
    (leatReady s e = false ∨ leatMayStart s e d = false → Gives cmd s (· = s)) ∧
    (leatReady s e = true → leatMayStart s e d = true → ldKind d = kind →
      Gives cmd s (fun t => t = if kind = 6 then tryGates (leatTaken s e kind) e n else leatRun (leatTaken s e kind) e n) ∧
      (leatAt (leatTaken s e kind) e).consumed = n + 1 ∧
      (∀ p, p ≠ e → leatAt (leatTaken s e kind) p = leatAt s p) ∧
      ∃ x, (leatAt (leatTaken s e kind) e).active = (leatAt s e).active ++ [x] ∧ x.n = n ∧ x.d = d ∧ x.progress = 0 ∧
        (x.status = if leatLegal d then none else some 1)) ∧
    (leatReady s e = true → leatMayStart s e d = true → ldKind d = kind → leatLegal d = false →
      (∀ x ∈ (leatAt s e).active, x.n ≠ n) → Gives cmd s (fun t => t = leatTaken s e kind))) ∧
  (∀ (s : State) (e n : Nat) (x : LeatDesc), leatFind s e n = some x → x.status = none → x.token = none →
    x.waiting = true → ldKind x.d = 6 → (leatAt s e).preempt = false →
    let g1 := gateOpen s e x (ldAux0 x.d) (ldAux1 x.d)
    let drop := fun (s : State) => leatMod s e n (fun y => { y with staged := [] })
    (g1.1 = some true → ldSscale x.d = 0 → Gives (.haloGateOpen e n) s (fun t =>
      t = leatRun (leatMod (drop g1.2) e n (fun y => { y with waiting := false })) e n)) ∧
    (g1.1 = some false → Gives (.haloGateOpen e n) s (fun t => t = drop g1.2)) ∧
    (∀ g2, g1.1 = some true → ldSscale x.d ≠ 0 → gateOpen g1.2 e x (ldSscale x.d) (ldDscale x.d) = g2 →
      (g2.1 = some true → Gives (.haloGateOpen e n) s (fun t =>
        t = leatRun (leatMod (drop g2.2) e n (fun y => { y with waiting := false })) e n)) ∧
      (g2.1 = some false → Gives (.haloGateOpen e n) s (fun t => t = drop g2.2)))) ∧
  (∀ (s : State) (e n : Nat) (x : LeatDesc), Inv s → e < 16 → leatFind s e n = some x → x.status = none →
    let limit := regGet s oLeatWaitTmo % 2 ^ 16
    (x.waiting = true → limit ≠ 0 → limit ≤ x.waited → Gives (.leatWaitTimeout e n) s (fun t =>
      t = { s with leat := t.leat } ∧ (∀ p, p ≠ e → leatAt t p = leatAt s p) ∧
      leatAt t e = { leatAt s e with active := (leatAt s e).active.map (fun y => if y.n = n then
        { y with status := some 4, waiting := false, asked := false, token := none } else y) })) ∧
    (x.waiting = false ∨ limit = 0 ∨ x.waited < limit → Gives (.leatWaitTimeout e n) s (· = s))) ∧
  ∀ (s : State) (e n st : Nat) (x : LeatDesc), Inv s → e < 16 → leatFind s e n = some x → x.status = some st →
    (∀ o ∈ s.port.outst, o.sink ≠ .leatWrite e n) →
    Gives (.leatComplete e n) s (fun t =>
      let c := ((leatAt s e).completed + 1) % 2 ^ 32
      leatAt t e = { leatAt s e with completed := c, active := (leatAt s e).active.filter (fun y => y.n != n) } ∧
      (∀ p, p ≠ e → leatAt t p = leatAt s p) ∧
      t.mem = (scrWrite (scrWrite s (leatBase s e + 0x21000 + 16 * ((leatAt s e).completed % 1024))
        (leBytes 4 n ++ leBytes 1 st ++ leBytes 1 (x.flags.toNat % 64) ++ zeroBytes 2 ++ leBytes 8 x.bytes))
        (leatBase s e + 0x20080) (leBytes 4 c)).mem ∧
      regGet t oLeatErrCnt = (if st ∈ [1, 2, 4, 5, 6] then min (regGet s oLeatErrCnt + 1) 0xFFFFFFFF else regGet s oLeatErrCnt) ∧
      (bitOf (ldCtl x.d) 2 = true → bitOf (regGet t oIrqStatus) irqLeat = true) ∧
      t = { s with regs := t.regs, mem := t.mem, leat := t.leat })

/-! ### Sluice and Bolter -/

/-- Sluice faults (R295, R297 to R299): an access that translates changes nothing; one that faults suspends its Quern or
engine under a new resume token and queues its record; the ring takes the oldest record while it has room; RETRY and DISCARD
act on the suspended requester and an unknown token is counted; an invalidation is in progress until it is done. -/
def Obligations.TranslationFaultsSuspendAndResume : Prop :=
  (∀ (s : State) (a : SlAccess), Inv s →
    let z := sluice s a.ctx a.va a.write
    let q := mapOf z.2 a.u
    (∀ p, z.1 = .ok p → Gives (.sluiceFault a) s (· = s)) ∧
    (∀ ty lv, z.1 = .fault ty lv → a.req = 1 → quernRuns z.2 q = true → itemCtx z.2 q = a.ctx →
      Gives (.sluiceFault a) s (fun t => (qnAt t q).state = 2 ∧ (qnAt t q).trap = 3 ∧
        (qnAt t q).token = some z.2.sl.nextToken ∧ t.sl.nextToken = (z.2.sl.nextToken + 1) % 2 ^ 16 ∧
        t.sl.susp = z.2.sl.susp ++ [⟨z.2.sl.nextToken, ⟨1, logicalOf z.2 q, a.ctx, a.va, a.write⟩⟩] ∧
        t.sl.recs.length = z.2.sl.recs.length + 1)) ∧
    (∀ ty lv x, z.1 = .fault ty lv → a.req = 0 → leatSuspendable z.2 a.u a.ctx = some x →
      Gives (.sluiceFault a) s (fun t => t.sl.susp = z.2.sl.susp ++ [⟨z.2.sl.nextToken, a⟩] ∧
        t.sl.recs = z.2.sl.recs ++ [faultRecord z.2 a z.2.sl.nextToken ty lv x.n] ∧
        leatAt t a.u = leatAt (leatMod z.2 a.u x.n (fun y => { y with token := some z.2.sl.nextToken })) a.u))) ∧
  (∀ (s : State) (r : List Byte) (rest : List (List Byte)), s.sl.recs = r :: rest →
    (faultRingRoom s = true → bitOf (leAt r 0xA 1) 7 = false → Gives .faultRecordWrite s (fun t =>
      let p := (s.sl.prod + 1) % 2 ^ 32
      let base := baseOf s oSlFaultBase
      t = { s with regs := t.regs, mem := t.mem, sl := { s.sl with recs := rest, prod := p } } ∧
      t.mem = (scrWrite (scrWrite s (base + s.sl.prod % 1024 * 32) r) (base + 0x8000) (leBytes 4 p)).mem ∧
      regGet t oSlFaultCnt = min (regGet s oSlFaultCnt + 1) 0xFFFFFFFF)) ∧
    (faultRingRoom s = false → Gives .faultRecordWrite s (· = s))) ∧
  (∀ (s : State) (token : Nat), s.sl.susp.find? (fun x => x.token == token) = none →
    Gives (.slRetry token) s (fun t => OneReg s t oSlResumeRejCnt (min (regGet s oSlResumeRejCnt + 1) 0xFFFFFFFF)) ∧
    Gives (.slDiscard token) s (fun t => OneReg s t oSlResumeRejCnt (min (regGet s oSlResumeRejCnt + 1) 0xFFFFFFFF))) ∧
  (∀ (s : State) (token q : Nat) (x : Susp), Inv s → s.sl.susp.find? (fun x => x.token == token) = some x →
    x.access.req = 1 → tokenQuern s token = some q → (qnAt s q).state = 2 →
    let u := dropToken s token
    ((qnAt s q).xfers = [] → Gives (.slRetry token) s (fun t =>
      t = { u with qn := t.qn } ∧ (∀ p, p ≠ q → qnAt t p = qnAt s p) ∧
      qnAt t q = { qnAt s q with state := 1, trap := 0, token := none } ∧ ∀ y ∈ t.sl.susp, y.token ≠ token)) ∧
    Gives (.slDiscard token) s (fun t => t = discardQ u q ∧ (qnAt t q).item = none ∧ ∀ y ∈ t.sl.susp, y.token ≠ token)) ∧
  ∀ (s : State) (ctx : Nat),
    Gives .slInvalAll s (fun t => t = { s with sl := { s.sl with inval := true, invalCtx := none } }) ∧
    Gives (.slInvalCtx ctx) s (fun t => t = { s with sl := { s.sl with inval := true, invalCtx := some ctx } }) ∧
    Gives .slInvalDone s (fun t => t = { s with sl := { s.sl with inval := false, invalCtx := none } })

/-- Bolter (R311 to R315): a waiting job of an enabled Bolter is taken, counted as consumed and checked, one that fails its
check having status 1; a closed batch is written to the ring when it has room, pad header, batch and producer offset in that
order; a finished job's status and batch count are written to its ring entry and it leaves. -/
def Obligations.BolterJobsAreTakenWrittenAndFinished : Prop :=
  (∀ s : State, (bitOf (regGet s oBolCtl) 0 = false ∨ s.bol.job.isSome = true → Gives .bolterJobStart s (· = s)) ∧
    (bitOf (regGet s oBolCtl) 0 = true → s.fh.sepia = false → s.gov.pfActive = false → s.bol.preempt = false →
      s.bol.job = none → scrNat s (baseOf s oBolJobBase + 0x4000) 4 ≠ s.bol.consumed % 2 ^ 32 →
      let base := baseOf s oBolJobBase
      let j := scrRead s (base + 64 * (s.bol.consumed % 256)) 64
      let n := (s.bol.consumed + 1) % 2 ^ 32
      let k := bolJobOk (scrWrite s (base + 0x4040) (leBytes 4 n)) j
      Gives .bolterJobStart s (fun t => t = bolRun (bolMod k.2 (fun z => { z with
        consumed := n, job := some j, ring := s.bol.consumed % 256, next := bjFirst j, opens := [], closed := []
        batches := 0, written := 0, epoch := bjEpoch j, staged := [], asked := false
        status := if k.1 then none else some 1 })))) ∧
    (∀ u : State, u.bol.job.isSome = true → u.bol.status = some 1 → bolRun u = u)) ∧
  (∀ (s : State) (j : List Byte) (b : Batch) (rest : List Batch) (cb : List Byte) (ms : List Bool) (u : State),
    s.bol.job = some j → s.bol.closed = b :: rest → s.bol.status ≠ some 1 → s.bol.preempt = false → s.bol.susp = [] →
    bolRead s (dsCtx (bolDs s j)) (bjCtrl j) 0x48 = (.ok cb ms, u) →
    let prod := leAt cb 0 8
    let place := batchPlace (bjSize j) prod (batchBytes s.bol.epoch b).length
    (bjSize j < prod + place.1 + place.2 - leAt cb 0x40 8 → Gives .batchWrite s (· = u)) ∧
    (prod + place.1 + place.2 - leAt cb 0x40 8 ≤ bjSize j → place.1 = 0 → ∀ d1 m1 v d2 m2 w,
      bolWrite u (dsCtx (bolDs s j)) (bjRing j + prod % bjSize j % bjSize j)
        (padTo place.2 (batchBytes s.bol.epoch b)) (batchMarks b) = (.ok d1 m1, v) →
      bolWrite v (dsCtx (bolDs s j)) (bjCtrl j) (leBytes 8 (prod + place.2)) [] = (.ok d2 m2, w) →
      Gives .batchWrite s (fun t =>
        t = bolMod w (fun z => { z with closed := rest, written := z.written + 1, staged := [] })))) ∧
  ∀ (s : State) (j : List Byte), s.bol.job = some j → (∀ o ∈ s.port.outst, o.sink ≠ .bolterWrite) →
    (s.bol.status ≠ none ∨ (bjFirst j + bjCount j ≤ s.bol.next ∧ s.bol.closed = [] ∧ s.bol.opens = []) →
      Gives .bolterJobDone s (fun t =>
        t = { s with mem := t.mem, bol := { s.bol with
          done := (s.bol.done + 1) % 2 ^ 32, job := none, opens := [], closed := [], status := none, susp := [] } } ∧
        t.mem = (scrWrite s (baseOf s oBolJobBase + 64 * s.bol.ring + 0x38)
          (leBytes 1 (s.bol.status.getD 0) ++ leBytes 7 s.bol.written)).mem)) ∧
    (s.bol.status = none → s.bol.closed ≠ [] → Gives .bolterJobDone s (· = s))

/-! ### Genle links -/

/-- Flits (R320, R324, R325): one whose CRC fails is counted and discarded and owes a NAK; in order, a DATA flit is accepted;
one already received is dropped; one ahead of the sequence is discarded. IDLE gives its fields, a NAK or an acknowledgement
that stays away makes the link send again. A header's fields read back from its 64-bit word. -/
def Obligations.LinkFlitsAreCheckedOrderedAndReplayed : Prop :=
  (∀ h : FlitHdr, FlitHdrFits h → flitHdrOf (flitHdr h) = h ∧ flitHdr h < 2 ^ 61) ∧
  ∀ (s : State) (l : Nat) (bs : List Byte), Inv s → l < 96 →
    let h := flitHdrOf (leAt bs 0 8)
    let u := flitFields s l h
    let d := (h.seq + 4096 - (linkAt s l).rxSeq) % 4096
    (flitLevel s l = false ∨ bs.length ≠ 256 → Gives (.dataFlit l bs) s (· = s) ∧ Gives (.idleFlit l bs) s (· = s) ∧
      Gives (.nakFlit l bs) s (· = s)) ∧
    (flitLevel s l = true → bs.length = 256 → crcHolds bs = false →
      ∀ c, c = .dataFlit l bs ∨ c = .idleFlit l bs ∨ c = .nakFlit l bs → Gives c s (fun t => Discards s t l ∧
        regGet t (oGlLcrcCnt + 0x20 * l) = min (regGet s (oGlLcrcCnt + 0x20 * l) + 1) 0xFFFFFFFF)) ∧
    (flitLevel s l = true → flitGood bs = true →
      (h.type = 1 → d = 0 → Gives (.dataFlit l bs) s (fun t => t = acceptFlit u l h ((bs.drop 8).take 240))) ∧
      (h.type = 1 → 2048 ≤ d → Gives (.dataFlit l bs) s (· = u)) ∧
      (h.type = 1 → 0 < d → d < 2048 → Gives (.dataFlit l bs) s (fun t => Discards s t l ∧ t.regs = s.regs)) ∧
      (h.type = 0 → Gives (.idleFlit l bs) s (· = u)) ∧
      (h.type = 2 → Gives (.nakFlit l bs) s (fun t => t = resendAll u l))) ∧
    ((linkAt s l).state = 2 → (linkAt s l).replay ≠ [] → Gives (.ackTimeout l) s (fun t => OnlyLink s t l ∧
      regGet t (oGlLreplayCnt + 0x20 * l) = min (regGet s (oGlLreplayCnt + 0x20 * l) + 1) 0xFFFFFFFF ∧
      (let lim := fieldOf (regGet s oGlRetry) 3 0
       let retr := fieldOf (regGet s oGlRetry) 7 4
       let k := { linkAt s l with resends := (linkAt s l).resends + 1 }
       linkAt t l = if (linkAt s l).resends + 1 < lim then k
         else if (linkAt s l).attempts < retr then { k with retrainDue := true } else { k with downDue := some 4 }))) ∧
    ((linkAt s l).state ≠ 2 → Gives (.ackTimeout l) s (· = s))

/-- Ports and links (R318, R326, R334, R335): a port that becomes active starts the training of its links, a retrained one
lets its links go on, one absent or not back in time takes them down at the next boundary; three equal TRAIN payloads that
agree bring a link up with full credits, a disagreement leaves it down with its reason; commands enable, disable and
retrain. -/
def Obligations.PortsAndLinksTrainAndRetrain : Prop :=
  (∀ (s : State) (p : Nat) (supported full : Bool), Inv s → p < (vnt s).ports → s.boot.running = true →
    (supported = false → Gives (.portActive p supported full) s (fun t => t = portLost s p true)) ∧
    (supported = true → (portAt s p).retraining = true → Gives (.portActive p supported full) s (fun t =>
      t = portBack s p full)) ∧
    (supported = true → (portAt s p).retraining = false → (portAt s p).active = true ∨ (portAt s p).absent = true →
      Gives (.portActive p supported full) s (· = s)) ∧
    (supported = true → (portAt s p).retraining = false → (portAt s p).active = false → (portAt s p).absent = false →
      Gives (.portActive p supported full) s (fun t =>
        t = { s with gl := { s.gl with ports := t.gl.ports, links := t.gl.links } } ∧
        portAt t p = { portAt s p with active := true, half := !full } ∧
        ∀ l, l < 96 → linkAt t l = if l / 4 = p ∧ (linkAt s l).reason = 0 ∧ (topoEntry s l).2.2 = true ∧
            gradeOf s (unitLink l) ≠ 3 ∧ ((linkAt s l).state = 0 ∨ (linkAt s l).state = 4)
          then { linkAt s l with state := 1, reason := 0, trains := 0 } else linkAt s l))) ∧
  (∀ (s : State) (p : Nat), Inv s → p < 24 →
    ((portAt s p).retraining = true → Gives (.retrainTimeout p) s (fun t =>
      t = { s with gl := { s.gl with ports := t.gl.ports, links := t.gl.links } } ∧
      portAt t p = { portAt s p with active := false, retraining := false, live := false, absent := false } ∧
      ∀ l, l < 96 → linkAt t l = if l / 4 = p ∧ ((linkAt s l).state = 2 ∨ (linkAt s l).state = 3)
        then { linkAt s l with downDue := some 4 } else linkAt s l)) ∧
    ((portAt s p).retraining = false → Gives (.retrainTimeout p) s (· = s))) ∧
  (∀ (s : State) (l : Nat) (bs : List Byte), Inv s → l < 96 → linkExists s l = true → s.gov.pfDone = false →
    (linkAt s l).state = 1 ∨ (linkAt s l).state = 5 → flitGood bs = true → (flitHdrOf (leAt bs 0 8)).type = 3 →
    let p := (bs.drop 8).take 20
    let k := linkAt s l
    let n := if p = k.lastTrain ∧ k.trains ≠ 0 then k.trains + 1 else 1
    let seen : Link := { k with trains := n, lastTrain := p, peerChip := leAt p 0 2, peerLink := leAt p 5 1 }
    (n < 3 → Gives (.trainFlit l bs) s (fun t => OnlyLink s t l ∧ t.regs = s.regs ∧ linkAt t l = seen)) ∧
    (3 ≤ n → trainFault s l p = 0 → Gives (.trainFlit l bs) s (fun t => OnlyLink s t l ∧ t.regs = s.regs ∧
      linkAt t l = { Link.reset with
        state := 2, peerChip := leAt p 0 2, peerLink := leAt p 5 1, lastTrain := p, trains := n
        cred := configuredCredits s, cfg := configuredCredits s, retrainTurns := k.retrainTurns })) ∧
    (3 ≤ n → trainFault s l p ≠ 0 → Gives (.trainFlit l bs) s (fun t => OnlyLink s t l ∧
      linkAt t l = { seen with state := 0, reason := trainFault s l p, trains := 0 } ∧
      regGet t oGlTopoMismatchCnt = min (regGet s oGlTopoMismatchCnt + 1) 0xFFFFFFFF))) ∧
  ∀ (s : State) (l : Nat), Inv s → l < 96 →
    (linkExists s l = true → Gives (.glLcmdDisable l) s (fun t => OnlyLink s t l ∧ t.regs = s.regs ∧
      linkAt t l = { linkAt s l with downDue := some 5 })) ∧
    (linkExists s l = true → (topoEntry s l).2.2 = true → gradeOf s (unitLink l) ≠ 3 → (portAt s (l / 4)).active = true →
      (linkAt s l).state = 0 ∨ (linkAt s l).state = 4 → Gives (.glLcmdEnable l) s (fun t => OnlyLink s t l ∧
        t.regs = s.regs ∧ linkAt t l = { linkAt s l with state := 1, reason := 0, trains := 0 })) ∧
    (linkExists s l = true → (portAt s (l / 4)).active = true → (portAt s (l / 4)).retraining = false →
      Gives (.glLcmdRetrain l) s (fun t =>
        t = { s with gl := { s.gl with ports := t.gl.ports, links := t.gl.links } } ∧
        portAt t (l / 4) = { portAt s (l / 4) with retraining := true, live := true } ∧
        ∀ k, k < 96 → linkAt t k = if k / 4 = l / 4 ∧ (linkAt s k).state = 2 then { linkAt s k with state := 3 }
          else linkAt s k)) ∧
    (linkExists s l = false → Gives (.glLcmdDisable l) s (· = s) ∧ Gives (.glLcmdEnable l) s (· = s) ∧
      Gives (.glLcmdRetrain l) s (· = s))

/-- Discovery and group formation (R331, R336, R378, R379): the root starts the wave once its own training is over and notes
who replies, records the silent chips as missing after 50 ms, and sends the group-formation wave; every chip forwards either
wave, answers the first with its link summary and takes GROUP_OK from the second; at the time-out group formation ends
without it. LINK_STATUS with SEPIA = 1 takes its link out of use at the next boundary. -/
def Obligations.DiscoveryFormsTheGroup : Prop :=
  (∀ s : State, rootChip s = s.gl.chip →
    (trainingOver s = true → s.boot.discTurn = none → Gives .discoveryStart s (fun t =>
      t = multicast { s with boot := { s.boot with discTurn := some s.time.turn, replies := [s.gl.chip] } } 255
        ⟨0x10, false, s.gl.chip, 0, 0, 0, 0, 0, 0, 0, []⟩)) ∧
    (trainingOver s = false ∨ s.boot.discTurn ≠ none → Gives .discoveryStart s (· = s)) ∧
    (∀ t0, s.boot.discTurn = some t0 → t0 + 24415 ≤ s.time.turn → s.boot.missing = [] → Gives .discoverTimeout s (fun t =>
      t = { s with boot := { s.boot with missing := t.boot.missing } } ∧
      ∀ c, c ∈ t.boot.missing ↔ c ∈ trainingSet s ∧ c ∉ s.boot.replies)) ∧
    (s.boot.discTurn ≠ none → s.boot.groupDone = false → silentChips s = s.boot.missing → Gives .groupFormation s (fun t =>
      t = multicast s 255 ⟨0x10, false, s.gl.chip, 0, 0, 0, 0, 1, 0, 0, chipMap 2048 s.boot.missing⟩))) ∧
  (∀ s : State, rootChip s ≠ s.gl.chip → Gives .discoveryStart s (· = s) ∧ Gives .groupFormation s (· = s) ∧
    Gives .discoverTimeout s (· = s)) ∧
  (∀ s : State, s.boot.groupDone = false →
    ((∃ t0, s.boot.discTurn = some t0 ∧ t0 + 48829 ≤ s.time.turn) ∨
      (s.boot.discTurn = none ∧ ∃ t0, s.boot.trainEnd = some t0 ∧ t0 + 195313 ≤ s.time.turn) →
      Gives .groupFormationTimeout s (fun t => t = { s with boot := { s.boot with groupDone := true } })) ∧
    (s.boot.discTurn = none → s.boot.trainEnd = none → Gives .groupFormationTimeout s (· = s))) ∧
  ∀ (s : State) (m : Msg),
    (Ready s m 0x10 → trainingOver s = true →
      let u := forwardDiscover s m
      (bitOf m.aux 0 = true → Gives (.msgDiscover m) s (fun t => t = { u with boot := { u.boot with
        groupOk := u.boot.groupOk || (!u.boot.groupDone && !groupMissing u m), groupDone := true } })) ∧
      (bitOf m.aux 0 = false → Gives (.msgDiscover m) s (fun t => ∃ v,
        v = { u with boot := { u.boot with discTurn := v.boot.discTurn } } ∧ v.boot.discTurn.isSome = true ∧
        t = sendTo v (rootChip v) ⟨0x11, false, v.gl.chip, 0, 0, 0, 0, deadRoutes v, 0, 0, upMap v⟩))) ∧
    (Ready s m 0x11 →
      let u := consumeMsg s m
      (rootChip u ≠ u.gl.chip → Gives (.msgDiscoverRep m) s (· = u)) ∧
      (rootChip u = u.gl.chip → Gives (.msgDiscoverRep m) s (fun t =>
        t = { u with boot := { u.boot with replies := t.boot.replies, discDone := t.boot.discDone } } ∧
        (∀ c, c ∈ t.boot.replies ↔ c = m.src ∨ c ∈ u.boot.replies) ∧
        ((∀ c ∈ trainingSet u, c = m.src ∨ c ∈ u.boot.replies) → t.boot.discDone = true)))) ∧
    (Ready s m 0x12 →
      let u := consumeMsg s m
      (bitOf m.aux 0 = false → Gives (.msgLinkStatus m) s (· = u)) ∧
      (bitOf m.aux 0 = true → ∀ r, s.gl.rx.find? (fun r => r.m == m) = some r → (linkAt u r.link).state ≠ 5 →
        r.link < u.gl.links.length → Gives (.msgLinkStatus m) s (fun t => OnlyLink u t r.link ∧ t.regs = u.regs ∧
          linkAt t r.link = { linkAt u r.link with sepiaDue := true }))) ∧
    (msgReady s m = false → Gives (.msgDiscover m) s (· = s) ∧ Gives (.msgDiscoverRep m) s (· = s) ∧
      Gives (.msgLinkStatus m) s (· = s))

/-! ### Foreman's Hand -/

/-- The Foreman's Hand (R344, R345, R349, R351, R354, R356 to R360, R364 to R366): buckets leak in their period; a replayed
check and a recomputed CRC give their verdicts; a grade is set through the change journal; tests start on a spare, wait for a
takeover or end with their streak; the oldest record goes to the journal and the CPER ring; ENTER and a stalled Governor lead
to Sepia mode; the clear commands clear their flags. -/
def Obligations.HealthCommandsChangeGradesTestsAndJournals : Prop :=
  (∀ s : State, (s.fh.units.map (fun g => g.u)).Nodup → Gives .bucketLeak s (fun t =>
    t = { s with fh := { s.fh with units := t.fh.units } } ∧
    ∀ u, gradedOf t u = (let leak := regGet s (oFhBktCtl + 4 * (u / 0x1000)) / 2 ^ 16
      if leak ≠ 0 ∧ s.time.turn % leak = 0 then { gradedOf s u with bucket := (gradedOf s u).bucket - 1 }
      else gradedOf s u))) ∧
  (∀ s : State,
    Gives .flipArm s (fun t => t = { s with fh := { s.fh with armed := true } }) ∧
    Gives .testAbort s (fun t => t = { s with fh := { s.fh with testAbort := true } }) ∧
    Gives .fatalClear s (fun t => t = { s with fh := { s.fh with fatal := false } }) ∧
    Gives .statePoisonClear s (fun t => t = { s with fh := { s.fh with statePoison := false } }) ∧
    (s.fh.sepia = false → Gives .sepiaEnter s (fun t => t = { s with fh := { s.fh with sepiaDue := 2 } })) ∧
    (s.fh.sepia = true → Gives .sepiaEnter s (· = s) ∧ Gives .governorStall s (· = s)) ∧
    (s.time.stall < 16 → Gives .governorStall s (· = s)) ∧
    (16 ≤ s.time.stall → s.fh.sepia = false → Gives .governorStall s (fun t =>
      t = sendLinkStatus (dropTraffic (flushCache (abandonStep (stopUnits (event
        { s with fh := { s.fh with sepia := true, sepiaReason := 1, sepiaDue := 0 } } 0xE 0 0 0 1))))))) ) ∧
  (∀ (s : State) (differs : Bool),
    (s.fh.plaus = [] → Gives (.plausibilityReplayDone differs) s (· = s)) ∧
    ∀ h rest, s.fh.plaus = h :: rest → Gives (.plausibilityReplayDone differs) s (fun t => ∃ u,
      u = { s with regs := u.regs, mem := { s.mem with scratch := u.mem.scratch }, fh := u.fh, free := u.free } ∧
      u.fh.plaus = rest ∧ t = if differs then suspectQuern u h.quern
        else if bitOf h.failed 2 then markFault (suspectQuern u h.quern) else markOverflow u)) ∧
  (∀ (s : State) (crc : Nat), (s.fh.check = [] → Gives (.checkerRecomputeDone crc) s (· = s)) ∧
    ∀ h rest, s.fh.check = h :: rest →
      (h.third = none → crc = h.primary → checkerOf s h.logical < 36 → Gives (.checkerRecomputeDone crc) s (fun t => ∃ u,
        u = checkVerdict s h.logical 1 [] ∧ t = if checkerOf u h.logical < 36
          then gradeMinor u (unitQuern (checkerOf u h.logical)) else u)) ∧
      (h.third = none → crc ≠ h.primary → crc = h.checker → Gives (.checkerRecomputeDone crc) s (fun t =>
        t = checkVerdict s h.logical 2 [primaryOf s h.logical])) ∧
      (h.third = none → crc ≠ h.primary → crc ≠ h.checker → Gives (.checkerRecomputeDone crc) s (fun t =>
        t = { s with fh := { s.fh with check := { h with third := some ((freeSpare s).getD 0xFF, crc) } :: rest } })) ∧
      ∀ q3 c3, h.third = some (q3, c3) →
        (crc ≠ h.primary → crc ≠ h.checker → crc ≠ c3 → Gives (.checkerRecomputeDone crc) s (fun t =>
          t = markFault (checkVerdict s h.logical 4 []))) ∧
        (crc = h.primary ∨ crc = h.checker ∨ crc = c3 → Gives (.checkerRecomputeDone crc) s (fun t =>
          ∃ bad, t = checkVerdict s h.logical 3 bad ∧
            ∀ q, q ∈ bad ↔ (q = primaryOf s h.logical ∧ h.primary ≠ crc) ∨ (q = checkerOf s h.logical ∧ h.checker ≠ crc) ∨
              (q = q3 ∧ c3 ≠ crc)))) ∧
  (∀ (s : State) (req w : Nat),
    (cjFree s = 0 → Gives (.fhGradeSet req w) s (fun t => t = { s with port := { s.port with apb := (0, true) } })) ∧
    (cjFree s ≠ 0 →
      let u := apb (cjWrite s req 2 0 0 0 0 0 (leBytes 4 w)) 0 false
      let n := w % 2 ^ 16
      (unitExists u n = false → Gives (.fhGradeSet req w) s (· = u)) ∧
      (unitExists u n = true → Gives (.fhGradeSet req w) s (fun t => t = { u with fh := { u.fh with
        gradeNext := u.fh.gradeNext.filter (fun p => p.1 != n) ++ [(n, fieldOf w 17 16)] } })))) ∧
  (∀ (s : State) (u : Nat), Inv s →
    (testDue s u = false ∨ s.fh.sepia = true ∨ s.gov.pfActive = true → Gives (.fieldTestDue u) s (· = s)) ∧
    (testDue s u = true → s.fh.sepia = false → s.gov.pfActive = false →
      (36 ≤ u → Gives (.fieldTestDue u) s (fun t => t = { s with fh := { s.fh with tests := s.fh.tests ++ [(u, 0)] } })) ∧
      (u < 36 → (qnAt s u).state = 5 → (qnAt s u).item = none → restState s u = 5 →
        bitOf (regGet s oFhTestCtl) 30 = false → Gives (.fieldTestDue u) s (fun t =>
          (qnAt t u).state = 7 ∧ (∀ p, p ≠ u → qnAt t p = qnAt s p) ∧ t.fh.tests = s.fh.tests ++ [(u, 0)] ∧
          gradedOf t u = { gradedOf s u with pendTest := false })) ∧
      (u < 36 → (qnAt s u).state ≠ 5 → Gives (.fieldTestDue u) s (fun t =>
        t = { s with fh := { s.fh with units := t.fh.units } } ∧
        gradedOf t u = { gradedOf s u with pendTest := true })))) ∧
  (∀ (s : State) (u : Nat) (pass : Bool),
    (s.fh.tests.find? (fun t => t.1 == u) = none → Gives (.fieldTestResult u pass) s (· = s)) ∧
    (s.fh.testWait.any (fun x => x.1 == u) = true → Gives (.fieldTestResult u pass) s (· = s)) ∧
    ∀ cond, s.fh.tests.find? (fun t => t.1 == u) = some (u, cond) → s.fh.testWait.any (fun x => x.1 == u) = false →
      Gives (.fieldTestResult u pass) s (fun t =>
      let g := gradedOf s u
      let ok := testPass s u pass
      (∀ x ∈ t.fh.tests, x.1 ≠ u) ∧
      (gradedOf t u).passes = (if ok then (if g.bad then 1 else min 255 (g.passes + 1)) else 0) ∧
      (gradedOf t u).fails = (if ok then g.fails else min 15 (g.fails + 1)) ∧
      (gradedOf t u).lastTest = s.time.turn ∧ (gradedOf t u).bad = false)) ∧
  ∀ s : State,
    (s.fh.pend = [] → Gives .journalWriteDone s (fun t => t = { s with fh := { s.fh with writing := false } })) ∧
    ∀ e rest, s.fh.pend = e :: rest → s.nor.slotBytes ≠ 0 → Gives .journalWriteDone s (fun t =>
      t.fh.pend = rest ∧ t.fh.writing = !rest.isEmpty ∧
      (s.nor.slotBytes ≤ 8 * (s.nor.slotBytes - 64 * ((activeSlot s).length + 1)) →
        t.fh.slot = s.fh.slot ∧ activeSlot t = activeSlot s ++ [evRecord e]) ∧
      (let full := (regGet s oFhCperProd + 2 ^ 32 - regGet s oFhCperCons) % 2 ^ 32 = 256
       (full → regGet t oFhCperDropCnt = min (regGet s oFhCperDropCnt + 1) 0xFFFFFFFF) ∧
       (¬ full → regGet t oFhCperProd = (regGet s oFhCperProd + 1) % 2 ^ 32)))

/-! ### Transactions -/

/-- Opening and staging (R380, R381, R384): BEGIN opens a transaction for its requester unless one is open or the block is in
Sepia mode, the power-fail sequence or not started; each load command of the owner adds one load, at most 16; ROLLBACK closes
it with RESULT 0x06; any other requester is refused. The copies of applied tables end. -/
def Obligations.TransactionsAreOpenedStagedAndRolledBack : Prop :=
  (∀ (s : State) (req : Nat),
    (s.gov.opened.isSome = true ∨ s.fh.sepia = true ∨ s.gov.pfDue = true ∨ s.gov.pfActive = true ∨ s.boot.running = false →
      Gives (.txnBegin req) s (fun t => ApbRefuses s t)) ∧
    (s.gov.opened = none → s.fh.sepia = false → s.gov.pfDue = false → s.gov.pfActive = false → s.boot.running = true →
      Gives (.txnBegin req) s (fun t => t = { s with
        gov := { s.gov with opened := some ⟨0, req, [], [], 0, 0, 0, 0⟩ }, port := { s.port with apb := (0, false) } }))) ∧
  (∀ (s : State) (req code : Nat) (cmd : Instr), (cmd, code) ∈ loadRow req →
    (s.gov.opened = none → Gives cmd s (fun t => ApbRefuses s t)) ∧
    ∀ x, s.gov.opened = some x →
      (x.owner ≠ req ∨ 16 ≤ x.loads.length → Gives cmd s (fun t => ApbRefuses s t)) ∧
      (x.owner = req → x.loads.length < 16 → Gives cmd s (fun t => t = { s with
        gov := { s.gov with opened := some { x with loads := x.loads ++ [(code,
          regGet s oGovTxnTblSrcLo + regGet s oGovTxnTblSrcHi * 2 ^ 32, regGet s oGovTxnTblLen, [])] } }
        port := { s.port with apb := (0, false) } }))) ∧
  (∀ (s : State) (req : Nat),
    (s.gov.opened = none → Gives (.txnRollback req) s (fun t => ApbRefuses s t)) ∧
    ∀ x, s.gov.opened = some x →
      (x.owner ≠ req → Gives (.txnRollback req) s (fun t => ApbRefuses s t)) ∧
      (x.owner = req →
        let id := (s.gov.lastId + 1) % 2 ^ 16
        Gives (.txnRollback req) s (fun t => Journals { s with
          gov := { s.gov with opened := none, lastId := id, lastOwner := req }, port := { s.port with apb := (0, false) } } t
          { x with id := id } ⟨6, noLoad⟩ ∧ t.gov.opened = none ∧ t.gov.result = 6))) ∧
  ∀ s : State, Gives .tableCopyDone s (fun t => t = { s with gov := { s.gov with copies := [] } })

/-- Closing (R382, R384, R385, R390): COMMIT gives the owner's transaction the next id and takes it for checking with its
journal entries reserved, or refuses one due too soon (0x03), one too many (0x04) or one without journal space (0x08); a
checked transaction becomes pending or is refused; CANCEL withdraws a pending one that is not about to apply (0x07). -/
def Obligations.TransactionsAreCommittedValidatedAndCancelled : Prop :=
  (∀ (s : State) (req wh : Nat),
    (s.gov.opened = none → Gives (.txnCommit req wh) s (fun t => ApbRefuses s t)) ∧
    ∀ x, s.gov.opened = some x →
      (x.owner ≠ req ∨ 3 ≤ wh → Gives (.txnCommit req wh) s (fun t => ApbRefuses s t)) ∧
      (x.owner = req → wh < 3 →
        let due := regGet s oGovTxnAtLo + regGet s oGovTxnAtHi % 2 ^ 16 * 2 ^ 32
        let id := (s.gov.lastId + 1) % 2 ^ 16
        let y : Txn := { x with id := id, wh := wh, at_ := if wh = 0 then 0 else due, tag := regGet s oGovTxnTag }
        let u : State := { s with
          gov := { s.gov with opened := none, lastId := id, lastOwner := req }, port := { s.port with apb := (0, false) } }
        let late := (wh = 1 ∧ due < s.time.turn + 64) ∨ (wh = 2 ∧ stepGone s due = true)
        let many := 8 ≤ s.gov.pendTx.length + s.gov.checking.length
        (late → Gives (.txnCommit req wh) s (fun t => Journals u t y ⟨3, noLoad⟩)) ∧
        (¬ late → many → Gives (.txnCommit req wh) s (fun t => Journals u t y ⟨4, noLoad⟩)) ∧
        (¬ late → ¬ many → cjFree u < cjNeed u y → Gives (.txnCommit req wh) s (fun t => Journals u t y ⟨8, noLoad⟩)) ∧
        (¬ late → ¬ many → cjNeed u y ≤ cjFree u → Gives (.txnCommit req wh) s (fun t => t = { u with
          gov := { u.gov with checking := s.gov.checking ++ [{ y with reserved := cjNeed u y }], result := 1 } })))) ∧
  (∀ s : State, (s.gov.checking = [] → Gives .txnValidated s (· = s)) ∧
    ∀ x rest, s.gov.checking = x :: rest →
      let u : State := { s with gov := { s.gov with checking := rest } }
      let c := copyLoads u x
      let v := judge c.2.2 c.2.1
      (x.wh = 2 → stepGone s x.at_ = true → Gives .txnValidated s (fun t => Journals u t x ⟨3, noLoad⟩)) ∧
      (x.wh ≠ 2 ∨ stepGone s x.at_ = false →
        (c.1 = false → Gives .txnValidated s (fun t => Journals c.2.2 t c.2.1 ⟨2, noLoad⟩)) ∧
        (c.1 = true → v.1.result ≠ 0 → Gives .txnValidated s (fun t => Journals c.2.2 t c.2.1 v.1)) ∧
        (c.1 = true → v.1.result = 0 → Gives .txnValidated s (fun t =>
          t = { c.2.2 with gov := { c.2.2.gov with pendTx := c.2.2.gov.pendTx ++ [c.2.1] } })))) ∧
  ∀ (s : State) (id : Nat),
    (s.gov.pendTx.find? (fun t => t.id == id) = none → Gives (.txnCancel id) s (fun t =>
      t = { s with port := { s.port with apb := (0, false) } })) ∧
    ∀ x, s.gov.pendTx.find? (fun t => t.id == id) = some x →
      (cancellable s x = false → Gives (.txnCancel id) s (fun t => t = { s with port := { s.port with apb := (0, false) } })) ∧
      (cancellable s x = true → Gives (.txnCancel id) s (fun t =>
        t = { s with mem := t.mem, gov := t.gov, port := { s.port with apb := (0, false) } } ∧
        t.gov.pendTx = s.gov.pendTx.filter (fun y => y.id != id) ∧ t.gov.cjProd = (s.gov.cjProd + 1) % 2 ^ 32 ∧
        (x.id = s.gov.lastId → t.gov.result = 7)))

/-! ### Copies, publication, replay and digests -/

/-- The Tailrace's copies (R184 to R187, R209 to R219): EXPORT START is refused while busy or with a reserved format and
otherwise takes the tables in force; exports and checkpoints end when nothing is left, a checkpoint failing without its
buddy; ranges are published in turn and the publication is over when all is acknowledged and ready; TR_REPUB queues the
owner's ranges again; a replayable unit is replayed; a unit no copy holds goes on; owned digests are formed and compared. -/
def Obligations.CopiesPublicationsAndReplaysProceed : Prop :=
  (∀ s : State,
    (s.copy.expBusy = true → Gives .exportStart s (fun t =>
      t = { s with copy := { s.copy with expErr := true, expCode := 1 } })) ∧
    (s.copy.expBusy = false → 2 ≤ regGet s oPsExpCtl % 4 → Gives .exportStart s (fun t =>
      t = { s with copy := { s.copy with expErr := true, expCode := 2 } })) ∧
    (s.copy.expBusy = false → regGet s oPsExpCtl % 4 < 2 → Gives .exportStart s (fun t =>
      t = { s with copy := t.copy } ∧ t.copy.expBusy = true ∧ t.copy.expErr = false ∧ t.copy.expCode = 0 ∧
      t.copy.expRecords = 0 ∧ t.copy.expStep = stepNext s ∧ t.copy.expFormat = regGet s oPsExpCtl % 4 ∧
      t.copy.expDest = regGet s oPsExpDestLo + regGet s oPsExpDestHi * 2 ^ 32 ∧
      t.copy.expTt = (if stepHolds s then s.work.tt else liveTable s) ∧
      t.copy.ckptBusy = s.copy.ckptBusy ∧ t.copy.digDue = s.copy.digDue)) ∧
    (s.copy.expTodo = [] → Gives .exportDone s (fun t => t = { s with copy := { s.copy with expBusy := false } })) ∧
    (s.copy.ckptTodo = [] → s.copy.ckptBusy = false → Gives .checkpointDone s (· = s)) ∧
    (s.copy.ckptTodo = [] → s.copy.ckptBusy = true → buddyUp s = false → Gives .checkpointDone s (fun t =>
      t = ckptStop s ∧ t.copy = { s.copy with ckptBusy := false, ckptFail := true, ckptTodo := [] })) ∧
    (s.copy.ckptTodo = [] → s.copy.ckptBusy = true → buddyUp s = true → Gives .checkpointDone s (fun t =>
      let count := (ownRanges s s.copy.ckptTt (fun _ => true)).length
      let u := ckptPut s s.copy.ckptOff (2 ^ 17 - 1) (plain (completion (s.copy.ckptW - 1) count))
      t = { u with copy := { u.copy with ckptBusy := false, ckptStep := (s.copy.ckptW - 1) % 2 ^ 24 } }))) ∧
  (∀ (s : State) (i : Nat),
    (copyHolds s i = false → Gives (.ckptWaitEnd i) s (fun t => t = match unitAt s i with
      | some u => if u.ckptWait then runUpdate s i u.redo else s
      | none => s)) ∧
    (replayable s i = true → s.step.state ≠ 2 → s.step.state ≠ 3 → Gives (.replay i) s (fun t =>
      t = replayCommitted s i)) ∧
    (replayable s i = false → s.step.state ≠ 2 → s.step.state ≠ 3 → Gives (.replay i) s (· = s)) ∧
    (∀ u, s.step.state = 2 ∨ s.step.state = 3 → unitAt s i = some u → u.final = true → u.updated = true →
      (sampled s i).custom = true → Gives (.replay i) s (fun t =>
        t = { s with work := { s.work with units := t.work.units, refreshed := s.work.refreshed.filter (fun j => j != i) } } ∧
        ∀ v ∈ t.work.units, v.entry = i → v.updated = false))) ∧
  (∀ s : State, (s.pub.todo = [] → Gives .publishRange s (· = s)) ∧
    ∀ r rest, s.pub.todo = r :: rest →
      (s.pub.susp.isSome = true ∨ s.pub.preempt = true ∨ s.fh.sepia = true ∨ s.gov.pfActive = true →
        Gives .publishRange s (· = s)) ∧
      (s.pub.susp = none → s.pub.preempt = false → s.fh.sepia = false → s.gov.pfActive = false →
        let e := tentOf (s.pub.tt.getD r.entry [])
        let u := { s with pub := { s.pub with todo := rest, tensor := e.id } }
        let v := if e.short = 0xF then u else convertShort u e r.s s.pub.seed
        let w := noteGot ((pubParts e (r.s + 1)).foldl (fun s x => sendPart s e r.s s.pub.attempt x) v)
          r.s r.entry (3 * 2 ^ 48) (pubTotal e)
        Gives .publishRange s (fun t => t = pubReady (if r.republish then bump w oTrRepubCnt else w)))) ∧
  (∀ s : State,
    let layers := (s.pub.tt.map (fun b => (tentOf b).layer)).eraseDups
    let over_ := s.pub.todo = [] ∧ pubUnacked s = false ∧ ∀ l ∈ layers, l ∈ s.pub.readyLayers
    (s.pub.busy = true → over_ → Gives .publishDone s (fun t =>
      t = { s with pub := { s.pub with busy := false }, work := { s.work with tPub := none }
                   step := { s.step with move := if s.step.state = 6 then some 7 else s.step.move } })) ∧
    (s.pub.busy = false ∨ ¬ over_ → Gives .publishDone s (· = s))) ∧
  (∀ (s : State) (w : Nat),
    let is := ownRanges s s.pub.tt (fun t => t.id == w % 2 ^ 20)
    (bitOf w 31 = false → Gives (.trRepub w) s (· = s)) ∧
    (bitOf w 31 = true → repubOk s = true → is ≠ [] → Gives (.trRepub w) s (fun t =>
      t = { s with pub := { s.pub with todo := s.pub.todo ++ is.map (fun i => ⟨i, s.pub.s, true⟩) } })) ∧
    (bitOf w 31 = true → repubOk s = false ∨ is = [] → Gives (.trRepub w) s (fun t =>
      t = { s with pub := { s.pub with err := true } }))) ∧
  ∀ s : State, (s.copy.digDue = [] → Gives .digestCompute s (· = s)) ∧
    ∀ i, s.copy.digDue = [i] → (∀ x ∈ (shardDigest s i).2.copy.digOwn, x.1 ≠ i) → Gives .digestCompute s (fun t =>
      let d := shardDigest s i
      t = digestJudge (sendDigest (setOwnDigest d.2 i d.1) i d.1 0) i)

/-! ### The training step -/

/-- The step's own commands (R192 to R205, R305): OPEN of the next step opens it unless the block bars it, any other is
refused and counted; a layer rung in OPEN is held and one rung in GRIND sends its slices; units are admitted in order and
finalised; readiness, round B and the early-abort notice are reported once; the Sail lanes stand at the step's start. -/
def Obligations.StepCommandsMoveTheStep : Prop :=
  (∀ s : State,
    (ringHead s 1 = none ∨ s.step.state = 4 ∨ s.step.state = 5 → Gives .stepOpen s (· = s)) ∧
    ∀ e, ringHead s 1 = some e →
      (s.step.state = 1 ∨ s.step.state = 2 ∨ s.step.state = 3 → Gives .stepOpen s (fun t => t = popRing (bump s oBadCmdCnt))) ∧
      (s.step.state = 0 ∨ s.step.state = 6 →
        (leAt e 8 6 ≠ stepNext s ∨ s.fh.fatal = true ∨ s.fh.statePoison = true ∨ s.boot.groupOk = false ∨
            regGet s oFwrHoldSize % 2 ^ 16 = 0 ∨ regGet s oPsTtCount = 0 →
          Gives .stepOpen s (fun t => t = popRing (bump s oBadCmdCnt))) ∧
        (leAt e 8 6 = stepNext s → s.fh.fatal = false → s.fh.statePoison = false → s.boot.groupOk = true →
            regGet s oFwrHoldSize % 2 ^ 16 ≠ 0 → regGet s oPsTtCount ≠ 0 →
          Gives .stepOpen s (fun t => t = openStep (popRing s) e)))) ∧
  (∀ (s : State) (e : List Byte), (openFields s e).state = 1 ∧ (openFields s e).s = leAt e 8 6 ∧
    (openFields s e).attempt = s.step.attempt ∧ (openFields s e).clipNorm = leAt e 4 4 ∧
    (openFields s e).ovf = false ∧ (openFields s e).flt = false) ∧
  (∀ s : State,
    (s.qn.sailBusy = true → Gives .sailJumpDone s (fun t =>
      let p : SailPos := ⟨s.qn.sailSeed, s.qn.sailT, s.qn.sailEpoch, [], []⟩
      t = { s with
        qn := { s.qn with sailBusy := false, sails := s.qn.sails.map (fun _ => p) }
        leat := s.leat.map (fun x => { x with sail := p }), step := { s.step with jumped := true } })) ∧
    (s.qn.sailBusy = false → Gives .sailJumpDone s (· = s))) ∧
  (∀ s : State, (ringHead s 2 = none → Gives .layerDoorbell s (· = s)) ∧
    ∀ e, ringHead s 2 = some e →
      let layer := leAt e 2 2
      let ok := leAt e 2 2 ∈ layersOf s ∧ layerRung s layer = false ∧ bufferOk s (leAt e 8 8) = true
      ((s.step.state ≠ 1 ∧ s.step.state ≠ 2) ∨ ¬ ok → Gives .layerDoorbell s (fun t => t = popRing (bump s oBadCmdCnt))) ∧
      (ok → s.step.state = 1 → (popRing s).step.state = 1 → Gives .layerDoorbell s (fun t =>
        t = { popRing s with work := { (popRing s).work with heldLayers := (popRing s).work.heldLayers ++ [e] } })) ∧
      (ok → s.step.state = 2 → (popRing s).step.state = 2 → Gives .layerDoorbell s (fun t =>
        t = trySlices { popRing s with work := { (popRing s).work with
          rung := (popRing s).work.rung ++ [(layer, leAt e 8 8, leAt e 1 1 % 16)] } }))) ∧
  (∀ s : State, (ringHead s 3 = none → Gives .hostAbort s (· = s)) ∧
    ∀ e, ringHead s 3 = some e →
      let may := stepOpenState s = true ∧ ¬ (s.step.state = 3 ∧ s.step.round = 2 ∧ s.step.recordSent = true)
      (may → Gives .hostAbort s (fun t => t = sendEarly (markWith (popRing s) 3 false false))) ∧
      (¬ may → Gives .hostAbort s (fun t => t = popRing (bump s oBadCmdCnt)))) ∧
  (∀ s : State,
    (s.step.state ≠ 2 → Gives .unitAdmit s (· = s)) ∧
    (∀ u, s.step.state = 2 → nextUnit s = some u → holdFits s u = true → Gives .unitAdmit s (fun t =>
      let v := unitMod s u.entry (fun u => { u with admitted := true, fmt := layerFmt s (sampled s u.entry).layer })
      t = trySlices (noteAdmit (groupNotice v 0x0A u.entry 0) u.entry))) ∧
    (∀ u, s.step.state = 2 → nextUnit s = some u → holdFits s u = false → Gives .unitAdmit s (· = s)) ∧
    ∀ i,
      (s.step.state ≠ 2 ∨ unitAt s i = none → Gives (.unitFinalise i) s (· = s)) ∧
      (∀ u, unitAt s i = some u → u.final = true ∨ u.admitted = false ∨ unitComplete s i u = false →
        Gives (.unitFinalise i) s (· = s)) ∧
      (∀ u, unitAt s i = some u → s.step.state = 2 → u.final = false → u.admitted = true → unitComplete s i u = true →
        digestOpen s i = true → Gives (.unitFinalise i) s (fun t => t = finalise s i))) ∧
  (∀ (s : State) (layer : Nat),
    let mine := (List.range s.work.tt.length).filter (fun i => (sampled s i).layer == layer)
    let due := stepOpenState s = true ∧ (∃ x ∈ s.work.rung, x.1 = layer) ∧ layer ∉ s.work.done ∧
      (∀ i ∈ mine, (i, layer) ∈ s.work.sent) ∧ contribCreditsHome s = true
    (due → Gives (.layerDone layer) s (fun t => ∃ u, u = writeLayerWord s layer false ∧
      t = { u with work := { u.work with done := u.work.done ++ [layer] } })) ∧
    (¬ due → Gives (.layerDone layer) s (· = s))) ∧
  (∀ s : State,
    (settleReady s = true → Gives .settleReady s (fun t =>
      t = { s with step := { s.step with move := some 3 }, work := { s.work with tDecision := none } })) ∧
    (settleReady s = false → Gives .settleReady s (· = s)) ∧
    (s.step.earlyDue = true → s.step.earlySent = false → stepOpenState s = true → Gives .earlyAbortSend s (fun t =>
      let u := { s with step := { s.step with earlyDue := false, earlySent := true } }
      t = sendTo u (rootChip u) (msgOf u 0x05 0 (u.step.markReason * 16) []))) ∧
    (s.step.earlyDue = false ∨ s.step.earlySent = true ∨ stepOpenState s = false → Gives .earlyAbortSend s (· = s)) ∧
    (s.step.clipMode ≠ 1 → roundBReady s = true → Gives .roundBReady s (fun t =>
      t = sendRecord { s with step := { s.step with roundB := true } } 2)) ∧
    (s.step.clipMode ≠ 1 → roundBReady s = false → Gives .roundBReady s (· = s)) ∧
    ∀ i,
      (s.step.state ≠ 3 ∨ s.step.round ≠ 2 ∨ s.step.clipMode ≠ 1 ∨ s.step.recordSent = true ∨ updatesDone s = false →
        Gives (.redoRerun i) s (· = s)) ∧
      (s.step.state = 3 → s.step.round = 2 → s.step.clipMode = 1 → s.step.recordSent = false → updatesDone s = true →
        let v := writeGs s s.step.clipPend
        (unitAt v i = none → Gives (.redoRerun i) s (· = v)) ∧
        ∀ u, unitAt v i = some u →
          (u.redo = false → u.gs ≠ gsOf v i → v.step.earlySent = false → v.step.ovf = false → Gives (.redoRerun i) s (fun t =>
            t = runUpdate (unitMod (bump v oRedoCnt) i (fun u => { u with redo := true, updated := false })) i true)) ∧
          (u.redo = true ∨ u.gs = gsOf v i → Gives (.redoRerun i) s (· = v))))

/-- The step's time-outs (R193, R200, R201, R207): at the decision root a missing record makes it ABORT with the lowest
missing chip as cause, in GRIND the chip asks for an early abort with reason TIMEOUT, a chip that waits for a decision asks
the standby root, an unacknowledged standby root is lost, and a late publication is only marked. None has an effect before
its time. -/
def Obligations.StepTimeoutsActAtTheirTime : Prop :=
  ∀ s : State,
    (isRoot s = false ∨ passed s s.work.tOpen (regGet s oStepTmo % 2 ^ 16) = false → Gives .openTimeout s (· = s)) ∧
    (∀ r rest, isRoot s = true → passed s s.work.tOpen (regGet s oStepTmo % 2 ^ 16) = true → s.root.openRecs = rest ++ [r] →
      decidedIn s.root.decided r.2.step r.2.attempt 0 = false → Gives .openTimeout s (fun t =>
        let rs := recsFor s.root.openRecs r.2.step r.2.attempt
        t = decideAbort { s with work := { s.work with tOpen := none } } r.2.step r.2.attempt 4
          (lowest ((trainingSet s).filter (fun c => !rs.any (fun x => x.1 == c)))))) ∧
    (isRoot s = false ∨ passed s s.work.tSettle (settleTmo s) = false → Gives .settleTimeout s (· = s)) ∧
    (∀ r rest, isRoot s = true → passed s s.work.tSettle (settleTmo s) = true → s.root.groupRecs = rest ++ [r] →
      decidedIn s.root.decided r.2.step r.2.attempt (decRound r.2) = false → Gives .settleTimeout s (fun t =>
        let rs := groupRecsFor s r.2.step r.2.attempt (decRound r.2)
        t = decideAbort { s with work := { s.work with tSettle := none } } r.2.step r.2.attempt 4
          (lowest (((List.range (replicas s + 1)).map (normRootOf s)).filter (fun c => !rs.any (fun x => x.1 == c)))))) ∧
    (let n := regGet s oStepTmoGrind % 2 ^ 16
     let due := s.step.state = 2 ∧ n ≠ 0 ∧ passed s s.work.tGrind (512 * n) = true
     (due → Gives .grindTimeout s (fun t =>
        t = sendEarly (markWith { s with work := { s.work with tGrind := none } } 4 false false))) ∧
     (¬ due → Gives .grindTimeout s (· = s))) ∧
    (stepOpenState s = true → passed s s.work.tDecision (4 * settleTmo s) = true → Gives .decisionWaitTimeout s (fun t =>
      let u := { s with work := { s.work with tDecision := some s.time.turn } }
      t = sendTo u (standbyChip s) (msgOf s 0x07 0 (s.step.round * 2 ^ 8) []))) ∧
    (stepOpenState s = false ∨ passed s s.work.tDecision (4 * settleTmo s) = false →
      Gives .decisionWaitTimeout s (· = s)) ∧
    ((∃ d ∈ s.root.waiting, d.since + settleTmo s ≤ s.time.turn) → Gives .standbyAckTimeout s (fun t => t = loseStandby s)) ∧
    ((∀ d ∈ s.root.waiting, s.time.turn < d.since + settleTmo s) → Gives .standbyAckTimeout s (· = s)) ∧
    (s.pub.busy = true → passed s s.work.tPub (fieldOf (regGet s oStepTmoGrind) 31 16) = true → Gives .pubTimeout s (fun t =>
      t = { s with pub := { s.pub with late := true }, work := { s.work with tPub := none } })) ∧
    (s.pub.busy = false ∨ passed s s.work.tPub (fieldOf (regGet s oStepTmoGrind) 31 16) = false →
      Gives .pubTimeout s (· = s)) ∧
    ∀ t0 n, (passed s (some t0) n = true ↔ t0 + n ≤ s.time.turn) ∧ passed s none n = false

/-- Messages of the step (R191, R192, R200, R323, R331, R332): each is consumed when it is the oldest of its pool; one of
the current step has its effect, one of the step just committed none on the open step, any other is counted as stale; a
shard's message acts at the holder of its role; the root's decisions set what the next boundary does. -/
def Obligations.StepMessagesApplyToTheirStep : Prop :=
  ∀ (s : State) (m : Msg),
    let u := consumeMsg s m
    let stale := fun t : State => OneReg u t oStaleMsgCnt (min (regGet u oStaleMsgCnt + 1) 0xFFFFFFFF)
    (∀ cmd kind body, (cmd, kind, body) ∈ stepRow m →
      (m.kind ≠ kind ∨ msgReady s m = false → Gives cmd s (· = s)) ∧
      (m.kind = kind → msgReady s m = true →
        (isCurrent u m = true → Gives cmd s (fun t => t = body u)) ∧
        (isCurrent u m = false → isCommitted u m = true → Gives cmd s (· = u)) ∧
        (isCurrent u m = false → isCommitted u m = false → Gives cmd s stale))) ∧
    (∀ cmd kind body, (cmd, kind, body) ∈ anyRow m →
      (m.kind ≠ kind ∨ msgReady s m = false → Gives cmd s (· = s)) ∧
      (m.kind = kind → msgReady s m = true → Gives cmd s (fun t => t = body u))) ∧
    (∀ cmd kind body, (cmd, kind, body) ∈ shardRow m →
      (m.kind ≠ kind ∨ msgReady s m = false → Gives cmd s (· = s)) ∧
      (m.kind = kind → msgReady s m = true → isCurrent u m = true → stepOpenState u = true →
        Gives cmd s (fun t => RoleTakes u t m true body)) ∧
      (m.kind = kind → msgReady s m = true → isCurrent u m = false → isCommitted u m = false → Gives cmd s stale)) ∧
    (∀ cmd kind body, (cmd, kind, body) ∈ copyRow m →
      (m.kind ≠ kind ∨ msgReady s m = false → Gives cmd s (· = s)) ∧
      (m.kind = kind → msgReady s m = true → Gives cmd s (fun t =>
        RoleTakes u t m (isCurrent s m || isCommitted s m) body))) ∧
    (∀ cmd code body, (cmd, code, body) ∈ decisionRow m →
      (decCode m ≠ code → Gives cmd s (· = s)) ∧
      (decCode m = code → m.kind = 2 → msgReady s m = true → bitOf m.addr 0 = true → Gives cmd s (fun t => t = takeCopy u m)) ∧
      (decCode m = code → m.kind = 2 → msgReady s m = true → bitOf m.addr 0 = false →
        (isCurrent u m = true → Gives cmd s (fun t => t = body u)) ∧
        (isCurrent u m = false → isCommitted u m = false → Gives cmd s stale))) ∧
    (∀ v : State, v.step.move = none →
      (v.step.state = 1 → takeGo v = { v with
        boot := { v.boot with discDone := true }, step := { v.step with move := some 2 }
        work := { v.work with tDecision := none } }) ∧
      (v.step.state = 3 → v.step.round = 2 → takeCommit v = { v with
        step := { v.step with move := some 4 }, work := { v.work with tDecision := none } }) ∧
      (stepOpenState v = true → takeAbort v m = { v with
        step := { v.step with abortReason := decReason m, abortChip := decCause m, move := some 5 }
        work := { v.work with tDecision := none } }) ∧
      (v.step.state = 3 → v.step.round = 1 → v.step.sumsA = false → takeContinue v = { v with
        step := { v.step with move := some 6 } }))

/-! ### Other chips -/

/-- Remote accesses (R215, R264, R270, R271, R323): the home serves a read, write or atomic it does not hold back and
answers with data, an acknowledgement or an error under the request's tag; an answer ends its outstanding request and goes to
whoever asked; bulk data is written to this chip's DRAM. -/
def Obligations.RemoteAccessesAreServedAndAnswered : Prop :=
  ∀ (s : State) (m : Msg),
    let u := consumeMsg s m
    let b := baddrOf m.addr
    let answer := fun (v : State) (kind code poison : Nat) (data : List Byte) =>
      sendTo v m.src ⟨kind, false, v.gl.chip, 0, 0, 0, m.addr, code, poison, m.tag, data⟩
    (∀ cmd kind len, (cmd, kind, len) ∈ [(Instr.msgVc4Rd m, 0x38, m.aux), (.msgVc4Wr m, 0x39, m.data.length),
        (.msgVc4Wrs m, 0x3A, 64), (.msgVc4Atom m, 0x3B, 64)] →
      (m.kind ≠ kind ∨ msgReady s m = false ∨ rangeHeld s b.space b.off len = true → Gives cmd s (· = s)) ∧
      (m.kind = kind → msgReady s m = true → rangeHeld s b.space b.off len = false → 2 ≤ b.space →
        Gives cmd s (fun t => t = answer u 0x3C decerr 0 []))) ∧
    (m.kind = 0x38 → msgReady s m = true → rangeHeld s b.space b.off m.aux = false → b.space < 2 →
      let d := rangeRead u b.space b.off m.aux 2 false
      Gives (.msgVc4Rd m) s (fun t => t = if d.1.ok then answer d.2 0x3C okay (poisonBits d.1.poison) d.1.data
        else answer d.2 0x3C decerr 0 [])) ∧
    (m.kind = 0x39 → msgReady s m = true → rangeHeld s b.space b.off m.data.length = false → b.space < 2 →
      m.data.length = 64 → b.off % 64 = 0 → memOk u b.space b.off = true →
      let w := burstWrite u b.space b.off m.data (strobes 0 64) (bitOf m.poison 0) 2 false
      Gives (.msgVc4Wr m) s (fun t => t = if w.1 then answer w.2 0x3D 0 0 [] else answer w.2 0x3C slverr 0 [])) ∧
    (m.kind = 0x3A → msgReady s m = true → rangeHeld s b.space b.off 64 = false → b.space < 2 →
      m.data.length = 64 → b.off % 64 = 0 → memOk u b.space b.off = true →
      let w := burstWrite u b.space b.off m.data ((List.range 64).map (fun i => bitOf m.aux i)) (bitOf m.poison 0) 2 false
      Gives (.msgVc4Wrs m) s (fun t => t = if w.1 then answer w.2 0x3D 0 0 [] else answer w.2 0x3C slverr 0 [])) ∧
    (m.kind = 0x3B → msgReady s m = true → rangeHeld s b.space b.off 64 = false → b.space = 1 →
      let n := if bitOf m.aux 4 then 8 else 4
      b.off % n = 0 → scratchOk u (b.off / 64 * 64) 64 = true →
      let a := atomicAt u b.off n (m.aux % 16) (leAt m.data 0 n) (leAt m.data n n)
      Gives (.msgVc4Atom m) s (fun t => t = answer a.2.2 0x3C okay (b2n a.2.1) (leBytes n a.1))) ∧
    (∀ cmd kind code, (cmd, kind, code) ∈ [(Instr.msgVc4Resp m, 0x3C, m.aux % 4), (.msgVc4Wack m, 0x3D, okay)] →
      (m.kind ≠ kind ∨ msgReady s m = false → Gives cmd s (· = s)) ∧
      (m.kind = kind → msgReady s m = true →
        (u.port.outst.find? (fun o => o.tag == m.tag) = none → Gives cmd s (· = u)) ∧
        ∀ o, u.port.outst.find? (fun o => o.tag == m.tag) = some o → Gives cmd s (fun t =>
          let v := { u with port := { u.port with outst := u.port.outst.filter (fun x => x.tag != m.tag) } }
          t = releaseRoute (giveAnswer v o code m.poison m.data) o.chip))) ∧
    (∀ (v : State) (o : Outst) (data : List Byte) (poison : Nat),
      (∀ r off, o.sink = .host r off → o.kind ≠ 0x3B →
        respOf (giveAnswer v o okay poison data) r.narrow r.port = some ⟨okay, (data.drop off).take r.len,
          (List.range ((off + r.len - 1) / 64 + 1)).map (fun i => bitOf poison i)⟩) ∧
      (∀ r, o.sink = .hostWrite r → giveAnswer v o okay poison data = v) ∧
      ∀ q tag, o.sink = .quernWrite q tag → giveAnswer v o okay poison data = v) ∧
    (m.kind = 0x40 → msgReady s m = true → rangeHeld s 0 b.off m.data.length = false → Gives (.msgBulk m) s (fun t =>
      t = (rangeWrite u 0 b.off m.data ((List.range 64).map (fun i => bitOf m.poison i)) 3 false).2.2)) ∧
    (m.kind ≠ 0x40 ∨ msgReady s m = false ∨ rangeHeld s 0 b.off m.data.length = true → Gives (.msgBulk m) s (· = s))
end

