-- ==== Sys2Proof/Laws/Store.lean ====
section
/-!
SUPPORT. Laws of sparse stores: the canonical form as an order and a value condition, that every operation keeps it, and
what a read gives after each operation.
-/
namespace Sys2Proof.Machine

set_option linter.unusedSectionVars false

variable {β : Type} [DecidableEq β] (d : Nat → β)

theorem mapWfFrom_iff (lo : Option Nat) (m : Store β) : mapWfFrom d lo m = true ↔
    (∀ l ∈ lo, ∀ e ∈ m, l < e.1) ∧ m.Pairwise (fun a b => a.1 < b.1) ∧ ∀ e ∈ m, e.2 ≠ d e.1 := by
  induction m generalizing lo with
  | nil => simp [mapWfFrom]
  | cons e m ih =>
    obtain ⟨k, v⟩ := e
    cases lo with
    | none => simp [mapWfFrom, ih]; tauto
    | some l =>
      simp only [mapWfFrom, ih, Bool.and_eq_true, decide_eq_true_eq, Option.mem_def, Option.some.injEq, forall_eq',
        List.forall_mem_cons, List.pairwise_cons]
      constructor
      · rintro ⟨⟨h1, h2⟩, h3, h4, h5⟩
        exact ⟨⟨h1, fun e he => h1.trans (h3 e he)⟩, ⟨h3, h4⟩, h2, h5⟩
      · rintro ⟨⟨h1, -⟩, ⟨h3, h4⟩, h2, h5⟩
        exact ⟨⟨h1, h2⟩, h3, h4, h5⟩

/-- The canonical form: rising keys, and no entry equal to what an unlisted key reads as. -/
theorem mapWf_iff (m : Store β) : mapWf d m = true ↔
    m.Pairwise (fun a b => a.1 < b.1) ∧ ∀ e ∈ m, e.2 ≠ d e.1 := by
  simp [mapWf, mapWfFrom_iff]

/-- Dropping a range of keys keeps the canonical form. -/
theorem mapErase_wf {m : Store β} (lo hi : Nat) (h : mapWf d m = true) : mapWf d (mapErase m lo hi) = true := by
  rw [mapWf_iff] at *
  exact ⟨h.1.filter _, fun e he => h.2 e (List.mem_of_mem_filter he)⟩

theorem mapRun_iff (k : Nat) (vs : List β) : (∀ e ∈ mapRun d k vs, k ≤ e.1 ∧ e.1 < k + vs.length ∧ e.2 ≠ d e.1) ∧
    (mapRun d k vs).Pairwise (fun a b => a.1 < b.1) := by
  induction vs generalizing k with
  | nil => simp [mapRun]
  | cons v vs ih =>
    obtain ⟨h1, h2⟩ := ih (k + 1)
    simp only [mapRun]
    have hr : ∀ e ∈ mapRun d (k + 1) vs, k ≤ e.1 ∧ e.1 < k + (v :: vs).length ∧ e.2 ≠ d e.1 := fun e he => by
      have := h1 e he
      simp only [List.length_cons]
      exact ⟨by omega, by omega, this.2.2⟩
    split
    · exact ⟨hr, h2⟩
    · refine ⟨fun e he => ?_, List.pairwise_cons.2 ⟨fun e he => ?_, h2⟩⟩
      · rcases List.mem_cons.1 he with rfl | he
        · exact ⟨le_rfl, by simp, ‹_›⟩
        · exact hr e he
      · have := h1 e he
        show k < e.1
        omega

/-- Writing a run of keys keeps the canonical form. -/
theorem mapWrite_wf {m : Store β} (k : Nat) (vs : List β) (h : mapWf d m = true) :
    mapWf d (mapWrite d m k vs) = true := by
  rw [mapWf_iff] at *
  obtain ⟨r1, r2⟩ := mapRun_iff d k vs
  refine ⟨?_, fun e he => ?_⟩
  · refine List.pairwise_append.2 ⟨List.pairwise_append.2 ⟨h.1.filter _, r2, fun a ha b hb => ?_⟩, h.1.filter _,
      fun a ha b hb => ?_⟩
    · have := (List.mem_filter.1 ha).2
      have := r1 b hb
      simp only [decide_eq_true_eq] at *
      omega
    · have hb := (List.mem_filter.1 hb).2
      simp only [decide_eq_true_eq] at hb
      rcases List.mem_append.1 ha with ha | ha
      · have ha := (List.mem_filter.1 ha).2
        simp only [decide_eq_true_eq] at ha
        omega
      · have := r1 a ha
        omega
  · rcases List.mem_append.1 he with he | he
    · rcases List.mem_append.1 he with he | he
      · exact h.2 e (List.mem_of_mem_filter he)
      · exact (r1 e he).2.2
    · exact h.2 e (List.mem_of_mem_filter he)

theorem mapGet_of_lt {m : Store β} {k : Nat} (h : ∀ e ∈ m, k < e.1) : mapGet d m k = d k := by
  induction m with
  | nil => rfl
  | cons e m ih =>
    have := h e (by simp)
    simp only [mapGet]
    rw [if_neg (by omega)]
    exact ih (fun e he => h e (by simp [he]))

theorem mapGet_none {m : Store β} {k : Nat} (h : ∀ e ∈ m, e.1 ≠ k) : mapGet d m k = d k := by
  induction m with
  | nil => rfl
  | cons e m ih =>
    simp only [mapGet]
    rw [if_neg (fun he => h e (by simp) he.symm)]
    exact ih (fun e he => h e (by simp [he]))

theorem mapGet_append_right {m : Store β} (m' : Store β) {k : Nat} (h : ∀ e ∈ m, e.1 ≠ k) :
    mapGet d (m ++ m') k = mapGet d m' k := by
  induction m with
  | nil => rfl
  | cons e m ih =>
    simp only [List.cons_append, mapGet]
    rw [if_neg (fun he => h e (by simp) he.symm)]
    exact ih (fun e he => h e (by simp [he]))

theorem mapGet_append_left (m : Store β) {m' : Store β} {k : Nat} (h : ∀ e ∈ m', e.1 ≠ k) :
    mapGet d (m ++ m') k = mapGet d m k := by
  induction m with
  | nil => exact mapGet_none d h
  | cons e m ih => simp only [List.cons_append, mapGet, ih]

theorem mapGet_filter (m : Store β) (p : Nat → Bool) (k : Nat) :
    mapGet d (m.filter (fun e => p e.1)) k = if p k then mapGet d m k else d k := by
  induction m with
  | nil => simp [mapGet]
  | cons e m ih =>
    obtain ⟨k', v⟩ := e
    simp only [List.filter_cons, mapGet]
    split
    · simp only [mapGet, ih]; split <;> simp_all
    · rw [ih]
      split
      · rw [if_neg]; rintro rfl; simp_all
      · rfl

theorem mapGet_mapRun (k : Nat) (vs : List β) (j : Nat) :
    mapGet d (mapRun d k vs) j = if k ≤ j then (vs[j - k]?).getD (d j) else d j := by
  induction vs generalizing k with
  | nil => simp [mapRun, mapGet]
  | cons v vs ih =>
    have step : ∀ i, k + 1 ≤ i → (v :: vs)[i - k]? = vs[i - (k + 1)]? := fun i hi => by
      rw [show i - k = (i - (k + 1)) + 1 by omega]; rfl
    have cons : mapGet d (mapRun d k (v :: vs)) j = if j = k then v else mapGet d (mapRun d (k + 1) vs) j := by
      simp only [mapRun]
      by_cases hv : v = d k
      · rw [if_pos hv]
        by_cases hj : j = k
        · rw [if_pos hj, ih, if_neg (by omega), hj, hv]
        · rw [if_neg hj]
      · rw [if_neg hv]
        rfl
    rw [cons, ih]
    rcases Nat.lt_trichotomy j k with hj | rfl | hj
    · rw [if_neg (by omega), if_neg (by omega), if_neg (by omega)]
    · simp
    · rw [if_neg (by omega), if_pos (by omega), if_pos (by omega), step j (by omega)]

/-- After a run is written, its keys read as the run and every other key as before. -/
theorem mapGet_mapWrite (m : Store β) (k : Nat) (vs : List β) (j : Nat) :
    mapGet d (mapWrite d m k vs) j = if k ≤ j ∧ j < k + vs.length then (vs[j - k]?).getD (d j) else mapGet d m j := by
  have hl : mapGet d (m.filter (fun e => decide (e.1 < k))) j = if j < k then mapGet d m j else d j := by
    simpa using mapGet_filter d m (fun x => decide (x < k)) j
  have hr : mapGet d (m.filter (fun e => decide (k + vs.length ≤ e.1))) j =
      if k + vs.length ≤ j then mapGet d m j else d j := by
    simpa using mapGet_filter d m (fun x => decide (k + vs.length ≤ x)) j
  have nl : ¬ j < k → ∀ e ∈ m.filter (fun e => decide (e.1 < k)), e.1 ≠ j := fun h e he => by
    have := (List.mem_filter.1 he).2
    simp only [decide_eq_true_eq] at this
    omega
  have nr : ¬ k + vs.length ≤ j → ∀ e ∈ m.filter (fun e => decide (k + vs.length ≤ e.1)), e.1 ≠ j := fun h e he => by
    have := (List.mem_filter.1 he).2
    simp only [decide_eq_true_eq] at this
    omega
  have nm : ¬ (k ≤ j ∧ j < k + vs.length) → ∀ e ∈ mapRun d k vs, e.1 ≠ j := fun h e he => by
    have := (mapRun_iff d k vs).1 e he
    omega
  simp only [mapWrite]
  rcases Nat.lt_or_ge j k with hj | hj
  · rw [mapGet_append_left d _ (nr (by omega)), mapGet_append_left d _ (nm (by omega)), hl, if_pos hj,
      if_neg (by omega)]
  · rcases Nat.lt_or_ge j (k + vs.length) with hk | hk
    · rw [mapGet_append_left d _ (nr (by omega)), mapGet_append_right d _ (nl (by omega)), mapGet_mapRun, if_pos hj,
        if_pos ⟨hj, hk⟩]
    · rw [List.append_assoc, mapGet_append_right d _ (nl (by omega)), mapGet_append_right d _ (nm (by omega)), hr,
        if_pos hk, if_neg (by omega)]

/-- Writing one key is writing a run of one. -/
theorem mapSet_eq_mapWrite (m : Store β) (k : Nat) (v : β) : mapSet d m k v = mapWrite d m k [v] := by
  simp only [mapSet, mapWrite, mapRun, List.length_singleton]
  rfl

/-- Writing one key keeps the canonical form. -/
theorem mapSet_wf {m : Store β} (k : Nat) (v : β) (h : mapWf d m = true) : mapWf d (mapSet d m k v) = true := by
  rw [mapSet_eq_mapWrite]
  exact mapWrite_wf d k [v] h

/-- A key reads as what was last written to it. -/
theorem mapGet_mapSet (m : Store β) (k : Nat) (v : β) (j : Nat) :
    mapGet d (mapSet d m k v) j = if j = k then v else mapGet d m j := by
  rw [mapSet_eq_mapWrite, mapGet_mapWrite]
  by_cases c : j = k
  · subst c; simp
  · rw [if_neg (by simp; omega), if_neg c]

/-- A key outside a dropped range reads as before, one inside as unlisted. -/
theorem mapGet_mapErase (m : Store β) (lo hi j : Nat) :
    mapGet d (mapErase m lo hi) j = if j < lo ∨ hi ≤ j then mapGet d m j else d j := by
  simpa [mapErase] using mapGet_filter d m (fun x => decide (x < lo) || decide (hi ≤ x)) j

theorem mapRead_length {β : Type} (d : Nat → β) (m : Store β) (k n : Nat) : (mapRead d m k n).length = n := by
  induction n generalizing k with
  | zero => rfl
  | succ n ih => simp [mapRead, ih]

end Sys2Proof.Machine
end

