-- ==== Sys2Proof/Laws/Frame.lean ====
section
/-!
SUPPORT. What every operation keeps: the relation `Kept z s`, that `s` is reached from `z` by operations that leave the
chip's fixed properties, the Turn count and its latches, the command queue and the numbers of units as they are and every store in its
canonical form, and its
closure under the ways operations are built.
-/
namespace Sys2Proof.Machine

/-- `s` has the chip, the queue, the Turn and the latches of `z`, and canonical stores where `z` has them. -/
structure Kept (z s : State) : Prop where
  chip : s.chip = z.chip
  pending : s.pending = z.pending
  mem : Memory.wf z.mem = true → Memory.wf s.mem = true
  regs : regsWf z = true → regsWf s = true
  turn : s.time.turn = z.time.turn
  latch : s.time.hiLatch = z.time.hiLatch
  shape : shapeWf z = true → shapeWf s = true

theorem Kept.refl (s : State) : Kept s s := ⟨rfl, rfl, id, id, rfl, rfl, id⟩

theorem Kept.trans {a b c : State} (h : Kept a b) (k : Kept b c) : Kept a c :=
  ⟨k.chip.trans h.chip, k.pending.trans h.pending, fun x => k.mem (h.mem x), fun x => k.regs (h.regs x),
    k.turn.trans h.turn, k.latch.trans h.latch, fun x => k.shape (h.shape x)⟩

/-- An update of fields that are neither the chip, the clocks, the registers, the memories, the units nor the queue. -/
theorem Kept.upd {z s : State} (h : Kept z s)
    (a2 a3 a6 a7 a9 a10 a11 a12 a13 a15 a16 a18 a19 a20) :
    Kept z ⟨s.chip, a2, a3, s.time, s.clk, s.regs, s.mem,
      a6, a7, s.qn, a9, a10, a11, a12, a13, s.leat, a15, a16,
      s.gl, a18, a19, a20, s.pending⟩ :=
  ⟨h.chip, h.pending, h.mem, h.regs, h.turn, h.latch, h.shape⟩

/-- An update that also writes what the links share. -/
theorem Kept.updGl {z s : State} (h : Kept z s)
    (a2 a3 a6 a7 a9 a10 a11 a12 a13 a15 a16 a18 a19 a20 g1 g2 g3 g4 g5 g6 g7 g8) :
    Kept z ⟨s.chip, a2, a3, s.time, s.clk, s.regs, s.mem,
      a6, a7, s.qn, a9, a10, a11, a12, a13, s.leat, a15, a16,
      ⟨s.gl.links, s.gl.ports, g1, g2, g3, g4, g5, g6, g7, g8⟩, a18, a19, a20, s.pending⟩ :=
  ⟨h.chip, h.pending, h.mem, h.regs, h.turn, h.latch, h.shape⟩

/-- An update that also writes what the Querns share. -/
theorem Kept.updQn {z s : State} (h : Kept z s)
    (a2 a3 a6 a7 a9 a10 a11 a12 a13 a15 a16 a18 a19 a20 n1 n2 n3 n4 n5 n6 n7 n8) :
    Kept z ⟨s.chip, a2, a3, s.time, s.clk, s.regs, s.mem,
      a6, a7, ⟨s.qn.q, n1, n2, n3, n4, s.qn.sails, n5, n6, n7, n8⟩, a9, a10, a11, a12, a13, s.leat, a15, a16,
      s.gl, a18, a19, a20, s.pending⟩ :=
  ⟨h.chip, h.pending, h.mem, h.regs, h.turn, h.latch, h.shape⟩

/-- An update that also writes the clock bundles. -/
theorem Kept.updClk {z s : State} (h : Kept z s)
    (a2 a3 a6 a7 a9 a10 a11 a12 a13 a15 a16 a18 a19 a20 c1 c2 c3 c4 c5 c6) :
    Kept z ⟨s.chip, a2, a3, s.time, ⟨s.clk.clusters, c1, c2, c3, c4, c5, c6⟩, s.regs, s.mem,
      a6, a7, s.qn, a9, a10, a11, a12, a13, s.leat, a15, a16,
      s.gl, a18, a19, a20, s.pending⟩ :=
  ⟨h.chip, h.pending, h.mem, h.regs, h.turn, h.latch, h.shape⟩

/-- An update that also writes the units' lists, keeping their lengths. -/
theorem Kept.updUnits {z s : State} (h : Kept z s) (ck : ClockSt) (qn : QuernsSt) (l : List Leat) (gl : GenleSt)
    (e : [qn.q.length, qn.sails.length, ck.clusters.length, gl.links.length, gl.ports.length, l.length] = shapeOf s)
    (a2 a3 a6 a7 a9 a10 a11 a12 a13 a15 a16 a18 a19 a20) :
    Kept z ⟨s.chip, a2, a3, s.time, ck, s.regs, s.mem, a6, a7, qn, a9, a10, a11, a12, a13, l, a15, a16, gl, a18, a19, a20,
      s.pending⟩ :=
  ⟨h.chip, h.pending, h.mem, h.regs, h.turn, h.latch, fun x => by
    have := h.shape x
    unfold shapeWf at *
    rw [← this, ← e]
    rfl⟩

/-- An update of the clock's other fields. -/
theorem Kept.updTime {z s : State} (h : Kept z s) (k : TimeSt) (e : k.turn = s.time.turn) (l : k.hiLatch = s.time.hiLatch)
    (a2 a3 a6 a7 a9 a10 a11 a12 a13 a15 a16 a18 a19 a20) :
    Kept z ⟨s.chip, a2, a3, k, s.clk, s.regs, s.mem,
      a6, a7, s.qn, a9, a10, a11, a12, a13, s.leat, a15, a16,
      s.gl, a18, a19, a20, s.pending⟩ :=
  ⟨h.chip, h.pending, h.mem, h.regs, e.trans h.turn, l.trans h.latch, h.shape⟩

/-- An update that also writes the memory system's other fields. -/
theorem Kept.updMem {z s : State} (h : Kept z s)
    (m1 m2 m3 m4 m5 m6 m7 m8 m9 m10 m11 m12 m13 m14 m15 m16 m17 m18 m19 m20 m21)
    (a2 a3 a6 a7 a9 a10 a11 a12 a13 a15 a16 a18 a19 a20) :
    Kept z ⟨s.chip, a2, a3, s.time, s.clk, s.regs, ⟨s.mem.dram, s.mem.scratch, s.mem.dramPoison, s.mem.scratchPoison,
      m1, m2, m3, m4, m5, m6, m7, m8, m9, m10, m11, m12, m13, m14, m15, m16, m17, m18, m19, m20, m21⟩,
      a6, a7, s.qn, a9, a10, a11, a12, a13, s.leat, a15, a16,
      s.gl, a18, a19, a20, s.pending⟩ :=
  ⟨h.chip, h.pending, fun x => by
    have := h.mem x
    simp only [Memory.wf] at *
    exact this, h.regs, h.turn, h.latch, h.shape⟩

/-- An update whose memory is canonical where the old one is. -/
theorem Kept.setMem {z s : State} (h : Kept z s) (m : MemSt) (hm : Memory.wf s.mem = true → Memory.wf m = true)
    (a2 a3 a6 a7 a9 a10 a11 a12 a13 a15 a16 a18 a19 a20) :
    Kept z ⟨s.chip, a2, a3, s.time, s.clk, s.regs, m,
      a6, a7, s.qn, a9, a10, a11, a12, a13, s.leat, a15, a16,
      s.gl, a18, a19, a20, s.pending⟩ :=
  ⟨h.chip, h.pending, fun x => hm (h.mem x), h.regs, h.turn, h.latch, h.shape⟩

/-- The canonical form of memory, store by store. -/
theorem memory_wf_iff (m : MemSt) : Memory.wf m = true ↔ mapWf zeroAt m.dram = true ∧ mapWf zeroAt m.scratch = true ∧
    mapWf offAt m.dramPoison = true ∧ mapWf offAt m.scratchPoison = true := by
  simp only [Memory.wf, Bool.and_eq_true, and_assoc]

theorem Kept.ite {z : State} {c : Prop} [Decidable c] {s t : State} (h : Kept z s) (k : Kept z t) :
    Kept z (if c then s else t) := by
  split <;> assumption

theorem Kept.ite_fst {β : Type} {z : State} {c : Prop} [Decidable c] {s t : State × β} (h : Kept z s.1) (k : Kept z t.1) :
    Kept z (if c then s else t).1 := by
  split <;> assumption

theorem Kept.ite_snd {β : Type} {z : State} {c : Prop} [Decidable c] {s t : β × State} (h : Kept z s.2) (k : Kept z t.2) :
    Kept z (if c then s else t).2 := by
  split <;> assumption

theorem Kept.ite_snd_snd {β γ : Type} {z : State} {c : Prop} [Decidable c] {s t : β × γ × State} (h : Kept z s.2.2)
    (k : Kept z t.2.2) : Kept z (if c then s else t).2.2 := by
  split <;> assumption

theorem Kept.fst {β : Type} {z s : State} {b : β} (h : Kept z s) : Kept z (s, b).1 := h

theorem Kept.snd {β : Type} {z s : State} {b : β} (h : Kept z s) : Kept z (b, s).2 := h

theorem Kept.foldl {α : Type} {z s : State} {f : State → α → State} {l : List α} (h : Kept z s)
    (k : ∀ s x, Kept z s → Kept z (f s x)) : Kept z (l.foldl f s) := by
  induction l generalizing s with
  | nil => exact h
  | cons x l ih => exact ih (k _ _ h)

theorem Kept.elim {α : Type} {z s : State} {f : α → State} {o : Option α} (h : Kept z s)
    (k : ∀ x, Kept z (f x)) : Kept z (o.elim s f) := by
  cases o
  · exact h
  · exact k _

theorem Kept.getD {z s : State} {o : Option State} (h : Kept z s) (k : ∀ t, o = some t → Kept z t) :
    Kept z (o.getD s) := by
  cases o
  · exact h
  · exact k _ rfl

/-- A state reached through a pair's second component. -/
theorem Kept.snd_snd_mk {β γ : Type} {z : State} {b : β} {p : γ × State} (h : Kept z p.2) : Kept z (b, p).2.2 := h

theorem Kept.fst_snd_mk {β γ : Type} {z : State} {b : β} {p : State × γ} (h : Kept z p.1) : Kept z (b, p).2.1 := h

theorem Kept.of_snd {β : Type} {z t : State} {p : β × State} {b : β} (e : p = (b, t)) (h : Kept z p.2) : Kept z t := by
  subst e; exact h

theorem Kept.of_fst {β : Type} {z t : State} {p : State × β} {b : β} (e : p = (t, b)) (h : Kept z p.1) : Kept z t := by
  subst e; exact h

theorem Kept.of_snd_snd {β γ : Type} {z t : State} {p : β × γ × State} {b : β} {c : γ} (e : p = (b, c, t))
    (h : Kept z p.2.2) : Kept z t := by
  subst e; exact h

theorem Kept.of_snd_snd_snd {β γ δ : Type} {z t : State} {p : β × γ × δ × State} {b : β} {c : γ} {d : δ}
    (e : p = (b, c, d, t)) (h : Kept z p.2.2.2) : Kept z t := by
  subst e; exact h

theorem Kept.of_fst_snd {β γ : Type} {z t : State} {p : β × State × γ} {b : β} {c : γ} (e : p = (b, t, c))
    (h : Kept z p.2.1) : Kept z t := by
  subst e; exact h

/-- A fold that carries a state in its second component. -/
theorem Kept.foldl_snd {α β : Type} {z : State} {f : β × State → α → β × State} {l : List α} {p : β × State}
    (h : Kept z p.2) (k : ∀ p x, Kept z p.2 → Kept z (f p x).2) : Kept z (l.foldl f p).2 := by
  induction l generalizing p with
  | nil => exact h
  | cons x l ih => exact ih (k _ _ h)

/-- A fold that carries a state in its third component. -/
theorem Kept.foldl_snd_snd {α β γ : Type} {z : State} {f : β × γ × State → α → β × γ × State} {l : List α}
    {p : β × γ × State} (h : Kept z p.2.2) (k : ∀ p x, Kept z p.2.2 → Kept z (f p x).2.2) :
    Kept z (l.foldl f p).2.2 := by
  induction l generalizing p with
  | nil => exact h
  | cons x l ih => exact ih (k _ _ h)

/-- A fold that carries a state in its first component. -/
theorem Kept.foldl_fst {α β : Type} {z : State} {f : State × β → α → State × β} {l : List α} {p : State × β}
    (h : Kept z p.1) (k : ∀ p x, Kept z p.1 → Kept z (f p x).1) : Kept z (l.foldl f p).1 := by
  induction l generalizing p with
  | nil => exact h
  | cons x l ih => exact ih (k _ _ h)

theorem Kept.snd_snd_snd_mk {β γ δ : Type} {z : State} {b : β} {p : γ × δ × State} (h : Kept z p.2.2) :
    Kept z (b, p).2.2.2 := h

/-- A fold that carries a state in its fourth component. -/
theorem Kept.foldl_snd_snd_snd {α β γ δ : Type} {z : State} {f : β × γ × δ × State → α → β × γ × δ × State} {l : List α}
    {p : β × γ × δ × State} (h : Kept z p.2.2.2) (k : ∀ p x, Kept z p.2.2.2 → Kept z (f p x).2.2.2) :
    Kept z (l.foldl f p).2.2.2 := by
  induction l generalizing p with
  | nil => exact h
  | cons x l ih => exact ih (k _ _ h)

/-- Memory is canonical when each store is. -/
theorem memory_wf_of {m n : MemSt} (h : Memory.wf m = true)
    (a : mapWf zeroAt m.dram = true → mapWf zeroAt n.dram = true)
    (b : mapWf zeroAt m.scratch = true → mapWf zeroAt n.scratch = true)
    (c : mapWf offAt m.dramPoison = true → mapWf offAt n.dramPoison = true)
    (d : mapWf offAt m.scratchPoison = true → mapWf offAt n.scratchPoison = true) : Memory.wf n = true := by
  rw [memory_wf_iff] at *
  exact ⟨a h.1, b h.2.1, c h.2.2.1, d h.2.2.2⟩

/-- A command's outcome keeps: its next state, where it has one. -/
def KeptOut (z : State) (o : Out) : Prop := ∀ t, o = .next t → Kept z t

theorem KeptOut.next {z t : State} (h : Kept z t) : KeptOut z (.next t) := fun _ e => by cases e; exact h

theorem KeptOut.refused {z : State} (r : Refusal) : KeptOut z (.refused r) := fun _ e => by cases e

theorem KeptOut.fault {z : State} (f : Fault) : KeptOut z (.fault f) := fun _ e => by cases e

theorem KeptOut.ite {z : State} {c : Prop} [Decidable c] {a b : Out} (h : KeptOut z a) (k : KeptOut z b) :
    KeptOut z (if c then a else b) := by
  split <;> assumption

/-- A pair named by a let, whose state keeps. -/
theorem Kept.bind_snd {β : Type} {z : State} {v : β × State} {f : β × State → State} (h : Kept z v.2)
    (k : ∀ x : β × State, Kept z x.2 → Kept z (f x)) : Kept z (let x := v; f x) := k v h

theorem Kept.bind_snd_snd {β γ : Type} {z : State} {v : β × State} {f : β × State → γ × State} (h : Kept z v.2)
    (k : ∀ x : β × State, Kept z x.2 → Kept z (f x).2) : Kept z (let x := v; f x).2 := k v h

/-- Replace a definition by an equal function, once, outside every argument. -/
theorem unfoldTo {α : Type} {P : α → Prop} {f g : α} (e : f = g) (h : P g) : P f := e ▸ h

/-- An optional state keeps: the state, where there is one. -/
def KeptOpt (z : State) (o : Option State) : Prop := ∀ t, o = some t → Kept z t

theorem KeptOpt.some {z t : State} (h : Kept z t) : KeptOpt z (.some t) := fun _ e => by cases e; exact h

theorem KeptOpt.none {z : State} : KeptOpt z .none := fun _ e => by cases e

theorem KeptOpt.ite {z : State} {c : Prop} [Decidable c] {a b : Option State} (h : KeptOpt z a) (k : KeptOpt z b) :
    KeptOpt z (if c then a else b) := by
  split <;> assumption

end Sys2Proof.Machine
end

