-- ==== Sys2Proof/Laws/Ops.lean ====
section
/-!
SUPPORT. What each operation of Machine/Ops.lean keeps (`Kept`): the chip, the queue, the Turn and the canonical stores.
-/
namespace Sys2Proof.Machine

theorem regSet_kept (s : State) (off v : Nat) {z : State} (h : Kept z s) : Kept z (regSet s off v) :=
  ⟨h.chip, h.pending, h.mem, fun x => mapSet_wf _ _ _ (h.regs x), h.turn, h.latch, h.shape⟩

theorem regOr_kept (s : State) (off m : Nat) {z : State} (hK : Kept z s) :
    Kept z (regOr s off m) := by
  unfold regOr
  with_reducible apply regSet_kept
  exact hK

theorem regClr_kept (s : State) (off m : Nat) {z : State} (hK : Kept z s) :
    Kept z (regClr s off m) := by
  unfold regClr
  with_reducible apply regSet_kept
  exact hK

theorem bumpBy_kept (s : State) (off n : Nat) {z : State} (hK : Kept z s) :
    Kept z (bumpBy s off n) := by
  unfold bumpBy
  with_reducible apply regSet_kept
  exact hK

theorem bump_kept (s : State) (off : Nat) {z : State} (hK : Kept z s) :
    Kept z (bump s off) := by
  unfold bump
  with_reducible apply bumpBy_kept
  exact hK

theorem clearCounters_kept (fu : Nat) (s : State) (base w : Nat) {z : State} (hK : Kept z s) :
    Kept z (clearCounters s base w fu) := by
  induction fu with
  | zero => exact hK
  | succ fu ih =>
    unfold clearCounters
    extract_lets +onlyGivenNames x1
    have k2 : Kept z x1 := by
      subst x1
      exact ih
    clear_value x1
    refine Kept.ite ?_ ?_
    · with_reducible apply regSet_kept
      exact k2
    · exact k2

theorem drawFree_kept (s : State) {z : State} (hK : Kept z s) :
    Kept z (drawFree s).2 := by
  unfold drawFree
  refine Kept.snd ?_
  refine Kept.upd ?_ ..
  exact hK

theorem drawBytes_kept (s : State) (n : Nat) {z : State} (hK : Kept z s) :
    Kept z (drawBytes s n).2 := by
  unfold drawBytes
  refine Kept.snd ?_
  refine Kept.upd ?_ ..
  exact hK

theorem irqSet_kept (s : State) (b : Nat) {z : State} (hK : Kept z s) :
    Kept z (irqSet s b) := by
  unfold irqSet
  with_reducible apply regOr_kept
  exact hK

theorem scrWrite_kept (s : State) (o : Nat) (bs : List Byte) {z : State} (h : Kept z s) : Kept z (scrWrite s o bs) := by
  unfold scrWrite
  split
  · exact h
  · refine ⟨h.chip, h.pending, fun x => ?_, h.regs, h.turn, h.latch, h.shape⟩
    have := h.mem x
    simp only [Memory.wf, Bool.and_eq_true] at this ⊢
    exact ⟨⟨⟨this.1.1.1, mapWrite_wf _ _ _ this.1.1.2⟩, this.1.2⟩, this.2⟩

theorem gradedMod_kept (s : State) (u : Nat) (f : Graded → Graded) {z : State} (hK : Kept z s) :
    Kept z (gradedMod s u f) := by
  unfold gradedMod
  refine Kept.upd ?_ ..
  exact hK

theorem ringAdd_kept (s : State) (e : Ev) {z : State} (hK : Kept z s) :
    Kept z (ringAdd s e) := by
  unfold ringAdd
  extract_lets +onlyGivenNames x1
  clear_value x1
  refine Kept.ite ?_ ?_
  · with_reducible apply bump_kept
    exact hK
  · with_reducible apply regSet_kept
    with_reducible apply scrWrite_kept
    exact hK

theorem recordEv_kept (s : State) (cls u : Nat) (op detail verdict gb ga : Nat) {z : State} (hK : Kept z s) :
    Kept z (recordEv s cls u op detail verdict gb ga) := by
  unfold recordEv
  split
  · rename_i v1 v2 v3 e4
    have k5 : Kept z v3 := by
      refine Kept.of_snd e4 ?_
      with_reducible apply drawFree_kept
      exact hK
    extract_lets +onlyGivenNames x6
    clear_value x6
    extract_lets +onlyGivenNames x7
    have k8 : Kept z x7 := by
      subst x7
      with_reducible apply bump_kept
      exact k5
    clear_value x7
    extract_lets +onlyGivenNames x9
    have k10 : Kept z x9 := by
      subst x9
      with_reducible apply ringAdd_kept
      exact k8
    clear_value x9
    extract_lets +onlyGivenNames x11
    have k12 : Kept z x11 := by
      subst x11
      refine Kept.ite ?_ ?_
      · with_reducible apply irqSet_kept
        exact k10
      · exact k10
    clear_value x11
    refine Kept.upd ?_ ..
    exact k12

theorem event_kept (s : State) (cls u op detail verdict : Nat) {z : State} (hK : Kept z s) :
    Kept z (event s cls u op detail verdict) := by
  unfold event
  extract_lets +onlyGivenNames x1
  clear_value x1
  with_reducible apply recordEv_kept
  exact hK

theorem askGrade_kept (s : State) (u g : Nat) {z : State} (hK : Kept z s) :
    Kept z (askGrade s u g) := by
  unfold askGrade
  extract_lets +onlyGivenNames x1
  clear_value x1
  refine Kept.ite ?_ ?_
  · exact hK
  · refine Kept.upd ?_ ..
    exact hK

theorem gradeMinor_kept (s : State) (u : Nat) {z : State} (hK : Kept z s) :
    Kept z (gradeMinor s u) := by
  unfold gradeMinor
  refine Kept.ite ?_ ?_
  · with_reducible apply askGrade_kept
    exact hK
  · exact hK

theorem gradeMajor_kept (s : State) (u : Nat) (again : Bool) {z : State} (hK : Kept z s) :
    Kept z (gradeMajor s u again) := by
  unfold gradeMajor
  extract_lets +onlyGivenNames x1
  clear_value x1
  refine Kept.ite ?_ ?_
  · with_reducible apply askGrade_kept
    exact hK
  · refine Kept.ite ?_ ?_
    · with_reducible apply askGrade_kept
      exact hK
    · exact hK

theorem gradeBucket_kept (s : State) (u : Nat) {z : State} (hK : Kept z s) :
    Kept z (gradeBucket s u) := by
  unfold gradeBucket
  with_reducible apply askGrade_kept
  exact hK

theorem bucketAdd_kept (s : State) (u op : Nat) {z : State} (hK : Kept z s) :
    Kept z (bucketAdd s u op) := by
  unfold bucketAdd
  extract_lets +onlyGivenNames x1
  clear_value x1
  extract_lets +onlyGivenNames x2
  clear_value x2
  extract_lets +onlyGivenNames x3
  clear_value x3
  refine Kept.ite ?_ ?_
  · extract_lets +onlyGivenNames x4
    have k5 : Kept z x4 := by
      subst x4
      with_reducible apply gradedMod_kept
      exact hK
    clear_value x4
    with_reducible apply gradeBucket_kept
    with_reducible apply event_kept
    exact k5
  · with_reducible apply gradedMod_kept
    exact hK

theorem pprNote_kept (s : State) (l : DramLoc) (ue : Bool) {z : State} (hK : Kept z s) :
    Kept z (pprNote s l ue) := by
  unfold pprNote
  extract_lets +onlyGivenNames x1
  clear_value x1
  extract_lets +onlyGivenNames x2
  clear_value x2
  extract_lets +onlyGivenNames x3
  clear_value x3
  extract_lets +onlyGivenNames x4
  clear_value x4
  extract_lets +onlyGivenNames x5
  clear_value x5
  extract_lets +onlyGivenNames x6
  clear_value x6
  extract_lets +onlyGivenNames x7
  clear_value x7
  extract_lets +onlyGivenNames x8
  refine Kept.updMem ?_ ..
  exact hK

theorem dramDecode_kept (s : State) (l : DramLoc) (b : Nat) {z : State} (hK : Kept z s) :
    Kept z (dramDecode s l b).2 := by
  unfold dramDecode
  extract_lets +onlyGivenNames x1
  clear_value x1
  extract_lets +onlyGivenNames x2
  clear_value x2
  extract_lets +onlyGivenNames x3
  clear_value x3
  extract_lets +onlyGivenNames x4
  clear_value x4
  extract_lets +onlyGivenNames x5
  have k6 : ∀ y0_0, (Kept z y0_0) → Kept z (x5 y0_0).2 := by
    subst x5
    intro v7 k8
    beta_reduce
    refine Kept.snd ?_
    with_reducible apply gradeMajor_kept
    with_reducible apply event_kept
    with_reducible apply pprNote_kept
    with_reducible apply bump_kept
    exact k8
  clear_value x5
  refine Kept.ite_snd ?_ ?_
  · refine Kept.snd ?_
    exact hK
  · refine Kept.ite_snd ?_ ?_
    · split
      · rename_i v9 v10 v11 e12
        have k13 : Kept z v11 := by
          refine Kept.of_snd e12 ?_
          with_reducible apply drawFree_kept
          exact hK
        refine Kept.ite_snd ?_ ?_
        · refine Kept.snd ?_
          exact k13
        · with_reducible apply_assumption
          exact k13
    · split
      · rename_i v14 e15
        with_reducible apply_assumption
        exact hK
      · rename_i v16 v17 e18
        refine Kept.snd ?_
        with_reducible apply pprNote_kept
        with_reducible apply bucketAdd_kept
        exact hK

theorem ctlRead_kept (s : State) (b : Nat) {z : State} (hK : Kept z s) :
    Kept z (ctlRead s b).2 := by
  unfold ctlRead
  split
  · rename_i v1 e2
    refine Kept.snd ?_
    exact hK
  · rename_i v3 v4 e5
    refine Kept.ite_snd ?_ ?_
    · refine Kept.snd ?_
      with_reducible apply bump_kept
      exact hK
    · with_reducible apply dramDecode_kept
      exact hK

theorem flipInto_kept (s : State) (u space b : Nat) {z : State} (hK : Kept z s) :
    Kept z (flipInto s u space b) := by
  unfold flipInto
  extract_lets +onlyGivenNames x1
  clear_value x1
  refine Kept.ite ?_ ?_
  · extract_lets +onlyGivenNames x2
    clear_value x2
    extract_lets +onlyGivenNames x3
    clear_value x3
    extract_lets +onlyGivenNames x4
    clear_value x4
    extract_lets +onlyGivenNames x5
    clear_value x5
    extract_lets +onlyGivenNames x6
    refine Kept.updMem ?_ ..
    exact hK
  · exact hK

theorem dramStore_kept (s : State) (b : Nat) (data : List Byte) (poison : Bool) {z : State} (h : Kept z s) :
    Kept z (dramStore s b data poison) :=
  h.setMem _ (fun x => by
    rw [memory_wf_iff] at *
    exact ⟨mapWrite_wf _ _ _ x.1, x.2.1, mapSet_wf _ _ _ x.2.2.1, x.2.2.2⟩) ..

theorem ctlWrite_kept (s : State) (b : Nat) (data : List Byte) (poison : Bool) {z : State} (hK : Kept z s) :
    Kept z (ctlWrite s b data poison).2 := by
  unfold ctlWrite
  split
  · rename_i v1 e2
    refine Kept.snd ?_
    exact hK
  · rename_i v3 v4 e5
    refine Kept.ite_snd ?_ ?_
    · refine Kept.snd ?_
      with_reducible apply bump_kept
      exact hK
    · refine Kept.snd ?_
      with_reducible apply flipInto_kept
      with_reducible apply dramStore_kept
      exact hK

theorem ctlMerge_kept (s : State) (b : Nat) (data : List Byte) (strb : List Bool) (poison : Bool) {z : State} (hK : Kept z s) :
    Kept z (ctlMerge s b data strb poison).2 := by
  unfold ctlMerge
  split
  · rename_i v1 e2
    refine Kept.snd ?_
    exact hK
  · rename_i v3 v4 e5
    refine Kept.ite_snd ?_ ?_
    · refine Kept.snd ?_
      with_reducible apply bump_kept
      exact hK
    · split
      · rename_i v6 v7 v8 e9
        have k10 : Kept z v8 := by
          refine Kept.of_snd e9 ?_
          with_reducible apply dramDecode_kept
          exact hK
        extract_lets +onlyGivenNames x11
        have k12 : Kept z x11 := by
          subst x11
          with_reducible apply bump_kept
          exact k10
        clear_value x11
        refine Kept.snd ?_
        with_reducible apply flipInto_kept
        with_reducible apply dramStore_kept
        exact k12

theorem lineSetAt_kept (s : State) (w set : Nat) (l : Option Line) {z : State} (hK : Kept z s) :
    Kept z (lineSetAt s w set l) := by
  unfold lineSetAt
  refine Kept.upd ?_ ..
  exact hK

theorem sectorBack_kept (s : State) (set : Nat) (l : Line) (k : Nat) {z : State} (hK : Kept z s) :
    Kept z (sectorBack s set l k).2 := by
  unfold sectorBack
  refine Kept.ite_snd ?_ ?_
  · extract_lets +onlyGivenNames x1
    clear_value x1
    refine Kept.snd ?_
    with_reducible apply ctlWrite_kept
    exact hK
  · refine Kept.snd ?_
    exact hK

theorem lineBack_kept (s : State) (set : Nat) (l : Line) {z : State} (hK : Kept z s) :
    Kept z (lineBack s set l).2 := by
  unfold lineBack
  refine Kept.foldl_snd ?_ ?_
  · refine Kept.snd ?_
    exact hK
  · intro v1 v2 k3
    split
    · rename_i v4 v5 v6 e7
      have k8 : Kept z v6 := by
        refine Kept.of_snd e7 ?_
        with_reducible apply sectorBack_kept
        exact k3
      refine Kept.snd ?_
      exact k8

theorem allocLine_kept (s : State) (b : Nat) {z : State} (hK : Kept z s) :
    Kept z (allocLine s b).2 := by
  unfold allocLine
  split
  · rename_i v1 v2 e3
    refine Kept.snd ?_
    exact hK
  · rename_i v4 e5
    split
    · rename_i v6 e7
      refine Kept.snd ?_
      exact hK
    · rename_i v8 e9
      split
      · rename_i v10 v11 v12 e13
        have k14 : Kept z v12 := by
          refine Kept.of_snd e13 ?_
          with_reducible apply drawFree_kept
          exact hK
        extract_lets +onlyGivenNames x15
        clear_value x15
        extract_lets +onlyGivenNames x16
        clear_value x16
        extract_lets +onlyGivenNames x17
        have k18 : Kept z x17 := by
          subst x17
          split
          · rename_i v19 v20 e21
            with_reducible apply lineBack_kept
            exact k14
          · rename_i v22 e23
            with_reducible apply_assumption
        clear_value x17
        extract_lets +onlyGivenNames x24
        clear_value x24
        refine Kept.snd ?_
        with_reducible apply lineSetAt_kept
        exact k18

theorem hopDecode_kept (s : State) (u space b op : Nat) {z : State} (hK : Kept z s) :
    Kept z (hopDecode s u space b op).2 := by
  unfold hopDecode
  extract_lets +onlyGivenNames x1
  clear_value x1
  refine Kept.ite_snd ?_ ?_
  · refine Kept.snd ?_
    exact hK
  · refine Kept.foldl_snd ?_ ?_
    · refine Kept.snd ?_
      exact hK
    · intro v2 v3 k4
      extract_lets +onlyGivenNames x5
      clear_value x5
      extract_lets +onlyGivenNames x6
      have k7 : Kept z x6 := by
        subst x6
        exact k4
      clear_value x6
      refine Kept.ite_snd ?_ ?_
      · exact k4
      · refine Kept.ite_snd ?_ ?_
        · refine Kept.snd ?_
          with_reducible apply bucketAdd_kept
          refine Kept.ite ?_ ?_
          · with_reducible apply bump_kept
            exact k7
          · exact k7
        · split
          · rename_i v8 v9 v10 e11
            have k12 : Kept z v10 := by
              refine Kept.of_snd e11 ?_
              refine Kept.ite_snd ?_ ?_
              · refine Kept.snd ?_
                exact k7
              · split
                · rename_i v13 v14 v15 e16
                  have k17 : Kept z v15 := by
                    refine Kept.of_snd e16 ?_
                    with_reducible apply drawFree_kept
                    exact k7
                  refine Kept.snd ?_
                  exact k17
            refine Kept.ite_snd ?_ ?_
            · refine Kept.snd ?_
              with_reducible apply bucketAdd_kept
              refine Kept.ite ?_ ?_
              · with_reducible apply bump_kept
                exact k12
              · exact k12
            · extract_lets +onlyGivenNames x18
              have k19 : Kept z x18 := by
                subst x18
                refine Kept.ite ?_ ?_
                · with_reducible apply bump_kept
                  exact k12
                · exact k12
              clear_value x18
              extract_lets +onlyGivenNames x20
              have k21 : Kept z x20 := by
                subst x20
                refine Kept.ite ?_ ?_
                · with_reducible apply bump_kept
                  exact k19
                · exact k19
              clear_value x20
              refine Kept.snd ?_
              with_reducible apply gradeMajor_kept
              with_reducible apply event_kept
              exact k21

theorem sectorMark_kept (s : State) (w : Nat) (b : Nat) (l : Line) (dirty poison : Bool) {z : State} (hK : Kept z s) :
    Kept z (sectorMark s w b l dirty poison) := by
  unfold sectorMark
  extract_lets +onlyGivenNames x1
  clear_value x1
  extract_lets +onlyGivenNames x2
  clear_value x2
  with_reducible apply lineSetAt_kept
  exact hK

theorem dramRead_kept (s : State) (b cls : Nat) (narrow : Bool) {z : State} (hK : Kept z s) :
    Kept z (dramRead s b cls narrow).2 := by
  unfold dramRead
  split
  · rename_i v1 v2 v3 e4
    refine Kept.ite_snd ?_ ?_
    · split
      · rename_i v5 v6 v7 e8
        have k9 : Kept z v7 := by
          refine Kept.of_snd e8 ?_
          with_reducible apply hopDecode_kept
          exact hK
        refine Kept.snd ?_
        refine Kept.ite ?_ ?_
        · with_reducible apply sectorMark_kept
          exact k9
        · exact k9
    · split
      · rename_i v10 v11 v12 e13
        have k14 : Kept z v12 := by
          refine Kept.of_snd e13 ?_
          with_reducible apply ctlRead_kept
          exact hK
        refine Kept.ite_snd ?_ ?_
        · refine Kept.snd ?_
          exact k14
        · refine Kept.snd ?_
          with_reducible apply sectorMark_kept
          exact k14
  · rename_i v15 e16
    split
    · rename_i v17 v18 v19 e20
      have k21 : Kept z v19 := by
        refine Kept.of_snd e20 ?_
        with_reducible apply ctlRead_kept
        exact hK
      refine Kept.ite_snd ?_ ?_
      · refine Kept.snd ?_
        exact k21
      · split
        · rename_i v22 v23 v24 v25 e26
          have k27 : Kept z v25 := by
            refine Kept.of_snd e26 ?_
            with_reducible apply allocLine_kept
            exact k21
          refine Kept.snd ?_
          with_reducible apply sectorMark_kept
          exact k27
        · rename_i v28 v29 e30
          have k31 : Kept z v29 := by
            refine Kept.of_snd e30 ?_
            with_reducible apply allocLine_kept
            exact k21
          refine Kept.snd ?_
          exact k31

theorem cacheStore_kept (s : State) (b w : Nat) (data : List Byte) {z : State} (h : Kept z s) :
    Kept z (cacheStore s b w data) :=
  h.setMem _ (fun x => by
    rw [memory_wf_iff] at *
    exact ⟨mapWrite_wf _ _ _ x.1, x.2.1, x.2.2.1, x.2.2.2⟩) ..

theorem dramWrite_kept (s : State) (b : Nat) (data : List Byte) (strb : List Bool) (poison : Bool) (cls : Nat) (narrow : Bool) {z : State} (hK : Kept z s) :
    Kept z (dramWrite s b data strb poison cls narrow).2 := by
  unfold dramWrite
  extract_lets +onlyGivenNames x1
  clear_value x1
  split
  · rename_i v2 e3
    refine Kept.snd ?_
    exact hK
  · rename_i v4 v5 e6
    extract_lets +onlyGivenNames x7
    clear_value x7
    split
    · rename_i v8 v9 v10
      extract_lets +onlyGivenNames x11
      clear_value x11
      extract_lets +onlyGivenNames x12
      clear_value x12
      extract_lets +onlyGivenNames x13
      have k14 : Kept z x13 := by
        subst x13
        with_reducible apply cacheStore_kept
        exact hK
      clear_value x13
      extract_lets +onlyGivenNames x15
      have k16 : Kept z x15 := by
        subst x15
        refine Kept.ite ?_ ?_
        · with_reducible apply flipInto_kept
          exact k14
        · exact k14
      clear_value x15
      refine Kept.snd ?_
      with_reducible apply sectorMark_kept
      exact k16
    · rename_i v17
      refine Kept.ite_snd ?_ ?_
      · refine Kept.ite_snd ?_ ?_
        · with_reducible apply ctlWrite_kept
          exact hK
        · with_reducible apply ctlMerge_kept
          exact hK
      · split
        · rename_i v18 v19 v20 e21
          have k22 : Kept z v20 := by
            refine Kept.of_snd e21 ?_
            refine Kept.ite_snd ?_ ?_
            · refine Kept.snd ?_
              exact hK
            · with_reducible apply ctlRead_kept
              exact hK
          extract_lets +onlyGivenNames x23
          clear_value x23
          split
          · rename_i v24 v25 v26 v27 e28
            have k29 : Kept z v27 := by
              refine Kept.of_snd e28 ?_
              with_reducible apply allocLine_kept
              exact k22
            extract_lets +onlyGivenNames x30
            have k31 : Kept z x30 := by
              subst x30
              with_reducible apply cacheStore_kept
              exact k29
            clear_value x30
            extract_lets +onlyGivenNames x32
            have k33 : Kept z x32 := by
              subst x32
              refine Kept.ite ?_ ?_
              · with_reducible apply flipInto_kept
                exact k31
              · exact k31
            clear_value x32
            refine Kept.snd ?_
            with_reducible apply sectorMark_kept
            exact k33
          · rename_i v34 v35 e36
            have k37 : Kept z v35 := by
              refine Kept.of_snd e36 ?_
              with_reducible apply allocLine_kept
              exact k22
            refine Kept.ite_snd ?_ ?_
            · with_reducible apply ctlWrite_kept
              exact k37
            · with_reducible apply ctlMerge_kept
              exact k37

theorem scratchRead_kept (s : State) (b : Nat) {z : State} (hK : Kept z s) :
    Kept z (scratchRead s b).2 := by
  unfold scratchRead
  extract_lets +onlyGivenNames x1
  clear_value x1
  split
  · rename_i v2 v3 v4 e5
    have k6 : Kept z v4 := by
      refine Kept.of_snd e5 ?_
      with_reducible apply hopDecode_kept
      exact hK
    extract_lets +onlyGivenNames x7
    extract_lets +onlyGivenNames x8
    have k9 : Kept z x8 := by
      subst x8
      refine Kept.ite ?_ ?_
      · refine Kept.setMem ?_ _ (fun w => ?_) ..
        · exact k6
        · rw [memory_wf_iff] at w ⊢
          exact ⟨w.1, w.2.1, w.2.2.1, mapSet_wf _ _ _ w.2.2.2⟩
      · exact k6
    clear_value x8
    refine Kept.snd ?_
    exact k9

theorem scratchWrite_kept (s : State) (b : Nat) (data : List Byte) (strb : List Bool) (poison : Bool) {z : State} (hK : Kept z s) :
    Kept z (scratchWrite s b data strb poison) := by
  unfold scratchWrite
  extract_lets +onlyGivenNames x1
  clear_value x1
  extract_lets +onlyGivenNames x2
  clear_value x2
  extract_lets +onlyGivenNames x3
  clear_value x3
  extract_lets +onlyGivenNames x4
  extract_lets +onlyGivenNames x5
  have k6 : Kept z x5 := by
    subst x5
    refine Kept.setMem ?_ _ (fun w => ?_) ..
    · exact hK
    · rw [memory_wf_iff] at w ⊢
      exact ⟨w.1, mapWrite_wf _ _ _ w.2.1, w.2.2.1, mapSet_wf _ _ _ w.2.2.2⟩
  clear_value x5
  refine Kept.ite ?_ ?_
  · with_reducible apply flipInto_kept
    exact k6
  · exact k6

theorem burstRead_kept (s : State) (space off cls : Nat) (narrow : Bool) {z : State} (hK : Kept z s) :
    Kept z (burstRead s space off cls narrow).2 := by
  unfold burstRead
  refine Kept.ite_snd ?_ ?_
  · with_reducible apply dramRead_kept
    exact hK
  · with_reducible apply scratchRead_kept
    exact hK

theorem burstWrite_kept (s : State) (space off : Nat) (data : List Byte) (strb : List Bool) (poison : Bool) (cls : Nat) (narrow : Bool) {z : State} (hK : Kept z s) :
    Kept z (burstWrite s space off data strb poison cls narrow).2 := by
  unfold burstWrite
  refine Kept.ite_snd ?_ ?_
  · with_reducible apply dramWrite_kept
    exact hK
  · refine Kept.snd ?_
    with_reducible apply scratchWrite_kept
    exact hK

theorem rangeRead_kept (s : State) (space off n cls : Nat) (narrow : Bool) {z : State} (hK : Kept z s) :
    Kept z (rangeRead s space off n cls narrow).2 := by
  unfold rangeRead
  split
  · rename_i v1 v2 v3 v4 v5 e6
    have k7 : Kept z v5 := by
      refine Kept.of_snd_snd_snd e6 ?_
      refine Kept.foldl_snd_snd_snd ?_ ?_
      · refine Kept.snd_snd_snd_mk ?_
        refine Kept.snd_snd_mk ?_
        refine Kept.snd ?_
        exact hK
      · intro v8 v9 k10
        split
        · rename_i v11 v12 v13 v14 v15
          split
          · rename_i v16 v17 v18 v19
            split
            · rename_i e20
              refine Kept.snd_snd_snd_mk ?_
              refine Kept.snd_snd_mk ?_
              refine Kept.snd ?_
              with_reducible apply_assumption
            · rename_i e21
              split
              · rename_i v22 v23 v24 e25
                have k26 : Kept z v24 := by
                  refine Kept.of_snd e25 ?_
                  with_reducible apply burstRead_kept
                  with_reducible apply_assumption
                refine Kept.snd_snd_snd_mk ?_
                refine Kept.snd_snd_mk ?_
                refine Kept.snd ?_
                exact k26
    refine Kept.snd ?_
    exact k7

theorem rangeWrite_kept (s : State) (space off : Nat) (data : List Byte) (poison : List Bool) (cls : Nat) (narrow : Bool) {z : State} (hK : Kept z s) :
    Kept z (rangeWrite s space off data poison cls narrow).2.2 := by
  unfold rangeWrite
  refine Kept.foldl_snd_snd ?_ ?_
  · refine Kept.snd_snd_mk ?_
    refine Kept.snd ?_
    exact hK
  · intro v1 v2 k3
    split
    · rename_i v4 v5 v6
      split
      · rename_i v7 v8 v9 v10
        split
        · rename_i v11 v12 v13 v14
          refine Kept.ite_snd_snd ?_ ?_
          · exact k3
          · refine Kept.ite_snd_snd ?_ ?_
            · refine Kept.snd_snd_mk ?_
              refine Kept.snd ?_
              with_reducible apply_assumption
            · extract_lets +onlyGivenNames x15
              clear_value x15
              split
              · rename_i v16 v17 v18 e19
                have k20 : Kept z v18 := by
                  refine Kept.of_snd e19 ?_
                  with_reducible apply burstWrite_kept
                  with_reducible apply_assumption
                refine Kept.snd_snd_mk ?_
                refine Kept.snd ?_
                exact k20

end Sys2Proof.Machine
end

