-- ==== Sys2Proof/Laws/Atomic.lean ====
section
/-!
SUPPORT. What each operation of Machine/Atomic.lean keeps (`Kept`): the chip, the queue, the Turn and the canonical stores.
-/
namespace Sys2Proof.Machine

theorem atomicAt_kept (s : State) (off size op x cmp : Nat) {z : State} (hK : Kept z s) :
    Kept z (atomicAt s off size op x cmp).2.2 := by
  unfold atomicAt
  split
  · rename_i v1 v2 v3 e4
    have k5 : Kept z v3 := by
      refine Kept.of_snd e4 ?_
      with_reducible apply scratchRead_kept
      exact hK
    extract_lets +onlyGivenNames x6
    clear_value x6
    refine Kept.ite_snd_snd ?_ ?_
    · refine Kept.snd_snd_mk ?_
      refine Kept.snd ?_
      exact k5
    · extract_lets +onlyGivenNames x7
      clear_value x7
      refine Kept.snd_snd_mk ?_
      refine Kept.snd ?_
      with_reducible apply scratchWrite_kept
      exact k5

end Sys2Proof.Machine
end

