-- ==== Sys2Proof/Laws/Genle.lean ====
section
/-!
SUPPORT. What each operation of Machine/Genle.lean keeps (`Kept`): the chip, the queue, the Turn and the canonical stores.
-/
namespace Sys2Proof.Machine

theorem markWith_kept (s : State) (reason : Nat) (ovf flt : Bool) {z : State} (hK : Kept z s) :
    Kept z (markWith s reason ovf flt) := by
  unfold markWith
  refine Kept.ite ?_ ?_
  · refine Kept.upd ?_ ..
    exact hK
  · exact hK

theorem markOverflow_kept (s : State) {z : State} (hK : Kept z s) :
    Kept z (markOverflow s) := by
  unfold markOverflow
  with_reducible apply markWith_kept
  exact hK

theorem markFault_kept (s : State) {z : State} (hK : Kept z s) :
    Kept z (markFault s) := by
  unfold markFault
  with_reducible apply markWith_kept
  exact hK

theorem linkMod_kept (s : State) (l : Nat) (f : Link → Link) {z : State} (hK : Kept z s) :
    Kept z (linkMod s l f) := by
  unfold linkMod
  refine Kept.updUnits ?_ _ _ _ _ (by simp [modAt, shapeOf]) ..
  exact hK

theorem pump_kept (s : State) (l : Nat) {z : State} (hK : Kept z s) :
    Kept z (pump s l) := by
  unfold pump
  with_reducible apply linkMod_kept
  exact hK

theorem queueOn_kept (s : State) (links : List Nat) (mc : Bool) (dest hops : Nat) (m : Msg) (slots : Option (Nat × Nat × Bool × Nat)) {z : State} (hK : Kept z s) :
    Kept z (queueOn s links mc dest hops m slots) := by
  unfold queueOn
  extract_lets +onlyGivenNames x1
  clear_value x1
  extract_lets +onlyGivenNames x2
  clear_value x2
  extract_lets +onlyGivenNames x3
  extract_lets +onlyGivenNames x4
  have k5 : Kept z x4 := by
    subst x4
    refine Kept.updGl ?_ ..
    exact hK
  clear_value x4
  refine Kept.foldl ?_ ?_
  · exact k5
  · intro v6 v7 k8
    extract_lets +onlyGivenNames x9
    clear_value x9
    with_reducible apply pump_kept
    with_reducible apply linkMod_kept
    exact k8

theorem freeSlots_kept (s : State) (slots : Option (Nat × Nat × Bool × Nat)) {z : State} (hK : Kept z s) :
    Kept z (freeSlots s slots) := by
  unfold freeSlots
  split
  · rename_i v1 v2 v3 v4 v5
    with_reducible apply linkMod_kept
    exact hK
  · rename_i v6
    exact hK

theorem failRemote_kept (s : State) (tag : Nat) {z : State} (hK : Kept z s) :
    Kept z (failRemote s tag) := by
  unfold failRemote
  refine Kept.ite ?_ ?_
  · refine Kept.updGl ?_ ..
    exact hK
  · exact hK

theorem writeOff_kept (s : State) (m : Msg) {z : State} (hK : Kept z s) :
    Kept z (writeOff s m) := by
  unfold writeOff
  extract_lets +onlyGivenNames x1
  clear_value x1
  refine Kept.ite ?_ ?_
  · with_reducible apply markFault_kept
    exact hK
  · refine Kept.ite ?_ ?_
    · refine Kept.ite ?_ ?_
      · refine Kept.updGl ?_ ..
        exact hK
      · split
        · rename_i v2 v3 e4
          with_reducible apply queueOn_kept
          exact hK
        · rename_i v5 e6
          with_reducible apply markFault_kept
          with_reducible apply bump_kept
          exact hK
    · refine Kept.ite ?_ ?_
      · with_reducible apply failRemote_kept
        with_reducible apply bump_kept
        exact hK
      · exact hK

theorem sendTo_kept (s : State) (dest : Nat) (m : Msg) {z : State} (hK : Kept z s) :
    Kept z (sendTo s dest m) := by
  unfold sendTo
  refine Kept.ite ?_ ?_
  · refine Kept.updGl ?_ ..
    exact hK
  · refine Kept.ite ?_ ?_
    · exact hK
    · split
      · rename_i v1 v2 e3
        with_reducible apply queueOn_kept
        exact hK
      · rename_i v4 e5
        with_reducible apply writeOff_kept
        with_reducible apply bump_kept
        exact hK

theorem multicast_kept (s : State) (g : Nat) (m : Msg) {z : State} (hK : Kept z s) :
    Kept z (multicast s g m) := by
  unfold multicast
  split
  · rename_i v1 v2 v3 e4
    extract_lets +onlyGivenNames x5
    extract_lets +onlyGivenNames x6
    have k7 : Kept z x6 := by
      subst x6
      refine Kept.ite ?_ ?_
      · refine Kept.updGl ?_ ..
        exact hK
      · exact hK
    clear_value x6
    extract_lets +onlyGivenNames x8
    clear_value x8
    extract_lets +onlyGivenNames x9
    have k10 : Kept z x9 := by
      subst x9
      refine Kept.foldl ?_ ?_
      · exact k7
      · intro v11 v12 k13
        with_reducible apply writeOff_kept
        with_reducible apply bump_kept
        exact k13
    clear_value x9
    extract_lets +onlyGivenNames x14
    have k15 : Kept z x14 := by
      subst x14
      refine Kept.ite ?_ ?_
      · exact k10
      · with_reducible apply queueOn_kept
        exact k10
    clear_value x14
    refine Kept.ite ?_ ?_
    · exact k15
    · extract_lets +onlyGivenNames x16
      clear_value x16
      refine Kept.updGl ?_ ..
      exact k15

theorem consumeMsg_kept (s : State) (m : Msg) {z : State} (hK : Kept z s) :
    Kept z (consumeMsg s m) := by
  unfold consumeMsg
  split
  · rename_i v1 v2 e3
    extract_lets +onlyGivenNames x4
    clear_value x4
    extract_lets +onlyGivenNames x5
    extract_lets +onlyGivenNames x6
    have k7 : Kept z x6 := by
      subst x6
      refine Kept.updGl ?_ ..
      exact hK
    clear_value x6
    refine Kept.ite ?_ ?_
    · refine Kept.updGl ?_ ..
      exact k7
    · with_reducible apply freeSlots_kept
      exact k7
  · rename_i v8 e9
    refine Kept.updGl ?_ ..
    exact hK

theorem ackUpTo_kept (s : State) (l ack : Nat) {z : State} (hK : Kept z s) :
    Kept z (ackUpTo s l ack) := by
  unfold ackUpTo
  extract_lets +onlyGivenNames x1
  clear_value x1
  extract_lets +onlyGivenNames x2
  clear_value x2
  refine Kept.ite ?_ ?_
  · exact hK
  · extract_lets +onlyGivenNames x3
    clear_value x3
    extract_lets +onlyGivenNames x4
    have k5 : Kept z x4 := by
      subst x4
      with_reducible apply linkMod_kept
      exact hK
    clear_value x4
    extract_lets +onlyGivenNames x6
    extract_lets +onlyGivenNames x7
    have k8 : Kept z x7 := by
      subst x7
      refine Kept.updGl ?_ ..
      exact k5
    clear_value x7
    extract_lets +onlyGivenNames x9
    clear_value x9
    extract_lets +onlyGivenNames x10
    extract_lets +onlyGivenNames x11
    have k12 : Kept z x11 := by
      subst x11
      refine Kept.updGl ?_ ..
      exact k8
    clear_value x11
    refine Kept.foldl ?_ ?_
    · exact k12
    · intro v13 v14 k15
      with_reducible apply freeSlots_kept
      exact k15

theorem creditBack_kept (s : State) (l : Nat) (h : FlitHdr) {z : State} (hK : Kept z s) :
    Kept z (creditBack s l h) := by
  unfold creditBack
  refine Kept.ite ?_ ?_
  · exact hK
  · with_reducible apply linkMod_kept
    exact hK

theorem flitFields_kept (s : State) (l : Nat) (h : FlitHdr) {z : State} (hK : Kept z s) :
    Kept z (flitFields s l h) := by
  unfold flitFields
  with_reducible apply pump_kept
  with_reducible apply creditBack_kept
  with_reducible apply ackUpTo_kept
  exact hK

theorem resendAll_kept (s : State) (l : Nat) {z : State} (hK : Kept z s) :
    Kept z (resendAll s l) := by
  unfold resendAll
  extract_lets +onlyGivenNames x1
  clear_value x1
  refine Kept.ite ?_ ?_
  · exact hK
  · extract_lets +onlyGivenNames x2
    have k3 : Kept z x2 := by
      subst x2
      with_reducible apply regSet_kept
      exact hK
    clear_value x2
    extract_lets +onlyGivenNames x4
    clear_value x4
    extract_lets +onlyGivenNames x5
    clear_value x5
    extract_lets +onlyGivenNames x6
    clear_value x6
    refine Kept.ite ?_ ?_
    · refine Kept.ite ?_ ?_
      · with_reducible apply linkMod_kept
        exact k3
      · with_reducible apply linkMod_kept
        exact k3
    · with_reducible apply linkMod_kept
      exact k3

theorem arriveWhole_kept (s : State) (l : Nat) (p : RxPart) {z : State} (hK : Kept z s) :
    Kept z (arriveWhole s l p) := by
  unfold arriveWhole
  extract_lets +onlyGivenNames x1
  clear_value x1
  extract_lets +onlyGivenNames x2
  clear_value x2
  refine Kept.ite ?_ ?_
  · with_reducible apply freeSlots_kept
    exact hK
  · refine Kept.ite ?_ ?_
    · with_reducible apply bump_kept
      with_reducible apply freeSlots_kept
      exact hK
    · refine Kept.ite ?_ ?_
      · refine Kept.updGl ?_ ..
        exact hK
      · refine Kept.ite ?_ ?_
        · split
          · rename_i v3 v4 v5 e6
            extract_lets +onlyGivenNames x7
            clear_value x7
            extract_lets +onlyGivenNames x8
            have k9 : Kept z x8 := by
              subst x8
              refine Kept.foldl ?_ ?_
              · exact hK
              · intro v10 v11 k12
                with_reducible apply writeOff_kept
                with_reducible apply bump_kept
                exact k12
            clear_value x8
            extract_lets +onlyGivenNames x13
            clear_value x13
            extract_lets +onlyGivenNames x14
            have k15 : Kept z x14 := by
              subst x14
              refine Kept.ite ?_ ?_
              · exact k9
              · with_reducible apply queueOn_kept
                exact k9
            clear_value x14
            refine Kept.ite ?_ ?_
            · refine Kept.updGl ?_ ..
              exact k15
            · refine Kept.ite ?_ ?_
              · with_reducible apply freeSlots_kept
                exact k15
              · exact k15
        · refine Kept.ite ?_ ?_
          · refine Kept.updGl ?_ ..
            exact hK
          · refine Kept.ite ?_ ?_
            · with_reducible apply writeOff_kept
              with_reducible apply bump_kept
              with_reducible apply freeSlots_kept
              exact hK
            · split
              · rename_i v16 v17 e18
                with_reducible apply queueOn_kept
                exact hK
              · rename_i v19 e20
                with_reducible apply writeOff_kept
                with_reducible apply bump_kept
                with_reducible apply freeSlots_kept
                exact hK

theorem acceptFlit_kept (s : State) (l : Nat) (h : FlitHdr) (payload : List Byte) {z : State} (hK : Kept z s) :
    Kept z (acceptFlit s l h payload) := by
  unfold acceptFlit
  extract_lets +onlyGivenNames x1
  clear_value x1
  extract_lets +onlyGivenNames x2
  have k3 : Kept z x2 := by
    subst x2
    with_reducible apply linkMod_kept
    exact hK
  clear_value x2
  extract_lets +onlyGivenNames x4
  clear_value x4
  extract_lets +onlyGivenNames x5
  clear_value x5
  extract_lets +onlyGivenNames x6
  clear_value x6
  refine Kept.ite ?_ ?_
  · with_reducible apply arriveWhole_kept
    with_reducible apply linkMod_kept
    exact k3
  · with_reducible apply linkMod_kept
    exact k3

theorem linkDown_kept (s : State) (l reason state : Nat) {z : State} (hK : Kept z s) :
    Kept z (linkDown s l reason state) := by
  unfold linkDown
  extract_lets +onlyGivenNames x1
  clear_value x1
  extract_lets +onlyGivenNames x2
  clear_value x2
  extract_lets +onlyGivenNames x3
  clear_value x3
  extract_lets +onlyGivenNames x4
  clear_value x4
  extract_lets +onlyGivenNames x5
  have k6 : Kept z x5 := by
    subst x5
    with_reducible apply linkMod_kept
    exact hK
  clear_value x5
  extract_lets +onlyGivenNames x7
  have k8 : ∀ y0_0 y0_1, (Kept z y0_0) → Kept z (x7 y0_0 y0_1) := by
    subst x7
    intro v9 v10 k11
    beta_reduce
    extract_lets +onlyGivenNames x12
    clear_value x12
    extract_lets +onlyGivenNames x13
    extract_lets +onlyGivenNames x14
    have k15 : Kept z x14 := by
      subst x14
      refine Kept.updGl ?_ ..
      exact k11
    clear_value x14
    split
    · rename_i v16 v17
      refine Kept.ite ?_ ?_
      · with_reducible apply freeSlots_kept
        exact k15
      · exact k15
    · rename_i v18
      exact k15
  clear_value x7
  extract_lets +onlyGivenNames x19
  have k20 : Kept z x19 := by
    subst x19
    refine Kept.foldl ?_ ?_
    · exact k6
    · intro v21 v22 k23
      with_reducible apply writeOff_kept
      with_reducible apply bump_kept
      with_reducible apply_assumption
      exact k23
  clear_value x19
  refine Kept.foldl ?_ ?_
  · exact k20
  · intro v24 v25 k26
    extract_lets +onlyGivenNames x27
    have k28 : Kept z x27 := by
      subst x27
      with_reducible apply_assumption
      exact k26
    clear_value x27
    refine Kept.ite ?_ ?_
    · with_reducible apply writeOff_kept
      with_reducible apply bump_kept
      exact k28
    · split
      · rename_i v29 v30 e31
        with_reducible apply queueOn_kept
        exact k28
      · rename_i v32 e33
        with_reducible apply writeOff_kept
        with_reducible apply bump_kept
        exact k28

theorem checkReach_kept (s : State) {z : State} (hK : Kept z s) :
    Kept z (checkReach s) := by
  unfold checkReach
  refine Kept.foldl ?_ ?_
  · exact hK
  · intro v1 v2 k3
    split
    · rename_i v4 v5 v6 e7
      refine Kept.ite ?_ ?_
      · exact k3
      · extract_lets +onlyGivenNames x8
        extract_lets +onlyGivenNames x9
        have k10 : Kept z x9 := by
          subst x9
          with_reducible apply bump_kept
          refine Kept.updGl ?_ ..
          exact k3
        clear_value x9
        extract_lets +onlyGivenNames x11
        clear_value x11
        extract_lets +onlyGivenNames x12
        clear_value x12
        extract_lets +onlyGivenNames x13
        clear_value x13
        extract_lets +onlyGivenNames x14
        have k15 : Kept z x14 := by
          subst x14
          refine Kept.ite ?_ ?_
          · with_reducible apply sendTo_kept
            exact k10
          · exact k10
        clear_value x14
        refine Kept.ite ?_ ?_
        · with_reducible apply sendTo_kept
          exact k15
        · exact k15

end Sys2Proof.Machine
end

