-- ==== Sys2Proof/Laws/Tables.lean ====
section
/-!
SUPPORT. What each operation of Machine/Tables.lean keeps (`Kept`): the chip, the queue, the Turn and the canonical stores.
-/
namespace Sys2Proof.Machine

theorem consumePoison_kept (s : State) (q addr : Nat) (again : Bool) {z : State} (hK : Kept z s) :
    Kept z (consumePoison s q addr again) := by
  unfold consumePoison
  extract_lets +onlyGivenNames x1
  clear_value x1
  extract_lets +onlyGivenNames x2
  clear_value x2
  extract_lets +onlyGivenNames x3
  clear_value x3
  extract_lets +onlyGivenNames x4
  have k5 : Kept z x4 := by
    subst x4
    refine Kept.ite ?_ ?_
    · refine Kept.upd ?_ ..
      exact hK
    · exact hK
  clear_value x4
  with_reducible apply markFault_kept
  with_reducible apply event_kept
  exact k5

end Sys2Proof.Machine
end

