-- ==== Sys2Proof/Laws/Sluice.lean ====
section
/-!
SUPPORT. What each operation of Machine/Sluice.lean keeps (`Kept`): the chip, the queue, the Turn and the canonical stores.
-/
namespace Sys2Proof.Machine

theorem walkRead_kept (s : State) (addr ix : Nat) {z : State} (hK : Kept z s) :
    Kept z (walkRead s addr ix).2 := by
  unfold walkRead
  extract_lets +onlyGivenNames x1
  clear_value x1
  refine Kept.ite_snd ?_ ?_
  · refine Kept.snd ?_
    exact hK
  · split
    · rename_i v2 v3 v4 e5
      have k6 : Kept z v4 := by
        refine Kept.of_snd e5 ?_
        with_reducible apply burstRead_kept
        exact hK
      refine Kept.snd ?_
      exact k6

theorem walk_kept (fu : Nat) (s : State) (va : Nat) (write : Bool) (table level : Nat) {z : State} (hK : Kept z s) :
    Kept z (walk s va write fu table level).2 := by
  induction fu generalizing s table level with
  | zero => exact hK
  | succ fu ih =>
    unfold walk
    extract_lets +onlyGivenNames x1
    clear_value x1
    split
    · rename_i v2 v3 v4 e5
      have k6 : Kept z v4 := by
        refine Kept.of_snd e5 ?_
        with_reducible apply walkRead_kept
        exact hK
      split
      · rename_i v7
        refine Kept.snd ?_
        exact k6
      · rename_i v8 v9
        extract_lets +onlyGivenNames x10
        clear_value x10
        extract_lets +onlyGivenNames x11
        clear_value x11
        extract_lets +onlyGivenNames x12
        clear_value x12
        refine Kept.ite_snd ?_ ?_
        · refine Kept.snd ?_
          exact k6
        · refine Kept.ite_snd ?_ ?_
          · refine Kept.snd ?_
            exact k6
          · refine Kept.ite_snd ?_ ?_
            · extract_lets +onlyGivenNames x13
              clear_value x13
              refine Kept.ite_snd ?_ ?_
              · refine Kept.snd ?_
                exact k6
              · refine Kept.ite_snd ?_ ?_
                · refine Kept.snd ?_
                  exact k6
                · refine Kept.snd ?_
                  exact k6
            · extract_lets +onlyGivenNames x14
              clear_value x14
              extract_lets +onlyGivenNames x15
              clear_value x15
              refine Kept.ite_snd ?_ ?_
              · refine Kept.snd ?_
                exact k6
              · with_reducible apply ih
                exact k6

theorem admitted_kept (s : State) (ctx addr : Nat) (write : Bool) {z : State} (hK : Kept z s) :
    Kept z (admitted s ctx addr write).2 := by
  unfold admitted
  extract_lets +onlyGivenNames x1
  clear_value x1
  extract_lets +onlyGivenNames x2
  clear_value x2
  extract_lets +onlyGivenNames x3
  clear_value x3
  split
  · rename_i v4 e5
    refine Kept.snd ?_
    exact hK
  · rename_i v6 v7 v8 e9
    extract_lets +onlyGivenNames x10
    have k11 : Kept z x10 := by
      subst x10
      refine Kept.ite ?_ ?_
      · exact hK
      · with_reducible apply bump_kept
        exact hK
    clear_value x10
    refine Kept.snd ?_
    exact k11

theorem afterWalk_kept (ctx : Nat) (write : Bool) (w : (SlOut × Nat) × State) {z : State} (hK : Kept z w.2) :
    Kept z (afterWalk ctx write w).2 := by
  unfold afterWalk
  split
  · exact hK
  · exact Kept.ite_snd (admitted_kept _ _ _ _ hK) (admitted_kept _ _ _ _ hK)

theorem sluice_kept (s : State) (ctx va : Nat) (write : Bool) {z : State} (hK : Kept z s) :
    Kept z (sluice s ctx va write).2 := by
  unfold sluice
  refine Kept.ite_snd ?_ ?_
  · refine Kept.snd ?_
    exact hK
  · refine Kept.ite_snd ?_ ?_
    · refine Kept.ite_snd ?_ ?_
      · refine Kept.snd ?_
        exact hK
      · refine Kept.snd ?_
        exact hK
    · refine Kept.ite_snd ?_ ?_
      · refine Kept.snd ?_
        exact hK
      · with_reducible apply afterWalk_kept
        with_reducible apply walk_kept
        exact hK

theorem writeFaultRecord_kept (s : State) {z : State} (hK : Kept z s) :
    Kept z (writeFaultRecord s) := by
  unfold writeFaultRecord
  split
  · rename_i v1 e2
    exact hK
  · rename_i v3 v4 v5 e6
    refine Kept.ite ?_ ?_
    · extract_lets +onlyGivenNames x7
      clear_value x7
      extract_lets +onlyGivenNames x8
      have k9 : Kept z x8 := by
        subst x8
        with_reducible apply scrWrite_kept
        exact hK
      clear_value x8
      extract_lets +onlyGivenNames x10
      clear_value x10
      extract_lets +onlyGivenNames x11
      have k12 : Kept z x11 := by
        subst x11
        with_reducible apply scrWrite_kept
        exact k9
      clear_value x11
      with_reducible apply bump_kept
      refine Kept.upd ?_ ..
      exact k12
    · exact hK

theorem raiseFault_kept (s : State) (a : SlAccess) (type level ident : Nat) {z : State} (hK : Kept z s) :
    Kept z (raiseFault s a type level ident).2 := by
  unfold raiseFault
  extract_lets +onlyGivenNames x1
  clear_value x1
  extract_lets +onlyGivenNames x2
  clear_value x2
  extract_lets +onlyGivenNames x3
  have k4 : Kept z x3 := by
    subst x3
    refine Kept.upd ?_ ..
    exact hK
  clear_value x3
  refine Kept.snd ?_
  exact k4

theorem dropToken_kept (s : State) (token : Nat) {z : State} (hK : Kept z s) :
    Kept z (dropToken s token) := by
  unfold dropToken
  refine Kept.upd ?_ ..
  exact hK

end Sys2Proof.Machine
end

