-- ==== Sys2Proof/Laws/Quern.lean ====
section
/-!
SUPPORT. What each operation of Machine/Quern.lean keeps (`Kept`): the chip, the queue, the Turn and the canonical stores.
-/
namespace Sys2Proof.Machine

theorem qnMod_kept (s : State) (q : Nat) (f : Quern → Quern) {z : State} (hK : Kept z s) :
    Kept z (qnMod s q f) := by
  unfold qnMod
  refine Kept.updUnits ?_ _ _ _ _ (by simp [modAt, shapeOf]) ..
  exact hK

theorem ctxMod_kept (s : State) (q : Nat) (f : QCtx → QCtx) {z : State} (hK : Kept z s) :
    Kept z (ctxMod s q f) := by
  unfold ctxMod
  with_reducible apply qnMod_kept
  exact hK

theorem trapQ_kept (s : State) (q code : Nat) {z : State} (hK : Kept z s) :
    Kept z (trapQ s q code) := by
  unfold trapQ
  with_reducible apply qnMod_kept
  exact hK

theorem trapPoison_kept (s : State) (q burst : Nat) {z : State} (hK : Kept z s) :
    Kept z (trapPoison s q burst) := by
  unfold trapPoison
  with_reducible apply trapQ_kept
  with_reducible apply consumePoison_kept
  exact hK

theorem issue_kept (s : State) (q op : Nat) (f : QFields) (body : State → State) {z : State} (hK : Kept z s) (hbody : ∀ t, Kept z t → Kept z (body t)) :
    Kept z (issue s q op f body) := by
  unfold issue
  refine Kept.ite ?_ ?_
  · refine Kept.ite ?_ ?_
    · with_reducible apply_assumption
      exact hK
    · with_reducible apply trapQ_kept
      exact hK
  · exact hK

theorem complete_kept (s : State) (q op : Nat) (f : QFields) (nan : Option Nat) (srcNan : Bool) {z : State} (hK : Kept z s) :
    Kept z (complete s q op f nan srcNan) := by
  unfold complete
  extract_lets +onlyGivenNames x1
  clear_value x1
  split
  · rename_i v2
    with_reducible apply ctxMod_kept
    exact hK
  · rename_i v3 v4
    refine Kept.ite ?_ ?_
    · extract_lets +onlyGivenNames x5
      clear_value x5
      extract_lets +onlyGivenNames x6
      have k7 : Kept z x6 := by
        subst x6
        with_reducible apply qnMod_kept
        exact hK
      clear_value x6
      refine Kept.ite ?_ ?_
      · with_reducible apply trapQ_kept
        exact k7
      · with_reducible apply ctxMod_kept
        exact k7
    · with_reducible apply ctxMod_kept
      exact hK

theorem completePlain_kept (s : State) (q : Nat) (f : QCtx → QCtx) {z : State} (hK : Kept z s) :
    Kept z (completePlain s q f) := by
  unfold completePlain
  with_reducible apply ctxMod_kept
  exact hK

theorem sailMod_kept (s : State) (n : Nat) (f : SailPos → SailPos) {z : State} (hK : Kept z s) :
    Kept z (sailMod s n f) := by
  unfold sailMod
  refine Kept.updUnits ?_ _ _ _ _ (by simp [modAt, shapeOf]) ..
  exact hK

theorem sailLoad_kept (s : State) (n stream : Nat) {z : State} (hK : Kept z s) :
    Kept z (sailLoad s n stream) := by
  unfold sailLoad
  refine Kept.ite ?_ ?_
  · exact hK
  · with_reducible apply bump_kept
    with_reducible apply sailMod_kept
    exact hK

theorem drawLane_kept (s : State) (n lane stream k : Nat) {z : State} (hK : Kept z s) :
    Kept z (drawLane s n lane stream k).2 := by
  unfold drawLane
  extract_lets +onlyGivenNames x1
  clear_value x1
  extract_lets +onlyGivenNames x2
  clear_value x2
  extract_lets +onlyGivenNames x3
  clear_value x3
  refine Kept.snd ?_
  with_reducible apply sailMod_kept
  exact hK

theorem drawActive_kept (s : State) (n stream : Nat) (act : List Bool) {z : State} (hK : Kept z s) :
    Kept z (drawActive s n stream act).2 := by
  unfold drawActive
  extract_lets +onlyGivenNames x1
  have k2 : Kept z x1 := by
    subst x1
    with_reducible apply sailLoad_kept
    exact hK
  clear_value x1
  split
  · rename_i v3 v4 v5 e6
    have k7 : Kept z v5 := by
      refine Kept.of_snd e6 ?_
      refine Kept.foldl_snd ?_ ?_
      · refine Kept.snd ?_
        exact k2
      · intro v8 v9 k10
        split
        · rename_i v11 v12 v13
          refine Kept.ite_snd ?_ ?_
          · split
            · rename_i v14 v15 v16 e17
              have k18 : Kept z v16 := by
                refine Kept.of_snd e17 ?_
                with_reducible apply drawLane_kept
                exact k10
              refine Kept.snd ?_
              exact k18
          · refine Kept.snd ?_
            exact k10
    refine Kept.snd ?_
    exact k7

theorem storeCheck_kept (s : State) (q o n : Nat) {z : State} (hK : Kept z s) :
    Kept z (storeCheck s q o n).2 := by
  unfold storeCheck
  refine Kept.foldl_snd ?_ ?_
  · refine Kept.snd ?_
    exact hK
  · intro v1 v2 k3
    extract_lets +onlyGivenNames x4
    clear_value x4
    split
    · rename_i v5 v6 v7 e8
      have k9 : Kept z v7 := by
        refine Kept.of_snd e8 ?_
        with_reducible apply hopDecode_kept
        exact k3
      extract_lets +onlyGivenNames x10
      have k11 : Kept z x10 := by
        subst x10
        refine Kept.ite ?_ ?_
        · with_reducible apply qnMod_kept
          exact k9
        · exact k9
      clear_value x10
      refine Kept.snd ?_
      exact k11

theorem storeWrite_kept (s : State) (q o : Nat) (bs : List Byte) (poison : List Bool) {z : State} (hK : Kept z s) :
    Kept z (storeWrite s q o bs poison) := by
  unfold storeWrite
  extract_lets +onlyGivenNames x1
  have k2 : Kept z x1 := by
    subst x1
    with_reducible apply qnMod_kept
    exact hK
  clear_value x1
  refine Kept.foldl ?_ ?_
  · exact k2
  · intro v3 v4 k5
    split
    · rename_i v6 v7 v8
      extract_lets +onlyGivenNames x9
      clear_value x9
      extract_lets +onlyGivenNames x10
      clear_value x10
      refine Kept.ite ?_ ?_
      · extract_lets +onlyGivenNames x11
        have k12 : Kept z x11 := by
          subst x11
          with_reducible apply qnMod_kept
          exact k5
        clear_value x11
        with_reducible apply flipInto_kept
        extract_lets +onlyGivenNames x13
        refine Kept.updMem ?_ ..
        exact k12
      · refine Kept.ite ?_ ?_
        · with_reducible apply qnMod_kept
          exact k5
        · exact k5

theorem withStore_kept (s : State) (q o n : Nat) (reads : Bool) (body : State → State) {z : State} (hK : Kept z s) (hbody : ∀ t, Kept z t → Kept z (body t)) :
    Kept z (withStore s q o n reads body) := by
  unfold withStore
  refine Kept.ite ?_ ?_
  · with_reducible apply trapQ_kept
    exact hK
  · refine Kept.ite ?_ ?_
    · with_reducible apply trapQ_kept
      exact hK
    · refine Kept.ite ?_ ?_
      · exact hK
      · refine Kept.ite ?_ ?_
        · split
          · rename_i v1 v2 v3 e4
            have k5 : Kept z v3 := by
              refine Kept.of_snd e4 ?_
              with_reducible apply storeCheck_kept
              exact hK
            split
            · rename_i v6 v7 e8
              with_reducible apply trapPoison_kept
              exact k5
            · rename_i v9 e10
              with_reducible apply_assumption
              exact k5
        · with_reducible apply_assumption
          exact hK

end Sys2Proof.Machine
end

