-- ==== Sys2Proof/Laws/QuernControl.lean ====
section
/-!
SUPPORT. What each operation of Machine/QuernControl.lean keeps (`Kept`): the chip, the queue, the Turn and the canonical stores.
-/
namespace Sys2Proof.Machine

theorem suspendQ_kept (s : State) (q : Nat) (va : Nat) (write : Bool) (type level : Nat) {z : State} (hK : Kept z s) :
    Kept z (suspendQ s q va write type level) := by
  unfold suspendQ
  extract_lets +onlyGivenNames x1
  clear_value x1
  extract_lets +onlyGivenNames x2
  clear_value x2
  split
  · rename_i v3 v4 v5 e6
    have k7 : Kept z v5 := by
      refine Kept.of_snd e6 ?_
      with_reducible apply raiseFault_kept
      exact hK
    with_reducible apply qnMod_kept
    with_reducible apply trapQ_kept
    exact k7

theorem setProgress_kept (s : State) (kind entry : Nat) (next : Option Nat) {z : State} (hK : Kept z s) :
    Kept z (setProgress s kind entry next) := by
  unfold setProgress
  refine Kept.upd ?_ ..
  exact hK

theorem sequenceDone_kept (s : State) (i : Item) {z : State} (hK : Kept z s) :
    Kept z (sequenceDone s i) := by
  unfold sequenceDone
  refine Kept.ite ?_ ?_
  · exact hK
  · refine Kept.ite ?_ ?_
    · with_reducible apply setProgress_kept
      exact hK
    · extract_lets +onlyGivenNames x1
      have k2 : Kept z x1 := by
        subst x1
        with_reducible apply setProgress_kept
        exact hK
      clear_value x1
      refine Kept.ite ?_ ?_
      · refine Kept.upd ?_ ..
        exact k2
      · refine Kept.ite ?_ ?_
        · refine Kept.upd ?_ ..
          exact k2
        · refine Kept.upd ?_ ..
          exact k2

theorem sailEnd_kept (s : State) (n : Nat) {z : State} (hK : Kept z s) :
    Kept z (sailEnd s n) := by
  unfold sailEnd
  with_reducible apply sailMod_kept
  exact hK

theorem endItem_kept (s : State) (q : Nat) (last : Bool) {z : State} (hK : Kept z s) :
    Kept z (endItem s q last) := by
  unfold endItem
  extract_lets +onlyGivenNames x1
  clear_value x1
  extract_lets +onlyGivenNames x2
  have k3 : Kept z x2 := by
    subst x2
    with_reducible apply regOr_kept
    exact hK
  clear_value x2
  extract_lets +onlyGivenNames x4
  have k5 : Kept z x4 := by
    subst x4
    with_reducible apply sailEnd_kept
    exact k3
  clear_value x4
  extract_lets +onlyGivenNames x6
  have k7 : Kept z x6 := by
    subst x6
    split
    · rename_i v8 v9 v10 e11
      with_reducible apply sequenceDone_kept
      exact k5
    · rename_i v12 v13 v14 e15
      exact k5
  clear_value x6
  with_reducible apply qnMod_kept
  exact k7

theorem doEnd_kept (s : State) (q : Nat) (last : Bool) {z : State} (hK : Kept z s) :
    Kept z (doEnd s q last) := by
  unfold doEnd
  extract_lets +onlyGivenNames x1
  clear_value x1
  refine Kept.ite ?_ ?_
  · with_reducible apply trapQ_kept
    exact hK
  · refine Kept.ite ?_ ?_
    · with_reducible apply trapQ_kept
      exact hK
    · refine Kept.ite ?_ ?_
      · exact hK
      · with_reducible apply endItem_kept
        with_reducible apply ctxMod_kept
        exact hK

theorem branch_kept (s : State) (q off : Nat) {z : State} (hK : Kept z s) :
    Kept z (branch s q off) := by
  unfold branch
  extract_lets +onlyGivenNames x1
  clear_value x1
  refine Kept.ite ?_ ?_
  · with_reducible apply ctxMod_kept
    exact hK
  · with_reducible apply trapQ_kept
    exact hK

theorem doLoop_kept (s : State) (q len n : Nat) {z : State} (hK : Kept z s) :
    Kept z (doLoop s q len n) := by
  unfold doLoop
  extract_lets +onlyGivenNames x1
  clear_value x1
  extract_lets +onlyGivenNames x2
  clear_value x2
  extract_lets +onlyGivenNames x3
  clear_value x3
  refine Kept.ite ?_ ?_
  · with_reducible apply trapQ_kept
    exact hK
  · refine Kept.ite ?_ ?_
    · with_reducible apply ctxMod_kept
      exact hK
    · with_reducible apply ctxMod_kept
      exact hK

theorem finishWaitw_kept (s : State) (q addr word value : Nat) (eq : Bool) {z : State} (hK : Kept z s) :
    Kept z (finishWaitw s q addr word value eq) := by
  unfold finishWaitw
  refine Kept.ite ?_ ?_
  · with_reducible apply ctxMod_kept
    exact hK
  · with_reducible apply qnMod_kept
    with_reducible apply endItem_kept
    exact hK

theorem sendVc4_kept (s : State) (kind chip addr aux : Nat) (data : List Byte) (poison : Nat) (sink : Sink) {z : State} (hK : Kept z s) :
    Kept z (sendVc4 s kind chip addr aux data poison sink) := by
  unfold sendVc4
  extract_lets +onlyGivenNames x1
  clear_value x1
  extract_lets +onlyGivenNames x2
  clear_value x2
  extract_lets +onlyGivenNames x3
  clear_value x3
  extract_lets +onlyGivenNames x4
  have k5 : Kept z x4 := by
    subst x4
    refine Kept.upd ?_ ..
    exact hK
  clear_value x4
  refine Kept.ite ?_ ?_
  · refine Kept.upd ?_ ..
    exact k5
  · with_reducible apply sendTo_kept
    exact k5

theorem doWaitw_kept (s : State) (q addr value : Nat) (eq : Bool) {z : State} (hK : Kept z s) :
    Kept z (doWaitw s q addr value eq) := by
  unfold doWaitw
  refine Kept.ite ?_ ?_
  · with_reducible apply trapQ_kept
    exact hK
  · refine Kept.ite ?_ ?_
    · exact hK
    · split
      · rename_i v1 v2 v3 e4
        have k5 : Kept z v3 := by
          refine Kept.of_snd e4 ?_
          with_reducible apply sluice_kept
          exact hK
        split
        · rename_i v6 v7 v8
          with_reducible apply suspendQ_kept
          exact k5
        · rename_i v9 v10
          refine Kept.ite ?_ ?_
          · with_reducible apply trapQ_kept
            exact k5
          · extract_lets +onlyGivenNames x11
            clear_value x11
            refine Kept.ite ?_ ?_
            · with_reducible apply sendVc4_kept
              with_reducible apply qnMod_kept
              exact k5
            · split
              · rename_i v12 v13 v14 e15
                have k16 : Kept z v14 := by
                  refine Kept.of_snd e15 ?_
                  with_reducible apply scratchRead_kept
                  exact k5
                refine Kept.ite ?_ ?_
                · with_reducible apply trapQ_kept
                  with_reducible apply consumePoison_kept
                  exact k16
                · with_reducible apply finishWaitw_kept
                  exact k16

theorem doAtom_kept (s : State) (q : Nat) (f : QFields) {z : State} (hK : Kept z s) :
    Kept z (doAtom s q f) := by
  unfold doAtom
  extract_lets +onlyGivenNames x1
  clear_value x1
  extract_lets +onlyGivenNames x2
  clear_value x2
  extract_lets +onlyGivenNames x3
  clear_value x3
  extract_lets +onlyGivenNames x4
  clear_value x4
  refine Kept.ite ?_ ?_
  · with_reducible apply trapQ_kept
    exact hK
  · split
    · rename_i v5 v6 v7 e8
      have k9 : Kept z v7 := by
        refine Kept.of_snd e8 ?_
        with_reducible apply sluice_kept
        exact hK
      split
      · rename_i v10 v11 v12
        with_reducible apply suspendQ_kept
        exact k9
      · rename_i v13 v14
        refine Kept.ite ?_ ?_
        · with_reducible apply trapQ_kept
          exact k9
        · extract_lets +onlyGivenNames x15
          clear_value x15
          extract_lets +onlyGivenNames x16
          clear_value x16
          extract_lets +onlyGivenNames x17
          clear_value x17
          refine Kept.ite ?_ ?_
          · with_reducible apply sendVc4_kept
            with_reducible apply qnMod_kept
            exact k9
          · split
            · rename_i v18 v19 v20 v21 e22
              have k23 : Kept z v21 := by
                refine Kept.of_snd_snd e22 ?_
                with_reducible apply atomicAt_kept
                exact k9
              refine Kept.ite ?_ ?_
              · with_reducible apply trapQ_kept
                with_reducible apply consumePoison_kept
                exact k23
              · with_reducible apply completePlain_kept
                exact k23

theorem doQcrw_kept (s : State) (q w : Nat) {z : State} (hK : Kept z s) :
    Kept z (doQcrw s q w) := by
  unfold doQcrw
  refine Kept.ite ?_ ?_
  · with_reducible apply trapQ_kept
    exact hK
  · with_reducible apply completePlain_kept
    exact hK

theorem execNop_kept (q : Nat) (f : QFields) (s : State) {z : State} (hK : Kept z s) :
    KeptOut z (execNop q f s) := by
  unfold execNop
  refine KeptOut.next ?_
  with_reducible apply issue_kept
  · exact hK
  · intro v1 k2
    with_reducible apply ctxMod_kept
    exact k2

theorem execEndi_kept (q : Nat) (f : QFields) (s : State) {z : State} (hK : Kept z s) :
    KeptOut z (execEndi q f s) := by
  unfold execEndi
  refine KeptOut.next ?_
  with_reducible apply issue_kept
  · exact hK
  · intro v1 k2
    with_reducible apply doEnd_kept
    exact k2

theorem execEnds_kept (q : Nat) (f : QFields) (s : State) {z : State} (hK : Kept z s) :
    KeptOut z (execEnds q f s) := by
  unfold execEnds
  refine KeptOut.next ?_
  with_reducible apply issue_kept
  · exact hK
  · intro v1 k2
    with_reducible apply doEnd_kept
    exact k2

theorem execBr_kept (q : Nat) (f : QFields) (s : State) {z : State} (hK : Kept z s) :
    KeptOut z (execBr q f s) := by
  unfold execBr
  refine KeptOut.next ?_
  with_reducible apply issue_kept
  · exact hK
  · intro v1 k2
    with_reducible apply branch_kept
    exact k2

theorem execBrc_kept (q : Nat) (f : QFields) (s : State) {z : State} (hK : Kept z s) :
    KeptOut z (execBrc q f s) := by
  unfold execBrc
  refine KeptOut.next ?_
  with_reducible apply issue_kept
  · exact hK
  · intro v1 k2
    extract_lets +onlyGivenNames x3
    clear_value x3
    refine Kept.ite ?_ ?_
    · refine Kept.ite ?_ ?_
      · with_reducible apply branch_kept
        exact k2
      · with_reducible apply ctxMod_kept
        exact k2
    · with_reducible apply trapQ_kept
      exact k2

theorem execLoop_kept (q : Nat) (f : QFields) (s : State) {z : State} (hK : Kept z s) :
    KeptOut z (execLoop q f s) := by
  unfold execLoop
  refine KeptOut.next ?_
  with_reducible apply issue_kept
  · exact hK
  · intro v1 k2
    with_reducible apply doLoop_kept
    exact k2

theorem execWaitw_kept (q : Nat) (f : QFields) (s : State) {z : State} (hK : Kept z s) :
    KeptOut z (execWaitw q f s) := by
  unfold execWaitw
  refine KeptOut.next ?_
  with_reducible apply issue_kept
  · exact hK
  · intro v1 k2
    with_reducible apply doWaitw_kept
    exact k2

theorem execMfence_kept (q : Nat) (f : QFields) (s : State) {z : State} (hK : Kept z s) :
    KeptOut z (execMfence q f s) := by
  unfold execMfence
  refine KeptOut.next ?_
  with_reducible apply issue_kept
  · exact hK
  · intro v1 k2
    refine Kept.ite ?_ ?_
    · exact k2
    · with_reducible apply ctxMod_kept
      exact k2

theorem execAtom_kept (q : Nat) (f : QFields) (s : State) {z : State} (hK : Kept z s) :
    KeptOut z (execAtom q f s) := by
  unfold execAtom
  refine KeptOut.next ?_
  with_reducible apply issue_kept
  · exact hK
  · intro v1 k2
    refine Kept.ite ?_ ?_
    · exact k2
    · with_reducible apply doAtom_kept
      exact k2

theorem execQcrw_kept (q : Nat) (f : QFields) (s : State) {z : State} (hK : Kept z s) :
    KeptOut z (execQcrw q f s) := by
  unfold execQcrw
  refine KeptOut.next ?_
  with_reducible apply issue_kept
  · exact hK
  · intro v1 k2
    with_reducible apply doQcrw_kept
    exact k2

theorem execQcrr_kept (q : Nat) (f : QFields) (s : State) {z : State} (hK : Kept z s) :
    KeptOut z (execQcrr q f s) := by
  unfold execQcrr
  refine KeptOut.next ?_
  with_reducible apply issue_kept
  · exact hK
  · intro v1 k2
    with_reducible apply completePlain_kept
    exact k2

theorem execFrd_kept (q : Nat) (f : QFields) (s : State) {z : State} (hK : Kept z s) :
    KeptOut z (execFrd q f s) := by
  unfold execFrd
  refine KeptOut.next ?_
  with_reducible apply issue_kept
  · exact hK
  · intro v1 k2
    with_reducible apply completePlain_kept
    exact k2

theorem execFclr_kept (q : Nat) (f : QFields) (s : State) {z : State} (hK : Kept z s) :
    KeptOut z (execFclr q f s) := by
  unfold execFclr
  refine KeptOut.next ?_
  with_reducible apply issue_kept
  · exact hK
  · intro v1 k2
    with_reducible apply completePlain_kept
    exact k2

theorem execSli_kept (q : Nat) (f : QFields) (s : State) {z : State} (hK : Kept z s) :
    KeptOut z (execSli q f s) := by
  unfold execSli
  refine KeptOut.next ?_
  with_reducible apply issue_kept
  · exact hK
  · intro v1 k2
    with_reducible apply completePlain_kept
    exact k2

theorem execSaddi_kept (q : Nat) (f : QFields) (s : State) {z : State} (hK : Kept z s) :
    KeptOut z (execSaddi q f s) := by
  unfold execSaddi
  refine KeptOut.next ?_
  with_reducible apply issue_kept
  · exact hK
  · intro v1 k2
    with_reducible apply completePlain_kept
    exact k2

theorem execSalu_kept (q : Nat) (f : QFields) (s : State) {z : State} (hK : Kept z s) :
    KeptOut z (execSalu q f s) := by
  unfold execSalu
  refine KeptOut.next ?_
  with_reducible apply issue_kept
  · exact hK
  · intro v1 k2
    with_reducible apply completePlain_kept
    exact k2

theorem countUnder_kept (s : State) (q n : Nat) {z : State} (hK : Kept z s) :
    Kept z (countUnder s q n) := by
  unfold countUnder
  refine Kept.ite ?_ ?_
  · exact hK
  · with_reducible apply bumpBy_kept
    exact hK

end Sys2Proof.Machine
end

