-- ==== Sys2Proof/Laws/QuernMemory.lean ====
section
/-!
SUPPORT. What each operation of Machine/QuernMemory.lean keeps (`Kept`): the chip, the queue, the Turn and the canonical stores.
-/
namespace Sys2Proof.Machine

theorem doTld_kept (s : State) (q : Nat) (f : QFields) {z : State} (hK : Kept z s) :
    Kept z (doTld s q f) := by
  unfold doTld
  extract_lets +onlyGivenNames x1
  clear_value x1
  extract_lets +onlyGivenNames x2
  clear_value x2
  extract_lets +onlyGivenNames x3
  clear_value x3
  with_reducible apply withStore_kept
  · exact hK
  · intro v4 k5
    extract_lets +onlyGivenNames x6
    clear_value x6
    extract_lets +onlyGivenNames x7
    clear_value x7
    with_reducible apply complete_kept
    with_reducible apply ctxMod_kept
    exact k5

theorem storeMasked_kept (s : State) (q o : Nat) (bytes : List Byte) (mask : List Bool) {z : State} (hK : Kept z s) :
    Kept z (storeMasked s q o bytes mask) := by
  unfold storeMasked
  refine Kept.foldl ?_ ?_
  · exact hK
  · intro v1 v2 k3
    extract_lets +onlyGivenNames x4
    clear_value x4
    extract_lets +onlyGivenNames x5
    clear_value x5
    extract_lets +onlyGivenNames x6
    clear_value x6
    refine Kept.ite ?_ ?_
    · exact k3
    · with_reducible apply storeWrite_kept
      exact k3

theorem putTile_kept (s : State) (q o fmt bsize : Nat) (bdir : Bool) (rows cols : Nat) (codes scales : List Nat) {z : State} (hK : Kept z s) :
    Kept z (putTile s q o fmt bsize bdir rows cols codes scales) := by
  unfold putTile
  extract_lets +onlyGivenNames x1
  clear_value x1
  split
  · rename_i v2 v3 v4 e5
    extract_lets +onlyGivenNames x6
    have k7 : Kept z x6 := by
      subst x6
      with_reducible apply storeMasked_kept
      exact hK
    clear_value x6
    refine Kept.ite ?_ ?_
    · exact k7
    · split
      · rename_i v8 v9 v10 e11
        with_reducible apply storeMasked_kept
        exact k7

theorem tileWords_kept (s : State) (q : Nat) (sr : Bool) (n : Nat) {z : State} (hK : Kept z s) :
    Kept z (tileWords s q sr n).2 := by
  unfold tileWords
  refine Kept.ite_snd ?_ ?_
  · with_reducible apply drawLane_kept
    exact hK
  · refine Kept.snd ?_
    exact hK

theorem doTst_kept (s : State) (q : Nat) (f : QFields) {z : State} (hK : Kept z s) :
    Kept z (doTst s q f) := by
  unfold doTst
  extract_lets +onlyGivenNames x1
  clear_value x1
  extract_lets +onlyGivenNames x2
  clear_value x2
  split
  · rename_i v3 e4
    with_reducible apply trapQ_kept
    exact hK
  · rename_i v5 v6 e7
    extract_lets +onlyGivenNames x8
    clear_value x8
    extract_lets +onlyGivenNames x9
    clear_value x9
    extract_lets +onlyGivenNames x10
    clear_value x10
    extract_lets +onlyGivenNames x11
    clear_value x11
    extract_lets +onlyGivenNames x12
    clear_value x12
    with_reducible apply withStore_kept
    · exact hK
    · intro v13 k14
      extract_lets +onlyGivenNames x15
      clear_value x15
      split
      · rename_i v16 v17 v18 e19
        extract_lets +onlyGivenNames x20
        clear_value x20
        refine Kept.ite ?_ ?_
        · extract_lets +onlyGivenNames x21
          clear_value x21
          extract_lets +onlyGivenNames x22
          have k23 : Kept z x22 := by
            subst x22
            with_reducible apply putTile_kept
            exact k14
          clear_value x22
          extract_lets +onlyGivenNames x24
          clear_value x24
          extract_lets +onlyGivenNames x25
          have k26 : Kept z x25 := by
            subst x25
            split
            · rename_i v27 v28 e29
              with_reducible apply storeMasked_kept
              exact k23
            · rename_i v30 e31
              with_reducible apply_assumption
          clear_value x25
          with_reducible apply complete_kept
          exact k26
        · split
          · rename_i v32 v33 v34 e35
            have k36 : Kept z v34 := by
              refine Kept.of_snd e35 ?_
              with_reducible apply tileWords_kept
              exact k14
            extract_lets +onlyGivenNames x37
            clear_value x37
            extract_lets +onlyGivenNames x38
            have k39 : Kept z x38 := by
              subst x38
              with_reducible apply putTile_kept
              exact k36
            clear_value x38
            extract_lets +onlyGivenNames x40
            have k41 : Kept z x40 := by
              subst x40
              with_reducible apply countUnder_kept
              with_reducible apply ctxMod_kept
              exact k39
            clear_value x40
            extract_lets +onlyGivenNames x42
            clear_value x42
            extract_lets +onlyGivenNames x43
            clear_value x43
            with_reducible apply complete_kept
            exact k41

theorem doVld_kept (s : State) (q : Nat) (f : QFields) {z : State} (hK : Kept z s) :
    Kept z (doVld s q f) := by
  unfold doVld
  extract_lets +onlyGivenNames x1
  clear_value x1
  extract_lets +onlyGivenNames x2
  clear_value x2
  extract_lets +onlyGivenNames x3
  clear_value x3
  with_reducible apply withStore_kept
  · exact hK
  · intro v4 k5
    extract_lets +onlyGivenNames x6
    clear_value x6
    extract_lets +onlyGivenNames x7
    clear_value x7
    extract_lets +onlyGivenNames x8
    clear_value x8
    extract_lets +onlyGivenNames x9
    clear_value x9
    with_reducible apply complete_kept
    with_reducible apply ctxMod_kept
    exact k5

theorem doVst_kept (s : State) (q : Nat) (f : QFields) {z : State} (hK : Kept z s) :
    Kept z (doVst s q f) := by
  unfold doVst
  extract_lets +onlyGivenNames x1
  clear_value x1
  extract_lets +onlyGivenNames x2
  clear_value x2
  extract_lets +onlyGivenNames x3
  clear_value x3
  with_reducible apply withStore_kept
  · exact hK
  · intro v4 k5
    extract_lets +onlyGivenNames x6
    clear_value x6
    extract_lets +onlyGivenNames x7
    clear_value x7
    extract_lets +onlyGivenNames x8
    clear_value x8
    extract_lets +onlyGivenNames x9
    clear_value x9
    extract_lets +onlyGivenNames x10
    clear_value x10
    extract_lets +onlyGivenNames x11
    clear_value x11
    extract_lets +onlyGivenNames x12
    clear_value x12
    extract_lets +onlyGivenNames x13
    clear_value x13
    with_reducible apply complete_kept
    with_reducible apply storeMasked_kept
    exact k5

theorem xferMod_kept (s : State) (q tag : Nat) (f : Xfer → Xfer) {z : State} (hK : Kept z s) :
    Kept z (xferMod s q tag f) := by
  unfold xferMod
  with_reducible apply qnMod_kept
  exact hK

theorem getBurst_kept (s : State) (q off addr : Nat) (data : List Byte) (poison : Bool) {z : State} (hK : Kept z s) :
    Kept z (getBurst s q off addr data poison) := by
  unfold getBurst
  extract_lets +onlyGivenNames x1
  have k2 : Kept z x1 := by
    subst x1
    with_reducible apply storeWrite_kept
    exact hK
  clear_value x1
  with_reducible apply qnMod_kept
  exact k2

theorem moveBurst_kept (s : State) (q : Nat) (x : Xfer) (a : Nat) {z : State} (hK : Kept z s) :
    Kept z (moveBurst s q x a) := by
  unfold moveBurst
  extract_lets +onlyGivenNames x1
  clear_value x1
  refine Kept.ite ?_ ?_
  · refine Kept.ite ?_ ?_
    · refine Kept.ite ?_ ?_
      · split
        · rename_i v2 v3 v4 e5
          have k6 : Kept z v4 := by
            refine Kept.of_snd e5 ?_
            with_reducible apply drawBytes_kept
            with_reducible apply bump_kept
            exact hK
          with_reducible apply getBurst_kept
          exact k6
      · with_reducible apply bump_kept
        exact hK
    · refine Kept.ite ?_ ?_
      · with_reducible apply sendVc4_kept
        exact hK
      · with_reducible apply sendVc4_kept
        exact hK
  · refine Kept.ite ?_ ?_
    · refine Kept.ite ?_ ?_
      · split
        · rename_i v7 v8 v9 e10
          have k11 : Kept z v9 := by
            refine Kept.of_snd e10 ?_
            with_reducible apply burstRead_kept
            exact hK
          with_reducible apply getBurst_kept
          exact k11
      · split
        · rename_i v12 v13 v14 e15
          have k16 : Kept z v14 := by
            refine Kept.of_snd e15 ?_
            with_reducible apply drawBytes_kept
            exact hK
          with_reducible apply getBurst_kept
          exact k16
    · refine Kept.ite ?_ ?_
      · with_reducible apply burstWrite_kept
        exact hK
      · exact hK

theorem runXfer_kept (fu : Nat) (q tag : Nat) (s : State) {z : State} (hK : Kept z s) :
    Kept z (runXfer q tag fu s).2 := by
  induction fu generalizing s with
  | zero => exact hK
  | succ fu ih =>
    unfold runXfer
    split
    · rename_i v1 e2
      refine Kept.snd ?_
      exact hK
    · rename_i v3 v4 e5
      refine Kept.ite_snd ?_ ?_
      · refine Kept.snd ?_
        exact hK
      · split
        · rename_i v6 v7 v8 e9
          have k10 : Kept z v8 := by
            refine Kept.of_snd e9 ?_
            with_reducible apply sluice_kept
            exact hK
          split
          · rename_i v11 v12 v13
            refine Kept.snd ?_
            with_reducible apply suspendQ_kept
            exact k10
          · rename_i v14 v15
            extract_lets +onlyGivenNames x16
            have k17 : Kept z x16 := by
              subst x16
              with_reducible apply moveBurst_kept
              exact k10
            clear_value x16
            with_reducible apply ih
            with_reducible apply xferMod_kept
            exact k17

theorem doXfer_kept (s : State) (q : Nat) (f : QFields) (get : Bool) {z : State} (hK : Kept z s) :
    Kept z (doXfer s q f get) := by
  unfold doXfer
  extract_lets +onlyGivenNames x1
  clear_value x1
  extract_lets +onlyGivenNames x2
  clear_value x2
  extract_lets +onlyGivenNames x3
  clear_value x3
  extract_lets +onlyGivenNames x4
  clear_value x4
  extract_lets +onlyGivenNames x5
  clear_value x5
  refine Kept.ite ?_ ?_
  · with_reducible apply trapQ_kept
    exact hK
  · refine Kept.ite ?_ ?_
    · with_reducible apply trapQ_kept
      exact hK
    · refine Kept.ite ?_ ?_
      · exact hK
      · split
        · rename_i v6 v7 v8 e9
          have k10 : Kept z v8 := by
            refine Kept.of_snd e9 ?_
            refine Kept.ite_snd ?_ ?_
            · refine Kept.snd ?_
              exact hK
            · with_reducible apply storeCheck_kept
              exact hK
          extract_lets +onlyGivenNames x11
          clear_value x11
          split
          · rename_i v12 v13 v14 e15
            have k16 : Kept z v14 := by
              refine Kept.of_snd e15 ?_
              with_reducible apply runXfer_kept
              with_reducible apply qnMod_kept
              exact k10
            refine Kept.ite ?_ ?_
            · with_reducible apply ctxMod_kept
              exact k16
            · exact k16

theorem xferDone_kept (s : State) (q tag : Nat) {z : State} (hK : Kept z s) :
    Kept z (xferDone s q tag) := by
  unfold xferDone
  split
  · rename_i v1 v2 e3
    extract_lets +onlyGivenNames x4
    clear_value x4
    refine Kept.ite ?_ ?_
    · with_reducible apply qnMod_kept
      exact hK
    · exact hK
  · rename_i v5 e6
    exact hK

theorem execTld_kept (q : Nat) (f : QFields) (s : State) {z : State} (hK : Kept z s) :
    KeptOut z (execTld q f s) := by
  unfold execTld
  refine KeptOut.next ?_
  with_reducible apply issue_kept
  · exact hK
  · intro v1 k2
    with_reducible apply doTld_kept
    exact k2

theorem execTst_kept (q : Nat) (f : QFields) (s : State) {z : State} (hK : Kept z s) :
    KeptOut z (execTst q f s) := by
  unfold execTst
  refine KeptOut.next ?_
  with_reducible apply issue_kept
  · exact hK
  · intro v1 k2
    with_reducible apply doTst_kept
    exact k2

theorem execVld_kept (q : Nat) (f : QFields) (s : State) {z : State} (hK : Kept z s) :
    KeptOut z (execVld q f s) := by
  unfold execVld
  refine KeptOut.next ?_
  with_reducible apply issue_kept
  · exact hK
  · intro v1 k2
    with_reducible apply doVld_kept
    exact k2

theorem execVst_kept (q : Nat) (f : QFields) (s : State) {z : State} (hK : Kept z s) :
    KeptOut z (execVst q f s) := by
  unfold execVst
  refine KeptOut.next ?_
  with_reducible apply issue_kept
  · exact hK
  · intro v1 k2
    with_reducible apply doVst_kept
    exact k2

theorem execMget_kept (q : Nat) (f : QFields) (s : State) {z : State} (hK : Kept z s) :
    KeptOut z (execMget q f s) := by
  unfold execMget
  refine KeptOut.next ?_
  with_reducible apply issue_kept
  · exact hK
  · intro v1 k2
    with_reducible apply doXfer_kept
    exact k2

theorem execMput_kept (q : Nat) (f : QFields) (s : State) {z : State} (hK : Kept z s) :
    KeptOut z (execMput q f s) := by
  unfold execMput
  refine KeptOut.next ?_
  with_reducible apply issue_kept
  · exact hK
  · intro v1 k2
    with_reducible apply doXfer_kept
    exact k2

theorem execQuernTransferDone_kept (q tag : Nat) (s : State) {z : State} (hK : Kept z s) :
    KeptOut z (execQuernTransferDone q tag s) := by
  unfold execQuernTransferDone
  refine KeptOut.next ?_
  with_reducible apply xferDone_kept
  exact hK

theorem execMwait_kept (q : Nat) (f : QFields) (s : State) {z : State} (hK : Kept z s) :
    KeptOut z (execMwait q f s) := by
  unfold execMwait
  refine KeptOut.next ?_
  with_reducible apply issue_kept
  · exact hK
  · intro v1 k2
    refine Kept.ite ?_ ?_
    · exact k2
    · with_reducible apply ctxMod_kept
      exact k2

end Sys2Proof.Machine
end

