-- ==== Sys2Proof/Laws/Bolter.lean ====
section
/-!
SUPPORT. What each operation of Machine/Bolter.lean keeps (`Kept`): the chip, the queue, the Turn and the canonical stores.
-/
namespace Sys2Proof.Machine

theorem bolMod_kept (s : State) (f : BolterSt → BolterSt) {z : State} (hK : Kept z s) :
    Kept z (bolMod s f) := by
  unfold bolMod
  refine Kept.upd ?_ ..
  exact hK

theorem bolLands_kept (s : State) (ctx va : Nat) (headrace : Bool) {z : State} (hK : Kept z s) :
    Kept z (bolLands s ctx va headrace).2 := by
  unfold bolLands
  split
  · rename_i v1 v2 v3 e4
    have k5 : Kept z v3 := by
      refine Kept.of_snd e4 ?_
      with_reducible apply sluice_kept
      exact hK
    split
    · rename_i v6 v7
      extract_lets +onlyGivenNames x8
      clear_value x8
      refine Kept.snd ?_
      exact k5
    · rename_i v9 v10 v11
      refine Kept.snd ?_
      exact k5

theorem bolJobOk_kept (s : State) (j : List Byte) {z : State} (hK : Kept z s) :
    Kept z (bolJobOk s j).2 := by
  unfold bolJobOk
  extract_lets +onlyGivenNames x1
  clear_value x1
  extract_lets +onlyGivenNames x2
  clear_value x2
  extract_lets +onlyGivenNames x3
  clear_value x3
  extract_lets +onlyGivenNames x4
  clear_value x4
  refine Kept.ite_snd ?_ ?_
  · with_reducible apply bolLands_kept
    exact hK
  · refine Kept.snd ?_
    exact hK

theorem bolRead_kept (s : State) (ctx va n : Nat) {z : State} (hK : Kept z s) :
    Kept z (bolRead s ctx va n).2 := by
  unfold bolRead
  refine Kept.foldl_snd ?_ ?_
  · refine Kept.snd ?_
    exact hK
  · intro v1 v2 k3
    split
    · rename_i v4 v5 v6 e7
      extract_lets +onlyGivenNames x8
      have k9 : Kept z x8 := by
        subst x8
        exact k3
      clear_value x8
      split
      · rename_i v10 v11 v12 e13
        have k14 : Kept z v12 := by
          refine Kept.of_snd e13 ?_
          with_reducible apply sluice_kept
          exact k9
        split
        · rename_i v15 v16 v17
          refine Kept.snd ?_
          exact k14
        · rename_i v18 v19
          extract_lets +onlyGivenNames x20
          clear_value x20
          extract_lets +onlyGivenNames x21
          have k22 : ∀ y0_0 y0_1 y0_2, (Kept z y0_2) → Kept z (x21 y0_0 y0_1 y0_2).2 := by
            subst x21
            intro v23 v24 v25 k26
            beta_reduce
            refine Kept.snd ?_
            exact k26
          clear_value x21
          refine Kept.ite_snd ?_ ?_
          · refine Kept.ite_snd ?_ ?_
            · refine Kept.snd ?_
              with_reducible apply bump_kept
              exact k14
            · split
              · rename_i v27 v28 v29 v30 e31
                refine Kept.ite_snd ?_ ?_
                · refine Kept.snd ?_
                  exact k14
                · with_reducible apply_assumption
                  exact k14
              · rename_i v32 e33
                refine Kept.ite_snd ?_ ?_
                · refine Kept.snd ?_
                  exact k14
                · refine Kept.snd ?_
                  with_reducible apply sendVc4_kept
                  with_reducible apply bolMod_kept
                  exact k14
          · refine Kept.ite_snd ?_ ?_
            · split
              · rename_i v34 v35 v36 e37
                have k38 : Kept z v36 := by
                  refine Kept.of_snd e37 ?_
                  with_reducible apply burstRead_kept
                  exact k14
                with_reducible apply_assumption
                exact k38
            · refine Kept.snd ?_
              exact k14
    · rename_i v39 e40
      exact k3

theorem bolWrite_kept (s : State) (ctx va : Nat) (bs : List Byte) (marks : List Bool) {z : State} (hK : Kept z s) :
    Kept z (bolWrite s ctx va bs marks).2 := by
  unfold bolWrite
  refine Kept.foldl_snd ?_ ?_
  · refine Kept.snd ?_
    exact hK
  · intro v1 v2 k3
    split
    · rename_i v4 v5 v6
      split
      · rename_i v7 v8 v9 e10
        extract_lets +onlyGivenNames x11
        have k12 : Kept z x11 := by
          subst x11
          exact k3
        clear_value x11
        split
        · rename_i v13 v14 v15 e16
          have k17 : Kept z v15 := by
            refine Kept.of_snd e16 ?_
            with_reducible apply sluice_kept
            exact k12
          split
          · rename_i v18 v19 v20
            refine Kept.snd ?_
            exact k17
          · rename_i v21 v22
            extract_lets +onlyGivenNames x23
            clear_value x23
            extract_lets +onlyGivenNames x24
            clear_value x24
            extract_lets +onlyGivenNames x25
            clear_value x25
            refine Kept.ite_snd ?_ ?_
            · refine Kept.ite_snd ?_ ?_
              · refine Kept.snd ?_
                with_reducible apply bump_kept
                exact k17
              · refine Kept.ite_snd ?_ ?_
                · refine Kept.snd ?_
                  with_reducible apply sendVc4_kept
                  exact k17
                · refine Kept.snd ?_
                  with_reducible apply sendVc4_kept
                  exact k17
            · refine Kept.ite_snd ?_ ?_
              · split
                · rename_i v26 v27 v28 e29
                  have k30 : Kept z v28 := by
                    refine Kept.of_snd e29 ?_
                    with_reducible apply burstWrite_kept
                    exact k17
                  refine Kept.snd ?_
                  exact k30
              · refine Kept.snd ?_
                exact k17
      · rename_i v31 e32
        exact k3

theorem placeRecord_kept (s : State) (j : List Byte) (r : BatchRec) {z : State} (hK : Kept z s) :
    Kept z (placeRecord s j r) := by
  unfold placeRecord
  extract_lets +onlyGivenNames x1
  clear_value x1
  split
  · rename_i v2 e3
    with_reducible apply bump_kept
    exact hK
  · rename_i v4 v5 e6
    extract_lets +onlyGivenNames x7
    have k8 : Kept z x7 := by
      subst x7
      refine Kept.ite ?_ ?_
      · with_reducible apply bump_kept
        exact hK
      · exact hK
    clear_value x7
    with_reducible apply bump_kept
    with_reducible apply bolMod_kept
    exact k8

theorem gatherAt_kept (s : State) (j : List Byte) (i : Nat) {z : State} (hK : Kept z s) :
    Kept z (gatherAt s j i).2 := by
  unfold gatherAt
  extract_lets +onlyGivenNames x1
  clear_value x1
  split
  · rename_i v2 v3 v4 e5
    extract_lets +onlyGivenNames x6
    have k7 : Kept z x6 := by
      subst x6
      refine Kept.ite ?_ ?_
      · with_reducible apply bumpBy_kept
        exact hK
      · exact hK
    clear_value x6
    extract_lets +onlyGivenNames x8
    clear_value x8
    extract_lets +onlyGivenNames x9
    clear_value x9
    extract_lets +onlyGivenNames x10
    clear_value x10
    split
    · rename_i v11 v12 v13 e14
      have k15 : Kept z v13 := by
        refine Kept.of_snd e14 ?_
        with_reducible apply bolRead_kept
        exact k7
      split
      · rename_i v16 v17 v18 v19
        refine Kept.snd ?_
        exact k15
      · rename_i v20
        refine Kept.snd ?_
        exact k15
      · rename_i v21
        refine Kept.snd ?_
        exact k15
      · rename_i v22 v23 v24
        refine Kept.ite_snd ?_ ?_
        · refine Kept.snd ?_
          exact k15
        · split
          · rename_i v25 v26 v27 e28
            have k29 : Kept z v27 := by
              refine Kept.of_snd e28 ?_
              with_reducible apply bolRead_kept
              exact k15
            split
            · rename_i v30 v31 v32 v33
              refine Kept.snd ?_
              exact k29
            · rename_i v34
              refine Kept.snd ?_
              exact k29
            · rename_i v35
              refine Kept.snd ?_
              exact k29
            · rename_i v36 v37 v38
              extract_lets +onlyGivenNames x39
              clear_value x39
              extract_lets +onlyGivenNames x40
              clear_value x40
              refine Kept.ite_snd ?_ ?_
              · refine Kept.snd ?_
                exact k29
              · refine Kept.ite_snd ?_ ?_
                · refine Kept.snd ?_
                  exact k29
                · extract_lets +onlyGivenNames x41
                  clear_value x41
                  split
                  · rename_i v42 v43 v44 e45
                    have k46 : Kept z v44 := by
                      refine Kept.of_snd e45 ?_
                      with_reducible apply bolRead_kept
                      exact k29
                    split
                    · rename_i v47 v48 v49 v50
                      refine Kept.snd ?_
                      exact k46
                    · rename_i v51
                      refine Kept.snd ?_
                      exact k46
                    · rename_i v52
                      refine Kept.snd ?_
                      exact k46
                    · rename_i v53 v54 v55
                      extract_lets +onlyGivenNames x56
                      clear_value x56
                      extract_lets +onlyGivenNames x57
                      clear_value x57
                      extract_lets +onlyGivenNames x58
                      clear_value x58
                      refine Kept.snd ?_
                      exact k46

theorem bolSuspend_kept (s : State) (ctx i va : Nat) (write : Bool) (ty lv : Nat) {z : State} (hK : Kept z s) :
    Kept z (bolSuspend s ctx i va write ty lv) := by
  unfold bolSuspend
  split
  · rename_i v1 v2 v3 e4
    have k5 : Kept z v3 := by
      refine Kept.of_snd e4 ?_
      with_reducible apply raiseFault_kept
      exact hK
    with_reducible apply bolMod_kept
    exact k5

theorem bolGo_kept (fu : Nat) (s : State) {z : State} (hK : Kept z s) :
    Kept z (bolGo fu s) := by
  induction fu generalizing s with
  | zero => exact hK
  | succ fu ih =>
    unfold bolGo
    split
    · rename_i v1 e2
      exact hK
    · rename_i v3 v4 e5
      refine Kept.ite ?_ ?_
      · exact hK
      · refine Kept.ite ?_ ?_
        · exact hK
        · refine Kept.ite ?_ ?_
          · with_reducible apply ih
            with_reducible apply bolMod_kept
            exact hK
          · split
            · rename_i v6 v7 v8 e9
              have k10 : Kept z v8 := by
                refine Kept.of_snd e9 ?_
                with_reducible apply gatherAt_kept
                exact hK
              split
              · rename_i v11 v12
                with_reducible apply ih
                with_reducible apply bolMod_kept
                with_reducible apply placeRecord_kept
                exact k10
              · rename_i v13 v14 v15 v16
                with_reducible apply bolSuspend_kept
                exact k10
              · rename_i v17
                with_reducible apply bolMod_kept
                exact k10
              · rename_i v18
                exact k10

theorem bolRun_kept (s : State) {z : State} (hK : Kept z s) :
    Kept z (bolRun s) := by
  unfold bolRun
  split
  · rename_i v1 e2
    exact hK
  · rename_i v3 v4 e5
    extract_lets +onlyGivenNames x6
    have k7 : Kept z x6 := by
      subst x6
      with_reducible apply bolGo_kept
      exact hK
    clear_value x6
    refine Kept.ite ?_ ?_
    · with_reducible apply bolMod_kept
      exact k7
    · exact k7

theorem bolStart_kept (s : State) {z : State} (hK : Kept z s) :
    Kept z (bolStart s) := by
  unfold bolStart
  extract_lets +onlyGivenNames x1
  clear_value x1
  refine Kept.ite ?_ ?_
  · exact hK
  · extract_lets +onlyGivenNames x2
    clear_value x2
    extract_lets +onlyGivenNames x3
    clear_value x3
    extract_lets +onlyGivenNames x4
    clear_value x4
    extract_lets +onlyGivenNames x5
    have k6 : Kept z x5 := by
      subst x5
      with_reducible apply scrWrite_kept
      exact hK
    clear_value x5
    split
    · rename_i v7 v8 v9 e10
      have k11 : Kept z v9 := by
        refine Kept.of_snd e10 ?_
        with_reducible apply bolJobOk_kept
        exact k6
      extract_lets +onlyGivenNames x12
      have k13 : Kept z x12 := by
        subst x12
        with_reducible apply bolMod_kept
        exact k11
      clear_value x12
      with_reducible apply bolRun_kept
      exact k13

theorem batchStep_kept (s : State) {z : State} (hK : Kept z s) :
    Kept z (batchStep s).2 := by
  unfold batchStep
  split
  · rename_i v1 v2 v3 v4 v5 e6 e7
    refine Kept.ite_snd ?_ ?_
    · refine Kept.snd ?_
      exact hK
    · extract_lets +onlyGivenNames x8
      clear_value x8
      extract_lets +onlyGivenNames x9
      clear_value x9
      split
      · rename_i v10 v11 v12 e13
        have k14 : Kept z v12 := by
          refine Kept.of_snd e13 ?_
          with_reducible apply bolRead_kept
          exact hK
        split
        · rename_i v15 v16 v17 v18
          refine Kept.snd ?_
          with_reducible apply bolSuspend_kept
          exact k14
        · rename_i v19
          refine Kept.snd ?_
          with_reducible apply bolMod_kept
          exact k14
        · rename_i v20
          refine Kept.snd ?_
          exact k14
        · rename_i v21 v22 v23
          extract_lets +onlyGivenNames x24
          clear_value x24
          extract_lets +onlyGivenNames x25
          clear_value x25
          split
          · rename_i v26 v27 v28 e29
            refine Kept.ite_snd ?_ ?_
            · refine Kept.snd ?_
              exact k14
            · extract_lets +onlyGivenNames x30
              clear_value x30
              split
              · rename_i v31 v32 v33 e34
                have k35 : Kept z v33 := by
                  refine Kept.of_snd e34 ?_
                  refine Kept.ite_snd ?_ ?_
                  · refine Kept.snd ?_
                    exact k14
                  · with_reducible apply bolWrite_kept
                    exact k14
                split
                · rename_i v36 v37 v38 e39
                  have k40 : Kept z v38 := by
                    refine Kept.of_snd e39 ?_
                    split
                    · rename_i v41 v42 v43
                      with_reducible apply bolWrite_kept
                      exact k35
                    · rename_i v44 e45
                      refine Kept.snd ?_
                      exact k35
                  split
                  · rename_i v46 v47 v48 e49
                    have k50 : Kept z v48 := by
                      refine Kept.of_snd e49 ?_
                      split
                      · rename_i v51 v52 v53
                        with_reducible apply bolWrite_kept
                        exact k40
                      · rename_i v54 e55
                        refine Kept.snd ?_
                        exact k40
                    split
                    · rename_i v56 v57 v58
                      refine Kept.snd ?_
                      with_reducible apply bolMod_kept
                      exact k50
                    · rename_i v59 v60 v61 v62
                      refine Kept.snd ?_
                      with_reducible apply bolSuspend_kept
                      exact k50
                    · rename_i v63 e64 e65
                      refine Kept.snd ?_
                      with_reducible apply bolMod_kept
                      exact k50
  · rename_i v66 v67 e68
    refine Kept.snd ?_
    exact hK

theorem bolFinish_kept (s : State) {z : State} (hK : Kept z s) :
    Kept z (bolFinish s) := by
  unfold bolFinish
  split
  · rename_i v1 e2
    exact hK
  · rename_i v3 v4 e5
    extract_lets +onlyGivenNames x6
    clear_value x6
    refine Kept.ite ?_ ?_
    · exact hK
    · extract_lets +onlyGivenNames x7
      clear_value x7
      extract_lets +onlyGivenNames x8
      clear_value x8
      extract_lets +onlyGivenNames x9
      have k10 : Kept z x9 := by
        subst x9
        with_reducible apply scrWrite_kept
        exact hK
      clear_value x9
      extract_lets +onlyGivenNames x11
      clear_value x11
      with_reducible apply bolMod_kept
      exact k10

theorem bolTurn_kept (s : State) {z : State} (hK : Kept z s) :
    Kept z (bolTurn s) := by
  unfold bolTurn
  refine Kept.ite ?_ ?_
  · exact hK
  · split
    · rename_i v1 v2 v3 e4
      have k5 : Kept z v3 := by
        refine Kept.of_snd e4 ?_
        with_reducible apply batchStep_kept
        exact hK
      refine Kept.ite ?_ ?_
      · with_reducible apply bump_kept
        exact k5
      · exact k5

theorem bolAnswer_kept (s : State) (addr : Nat) (data : List Byte) (poison : Bool) {z : State} (hK : Kept z s) :
    Kept z (bolAnswer s addr data poison) := by
  unfold bolAnswer
  with_reducible apply bolRun_kept
  with_reducible apply bolMod_kept
  exact hK

theorem bolRetry_kept (s : State) (token : Nat) {z : State} (hK : Kept z s) :
    Kept z (bolRetry s token) := by
  unfold bolRetry
  with_reducible apply bolRun_kept
  with_reducible apply bolMod_kept
  exact hK

theorem bolDiscard_kept (s : State) {z : State} (hK : Kept z s) :
    Kept z (bolDiscard s) := by
  unfold bolDiscard
  extract_lets +onlyGivenNames x1
  have k2 : Kept z x1 := by
    subst x1
    refine Kept.foldl ?_ ?_
    · exact hK
    · intro v3 v4 k5
      with_reducible apply dropToken_kept
      exact k5
  clear_value x1
  with_reducible apply bolMod_kept
  exact k2

theorem execBolterJobStart_kept (s : State) {z : State} (hK : Kept z s) :
    KeptOut z (execBolterJobStart s) := by
  unfold execBolterJobStart
  refine KeptOut.next ?_
  with_reducible apply bolStart_kept
  exact hK

theorem execBatchWrite_kept (s : State) {z : State} (hK : Kept z s) :
    KeptOut z (execBatchWrite s) := by
  unfold execBatchWrite
  refine KeptOut.next ?_
  with_reducible apply batchStep_kept
  exact hK

theorem execBolterJobDone_kept (s : State) {z : State} (hK : Kept z s) :
    KeptOut z (execBolterJobDone s) := by
  unfold execBolterJobDone
  refine KeptOut.next ?_
  with_reducible apply bolFinish_kept
  exact hK

end Sys2Proof.Machine
end

