-- ==== Sys2Proof/Laws/Loader.lean ====
section
/-!
SUPPORT. What each operation of Machine/Loader.lean keeps (`Kept`): the chip, the queue, the Turn and the canonical stores.
-/
namespace Sys2Proof.Machine

theorem placeRecipe_kept (s : State) (r : Recipe) {z : State} (hK : Kept z s) :
    Kept z (placeRecipe s r) := by
  unfold placeRecipe
  extract_lets +onlyGivenNames x1
  clear_value x1
  refine Kept.updQn ?_ ..
  exact hK

theorem dropRecipe_kept (s : State) (id : Nat) {z : State} (hK : Kept z s) :
    Kept z (dropRecipe s id) := by
  unfold dropRecipe
  extract_lets +onlyGivenNames x1
  clear_value x1
  refine Kept.updQn ?_ ..
  exact hK

end Sys2Proof.Machine
end

