-- ==== Sys2Proof/Laws/Counters.lean ====
section
/-!
SUPPORT. What each operation of Machine/Counters.lean keeps (`Kept`): the chip, the queue, the Turn and the canonical stores.
-/
namespace Sys2Proof.Machine

theorem quernClear_kept (s : State) (q off : Nat) {z : State} (hK : Kept z s) :
    Kept z (quernClear s q off) := by
  unfold quernClear
  refine Kept.ite ?_ ?_
  · with_reducible apply regSet_kept
    exact hK
  · exact hK

theorem clearIf_kept (s : State) (w b off : Nat) {z : State} (hK : Kept z s) :
    Kept z (clearIf s w b off) := by
  unfold clearIf
  refine Kept.ite ?_ ?_
  · with_reducible apply regSet_kept
    exact hK
  · exact hK

theorem clearLeatUfb_kept (s : State) {z : State} (hK : Kept z s) :
    Kept z (clearLeatUfb s) := by
  unfold clearLeatUfb
  with_reducible apply clearCounters_kept
  exact hK

theorem clearLink_kept (s : State) (l : Nat) {z : State} (hK : Kept z s) :
    Kept z (clearLink s l) := by
  unfold clearLink
  refine Kept.ite ?_ ?_
  · with_reducible apply regSet_kept
    with_reducible apply regSet_kept
    with_reducible apply regSet_kept
    exact hK
  · exact hK

theorem execFwrCntClear_kept (w : Nat) (s : State) {z : State} (hK : Kept z s) :
    KeptOut z (execFwrCntClear w s) := by
  unfold execFwrCntClear
  refine KeptOut.next ?_
  with_reducible apply clearCounters_kept
  exact hK

theorem execClrRej_kept (q : Nat) (s : State) {z : State} (hK : Kept z s) :
    KeptOut z (execClrRej q s) := by
  unfold execClrRej
  refine KeptOut.next ?_
  with_reducible apply quernClear_kept
  exact hK

theorem execClrRescale_kept (q : Nat) (s : State) {z : State} (hK : Kept z s) :
    KeptOut z (execClrRescale q s) := by
  unfold execClrRescale
  refine KeptOut.next ?_
  with_reducible apply quernClear_kept
  exact hK

theorem execClrUfb_kept (q : Nat) (s : State) {z : State} (hK : Kept z s) :
    KeptOut z (execClrUfb q s) := by
  unfold execClrUfb
  refine KeptOut.next ?_
  with_reducible apply quernClear_kept
  exact hK

theorem execTrCntClear_kept (w : Nat) (s : State) {z : State} (hK : Kept z s) :
    KeptOut z (execTrCntClear w s) := by
  unfold execTrCntClear
  refine KeptOut.next ?_
  with_reducible apply clearCounters_kept
  exact hK

theorem execStepCntClear_kept (w : Nat) (s : State) {z : State} (hK : Kept z s) :
    KeptOut z (execStepCntClear w s) := by
  unfold execStepCntClear
  refine KeptOut.next ?_
  with_reducible apply clearCounters_kept
  exact hK

theorem execMemCntClear_kept (w : Nat) (s : State) {z : State} (hK : Kept z s) :
    KeptOut z (execMemCntClear w s) := by
  unfold execMemCntClear
  refine KeptOut.next ?_
  with_reducible apply clearCounters_kept
  exact hK

theorem execHopCntClear_kept (w : Nat) (s : State) {z : State} (hK : Kept z s) :
    KeptOut z (execHopCntClear w s) := by
  unfold execHopCntClear
  refine KeptOut.next ?_
  with_reducible apply clearCounters_kept
  exact hK

theorem execMmCntClear_kept (w : Nat) (s : State) {z : State} (hK : Kept z s) :
    KeptOut z (execMmCntClear w s) := by
  unfold execMmCntClear
  refine KeptOut.next ?_
  with_reducible apply clearCounters_kept
  exact hK

theorem execLeatCntClear_kept (w : Nat) (s : State) {z : State} (hK : Kept z s) :
    KeptOut z (execLeatCntClear w s) := by
  unfold execLeatCntClear
  extract_lets +onlyGivenNames x1
  have k2 : Kept z x1 := by
    subst x1
    with_reducible apply clearCounters_kept
    exact hK
  clear_value x1
  refine KeptOut.next ?_
  refine Kept.ite ?_ ?_
  · with_reducible apply clearLeatUfb_kept
    exact k2
  · exact k2

theorem execLeatClrUfb_kept (s : State) {z : State} (hK : Kept z s) :
    KeptOut z (execLeatClrUfb s) := by
  unfold execLeatClrUfb
  refine KeptOut.next ?_
  with_reducible apply clearLeatUfb_kept
  exact hK

theorem execSlCntClear_kept (w : Nat) (s : State) {z : State} (hK : Kept z s) :
    KeptOut z (execSlCntClear w s) := by
  unfold execSlCntClear
  refine KeptOut.next ?_
  with_reducible apply clearCounters_kept
  exact hK

theorem execBolCntClear_kept (w : Nat) (s : State) {z : State} (hK : Kept z s) :
    KeptOut z (execBolCntClear w s) := by
  unfold execBolCntClear
  refine KeptOut.next ?_
  with_reducible apply clearCounters_kept
  exact hK

theorem execSailCntClear_kept (w : Nat) (s : State) {z : State} (hK : Kept z s) :
    KeptOut z (execSailCntClear w s) := by
  unfold execSailCntClear
  refine KeptOut.next ?_
  with_reducible apply clearIf_kept
  exact hK

theorem execGlCntClear_kept (w : Nat) (s : State) {z : State} (hK : Kept z s) :
    KeptOut z (execGlCntClear w s) := by
  unfold execGlCntClear
  refine KeptOut.next ?_
  with_reducible apply clearIf_kept
  with_reducible apply clearIf_kept
  with_reducible apply clearCounters_kept
  exact hK

theorem execGlLcmdClr_kept (link : Nat) (s : State) {z : State} (hK : Kept z s) :
    KeptOut z (execGlLcmdClr link s) := by
  unfold execGlLcmdClr
  refine KeptOut.next ?_
  with_reducible apply clearLink_kept
  exact hK

theorem execClrClass_kept (w : Nat) (s : State) {z : State} (hK : Kept z s) :
    KeptOut z (execClrClass w s) := by
  unfold execClrClass
  refine KeptOut.next ?_
  with_reducible apply clearCounters_kept
  exact hK

theorem execClrRing_kept (s : State) {z : State} (hK : Kept z s) :
    KeptOut z (execClrRing s) := by
  unfold execClrRing
  refine KeptOut.next ?_
  with_reducible apply regSet_kept
  exact hK

theorem execClrCper_kept (s : State) {z : State} (hK : Kept z s) :
    KeptOut z (execClrCper s) := by
  unfold execClrCper
  refine KeptOut.next ?_
  with_reducible apply regSet_kept
  exact hK

theorem execClrDisc_kept (s : State) {z : State} (hK : Kept z s) :
    KeptOut z (execClrDisc s) := by
  unfold execClrDisc
  refine KeptOut.next ?_
  with_reducible apply regSet_kept
  exact hK

theorem execClrCjDrop_kept (s : State) {z : State} (hK : Kept z s) :
    KeptOut z (execClrCjDrop s) := by
  unfold execClrCjDrop
  refine KeptOut.next ?_
  with_reducible apply regSet_kept
  exact hK

theorem execPortCntClear_kept (w : Nat) (s : State) {z : State} (hK : Kept z s) :
    KeptOut z (execPortCntClear w s) := by
  unfold execPortCntClear
  refine KeptOut.next ?_
  with_reducible apply clearIf_kept
  exact hK

end Sys2Proof.Machine
end

