-- ==== Sys2Proof/Laws/QuernRows.lean ====
section
/-!
SUPPORT. What each operation of Machine/QuernRows.lean keeps (`Kept`): the chip, the queue, the Turn and the canonical stores.
-/
namespace Sys2Proof.Machine

theorem discardQ_kept (s : State) (q : Nat) {z : State} (hK : Kept z s) :
    Kept z (discardQ s q) := by
  unfold discardQ
  extract_lets +onlyGivenNames x1
  clear_value x1
  refine Kept.ite ?_ ?_
  · exact hK
  · extract_lets +onlyGivenNames x2
    have k3 : Kept z x2 := by
      subst x2
      with_reducible apply regOr_kept
      exact hK
    clear_value x2
    extract_lets +onlyGivenNames x4
    have k5 : Kept z x4 := by
      subst x4
      with_reducible apply sailMod_kept
      exact k3
    clear_value x4
    extract_lets +onlyGivenNames x6
    have k7 : Kept z x6 := by
      subst x6
      split
      · rename_i v8 v9 e10
        with_reducible apply dropToken_kept
        exact k5
      · rename_i v11 e12
        exact k5
    clear_value x6
    extract_lets +onlyGivenNames x13
    have k14 : Kept z x13 := by
      subst x13
      with_reducible apply qnMod_kept
      exact k7
    clear_value x13
    extract_lets +onlyGivenNames x15
    have k16 : Kept z x15 := by
      subst x15
      with_reducible apply qnMod_kept
      exact k14
    clear_value x15
    with_reducible apply markFault_kept
    exact k16

theorem resumeQ_kept (s : State) (q : Nat) {z : State} (hK : Kept z s) :
    Kept z (resumeQ s q) := by
  unfold resumeQ
  extract_lets +onlyGivenNames x1
  clear_value x1
  refine Kept.ite ?_ ?_
  · exact hK
  · refine Kept.ite ?_ ?_
    · with_reducible apply qnMod_kept
      exact hK
    · with_reducible apply bump_kept
      exact hK

theorem retryQ_kept (s : State) (q : Nat) {z : State} (hK : Kept z s) :
    Kept z (retryQ s q) := by
  unfold retryQ
  extract_lets +onlyGivenNames x1
  have k2 : Kept z x1 := by
    subst x1
    with_reducible apply qnMod_kept
    exact hK
  clear_value x1
  split
  · rename_i v3 v4 e5
    split
    · rename_i v6 v7 v8 e9
      have k10 : Kept z v8 := by
        refine Kept.of_snd e9 ?_
        with_reducible apply runXfer_kept
        exact k2
      refine Kept.ite ?_ ?_
      · with_reducible apply ctxMod_kept
        exact k10
      · exact k10
  · rename_i v11 e12
    exact k2

theorem saveDone_kept (s : State) (q : Nat) {z : State} (hK : Kept z s) :
    Kept z (saveDone s q) := by
  unfold saveDone
  extract_lets +onlyGivenNames x1
  clear_value x1
  split
  · rename_i v2 v3 e4
    refine Kept.ite ?_ ?_
    · exact hK
    · extract_lets +onlyGivenNames x5
      clear_value x5
      extract_lets +onlyGivenNames x6
      clear_value x6
      extract_lets +onlyGivenNames x7
      extract_lets +onlyGivenNames x8
      have k9 : Kept z x8 := by
        subst x8
        refine Kept.updQn ?_ ..
        exact hK
      clear_value x8
      extract_lets +onlyGivenNames x10
      have k11 : Kept z x10 := by
        subst x10
        with_reducible apply qnMod_kept
        exact k9
      clear_value x10
      with_reducible apply qnMod_kept
      exact k11
  · rename_i v12 e13
    exact hK

theorem restoreDone_kept (s : State) (q : Nat) {z : State} (hK : Kept z s) :
    Kept z (restoreDone s q) := by
  unfold restoreDone
  extract_lets +onlyGivenNames x1
  clear_value x1
  split
  · rename_i v2 v3 e4
    refine Kept.ite ?_ ?_
    · exact hK
    · split
      · rename_i v5 v6 e7
        extract_lets +onlyGivenNames x8
        extract_lets +onlyGivenNames x9
        have k10 : Kept z x9 := by
          subst x9
          refine Kept.updQn ?_ ..
          exact hK
        clear_value x9
        extract_lets +onlyGivenNames x11
        have k12 : Kept z x11 := by
          subst x11
          with_reducible apply sailMod_kept
          exact k10
        clear_value x11
        extract_lets +onlyGivenNames x13
        have k14 : Kept z x13 := by
          subst x13
          with_reducible apply qnMod_kept
          exact k12
        clear_value x13
        extract_lets +onlyGivenNames x15
        have k16 : Kept z x15 := by
          subst x15
          refine Kept.ite ?_ ?_
          · exact k14
          · with_reducible apply storeWrite_kept
            exact k14
        clear_value x15
        refine Kept.ite ?_ ?_
        · with_reducible apply retryQ_kept
          exact k16
        · exact k16
      · rename_i v17 e18
        with_reducible apply qnMod_kept
        exact hK
  · rename_i v19 e20
    exact hK

theorem noteOverrun_kept (s : State) (q cycles : Nat) {z : State} (hK : Kept z s) :
    Kept z (noteOverrun s q cycles) := by
  unfold noteOverrun
  extract_lets +onlyGivenNames x1
  clear_value x1
  extract_lets +onlyGivenNames x2
  have k3 : Kept z x2 := by
    subst x2
    with_reducible apply qnMod_kept
    exact hK
  clear_value x2
  refine Kept.ite ?_ ?_
  · exact k3
  · extract_lets +onlyGivenNames x4
    clear_value x4
    extract_lets +onlyGivenNames x5
    clear_value x5
    extract_lets +onlyGivenNames x6
    have k7 : Kept z x6 := by
      subst x6
      with_reducible apply qnMod_kept
      exact k3
    clear_value x6
    refine Kept.ite ?_ ?_
    · extract_lets +onlyGivenNames x8
      clear_value x8
      extract_lets +onlyGivenNames x9
      have k10 : Kept z x9 := by
        subst x9
        with_reducible apply event_kept
        with_reducible apply qnMod_kept
        exact k7
      clear_value x9
      refine Kept.ite ?_ ?_
      · with_reducible apply gradeMinor_kept
        exact k10
      · exact k10
    · exact k7

theorem overrunDone_kept (s : State) (q cycles : Nat) {z : State} (hK : Kept z s) :
    Kept z (overrunDone s q cycles) := by
  unfold overrunDone
  refine Kept.ite ?_ ?_
  · exact hK
  · extract_lets +onlyGivenNames x1
    have k2 : Kept z x1 := by
      subst x1
      with_reducible apply noteOverrun_kept
      exact hK
    clear_value x1
    refine Kept.ite ?_ ?_
    · with_reducible apply qnMod_kept
      exact k2
    · exact k2

theorem quernFail_kept (s : State) (q cls : Nat) {z : State} (hK : Kept z s) :
    Kept z (quernFail s q cls) := by
  unfold quernFail
  with_reducible apply askGrade_kept
  with_reducible apply event_kept
  with_reducible apply qnMod_kept
  exact hK

theorem execQnResume_kept (q : Nat) (s : State) {z : State} (hK : Kept z s) :
    KeptOut z (execQnResume q s) := by
  unfold execQnResume
  refine KeptOut.next ?_
  refine Kept.ite ?_ ?_
  · with_reducible apply resumeQ_kept
    exact hK
  · exact hK

theorem execQnDiscard_kept (q : Nat) (s : State) {z : State} (hK : Kept z s) :
    KeptOut z (execQnDiscard q s) := by
  unfold execQnDiscard
  refine KeptOut.next ?_
  refine Kept.ite ?_ ?_
  · with_reducible apply discardQ_kept
    exact hK
  · exact hK

theorem execFnanValidClear_kept (q : Nat) (s : State) {z : State} (hK : Kept z s) :
    KeptOut z (execFnanValidClear q s) := by
  unfold execFnanValidClear
  refine KeptOut.next ?_
  with_reducible apply qnMod_kept
  exact hK

theorem execContextSaveDone_kept (q : Nat) (s : State) {z : State} (hK : Kept z s) :
    KeptOut z (execContextSaveDone q s) := by
  unfold execContextSaveDone
  refine KeptOut.next ?_
  with_reducible apply saveDone_kept
  exact hK

theorem execContextRestoreDone_kept (q : Nat) (s : State) {z : State} (hK : Kept z s) :
    KeptOut z (execContextRestoreDone q s) := by
  unfold execContextRestoreDone
  refine KeptOut.next ?_
  with_reducible apply restoreDone_kept
  exact hK

theorem execOverrunEnd_kept (q cycles : Nat) (s : State) {z : State} (hK : Kept z s) :
    KeptOut z (execOverrunEnd q cycles s) := by
  unfold execOverrunEnd
  refine KeptOut.next ?_
  with_reducible apply overrunDone_kept
  exact hK

theorem execQuernHang_kept (q : Nat) (s : State) {z : State} (hK : Kept z s) :
    KeptOut z (execQuernHang q s) := by
  unfold execQuernHang
  refine KeptOut.next ?_
  refine Kept.ite ?_ ?_
  · with_reducible apply quernFail_kept
    exact hK
  · exact hK

end Sys2Proof.Machine
end

