-- ==== Sys2Proof/Laws/Change.lean ====
section
/-!
SUPPORT. What each operation of Machine/Change.lean keeps (`Kept`): the chip, the queue, the Turn and the canonical stores.
-/
namespace Sys2Proof.Machine

theorem commitReg_kept (s : State) (off v : Nat) {z : State} (hK : Kept z s) :
    Kept z (commitReg s off v) := by
  unfold commitReg
  extract_lets +onlyGivenNames x1
  clear_value x1
  with_reducible apply regSet_kept
  exact hK

theorem commitRegs_kept (s : State) (regs : List (Nat × Nat)) {z : State} (hK : Kept z s) :
    Kept z (commitRegs s regs) := by
  unfold commitRegs
  refine Kept.foldl ?_ ?_
  · exact hK
  · intro v1 v2 k3
    with_reducible apply commitReg_kept
    exact k3

theorem copyLoad_kept (s : State) (code src len : Nat) {z : State} (hK : Kept z s) :
    Kept z (copyLoad s code src len).2 := by
  unfold copyLoad
  extract_lets +onlyGivenNames x1
  clear_value x1
  refine Kept.ite_snd ?_ ?_
  · refine Kept.snd ?_
    exact hK
  · refine Kept.ite_snd ?_ ?_
    · refine Kept.snd ?_
      exact hK
    · split
      · rename_i v2 v3 v4 e5
        have k6 : Kept z v4 := by
          refine Kept.of_snd e5 ?_
          with_reducible apply rangeRead_kept
          exact hK
        refine Kept.snd ?_
        exact k6

theorem copyLoads_kept (s : State) (t : Txn) {z : State} (hK : Kept z s) :
    Kept z (copyLoads s t).2.2 := by
  unfold copyLoads
  split
  · rename_i v1 v2 v3 v4 e5
    have k6 : Kept z v4 := by
      refine Kept.of_snd_snd e5 ?_
      refine Kept.foldl_snd_snd ?_ ?_
      · refine Kept.snd_snd_mk ?_
        refine Kept.snd ?_
        exact hK
      · intro v7 v8 k9
        split
        · rename_i v10 v11 v12 e13
          have k14 : Kept z v12 := by
            refine Kept.of_snd e13 ?_
            with_reducible apply copyLoad_kept
            exact k9
          refine Kept.snd_snd_mk ?_
          refine Kept.snd ?_
          exact k14
    refine Kept.snd_snd_mk ?_
    refine Kept.snd ?_
    exact k6

theorem applyLoad_kept (s : State) (l : Nat × Nat × Nat × List Byte) {z : State} (hK : Kept z s) :
    Kept z (applyLoad s l).2 := by
  unfold applyLoad
  split
  · rename_i v1 e2
    extract_lets +onlyGivenNames x3
    clear_value x3
    refine Kept.snd ?_
    refine Kept.elim ?_ ?_
    · exact hK
    · intro v4
      with_reducible apply placeRecipe_kept
      exact hK
  · rename_i v5 e6
    refine Kept.snd ?_
    with_reducible apply dropRecipe_kept
    exact hK
  · rename_i v7 e8
    refine Kept.snd ?_
    refine Kept.ite ?_ ?_
    · refine Kept.upd ?_ ..
      exact hK
    · refine Kept.upd ?_ ..
      exact hK
  · rename_i v9 e10 e11 e12
    refine Kept.snd ?_
    refine Kept.elim ?_ ?_
    · exact hK
    · intro v13
      with_reducible apply scrWrite_kept
      exact hK

theorem applyLoads_kept (s : State) (t : Txn) {z : State} (hK : Kept z s) :
    Kept z (applyLoads s t).2 := by
  unfold applyLoads
  refine Kept.foldl_snd ?_ ?_
  · refine Kept.snd ?_
    exact hK
  · intro v1 v2 k3
    split
    · rename_i v4 v5 v6 e7
      have k8 : Kept z v6 := by
        refine Kept.of_snd e7 ?_
        with_reducible apply applyLoad_kept
        exact k3
      refine Kept.snd ?_
      exact k8

theorem judge_kept (s : State) (t : Txn) {z : State} (hK : Kept z s) :
    Kept z (judge s t).2 := by
  unfold judge
  extract_lets +onlyGivenNames x1
  have k2 : Kept z x1 := by
    subst x1
    with_reducible apply commitRegs_kept
    exact hK
  clear_value x1
  split
  · rename_i v3 v4 v5 e6
    have k7 : Kept z v5 := by
      refine Kept.of_snd e6 ?_
      with_reducible apply applyLoads_kept
      exact k2
    extract_lets +onlyGivenNames x8
    clear_value x8
    refine Kept.snd ?_
    exact k7

theorem cjWrite_kept (s : State) (req kind txn result loader nreg ntbl : Nat) (body : List Byte) {z : State} (hK : Kept z s) :
    Kept z (cjWrite s req kind txn result loader nreg ntbl body) := by
  unfold cjWrite
  extract_lets +onlyGivenNames x1
  clear_value x1
  extract_lets +onlyGivenNames x2
  have k3 : Kept z x2 := by
    subst x2
    with_reducible apply scrWrite_kept
    exact hK
  clear_value x2
  refine Kept.upd ?_ ..
  exact k3

theorem cjTxn_kept (s : State) (t : Txn) (v : Verdict) {z : State} (hK : Kept z s) :
    Kept z (cjTxn s t v) := by
  unfold cjTxn
  with_reducible apply cjWrite_kept
  exact hK

theorem cjRest_kept (s : State) (t : Txn) {z : State} (hK : Kept z s) :
    Kept z (cjRest s t) := by
  unfold cjRest
  extract_lets +onlyGivenNames x1
  clear_value x1
  extract_lets +onlyGivenNames x2
  have k3 : Kept z x2 := by
    subst x2
    refine Kept.foldl ?_ ?_
    · exact hK
    · intro v4 v5 k6
      with_reducible apply cjWrite_kept
      exact k6
  clear_value x2
  refine Kept.foldl ?_ ?_
  · exact k3
  · intro v7 v8 k9
    with_reducible apply cjWrite_kept
    exact k9

theorem txnResult_kept (s : State) (t : Txn) (r : Nat) {z : State} (hK : Kept z s) :
    Kept z (txnResult s t r) := by
  unfold txnResult
  refine Kept.ite ?_ ?_
  · refine Kept.upd ?_ ..
    exact hK
  · exact hK

theorem txnDropped_kept (s : State) (t : Txn) (v : Verdict) {z : State} (hK : Kept z s) :
    Kept z (txnDropped s t v) := by
  unfold txnDropped
  with_reducible apply cjTxn_kept
  with_reducible apply txnResult_kept
  exact hK

theorem txnRefused_kept (s : State) (t : Txn) (v : Verdict) {z : State} (hK : Kept z s) :
    Kept z (txnRefused s t v) := by
  unfold txnRefused
  extract_lets +onlyGivenNames x1
  have k2 : Kept z x1 := by
    subst x1
    with_reducible apply txnResult_kept
    exact hK
  clear_value x1
  refine Kept.ite ?_ ?_
  · with_reducible apply bump_kept
    exact k2
  · with_reducible apply cjTxn_kept
    exact k2

theorem mapQuern_kept (old s : State) (q : Nat) {z : State} (hK : Kept z s) :
    Kept z (mapQuern old s q) := by
  unfold mapQuern
  extract_lets +onlyGivenNames x1
  clear_value x1
  extract_lets +onlyGivenNames x2
  clear_value x2
  refine Kept.ite ?_ ?_
  · exact hK
  · split
    · rename_i v3 v4 e5
      refine Kept.ite ?_ ?_
      · exact hK
      · split
        · rename_i v6 v7 v8 e9
          have k10 : Kept z v8 := by
            refine Kept.of_snd e9 ?_
            with_reducible apply drawFree_kept
            exact hK
          with_reducible apply qnMod_kept
          exact k10
    · rename_i v11 e12
      with_reducible apply qnMod_kept
      exact hK

theorem forgetSteps_kept (s : State) {z : State} (hK : Kept z s) :
    Kept z (forgetSteps s) := by
  unfold forgetSteps
  refine Kept.upd ?_ ..
  exact hK

theorem committedEffects_kept (old new : State) (t : Txn) {z : State} (hK : Kept z new) :
    Kept z (committedEffects old new t) := by
  unfold committedEffects
  extract_lets +onlyGivenNames x1
  clear_value x1
  extract_lets +onlyGivenNames x2
  have k3 : Kept z x2 := by
    subst x2
    exact hK
  clear_value x2
  extract_lets +onlyGivenNames x4
  clear_value x4
  extract_lets +onlyGivenNames x5
  have k6 : Kept z x5 := by
    subst x5
    refine Kept.ite ?_ ?_
    · with_reducible apply forgetSteps_kept
      refine Kept.upd ?_ ..
      exact k3
    · exact k3
  clear_value x5
  extract_lets +onlyGivenNames x7
  clear_value x7
  extract_lets +onlyGivenNames x8
  clear_value x8
  extract_lets +onlyGivenNames x9
  have k10 : Kept z x9 := by
    subst x9
    refine Kept.ite ?_ ?_
    · refine Kept.upd ?_ ..
      exact k6
    · exact k6
  clear_value x9
  extract_lets +onlyGivenNames x11
  clear_value x11
  extract_lets +onlyGivenNames x12
  clear_value x12
  extract_lets +onlyGivenNames x13
  have k14 : Kept z x13 := by
    subst x13
    refine Kept.ite ?_ ?_
    · refine Kept.upd ?_ ..
      exact k10
    · exact k10
  clear_value x13
  extract_lets +onlyGivenNames x15
  clear_value x15
  extract_lets +onlyGivenNames x16
  extract_lets +onlyGivenNames x17
  have k18 : Kept z x17 := by
    subst x17
    refine Kept.ite ?_ ?_
    · refine Kept.updMem ?_ ..
      exact k14
    · exact k14
  clear_value x17
  extract_lets +onlyGivenNames x19
  have k20 : Kept z x19 := by
    subst x19
    refine Kept.ite ?_ ?_
    · refine Kept.foldl ?_ ?_
      · exact k18
      · intro v21 v22 k23
        with_reducible apply mapQuern_kept
        exact k23
    · exact k18
  clear_value x19
  extract_lets +onlyGivenNames x24
  clear_value x24
  refine Kept.upd ?_ ..
  exact k20

theorem txnApply_kept (s : State) (t : Txn) (atOpen : Bool) {z : State} (hK : Kept z s) :
    Kept z (txnApply s t atOpen) := by
  unfold txnApply
  extract_lets +onlyGivenNames x1
  clear_value x1
  extract_lets +onlyGivenNames x2
  have k3 : Kept z x2 := by
    subst x2
    refine Kept.upd ?_ ..
    exact hK
  clear_value x2
  split
  · rename_i v4 v5 v6 e7
    have k8 : Kept z v6 := by
      refine Kept.of_snd e7 ?_
      with_reducible apply judge_kept
      exact k3
    refine Kept.ite ?_ ?_
    · with_reducible apply txnDropped_kept
      exact k3
    · extract_lets +onlyGivenNames x9
      clear_value x9
      extract_lets +onlyGivenNames x10
      have k11 : Kept z x10 := by
        subst x10
        with_reducible apply committedEffects_kept
        exact k8
      clear_value x10
      extract_lets +onlyGivenNames x12
      clear_value x12
      extract_lets +onlyGivenNames x13
      have k14 : Kept z x13 := by
        subst x13
        refine Kept.upd ?_ ..
        exact k11
      clear_value x13
      extract_lets +onlyGivenNames x15
      clear_value x15
      extract_lets +onlyGivenNames x16
      have k17 : Kept z x16 := by
        subst x16
        refine Kept.ite ?_ ?_
        · refine Kept.upd ?_ ..
          exact k14
        · exact k14
      clear_value x16
      extract_lets +onlyGivenNames x18
      have k19 : Kept z x18 := by
        subst x18
        with_reducible apply cjRest_kept
        with_reducible apply cjTxn_kept
        with_reducible apply txnResult_kept
        exact k17
      clear_value x18
      refine Kept.ite ?_ ?_
      · with_reducible apply cjTxn_kept
        exact k19
      · exact k19

theorem applyDue_kept (s : State) {z : State} (hK : Kept z s) :
    Kept z (applyDue s) := by
  unfold applyDue
  refine Kept.foldl ?_ ?_
  · exact hK
  · intro v1 v2 k3
    with_reducible apply txnApply_kept
    exact k3

theorem openNamed_kept (s : State) (st : Nat) {z : State} (hK : Kept z s) :
    Kept z (openNamed s st) := by
  unfold openNamed
  extract_lets +onlyGivenNames x1
  clear_value x1
  extract_lets +onlyGivenNames x2
  clear_value x2
  extract_lets +onlyGivenNames x3
  have k4 : Kept z x3 := by
    subst x3
    refine Kept.upd ?_ ..
    exact hK
  clear_value x3
  extract_lets +onlyGivenNames x5
  have k6 : Kept z x5 := by
    subst x5
    refine Kept.foldl ?_ ?_
    · exact k4
    · intro v7 v8 k9
      with_reducible apply txnDropped_kept
      exact k9
  clear_value x5
  refine Kept.foldl ?_ ?_
  · exact k6
  · intro v10 v11 k12
    with_reducible apply txnApply_kept
    exact k12

theorem apb_kept (s : State) (data : Nat) (err : Bool) {z : State} (hK : Kept z s) :
    Kept z (apb s data err) := by
  unfold apb
  refine Kept.upd ?_ ..
  exact hK

theorem txnBegin_kept (s : State) (req : Nat) {z : State} (hK : Kept z s) :
    Kept z (txnBegin s req) := by
  unfold txnBegin
  refine Kept.ite ?_ ?_
  · with_reducible apply apb_kept
    exact hK
  · with_reducible apply apb_kept
    refine Kept.upd ?_ ..
    exact hK

theorem closeTxn_kept (s : State) (t : Txn) {z : State} (hK : Kept z s) :
    Kept z (closeTxn s t).2 := by
  unfold closeTxn
  extract_lets +onlyGivenNames x1
  clear_value x1
  refine Kept.snd ?_
  refine Kept.upd ?_ ..
  exact hK

theorem txnCommit_kept (s : State) (req wh : Nat) {z : State} (hK : Kept z s) :
    Kept z (txnCommit s req wh) := by
  unfold txnCommit
  split
  · rename_i v1 e2
    with_reducible apply apb_kept
    exact hK
  · rename_i v3 v4 e5
    refine Kept.ite ?_ ?_
    · with_reducible apply apb_kept
      exact hK
    · extract_lets +onlyGivenNames x6
      clear_value x6
      split
      · rename_i v7 v8 v9 e10
        have k11 : Kept z v9 := by
          refine Kept.of_snd e10 ?_
          with_reducible apply closeTxn_kept
          with_reducible apply apb_kept
          exact hK
        extract_lets +onlyGivenNames x12
        clear_value x12
        refine Kept.ite ?_ ?_
        · with_reducible apply txnRefused_kept
          exact k11
        · refine Kept.ite ?_ ?_
          · with_reducible apply txnRefused_kept
            exact k11
          · refine Kept.ite ?_ ?_
            · with_reducible apply txnRefused_kept
              exact k11
            · with_reducible apply txnResult_kept
              refine Kept.upd ?_ ..
              exact k11

theorem txnRollback_kept (s : State) (req : Nat) {z : State} (hK : Kept z s) :
    Kept z (txnRollback s req) := by
  unfold txnRollback
  split
  · rename_i v1 e2
    with_reducible apply apb_kept
    exact hK
  · rename_i v3 v4 e5
    refine Kept.ite ?_ ?_
    · with_reducible apply apb_kept
      exact hK
    · split
      · rename_i v6 v7 v8 e9
        have k10 : Kept z v8 := by
          refine Kept.of_snd e9 ?_
          with_reducible apply closeTxn_kept
          with_reducible apply apb_kept
          exact hK
        with_reducible apply txnRefused_kept
        exact k10

theorem txnValidated_kept (s : State) {z : State} (hK : Kept z s) :
    Kept z (txnValidated s) := by
  unfold txnValidated
  split
  · rename_i v1 e2
    exact hK
  · rename_i v3 v4 v5 e6
    extract_lets +onlyGivenNames x7
    clear_value x7
    extract_lets +onlyGivenNames x8
    have k9 : Kept z x8 := by
      subst x8
      refine Kept.upd ?_ ..
      exact hK
    clear_value x8
    refine Kept.ite ?_ ?_
    · with_reducible apply txnRefused_kept
      exact k9
    · split
      · rename_i v10 v11 v12 v13 e14
        have k15 : Kept z v13 := by
          refine Kept.of_snd_snd e14 ?_
          with_reducible apply copyLoads_kept
          exact k9
        refine Kept.ite ?_ ?_
        · with_reducible apply txnRefused_kept
          exact k15
        · split
          · rename_i v16 v17 v18 e19
            have k20 : Kept z v18 := by
              refine Kept.of_snd e19 ?_
              with_reducible apply judge_kept
              exact k15
            refine Kept.ite ?_ ?_
            · with_reducible apply txnRefused_kept
              exact k15
            · refine Kept.upd ?_ ..
              exact k15

theorem txnCancel_kept (s : State) (id : Nat) {z : State} (hK : Kept z s) :
    Kept z (txnCancel s id) := by
  unfold txnCancel
  extract_lets +onlyGivenNames x1
  have k2 : Kept z x1 := by
    subst x1
    with_reducible apply apb_kept
    exact hK
  clear_value x1
  split
  · rename_i v3 e4
    exact k2
  · rename_i v5 v6 e7
    refine Kept.ite ?_ ?_
    · with_reducible apply txnDropped_kept
      refine Kept.upd ?_ ..
      exact k2
    · exact k2

theorem stageLoad_kept (s : State) (req code : Nat) {z : State} (hK : Kept z s) :
    Kept z (stageLoad s req code) := by
  unfold stageLoad
  split
  · rename_i v1 e2
    with_reducible apply apb_kept
    exact hK
  · rename_i v3 v4 e5
    refine Kept.ite ?_ ?_
    · with_reducible apply apb_kept
      exact hK
    · extract_lets +onlyGivenNames x6
      clear_value x6
      extract_lets +onlyGivenNames x7
      clear_value x7
      with_reducible apply apb_kept
      refine Kept.upd ?_ ..
      exact hK

theorem stageWrite_kept (s : State) (req off v : Nat) {z : State} (hK : Kept z s) :
    Kept z (stageWrite s req off v).2 := by
  unfold stageWrite
  split
  · rename_i v1 e2
    refine Kept.snd ?_
    exact hK
  · rename_i v3 v4 e5
    extract_lets +onlyGivenNames x6
    clear_value x6
    refine Kept.ite_snd ?_ ?_
    · refine Kept.snd ?_
      exact hK
    · extract_lets +onlyGivenNames x7
      clear_value x7
      refine Kept.snd ?_
      refine Kept.upd ?_ ..
      exact hK

theorem execTxnBegin_kept (req : Nat) (s : State) {z : State} (hK : Kept z s) :
    KeptOut z (execTxnBegin req s) := by
  unfold execTxnBegin
  refine KeptOut.next ?_
  with_reducible apply txnBegin_kept
  exact hK

theorem execTxnCommit_kept (req wh : Nat) (s : State) {z : State} (hK : Kept z s) :
    KeptOut z (execTxnCommit req wh s) := by
  unfold execTxnCommit
  refine KeptOut.next ?_
  with_reducible apply txnCommit_kept
  exact hK

theorem execTxnRollback_kept (req : Nat) (s : State) {z : State} (hK : Kept z s) :
    KeptOut z (execTxnRollback req s) := by
  unfold execTxnRollback
  refine KeptOut.next ?_
  with_reducible apply txnRollback_kept
  exact hK

theorem execTxnValidated_kept (s : State) {z : State} (hK : Kept z s) :
    KeptOut z (execTxnValidated s) := by
  unfold execTxnValidated
  refine KeptOut.next ?_
  with_reducible apply txnValidated_kept
  exact hK

theorem execTxnCancel_kept (id : Nat) (s : State) {z : State} (hK : Kept z s) :
    KeptOut z (execTxnCancel id s) := by
  unfold execTxnCancel
  refine KeptOut.next ?_
  with_reducible apply txnCancel_kept
  exact hK

theorem execLoadTensorTable_kept (req : Nat) (s : State) {z : State} (hK : Kept z s) :
    KeptOut z (execLoadTensorTable req s) := by
  unfold execLoadTensorTable
  refine KeptOut.next ?_
  with_reducible apply stageLoad_kept
  exact hK

theorem execLoadHyperparameterSets_kept (req : Nat) (s : State) {z : State} (hK : Kept z s) :
    KeptOut z (execLoadHyperparameterSets req s) := by
  unfold execLoadHyperparameterSets
  refine KeptOut.next ?_
  with_reducible apply stageLoad_kept
  exact hK

theorem execLoadRouteTable_kept (req : Nat) (s : State) {z : State} (hK : Kept z s) :
    KeptOut z (execLoadRouteTable req s) := by
  unfold execLoadRouteTable
  refine KeptOut.next ?_
  with_reducible apply stageLoad_kept
  exact hK

theorem execLoadMulticastTable_kept (req : Nat) (s : State) {z : State} (hK : Kept z s) :
    KeptOut z (execLoadMulticastTable req s) := by
  unfold execLoadMulticastTable
  refine KeptOut.next ?_
  with_reducible apply stageLoad_kept
  exact hK

theorem execLoadCustomRecipe_kept (req : Nat) (s : State) {z : State} (hK : Kept z s) :
    KeptOut z (execLoadCustomRecipe req s) := by
  unfold execLoadCustomRecipe
  refine KeptOut.next ?_
  with_reducible apply stageLoad_kept
  exact hK

theorem execRecipeRemoval_kept (req : Nat) (s : State) {z : State} (hK : Kept z s) :
    KeptOut z (execRecipeRemoval req s) := by
  unfold execRecipeRemoval
  refine KeptOut.next ?_
  with_reducible apply stageLoad_kept
  exact hK

theorem execLoadGovernorFirmware_kept (req : Nat) (s : State) {z : State} (hK : Kept z s) :
    KeptOut z (execLoadGovernorFirmware req s) := by
  unfold execLoadGovernorFirmware
  refine KeptOut.next ?_
  with_reducible apply stageLoad_kept
  exact hK

theorem execTableCopyDone_kept (s : State) {z : State} (hK : Kept z s) :
    KeptOut z (execTableCopyDone s) := by
  unfold execTableCopyDone
  refine KeptOut.next ?_
  refine Kept.upd ?_ ..
  exact hK

end Sys2Proof.Machine
end

