-- ==== Sys2Proof/Laws/Clock.lean ====
section
/-!
SUPPORT. What each operation of Machine/Clock.lean keeps (`Kept`): the chip, the queue, the Turn and the canonical stores.
-/
namespace Sys2Proof.Machine

theorem clusterMod_kept (s : State) (c : Nat) (f : Cluster → Cluster) {z : State} (hK : Kept z s) :
    Kept z (clusterMod s c f) := by
  unfold clusterMod
  refine Kept.updUnits ?_ _ _ _ _ (by simp [modAt, shapeOf]) ..
  exact hK

theorem pmAsk_kept (s : State) (c point kind : Nat) {z : State} (hK : Kept z s) :
    Kept z (pmAsk s c point kind) := by
  unfold pmAsk
  refine Kept.updClk ?_ ..
  exact hK

theorem pmIssue_kept (s : State) {z : State} (hK : Kept z s) :
    Kept z (pmIssue s) := by
  unfold pmIssue
  split
  · rename_i v1 v2 v3 v4 e5 e6
    with_reducible apply clusterMod_kept
    refine Kept.updClk ?_ ..
    exact hK
  · rename_i v7 v8 e9
    exact hK

theorem pointsTurn_kept (s : State) (points : List (Nat × Nat)) {z : State} (hK : Kept z s) :
    Kept z (pointsTurn s points) := by
  unfold pointsTurn
  extract_lets +onlyGivenNames x1
  have k2 : Kept z x1 := by
    subst x1
    refine Kept.foldl ?_ ?_
    · exact hK
    · intro v3 v4 k5
      with_reducible apply clusterMod_kept
      exact k5
  clear_value x1
  extract_lets +onlyGivenNames x6
  clear_value x6
  with_reducible apply pmIssue_kept
  refine Kept.foldl ?_ ?_
  · exact k2
  · intro v7 v8 k9
    with_reducible apply pmAsk_kept
    exact k9

theorem pmAck_kept (s : State) (refused : Bool) (volt : Nat) {z : State} (hK : Kept z s) :
    Kept z (pmAck s refused volt) := by
  unfold pmAck
  split
  · rename_i v1 e2
    exact hK
  · rename_i v3 v4 e5
    extract_lets +onlyGivenNames x6
    extract_lets +onlyGivenNames x7
    have k8 : Kept z x7 := by
      subst x7
      refine Kept.updClk ?_ ..
      exact hK
    clear_value x7
    extract_lets +onlyGivenNames x9
    have k10 : Kept z x9 := by
      subst x9
      with_reducible apply clusterMod_kept
      exact k8
    clear_value x9
    extract_lets +onlyGivenNames x11
    clear_value x11
    extract_lets +onlyGivenNames x12
    have k13 : Kept z x12 := by
      subst x12
      refine Kept.ite ?_ ?_
      · refine Kept.upd ?_ ..
        exact k10
      · exact k10
    clear_value x12
    refine Kept.foldl ?_ ?_
    · exact k13
    · intro v14 v15 k16
      with_reducible apply event_kept
      exact k16

theorem pmTimeout_kept (s : State) {z : State} (hK : Kept z s) :
    Kept z (pmTimeout s) := by
  unfold pmTimeout
  split
  · rename_i v1 v2 e3
    refine Kept.ite ?_ ?_
    · with_reducible apply event_kept
      exact hK
    · exact hK
  · rename_i v4 e5
    exact hK

theorem voltTurn_kept (s : State) {z : State} (hK : Kept z s) :
    Kept z (voltTurn s) := by
  unfold voltTurn
  refine Kept.foldl ?_ ?_
  · exact hK
  · intro v1 v2 k3
    extract_lets +onlyGivenNames x4
    clear_value x4
    with_reducible apply clusterMod_kept
    exact k3

theorem thermalWheel_kept (s : State) {z : State} (hK : Kept z s) :
    Kept z (thermalWheel s) := by
  unfold thermalWheel
  refine Kept.foldl ?_ ?_
  · exact hK
  · intro v1 v2 k3
    extract_lets +onlyGivenNames x4
    clear_value x4
    refine Kept.ite ?_ ?_
    · with_reducible apply clusterMod_kept
      exact k3
    · with_reducible apply event_kept
      exact k3

theorem tempAsk_kept (s : State) (addrs : List Nat) {z : State} (hK : Kept z s) :
    Kept z (tempAsk s addrs) := by
  unfold tempAsk
  extract_lets +onlyGivenNames x1
  clear_value x1
  split
  · rename_i v2 v3 v4 v5 e6
    refine Kept.updClk ?_ ..
    exact hK
  · rename_i v7 v8 v9 e10
    refine Kept.updClk ?_ ..
    exact hK

theorem tempNext_kept (s : State) {z : State} (hK : Kept z s) :
    Kept z (tempNext s) := by
  unfold tempNext
  with_reducible apply tempAsk_kept
  refine Kept.updClk ?_ ..
  exact hK

theorem tempReply_kept (s : State) (temp : Nat) {z : State} (hK : Kept z s) :
    Kept z (tempReply s temp) := by
  unfold tempReply
  split
  · rename_i v1 e2
    exact hK
  · rename_i v3 v4 e5
    extract_lets +onlyGivenNames x6
    extract_lets +onlyGivenNames x7
    extract_lets +onlyGivenNames x8
    have k9 : Kept z x8 := by
      subst x8
      refine Kept.ite ?_ ?_
      · with_reducible apply clusterMod_kept
        exact hK
      · refine Kept.ite ?_ ?_
        · refine Kept.updClk ?_ ..
          exact hK
        · refine Kept.updClk ?_ ..
          exact hK
    clear_value x8
    with_reducible apply tempNext_kept
    exact k9

theorem tempTimeout_kept (s : State) {z : State} (hK : Kept z s) :
    Kept z (tempTimeout s) := by
  unfold tempTimeout
  split
  · rename_i v1 e2
    exact hK
  · rename_i v3 v4 e5
    with_reducible apply tempNext_kept
    with_reducible apply event_kept
    exact hK

theorem execPmAck_kept (refused : Bool) (volt : Nat) (s : State) {z : State} (hK : Kept z s) :
    KeptOut z (execPmAck refused volt s) := by
  unfold execPmAck
  refine KeptOut.next ?_
  with_reducible apply pmAck_kept
  exact hK

theorem execPmAckTimeout_kept (s : State) {z : State} (hK : Kept z s) :
    KeptOut z (execPmAckTimeout s) := by
  unfold execPmAckTimeout
  refine KeptOut.next ?_
  with_reducible apply pmTimeout_kept
  exact hK

theorem execTempReply_kept (temp : Nat) (s : State) {z : State} (hK : Kept z s) :
    KeptOut z (execTempReply temp s) := by
  unfold execTempReply
  refine KeptOut.next ?_
  with_reducible apply tempReply_kept
  exact hK

theorem execTempReplyTimeout_kept (s : State) {z : State} (hK : Kept z s) :
    KeptOut z (execTempReplyTimeout s) := by
  unfold execTempReplyTimeout
  refine KeptOut.next ?_
  with_reducible apply tempTimeout_kept
  exact hK

end Sys2Proof.Machine
end

