-- ==== Sys2Proof/Laws/Factors.lean ====
section
/-!
SUPPORT. What each operation of Machine/Factors.lean keeps (`Kept`): the chip, the queue, the Turn and the canonical stores.
-/
namespace Sys2Proof.Machine

theorem writeFactors_kept (s : State) (clip : Nat) (word0 : Bool) {z : State} (hK : Kept z s) :
    Kept z (writeFactors s clip word0) := by
  unfold writeFactors
  refine Kept.foldl ?_ ?_
  · exact hK
  · intro v1 v2 k3
    extract_lets +onlyGivenNames x4
    clear_value x4
    extract_lets +onlyGivenNames x5
    clear_value x5
    extract_lets +onlyGivenNames x6
    have k7 : Kept z x6 := by
      subst x6
      refine Kept.ite ?_ ?_
      · with_reducible apply scrWrite_kept
        exact k3
      · exact k3
    clear_value x6
    with_reducible apply scrWrite_kept
    exact k7

theorem writeGs_kept (s : State) (clip : Nat) {z : State} (hK : Kept z s) :
    Kept z (writeGs s clip) := by
  unfold writeGs
  refine Kept.foldl ?_ ?_
  · exact hK
  · intro v1 v2 k3
    with_reducible apply scrWrite_kept
    exact k3

end Sys2Proof.Machine
end

