-- ==== Sys2Proof/Laws/Recipes.lean ====
section
/-!
SUPPORT. What each operation of Machine/Recipes.lean keeps (`Kept`): the chip, the queue, the Turn and the canonical stores.
-/
namespace Sys2Proof.Machine

theorem qRead_kept (s : State) (off n : Nat) {z : State} (hK : Kept z s) :
    Kept z (qRead s off n).2.2 := by
  unfold qRead
  split
  · rename_i v1 v2 v3 e4
    have k5 : Kept z v3 := by
      refine Kept.of_snd e4 ?_
      with_reducible apply rangeRead_kept
      exact hK
    extract_lets +onlyGivenNames x6
    clear_value x6
    refine Kept.snd_snd_mk ?_
    refine Kept.snd ?_
    exact k5

theorem qWrite_kept (s : State) (off : Nat) (bs : List Byte) {z : State} (hK : Kept z s) :
    Kept z (qWrite s off bs) := by
  unfold qWrite
  with_reducible apply rangeWrite_kept
  exact hK

theorem readField_kept (s : State) (t : TEnt) (slot k : Nat) {z : State} (hK : Kept z s) :
    Kept z (readField s t slot k).2.2 := by
  unfold readField
  split
  · rename_i v1 v2 v3 v4 e5
    have k6 : Kept z v4 := by
      refine Kept.of_snd_snd e5 ?_
      refine Kept.foldl_snd_snd ?_ ?_
      · refine Kept.snd_snd_mk ?_
        refine Kept.snd ?_
        exact hK
      · intro v7 v8 k9
        split
        · rename_i v10 v11 v12 v13 e14
          have k15 : Kept z v13 := by
            refine Kept.of_snd_snd e14 ?_
            with_reducible apply qRead_kept
            exact k9
          refine Kept.snd_snd_mk ?_
          refine Kept.snd ?_
          exact k15
    refine Kept.snd_snd_mk ?_
    refine Kept.snd ?_
    exact k6

theorem writeField_kept (s : State) (t : TEnt) (slot k : Nat) (pages : List (List Byte)) {z : State} (hK : Kept z s) :
    Kept z (writeField s t slot k pages) := by
  unfold writeField
  extract_lets +onlyGivenNames x1
  clear_value x1
  refine Kept.foldl ?_ ?_
  · exact hK
  · intro v2 v3 k4
    split
    · rename_i v5 v6 v7
      with_reducible apply qWrite_kept
      exact k4

theorem readVals_kept (s : State) (t : TEnt) (slot k : Nat) {z : State} (hK : Kept z s) :
    Kept z (readVals s t slot k).2.2 := by
  unfold readVals
  split
  · rename_i v1 v2 v3 v4 e5
    have k6 : Kept z v4 := by
      refine Kept.of_snd_snd e5 ?_
      with_reducible apply readField_kept
      exact hK
    refine Kept.ite_snd_snd ?_ ?_
    · split
      · rename_i v7 v8 v9 v10 e11
        have k12 : Kept z v10 := by
          refine Kept.of_snd_snd e11 ?_
          with_reducible apply readField_kept
          exact k6
        refine Kept.snd_snd_mk ?_
        refine Kept.snd ?_
        exact k12
    · refine Kept.snd_snd_mk ?_
      refine Kept.snd ?_
      exact k6

theorem readMasters_kept (s : State) (t : TEnt) (p : Nat) {z : State} (hK : Kept z s) :
    Kept z (readMasters s t p).2.2 := by
  unfold readMasters
  split
  · rename_i v1 v2 v3 v4 e5
    have k6 : Kept z v4 := by
      refine Kept.of_snd_snd e5 ?_
      with_reducible apply qRead_kept
      exact hK
    split
    · rename_i v7 v8 v9 v10 e11
      have k12 : Kept z v10 := by
        refine Kept.of_snd_snd e11 ?_
        with_reducible apply readField_kept
        exact k6
      extract_lets +onlyGivenNames x13
      clear_value x13
      extract_lets +onlyGivenNames x14
      clear_value x14
      refine Kept.snd_snd_mk ?_
      refine Kept.snd ?_
      exact k12

theorem writeMasters_kept (s : State) (t : TEnt) (p : Nat) (ws : List Nat) {z : State} (hK : Kept z s) :
    Kept z (writeMasters s t p ws) := by
  unfold writeMasters
  extract_lets +onlyGivenNames x1
  have k2 : Kept z x1 := by
    subst x1
    with_reducible apply qWrite_kept
    exact hK
  clear_value x1
  with_reducible apply writeField_kept
  exact k2

theorem writeHeaders_kept (s : State) (t : TEnt) (p st form : Nat) {z : State} (hK : Kept z s) :
    Kept z (writeHeaders s t p st form) := by
  unfold writeHeaders
  refine Kept.foldl ?_ ?_
  · exact hK
  · intro v1 v2 k3
    with_reducible apply qWrite_kept
    exact k3

theorem noteNorm_kept (s : State) (entry group kind : Nat) (xs : List FV) {z : State} (hK : Kept z s) :
    Kept z (noteNorm s entry group kind xs) := by
  unfold noteNorm
  extract_lets +onlyGivenNames x1
  clear_value x1
  extract_lets +onlyGivenNames x2
  clear_value x2
  extract_lets +onlyGivenNames x3
  clear_value x3
  extract_lets +onlyGivenNames x4
  clear_value x4
  extract_lets +onlyGivenNames x5
  clear_value x5
  extract_lets +onlyGivenNames x6
  clear_value x6
  extract_lets +onlyGivenNames x7
  have k8 : Kept z x7 := by
    subst x7
    refine Kept.upd ?_ ..
    exact hK
  clear_value x7
  extract_lets +onlyGivenNames x9
  have k10 : Kept z x9 := by
    subst x9
    refine Kept.ite ?_ ?_
    · exact k8
    · with_reducible apply bumpBy_kept
      exact k8
  clear_value x9
  extract_lets +onlyGivenNames x11
  have k12 : Kept z x11 := by
    subst x11
    refine Kept.ite ?_ ?_
    · exact k10
    · with_reducible apply bumpBy_kept
      exact k10
  clear_value x11
  refine Kept.ite ?_ ?_
  · with_reducible apply markOverflow_kept
    exact k12
  · exact k12

theorem unitFlags_kept (s : State) (i : Nat) (fl : Flags) {z : State} (hK : Kept z s) :
    Kept z (unitFlags s i fl) := by
  unfold unitFlags
  extract_lets +onlyGivenNames x1
  clear_value x1
  refine Kept.ite ?_ ?_
  · with_reducible apply regOr_kept
    exact hK
  · exact hK

theorem unitMod_kept (s : State) (i : Nat) (f : FwUnit → FwUnit) {z : State} (hK : Kept z s) :
    Kept z (unitMod s i f) := by
  unfold unitMod
  refine Kept.upd ?_ ..
  exact hK

theorem holdPlaus_kept (s : State) (i fails : Nat) {z : State} (hK : Kept z s) :
    Kept z (holdPlaus s i fails) := by
  unfold holdPlaus
  refine Kept.ite ?_ ?_
  · exact hK
  · refine Kept.upd ?_ ..
    exact hK

theorem unitPoison_kept (s : State) (i addr : Nat) (again : Bool) {z : State} (hK : Kept z s) :
    Kept z (unitPoison s i addr again) := by
  unfold unitPoison
  extract_lets +onlyGivenNames x1
  clear_value x1
  extract_lets +onlyGivenNames x2
  have k3 : Kept z x2 := by
    subst x2
    with_reducible apply consumePoison_kept
    exact hK
  clear_value x2
  refine Kept.ite ?_ ?_
  · exact k3
  · split
    · rename_i v4 v5 v6 e7
      have k8 : Kept z v6 := by
        refine Kept.of_snd e7 ?_
        with_reducible apply drawFree_kept
        exact k3
      with_reducible apply qnMod_kept
      exact k8

theorem applyRecipe_kept (s : State) (i : Nat) (grads : List Nat) (again : Bool) {z : State} (hK : Kept z s) :
    Kept z (applyRecipe s i grads again) := by
  unfold applyRecipe
  extract_lets +onlyGivenNames x1
  clear_value x1
  extract_lets +onlyGivenNames x2
  clear_value x2
  extract_lets +onlyGivenNames x3
  clear_value x3
  extract_lets +onlyGivenNames x4
  clear_value x4
  refine Kept.ite ?_ ?_
  · exact hK
  · refine Kept.ite ?_ ?_
    · with_reducible apply unitPoison_kept
      exact hK
    · split
      · rename_i v5 v6 v7 v8 e9
        have k10 : Kept z v8 := by
          refine Kept.of_snd_snd e9 ?_
          with_reducible apply readMasters_kept
          exact hK
        split
        · rename_i v11 v12 v13 v14 e15
          have k16 : Kept z v14 := by
            refine Kept.of_snd_snd e15 ?_
            refine Kept.ite_snd_snd ?_ ?_
            · with_reducible apply readVals_kept
              exact k10
            · refine Kept.snd_snd_mk ?_
              refine Kept.snd ?_
              exact k10
          split
          · rename_i v17 v18 v19 v20 e21
            have k22 : Kept z v20 := by
              refine Kept.of_snd_snd e21 ?_
              refine Kept.ite_snd_snd ?_ ?_
              · with_reducible apply readVals_kept
                exact k16
              · refine Kept.snd_snd_mk ?_
                refine Kept.snd ?_
                exact k16
            extract_lets +onlyGivenNames x23
            clear_value x23
            split
            · rename_i v24 v25 v26 v27 e28
              have k29 : Kept z v27 := by
                refine Kept.of_snd_snd e28 ?_
                refine Kept.ite_snd_snd ?_ ?_
                · with_reducible apply qRead_kept
                  exact k22
                · refine Kept.snd_snd_mk ?_
                  refine Kept.snd ?_
                  exact k22
              split
              · rename_i v30 v31 e32
                with_reducible apply unitPoison_kept
                exact k29
              · rename_i v33 e34
                extract_lets +onlyGivenNames x35
                clear_value x35
                extract_lets +onlyGivenNames x36
                clear_value x36
                extract_lets +onlyGivenNames x37
                clear_value x37
                extract_lets +onlyGivenNames x38
                clear_value x38
                extract_lets +onlyGivenNames x39
                clear_value x39
                extract_lets +onlyGivenNames x40
                clear_value x40
                extract_lets +onlyGivenNames x41
                clear_value x41
                extract_lets +onlyGivenNames x42
                clear_value x42
                extract_lets +onlyGivenNames x43
                clear_value x43
                extract_lets +onlyGivenNames x44
                clear_value x44
                extract_lets +onlyGivenNames x45
                clear_value x45
                extract_lets +onlyGivenNames x46
                clear_value x46
                extract_lets +onlyGivenNames x47
                clear_value x47
                extract_lets +onlyGivenNames x48
                clear_value x48
                extract_lets +onlyGivenNames x49
                clear_value x49
                extract_lets +onlyGivenNames x50
                clear_value x50
                extract_lets +onlyGivenNames x51
                clear_value x51
                extract_lets +onlyGivenNames x52
                clear_value x52
                extract_lets +onlyGivenNames x53
                have k54 : Kept z x53.1 := by
                  subst x53
                  refine Kept.ite_fst ?_ ?_
                  · split
                    · rename_i v55 v56 v57 v58 v59 v60 e61
                      split
                      · rename_i v62 v63 v64 v65 v66 v67 e68
                        extract_lets +onlyGivenNames x69
                        clear_value x69
                        extract_lets +onlyGivenNames x70
                        have k71 : Kept z x70 := by
                          subst x70
                          with_reducible apply writeField_kept
                          exact k29
                        clear_value x70
                        extract_lets +onlyGivenNames x72
                        have k73 : Kept z x72 := by
                          subst x72
                          refine Kept.ite ?_ ?_
                          · with_reducible apply writeField_kept
                            exact k71
                          · exact k71
                        clear_value x72
                        extract_lets +onlyGivenNames x74
                        have k75 : Kept z x74 := by
                          subst x74
                          refine Kept.ite ?_ ?_
                          · with_reducible apply writeField_kept
                            exact k73
                          · exact k73
                        clear_value x74
                        extract_lets +onlyGivenNames x76
                        clear_value x76
                        extract_lets +onlyGivenNames x77
                        clear_value x77
                        refine Kept.fst ?_
                        exact k75
                  · split
                    · rename_i v78 v79 v80 v81 v82 v83 e84
                      extract_lets +onlyGivenNames x85
                      have k86 : Kept z x85 := by
                        subst x85
                        refine Kept.ite ?_ ?_
                        · with_reducible apply writeField_kept
                          exact k29
                        · exact k29
                      clear_value x85
                      extract_lets +onlyGivenNames x87
                      have k88 : Kept z x87 := by
                        subst x87
                        with_reducible apply qWrite_kept
                        exact k86
                      clear_value x87
                      refine Kept.fst ?_
                      exact k88
                clear_value x53
                split
                · rename_i v89 v90 v91 v92 v93 v94 v95 v96
                  extract_lets +onlyGivenNames x97
                  have k98 : Kept z x97 := by
                    subst x97
                    refine Kept.ite ?_ ?_
                    · with_reducible apply_assumption
                    · with_reducible apply writeMasters_kept
                      with_reducible apply_assumption
                  clear_value x97
                  extract_lets +onlyGivenNames x99
                  have k100 : Kept z x99 := by
                    subst x99
                    with_reducible apply writeHeaders_kept
                    exact k98
                  clear_value x99
                  extract_lets +onlyGivenNames x101
                  clear_value x101
                  extract_lets +onlyGivenNames x102
                  have k103 : Kept z x102 := by
                    subst x102
                    with_reducible apply unitFlags_kept
                    exact k100
                  clear_value x102
                  extract_lets +onlyGivenNames x104
                  clear_value x104
                  extract_lets +onlyGivenNames x105
                  have k106 : Kept z x105 := by
                    subst x105
                    refine Kept.ite ?_ ?_
                    · exact k103
                    · with_reducible apply bumpBy_kept
                      exact k103
                  clear_value x105
                  extract_lets +onlyGivenNames x107
                  have k108 : Kept z x107 := by
                    subst x107
                    with_reducible apply noteNorm_kept
                    exact k106
                  clear_value x107
                  extract_lets +onlyGivenNames x109
                  have k110 : Kept z x109 := by
                    subst x109
                    with_reducible apply noteNorm_kept
                    exact k108
                  clear_value x109
                  extract_lets +onlyGivenNames x111
                  have k112 : Kept z x111 := by
                    subst x111
                    with_reducible apply unitMod_kept
                    exact k110
                  clear_value x111
                  with_reducible apply holdPlaus_kept
                  exact k112

theorem lambPhase2_kept (s : State) (i lt : Nat) {z : State} (hK : Kept z s) :
    Kept z (lambPhase2 s i lt) := by
  unfold lambPhase2
  extract_lets +onlyGivenNames x1
  clear_value x1
  extract_lets +onlyGivenNames x2
  clear_value x2
  extract_lets +onlyGivenNames x3
  clear_value x3
  extract_lets +onlyGivenNames x4
  clear_value x4
  split
  · rename_i v5 v6 v7 v8 e9
    have k10 : Kept z v8 := by
      refine Kept.of_snd_snd e9 ?_
      with_reducible apply readMasters_kept
      exact hK
    split
    · rename_i v11 v12 v13 v14 e15
      have k16 : Kept z v14 := by
        refine Kept.of_snd_snd e15 ?_
        with_reducible apply readVals_kept
        exact k10
      split
      · rename_i v17 v18 v19 v20 e21
        have k22 : Kept z v20 := by
          refine Kept.of_snd_snd e21 ?_
          with_reducible apply readVals_kept
          exact k16
        split
        · rename_i v23 v24 e25
          with_reducible apply unitPoison_kept
          exact k22
        · rename_i v26 e27
          extract_lets +onlyGivenNames x28
          clear_value x28
          extract_lets +onlyGivenNames x29
          have k30 : Kept z x29 := by
            subst x29
            with_reducible apply writeMasters_kept
            exact k22
          clear_value x29
          extract_lets +onlyGivenNames x31
          have k32 : Kept z x31 := by
            subst x31
            with_reducible apply unitFlags_kept
            exact k30
          clear_value x31
          extract_lets +onlyGivenNames x33
          have k34 : Kept z x33 := by
            subst x33
            with_reducible apply unitMod_kept
            exact k32
          clear_value x33
          extract_lets +onlyGivenNames x35
          clear_value x35
          extract_lets +onlyGivenNames x36
          clear_value x36
          with_reducible apply holdPlaus_kept
          exact k34

theorem refreshEntry_kept (s : State) (i : Nat) {z : State} (hK : Kept z s) :
    Kept z (refreshEntry s i) := by
  unfold refreshEntry
  extract_lets +onlyGivenNames x1
  clear_value x1
  extract_lets +onlyGivenNames x2
  clear_value x2
  refine Kept.ite ?_ ?_
  · exact hK
  · extract_lets +onlyGivenNames x3
    clear_value x3
    extract_lets +onlyGivenNames x4
    clear_value x4
    split
    · rename_i v5 v6 v7 v8 e9
      have k10 : Kept z v8 := by
        refine Kept.of_snd_snd e9 ?_
        with_reducible apply qRead_kept
        exact hK
      split
      · rename_i v11 v12
        with_reducible apply unitPoison_kept
        exact k10
      · rename_i v13
        extract_lets +onlyGivenNames x14
        clear_value x14
        extract_lets +onlyGivenNames x15
        have k16 : Kept z x15 := by
          subst x15
          refine Kept.foldl ?_ ?_
          · exact k10
          · intro v17 v18 k19
            refine Kept.foldl ?_ ?_
            · exact k19
            · intro v20 v21 k22
              with_reducible apply qWrite_kept
              exact k22
        clear_value x15
        refine Kept.upd ?_ ..
        exact k16

end Sys2Proof.Machine
end

