-- ==== Sys2Proof/Laws/Units.lean ====
section
/-!
SUPPORT. What each operation of Machine/Units.lean keeps (`Kept`): the chip, the queue, the Turn and the canonical stores.
-/
namespace Sys2Proof.Machine

theorem staleMsg_kept (s : State) {z : State} (hK : Kept z s) :
    Kept z (staleMsg s) := by
  unfold staleMsg
  with_reducible apply bump_kept
  exact hK

theorem withRole_kept (s : State) (m : Msg) (ok : Bool) (body : State → Nat → State) {z : State} (hK : Kept z s) (hbody : ∀ t y0, Kept z t → Kept z (body t y0)) :
    Kept z (withRole s m ok body) := by
  unfold withRole
  refine Kept.ite ?_ ?_
  · exact hK
  · extract_lets +onlyGivenNames x1
    have k2 : Kept z x1 := by
      subst x1
      with_reducible apply consumeMsg_kept
      exact hK
    clear_value x1
    refine Kept.ite ?_ ?_
    · with_reducible apply staleMsg_kept
      exact k2
    · split
      · rename_i v3 v4 e5
        with_reducible apply_assumption
        exact k2
      · rename_i v6 v7 e8
        with_reducible apply sendTo_kept
        with_reducible apply bump_kept
        exact k2
      · rename_i v9 e10
        with_reducible apply bump_kept
        exact k2

theorem dropLow_kept (s : State) (i : Nat) {z : State} (hK : Kept z s) :
    Kept z (dropLow s i) := by
  unfold dropLow
  split
  · rename_i v1 e2
    exact hK
  · rename_i v3 v4 e5
    extract_lets +onlyGivenNames x6
    clear_value x6
    extract_lets +onlyGivenNames x7
    have k8 : Kept z x7 := by
      subst x7
      with_reducible apply unitMod_kept
      exact hK
    clear_value x7
    refine Kept.foldl ?_ ?_
    · exact k8
    · intro v9 v10 k11
      with_reducible apply sendTo_kept
      exact k11

theorem raiseUnit_kept (s : State) (i r : Nat) {z : State} (hK : Kept z s) :
    Kept z (raiseUnit s i r) := by
  unfold raiseUnit
  split
  · rename_i v1 e2
    exact hK
  · rename_i v3 v4 e5
    refine Kept.ite ?_ ?_
    · exact hK
    · with_reducible apply dropLow_kept
      with_reducible apply bumpBy_kept
      with_reducible apply unitMod_kept
      exact hK

theorem failUnit_kept (s : State) (i : Nat) {z : State} (hK : Kept z s) :
    Kept z (failUnit s i) := by
  unfold failUnit
  split
  · rename_i v1 e2
    exact hK
  · rename_i v3 v4 e5
    refine Kept.ite ?_ ?_
    · exact hK
    · with_reducible apply markOverflow_kept
      with_reducible apply unitFlags_kept
      with_reducible apply bump_kept
      with_reducible apply unitMod_kept
      with_reducible apply raiseUnit_kept
      exact hK

theorem detectRaise_kept (s : State) (i : Nat) {z : State} (hK : Kept z s) :
    Kept z (detectRaise s i) := by
  unfold detectRaise
  split
  · rename_i v1 e2
    exact hK
  · rename_i v3 v4 e5
    extract_lets +onlyGivenNames x6
    clear_value x6
    refine Kept.ite ?_ ?_
    · with_reducible apply failUnit_kept
      exact hK
    · with_reducible apply raiseUnit_kept
      exact hK

theorem sendPartial_kept (s : State) (i : Nat) {z : State} (hK : Kept z s) :
    Kept z (sendPartial s i) := by
  unfold sendPartial
  split
  · rename_i v1 e2
    exact hK
  · rename_i v3 v4 e5
    refine Kept.ite ?_ ?_
    · exact hK
    · extract_lets +onlyGivenNames x6
      have k7 : Kept z x6 := by
        subst x6
        with_reducible apply unitMod_kept
        exact hK
      clear_value x6
      refine Kept.foldl ?_ ?_
      · exact k7
      · intro v8 v9 k10
        refine Kept.foldl ?_ ?_
        · exact k10
        · intro v11 v12 k13
          with_reducible apply sendTo_kept
          exact k13

theorem takePartial_kept (s : State) (i : Nat) (m : Msg) {z : State} (hK : Kept z s) :
    Kept z (takePartial s i m) := by
  unfold takePartial
  split
  · rename_i v1 e2
    with_reducible apply staleMsg_kept
    exact hK
  · rename_i v3 v4 e5
    extract_lets +onlyGivenNames x6
    clear_value x6
    extract_lets +onlyGivenNames x7
    clear_value x7
    extract_lets +onlyGivenNames x8
    clear_value x8
    extract_lets +onlyGivenNames x9
    clear_value x9
    extract_lets +onlyGivenNames x10
    clear_value x10
    extract_lets +onlyGivenNames x11
    clear_value x11
    extract_lets +onlyGivenNames x12
    clear_value x12
    extract_lets +onlyGivenNames x13
    clear_value x13
    refine Kept.ite ?_ ?_
    · with_reducible apply staleMsg_kept
      exact hK
    · refine Kept.ite ?_ ?_
      · refine Kept.ite ?_ ?_
        · with_reducible apply sendTo_kept
          exact hK
        · exact hK
      · extract_lets +onlyGivenNames x14
        have k15 : Kept z x14 := by
          subst x14
          with_reducible apply raiseUnit_kept
          exact hK
        clear_value x14
        extract_lets +onlyGivenNames x16
        have k17 : Kept z x16 := by
          subst x16
          with_reducible apply unitMod_kept
          exact k15
        clear_value x16
        extract_lets +onlyGivenNames x18
        have k19 : Kept z x18 := by
          subst x18
          refine Kept.ite ?_ ?_
          · with_reducible apply markOverflow_kept
            with_reducible apply unitFlags_kept
            exact k17
          · exact k17
        clear_value x18
        extract_lets +onlyGivenNames x20
        have k21 : Kept z x20 := by
          subst x20
          refine Kept.ite ?_ ?_
          · with_reducible apply failUnit_kept
            exact k19
          · exact k19
        clear_value x20
        extract_lets +onlyGivenNames x22
        have k23 : Kept z x22 := by
          subst x22
          split
          · rename_i v24 v25 e26
            refine Kept.ite ?_ ?_
            · with_reducible apply failUnit_kept
              exact k21
            · exact k21
          · rename_i v27 e28
            with_reducible apply_assumption
        clear_value x22
        with_reducible apply sendPartial_kept
        exact k23

theorem takeRecomp_kept (s : State) (i r : Nat) {z : State} (hK : Kept z s) :
    Kept z (takeRecomp s i r) := by
  unfold takeRecomp
  with_reducible apply sendPartial_kept
  with_reducible apply raiseUnit_kept
  with_reducible apply unitMod_kept
  exact hK

theorem takeElems_kept (s : State) (i src fmt first : Nat) (codes : List Nat) {z : State} (hK : Kept z s) :
    Kept z (takeElems s i src fmt first codes) := by
  unfold takeElems
  split
  · rename_i v1 e2
    with_reducible apply staleMsg_kept
    exact hK
  · rename_i v3 v4 e5
    extract_lets +onlyGivenNames x6
    clear_value x6
    extract_lets +onlyGivenNames x7
    clear_value x7
    extract_lets +onlyGivenNames x8
    clear_value x8
    extract_lets +onlyGivenNames x9
    clear_value x9
    refine Kept.ite ?_ ?_
    · with_reducible apply staleMsg_kept
      exact hK
    · extract_lets +onlyGivenNames x10
      clear_value x10
      extract_lets +onlyGivenNames x11
      have k12 : Kept z x11 := by
        subst x11
        refine Kept.ite ?_ ?_
        · exact hK
        · with_reducible apply staleMsg_kept
          exact hK
      clear_value x11
      extract_lets +onlyGivenNames x13
      clear_value x13
      extract_lets +onlyGivenNames x14
      have k15 : Kept z x14 := by
        subst x14
        with_reducible apply unitMod_kept
        exact k12
      clear_value x14
      extract_lets +onlyGivenNames x16
      have k17 : Kept z x16 := by
        subst x16
        refine Kept.ite ?_ ?_
        · exact k15
        · with_reducible apply markOverflow_kept
          with_reducible apply unitFlags_kept
          with_reducible apply bumpBy_kept
          exact k15
      clear_value x16
      with_reducible apply sendPartial_kept
      with_reducible apply detectRaise_kept
      exact k17

theorem takeContrib_kept (s : State) (i src fmt first : Nat) (data : List Byte) (poison : Nat) {z : State} (hK : Kept z s) :
    Kept z (takeContrib s i src fmt first data poison) := by
  unfold takeContrib
  extract_lets +onlyGivenNames x1
  clear_value x1
  extract_lets +onlyGivenNames x2
  have k3 : Kept z x2 := by
    subst x2
    refine Kept.ite ?_ ?_
    · exact hK
    · with_reducible apply unitPoison_kept
      exact hK
  clear_value x2
  with_reducible apply takeElems_kept
  exact k3

theorem groupNotice_kept (s : State) (kind i aux : Nat) {z : State} (hK : Kept z s) :
    Kept z (groupNotice s kind i aux) := by
  unfold groupNotice
  extract_lets +onlyGivenNames x1
  clear_value x1
  with_reducible apply multicast_kept
  exact hK

theorem noteAdmit_kept (s : State) (i : Nat) {z : State} (hK : Kept z s) :
    Kept z (noteAdmit s i) := by
  unfold noteAdmit
  refine Kept.ite ?_ ?_
  · exact hK
  · refine Kept.upd ?_ ..
    exact hK

theorem sendSlice_kept (s : State) (i layer buf fmt : Nat) {z : State} (hK : Kept z s) :
    Kept z (sendSlice s i layer buf fmt) := by
  unfold sendSlice
  extract_lets +onlyGivenNames x1
  clear_value x1
  extract_lets +onlyGivenNames x2
  clear_value x2
  extract_lets +onlyGivenNames x3
  clear_value x3
  extract_lets +onlyGivenNames x4
  clear_value x4
  refine Kept.ite ?_ ?_
  · exact hK
  · split
    · rename_i v5 v6 v7 e8
      have k9 : Kept z v7 := by
        refine Kept.of_snd e8 ?_
        with_reducible apply rangeRead_kept
        exact hK
      refine Kept.ite ?_ ?_
      · with_reducible apply markFault_kept
        exact k9
      · extract_lets +onlyGivenNames x10
        clear_value x10
        extract_lets +onlyGivenNames x11
        have k12 : Kept z x11 := by
          subst x11
          refine Kept.upd ?_ ..
          exact k9
        clear_value x11
        extract_lets +onlyGivenNames x13
        clear_value x13
        refine Kept.foldl ?_ ?_
        · exact k12
        · intro v14 v15 k16
          extract_lets +onlyGivenNames x17
          clear_value x17
          extract_lets +onlyGivenNames x18
          clear_value x18
          extract_lets +onlyGivenNames x19
          clear_value x19
          refine Kept.ite ?_ ?_
          · with_reducible apply takeContrib_kept
            exact k16
          · with_reducible apply sendTo_kept
            exact k16

theorem trySlices_kept (s : State) {z : State} (hK : Kept z s) :
    Kept z (trySlices s) := by
  unfold trySlices
  refine Kept.ite ?_ ?_
  · exact hK
  · refine Kept.foldl ?_ ?_
    · exact hK
    · intro v1 v2 k3
      split
      · rename_i v4 v5 v6 v7
        refine Kept.foldl ?_ ?_
        · exact k3
        · intro v8 v9 k10
          refine Kept.ite ?_ ?_
          · exact k10
          · with_reducible apply sendSlice_kept
            exact k10

theorem admitNext_kept (s : State) {z : State} (hK : Kept z s) :
    Kept z (admitNext s) := by
  unfold admitNext
  refine Kept.ite ?_ ?_
  · exact hK
  · split
    · rename_i v1 e2
      exact hK
    · rename_i v3 v4 e5
      refine Kept.ite ?_ ?_
      · exact hK
      · extract_lets +onlyGivenNames x6
        clear_value x6
        extract_lets +onlyGivenNames x7
        have k8 : Kept z x7 := by
          subst x7
          with_reducible apply unitMod_kept
          exact hK
        clear_value x7
        with_reducible apply trySlices_kept
        with_reducible apply noteAdmit_kept
        with_reducible apply groupNotice_kept
        exact k8

theorem admitAll_kept (fu : Nat) (s : State) {z : State} (hK : Kept z s) :
    Kept z (admitAll fu s) := by
  induction fu generalizing s with
  | zero => exact hK
  | succ fu ih =>
    unfold admitAll
    split
    · rename_i v1 v2 e3
      refine Kept.ite ?_ ?_
      · with_reducible apply ih
        with_reducible apply admitNext_kept
        exact hK
      · exact hK
    · rename_i v4 e5
      exact hK

theorem writeLayerWord_kept (s : State) (layer : Nat) (aborted : Bool) {z : State} (hK : Kept z s) :
    Kept z (writeLayerWord s layer aborted) := by
  unfold writeLayerWord
  with_reducible apply scrWrite_kept
  exact hK

theorem layerDone_kept (s : State) (layer : Nat) {z : State} (hK : Kept z s) :
    Kept z (layerDone s layer) := by
  unfold layerDone
  extract_lets +onlyGivenNames x1
  clear_value x1
  refine Kept.ite ?_ ?_
  · exact hK
  · extract_lets +onlyGivenNames x2
    have k3 : Kept z x2 := by
      subst x2
      with_reducible apply writeLayerWord_kept
      exact hK
    clear_value x2
    refine Kept.upd ?_ ..
    exact k3

theorem abortLayerWords_kept (s : State) {z : State} (hK : Kept z s) :
    Kept z (abortLayerWords s) := by
  unfold abortLayerWords
  refine Kept.foldl ?_ ?_
  · exact hK
  · intro v1 v2 k3
    refine Kept.ite ?_ ?_
    · exact k3
    · with_reducible apply writeLayerWord_kept
      exact k3

theorem readGrads_kept (s : State) (i : Nat) {z : State} (hK : Kept z s) :
    Kept z (readGrads s i).2.2 := by
  unfold readGrads
  extract_lets +onlyGivenNames x1
  clear_value x1
  split
  · rename_i v2 v3 v4 v5 e6
    have k7 : Kept z v5 := by
      refine Kept.of_snd_snd e6 ?_
      with_reducible apply qRead_kept
      exact hK
    refine Kept.snd_snd_mk ?_
    refine Kept.snd ?_
    exact k7

theorem runUpdate_kept (s : State) (i : Nat) (again : Bool) {z : State} (hK : Kept z s) :
    Kept z (runUpdate s i again) := by
  unfold runUpdate
  refine Kept.ite ?_ ?_
  · exact hK
  · refine Kept.ite ?_ ?_
    · with_reducible apply unitMod_kept
      exact hK
    · extract_lets +onlyGivenNames x1
      have k2 : Kept z x1 := by
        subst x1
        with_reducible apply unitMod_kept
        exact hK
      clear_value x1
      refine Kept.ite ?_ ?_
      · exact k2
      · split
        · rename_i v3 v4 v5 v6 e7
          have k8 : Kept z v6 := by
            refine Kept.of_snd_snd e7 ?_
            with_reducible apply readGrads_kept
            exact k2
          split
          · rename_i v9 v10
            with_reducible apply unitPoison_kept
            exact k8
          · rename_i v11
            with_reducible apply applyRecipe_kept
            exact k8

theorem finalise_kept (s : State) (i : Nat) {z : State} (hK : Kept z s) :
    Kept z (finalise s i) := by
  unfold finalise
  split
  · rename_i v1 e2
    exact hK
  · rename_i v3 v4 e5
    extract_lets +onlyGivenNames x6
    clear_value x6
    refine Kept.ite ?_ ?_
    · exact hK
    · extract_lets +onlyGivenNames x7
      clear_value x7
      extract_lets +onlyGivenNames x8
      clear_value x8
      extract_lets +onlyGivenNames x9
      clear_value x9
      extract_lets +onlyGivenNames x10
      clear_value x10
      extract_lets +onlyGivenNames x11
      clear_value x11
      extract_lets +onlyGivenNames x12
      have k13 : Kept z x12 := by
        subst x12
        with_reducible apply qWrite_kept
        exact hK
      clear_value x12
      extract_lets +onlyGivenNames x14
      have k15 : Kept z x14 := by
        subst x14
        with_reducible apply unitFlags_kept
        exact k13
      clear_value x14
      extract_lets +onlyGivenNames x16
      have k17 : Kept z x16 := by
        subst x16
        refine Kept.ite ?_ ?_
        · with_reducible apply markOverflow_kept
          exact k15
        · exact k15
      clear_value x16
      extract_lets +onlyGivenNames x18
      have k19 : Kept z x18 := by
        subst x18
        with_reducible apply noteNorm_kept
        exact k17
      clear_value x18
      extract_lets +onlyGivenNames x20
      have k21 : Kept z x20 := by
        subst x20
        with_reducible apply unitMod_kept
        exact k19
      clear_value x20
      extract_lets +onlyGivenNames x22
      have k23 : Kept z x22 := by
        subst x22
        with_reducible apply groupNotice_kept
        exact k21
      clear_value x22
      refine Kept.ite ?_ ?_
      · exact k23
      · with_reducible apply runUpdate_kept
        exact k23

theorem ckptWaitEnd_kept (s : State) (i : Nat) {z : State} (hK : Kept z s) :
    Kept z (ckptWaitEnd s i) := by
  unfold ckptWaitEnd
  split
  · rename_i v1 v2 e3
    refine Kept.ite ?_ ?_
    · with_reducible apply runUpdate_kept
      exact hK
    · exact hK
  · rename_i v4 e5
    exact hK

end Sys2Proof.Machine
end

