-- ==== Sys2Proof/Laws/Decide.lean ====
section
/-!
SUPPORT. What each operation of Machine/Decide.lean keeps (`Kept`): the chip, the queue, the Turn and the canonical stores.
-/
namespace Sys2Proof.Machine

theorem deliver_kept (s : State) (d : Decision) {z : State} (hK : Kept z s) :
    Kept z (deliver s d) := by
  unfold deliver
  split
  · rename_i v1 v2 e3
    with_reducible apply sendTo_kept
    exact hK
  · rename_i v4 e5
    with_reducible apply multicast_kept
    exact hK

theorem issueDecision_kept (s : State) (m : Msg) (dest : Option Nat) {z : State} (hK : Kept z s) :
    Kept z (issueDecision s m dest) := by
  unfold issueDecision
  extract_lets +onlyGivenNames x1
  clear_value x1
  refine Kept.ite ?_ ?_
  · with_reducible apply deliver_kept
    refine Kept.upd ?_ ..
    exact hK
  · extract_lets +onlyGivenNames x2
    clear_value x2
    extract_lets +onlyGivenNames x3
    have k4 : Kept z x3 := by
      subst x3
      refine Kept.upd ?_ ..
      exact hK
    clear_value x3
    refine Kept.ite ?_ ?_
    · with_reducible apply deliver_kept
      exact k4
    · with_reducible apply sendTo_kept
      refine Kept.upd ?_ ..
      exact k4

theorem decideAbort_kept (s : State) (st att reason cause : Nat) {z : State} (hK : Kept z s) :
    Kept z (decideAbort s st att reason cause) := by
  unfold decideAbort
  refine Kept.ite ?_ ?_
  · exact hK
  · with_reducible apply issueDecision_kept
    exact hK

theorem decideOn_kept (s : State) (st att code round : Nat) {z : State} (hK : Kept z s) :
    Kept z (decideOn s st att code round) := by
  unfold decideOn
  refine Kept.ite ?_ ?_
  · exact hK
  · refine Kept.ite ?_ ?_
    · with_reducible apply decideAbort_kept
      exact hK
    · with_reducible apply issueDecision_kept
      exact hK

theorem judgeOpen_kept (s : State) (st att : Nat) {z : State} (hK : Kept z s) :
    Kept z (judgeOpen s st att) := by
  unfold judgeOpen
  extract_lets +onlyGivenNames x1
  clear_value x1
  refine Kept.ite ?_ ?_
  · exact hK
  · extract_lets +onlyGivenNames x2
    clear_value x2
    extract_lets +onlyGivenNames x3
    clear_value x3
    refine Kept.ite ?_ ?_
    · with_reducible apply decideAbort_kept
      exact hK
    · extract_lets +onlyGivenNames x4
      clear_value x4
      extract_lets +onlyGivenNames x5
      clear_value x5
      refine Kept.ite ?_ ?_
      · with_reducible apply decideOn_kept
        exact hK
      · extract_lets +onlyGivenNames x6
        clear_value x6
        extract_lets +onlyGivenNames x7
        have k8 : Kept z x7 := by
          subst x7
          refine Kept.upd ?_ ..
          exact hK
        clear_value x7
        refine Kept.foldl ?_ ?_
        · exact k8
        · intro v9 v10 k11
          with_reducible apply issueDecision_kept
          exact k11

theorem takeOpenRec_kept (s : State) (m : Msg) {z : State} (hK : Kept z s) :
    Kept z (takeOpenRec s m) := by
  unfold takeOpenRec
  refine Kept.ite ?_ ?_
  · exact hK
  · extract_lets +onlyGivenNames x1
    clear_value x1
    extract_lets +onlyGivenNames x2
    clear_value x2
    extract_lets +onlyGivenNames x3
    have k4 : Kept z x3 := by
      subst x3
      refine Kept.ite ?_ ?_
      · refine Kept.upd ?_ ..
        exact hK
      · exact hK
    clear_value x3
    refine Kept.ite ?_ ?_
    · with_reducible apply decideAbort_kept
      exact k4
    · extract_lets +onlyGivenNames x5
      clear_value x5
      extract_lets +onlyGivenNames x6
      clear_value x6
      extract_lets +onlyGivenNames x7
      have k8 : Kept z x7 := by
        subst x7
        refine Kept.upd ?_ ..
        exact k4
      clear_value x7
      extract_lets +onlyGivenNames x9
      clear_value x9
      extract_lets +onlyGivenNames x10
      have k11 : Kept z x10 := by
        subst x10
        refine Kept.ite ?_ ?_
        · refine Kept.upd ?_ ..
          exact k8
        · exact k8
      clear_value x10
      with_reducible apply judgeOpen_kept
      exact k11

theorem judgeGroups_kept (s : State) (st att round : Nat) {z : State} (hK : Kept z s) :
    Kept z (judgeGroups s st att round) := by
  unfold judgeGroups
  extract_lets +onlyGivenNames x1
  clear_value x1
  extract_lets +onlyGivenNames x2
  clear_value x2
  refine Kept.ite ?_ ?_
  · exact hK
  · split
    · rename_i v3 v4 e5
      with_reducible apply decideAbort_kept
      exact hK
    · rename_i v6 e7
      split
      · rename_i v8 v9 e10
        with_reducible apply decideAbort_kept
        exact hK
      · rename_i v11 e12
        extract_lets +onlyGivenNames x13
        clear_value x13
        split
        · rename_i v14 v15 e16
          with_reducible apply decideAbort_kept
          exact hK
        · rename_i v17 e18
          with_reducible apply decideOn_kept
          exact hK

theorem takeGroupRec_kept (s : State) (m : Msg) {z : State} (hK : Kept z s) :
    Kept z (takeGroupRec s m) := by
  unfold takeGroupRec
  refine Kept.ite ?_ ?_
  · exact hK
  · extract_lets +onlyGivenNames x1
    clear_value x1
    extract_lets +onlyGivenNames x2
    clear_value x2
    extract_lets +onlyGivenNames x3
    clear_value x3
    extract_lets +onlyGivenNames x4
    clear_value x4
    extract_lets +onlyGivenNames x5
    have k6 : Kept z x5 := by
      subst x5
      refine Kept.upd ?_ ..
      exact hK
    clear_value x5
    extract_lets +onlyGivenNames x7
    clear_value x7
    extract_lets +onlyGivenNames x8
    have k9 : Kept z x8 := by
      subst x8
      refine Kept.ite ?_ ?_
      · refine Kept.upd ?_ ..
        exact k6
      · exact k6
    clear_value x8
    with_reducible apply judgeGroups_kept
    exact k9

theorem loseStandby_kept (s : State) {z : State} (hK : Kept z s) :
    Kept z (loseStandby s) := by
  unfold loseStandby
  refine Kept.ite ?_ ?_
  · exact hK
  · extract_lets +onlyGivenNames x1
    clear_value x1
    extract_lets +onlyGivenNames x2
    clear_value x2
    extract_lets +onlyGivenNames x3
    have k4 : Kept z x3 := by
      subst x3
      refine Kept.upd ?_ ..
      exact hK
    clear_value x3
    extract_lets +onlyGivenNames x5
    have k6 : Kept z x5 := by
      subst x5
      refine Kept.foldl ?_ ?_
      · exact k4
      · intro v7 v8 k9
        with_reducible apply deliver_kept
        exact k9
    clear_value x5
    refine Kept.ite ?_ ?_
    · with_reducible apply decideAbort_kept
      exact k6
    · exact k6

theorem loseRoot_kept (s : State) {z : State} (hK : Kept z s) :
    Kept z (loseRoot s) := by
  unfold loseRoot
  refine Kept.ite ?_ ?_
  · exact hK
  · extract_lets +onlyGivenNames x1
    clear_value x1
    extract_lets +onlyGivenNames x2
    have k3 : Kept z x2 := by
      subst x2
      refine Kept.upd ?_ ..
      exact hK
    clear_value x2
    refine Kept.ite ?_ ?_
    · with_reducible apply decideAbort_kept
      exact k3
    · exact k3

theorem takeLost_kept (s : State) (c : Nat) {z : State} (hK : Kept z s) :
    Kept z (takeLost s c) := by
  unfold takeLost
  extract_lets +onlyGivenNames x1
  have k2 : Kept z x1 := by
    subst x1
    refine Kept.ite ?_ ?_
    · with_reducible apply loseStandby_kept
      exact hK
    · exact hK
  clear_value x1
  refine Kept.ite ?_ ?_
  · with_reducible apply loseRoot_kept
    exact k2
  · exact k2

theorem takeCopy_kept (s : State) (m : Msg) {z : State} (hK : Kept z s) :
    Kept z (takeCopy s m) := by
  unfold takeCopy
  extract_lets +onlyGivenNames x1
  clear_value x1
  extract_lets +onlyGivenNames x2
  have k3 : Kept z x2 := by
    subst x2
    refine Kept.upd ?_ ..
    exact hK
  clear_value x2
  with_reducible apply sendTo_kept
  exact k3

theorem takeAck_kept (s : State) (m : Msg) {z : State} (hK : Kept z s) :
    Kept z (takeAck s m) := by
  unfold takeAck
  split
  · rename_i v1 e2
    exact hK
  · rename_i v3 v4 e5
    with_reducible apply deliver_kept
    refine Kept.upd ?_ ..
    exact hK

theorem takeQuery_kept (s : State) (m : Msg) {z : State} (hK : Kept z s) :
    Kept z (takeQuery s m) := by
  unfold takeQuery
  refine Kept.ite ?_ ?_
  · exact hK
  · extract_lets +onlyGivenNames x1
    clear_value x1
    split
    · rename_i v2 v3 e4
      with_reducible apply sendTo_kept
      exact hK
    · rename_i v5 e6
      refine Kept.ite ?_ ?_
      · with_reducible apply decideAbort_kept
        exact hK
      · exact hK

theorem sendRecord_kept (s : State) (round : Nat) {z : State} (hK : Kept z s) :
    Kept z (sendRecord s round) := by
  unfold sendRecord
  extract_lets +onlyGivenNames x1
  have k2 : Kept z x1 := by
    subst x1
    refine Kept.foldl ?_ ?_
    · exact hK
    · intro v3 v4 k5
      with_reducible apply sendTo_kept
      exact k5
  clear_value x1
  extract_lets +onlyGivenNames x6
  have k7 : Kept z x6 := by
    subst x6
    with_reducible apply sendTo_kept
    exact k2
  clear_value x6
  refine Kept.upd ?_ ..
  exact k7

theorem askNorm_kept (s : State) (c : Nat) (e : NormEnt) {z : State} (hK : Kept z s) :
    Kept z (askNorm s c e) := by
  unfold askNorm
  extract_lets +onlyGivenNames x1
  clear_value x1
  refine Kept.ite ?_ ?_
  · exact hK
  · with_reducible apply sendTo_kept
    refine Kept.upd ?_ ..
    exact hK

theorem judgeNorms_kept (s : State) (st att round : Nat) {z : State} (hK : Kept z s) :
    Kept z (judgeNorms s st att round) := by
  unfold judgeNorms
  extract_lets +onlyGivenNames x1
  clear_value x1
  refine Kept.ite ?_ ?_
  · exact hK
  · extract_lets +onlyGivenNames x2
    clear_value x2
    extract_lets +onlyGivenNames x3
    clear_value x3
    extract_lets +onlyGivenNames x4
    clear_value x4
    refine Kept.ite ?_ ?_
    · refine Kept.foldl ?_ ?_
      · exact hK
      · intro v5 v6 k7
        with_reducible apply askNorm_kept
        exact k7
    · extract_lets +onlyGivenNames x8
      clear_value x8
      extract_lets +onlyGivenNames x9
      clear_value x9
      extract_lets +onlyGivenNames x10
      have k11 : Kept z x10 := by
        subst x10
        refine Kept.foldl ?_ ?_
        · exact hK
        · intro v12 v13 k14
          refine Kept.foldl ?_ ?_
          · exact k14
          · intro v15 v16 k17
            with_reducible apply sendTo_kept
            exact k17
      clear_value x10
      extract_lets +onlyGivenNames x18
      clear_value x18
      extract_lets +onlyGivenNames x19
      clear_value x19
      extract_lets +onlyGivenNames x20
      clear_value x20
      extract_lets +onlyGivenNames x21
      clear_value x21
      extract_lets +onlyGivenNames x22
      have k23 : Kept z x22 := by
        subst x22
        refine Kept.upd ?_ ..
        exact k11
      clear_value x22
      with_reducible apply sendTo_kept
      exact k23

theorem takeRoundRec_kept (s : State) (m : Msg) {z : State} (hK : Kept z s) :
    Kept z (takeRoundRec s m) := by
  unfold takeRoundRec
  refine Kept.ite ?_ ?_
  · exact hK
  · extract_lets +onlyGivenNames x1
    clear_value x1
    extract_lets +onlyGivenNames x2
    clear_value x2
    extract_lets +onlyGivenNames x3
    clear_value x3
    extract_lets +onlyGivenNames x4
    have k5 : Kept z x4 := by
      subst x4
      refine Kept.upd ?_ ..
      exact hK
    clear_value x4
    with_reducible apply judgeNorms_kept
    exact k5

theorem takeNormPart_kept (s : State) (m : Msg) {z : State} (hK : Kept z s) :
    Kept z (takeNormPart s m) := by
  unfold takeNormPart
  refine Kept.ite ?_ ?_
  · extract_lets +onlyGivenNames x1
    clear_value x1
    with_reducible apply sendTo_kept
    with_reducible apply bumpBy_kept
    exact hK
  · refine Kept.ite ?_ ?_
    · exact hK
    · extract_lets +onlyGivenNames x2
      clear_value x2
      extract_lets +onlyGivenNames x3
      have k4 : Kept z x3 := by
        subst x3
        refine Kept.upd ?_ ..
        exact hK
      clear_value x3
      with_reducible apply judgeNorms_kept
      exact k4

end Sys2Proof.Machine
end

