-- ==== Sys2Proof/Laws/LinkRows.lean ====
section
/-!
SUPPORT. What each operation of Machine/LinkRows.lean keeps (`Kept`): the chip, the queue, the Turn and the canonical stores.
-/
namespace Sys2Proof.Machine

theorem discardFlit_kept (s : State) (l : Nat) {z : State} (hK : Kept z s) :
    Kept z (discardFlit s l) := by
  unfold discardFlit
  with_reducible apply linkMod_kept
  exact hK

theorem badCrc_kept (s : State) (l : Nat) {z : State} (hK : Kept z s) :
    Kept z (badCrc s l) := by
  unfold badCrc
  with_reducible apply discardFlit_kept
  with_reducible apply bump_kept
  exact hK

theorem withFlit_kept (s : State) (l : Nat) (bs : List Byte) (type : Nat) (body : State → FlitHdr → State) {z : State} (hK : Kept z s) (hbody : ∀ t y0, Kept z t → Kept z (body t y0)) :
    Kept z (withFlit s l bs type body) := by
  unfold withFlit
  refine Kept.ite ?_ ?_
  · exact hK
  · refine Kept.ite ?_ ?_
    · with_reducible apply badCrc_kept
      exact hK
    · extract_lets +onlyGivenNames x1
      clear_value x1
      refine Kept.ite ?_ ?_
      · exact hK
      · with_reducible apply_assumption
        exact hK

theorem dataFlit_kept (s : State) (l : Nat) (bs : List Byte) {z : State} (hK : Kept z s) :
    Kept z (dataFlit s l bs) := by
  unfold dataFlit
  with_reducible apply withFlit_kept
  · exact hK
  · intro v1 v2 k3
    extract_lets +onlyGivenNames x4
    clear_value x4
    refine Kept.ite ?_ ?_
    · with_reducible apply acceptFlit_kept
      with_reducible apply flitFields_kept
      exact k3
    · refine Kept.ite ?_ ?_
      · with_reducible apply flitFields_kept
        exact k3
      · with_reducible apply discardFlit_kept
        exact k3

theorem portMod_kept (s : State) (p : Nat) (f : GPort → GPort) {z : State} (hK : Kept z s) :
    Kept z (portMod s p f) := by
  unfold portMod
  refine Kept.updUnits ?_ _ _ _ _ (by simp [modAt, shapeOf]) ..
  exact hK

theorem startTraining_kept (s : State) (l : Nat) {z : State} (hK : Kept z s) :
    Kept z (startTraining s l) := by
  unfold startTraining
  extract_lets +onlyGivenNames x1
  clear_value x1
  refine Kept.ite ?_ ?_
  · with_reducible apply linkMod_kept
    exact hK
  · exact hK

theorem retrainPort_kept (s : State) (p : Nat) (live : Bool) {z : State} (hK : Kept z s) :
    Kept z (retrainPort s p live) := by
  unfold retrainPort
  extract_lets +onlyGivenNames x1
  have k2 : Kept z x1 := by
    subst x1
    with_reducible apply portMod_kept
    exact hK
  clear_value x1
  refine Kept.foldl ?_ ?_
  · exact k2
  · intro v3 v4 k5
    with_reducible apply linkMod_kept
    exact k5

theorem portBack_kept (s : State) (p : Nat) (full : Bool) {z : State} (hK : Kept z s) :
    Kept z (portBack s p full) := by
  unfold portBack
  extract_lets +onlyGivenNames x1
  have k2 : Kept z x1 := by
    subst x1
    with_reducible apply portMod_kept
    exact hK
  clear_value x1
  refine Kept.foldl ?_ ?_
  · exact k2
  · intro v3 v4 k5
    with_reducible apply pump_kept
    with_reducible apply linkMod_kept
    exact k5

theorem portLost_kept (s : State) (p : Nat) (absent : Bool) {z : State} (hK : Kept z s) :
    Kept z (portLost s p absent) := by
  unfold portLost
  extract_lets +onlyGivenNames x1
  have k2 : Kept z x1 := by
    subst x1
    with_reducible apply portMod_kept
    exact hK
  clear_value x1
  refine Kept.foldl ?_ ?_
  · exact k2
  · intro v3 v4 k5
    with_reducible apply linkMod_kept
    exact k5

theorem portActive_kept (s : State) (p : Nat) (supported full : Bool) {z : State} (hK : Kept z s) :
    Kept z (portActive s p supported full) := by
  unfold portActive
  extract_lets +onlyGivenNames x1
  clear_value x1
  refine Kept.ite ?_ ?_
  · exact hK
  · refine Kept.ite ?_ ?_
    · with_reducible apply portLost_kept
      exact hK
    · refine Kept.ite ?_ ?_
      · with_reducible apply portBack_kept
        exact hK
      · refine Kept.ite ?_ ?_
        · exact hK
        · extract_lets +onlyGivenNames x2
          have k3 : Kept z x2 := by
            subst x2
            with_reducible apply portMod_kept
            exact hK
          clear_value x2
          refine Kept.foldl ?_ ?_
          · exact k3
          · intro v4 v5 k6
            refine Kept.ite ?_ ?_
            · with_reducible apply startTraining_kept
              exact k6
            · exact k6

theorem retrainTimeout_kept (s : State) (p : Nat) {z : State} (hK : Kept z s) :
    Kept z (retrainTimeout s p) := by
  unfold retrainTimeout
  refine Kept.ite ?_ ?_
  · with_reducible apply portLost_kept
    exact hK
  · exact hK

theorem linkComesUp_kept (s : State) (l : Nat) (p : List Byte) {z : State} (hK : Kept z s) :
    Kept z (linkComesUp s l p) := by
  unfold linkComesUp
  extract_lets +onlyGivenNames x1
  clear_value x1
  with_reducible apply linkMod_kept
  exact hK

theorem trainFlit_kept (s : State) (l : Nat) (bs : List Byte) {z : State} (hK : Kept z s) :
    Kept z (trainFlit s l bs) := by
  unfold trainFlit
  extract_lets +onlyGivenNames x1
  clear_value x1
  extract_lets +onlyGivenNames x2
  clear_value x2
  refine Kept.ite ?_ ?_
  · exact hK
  · refine Kept.ite ?_ ?_
    · with_reducible apply bump_kept
      exact hK
    · refine Kept.ite ?_ ?_
      · exact hK
      · extract_lets +onlyGivenNames x3
        clear_value x3
        extract_lets +onlyGivenNames x4
        clear_value x4
        extract_lets +onlyGivenNames x5
        have k6 : Kept z x5 := by
          subst x5
          with_reducible apply linkMod_kept
          exact hK
        clear_value x5
        refine Kept.ite ?_ ?_
        · exact k6
        · split
          · rename_i v7 e8
            with_reducible apply linkComesUp_kept
            exact k6
          · rename_i v9 e10
            with_reducible apply linkMod_kept
            with_reducible apply bump_kept
            exact k6

theorem requestRetrain_kept (s : State) (l : Nat) {z : State} (hK : Kept z s) :
    Kept z (requestRetrain s l) := by
  unfold requestRetrain
  extract_lets +onlyGivenNames x1
  have k2 : Kept z x1 := by
    subst x1
    with_reducible apply bump_kept
    exact hK
  clear_value x1
  extract_lets +onlyGivenNames x3
  have k4 : Kept z x3 := by
    subst x3
    with_reducible apply linkMod_kept
    exact k2
  clear_value x3
  extract_lets +onlyGivenNames x5
  have k6 : Kept z x5 := by
    subst x5
    refine Kept.ite ?_ ?_
    · with_reducible apply linkMod_kept
      with_reducible apply gradeMinor_kept
      exact k4
    · exact k4
  clear_value x5
  refine Kept.ite ?_ ?_
  · exact k6
  · with_reducible apply retrainPort_kept
    exact k6

theorem takeDown_kept (s : State) (l reason : Nat) {z : State} (hK : Kept z s) :
    Kept z (takeDown s l reason) := by
  unfold takeDown
  extract_lets +onlyGivenNames x1
  clear_value x1
  extract_lets +onlyGivenNames x2
  clear_value x2
  extract_lets +onlyGivenNames x3
  have k4 : Kept z x3 := by
    subst x3
    with_reducible apply linkDown_kept
    exact hK
  clear_value x3
  refine Kept.ite ?_ ?_
  · exact k4
  · extract_lets +onlyGivenNames x5
    have k6 : Kept z x5 := by
      subst x5
      with_reducible apply event_kept
      exact k4
    clear_value x5
    refine Kept.ite ?_ ?_
    · exact k6
    · with_reducible apply gradeMajor_kept
      exact k6

theorem linkTurn_kept (s : State) (l : Nat) {z : State} (hK : Kept z s) :
    Kept z (linkTurn s l) := by
  unfold linkTurn
  extract_lets +onlyGivenNames x1
  clear_value x1
  split
  · rename_i v2 v3 e4
    with_reducible apply takeDown_kept
    exact hK
  · rename_i v5 e6
    refine Kept.ite ?_ ?_
    · with_reducible apply linkDown_kept
      exact hK
    · refine Kept.ite ?_ ?_
      · with_reducible apply requestRetrain_kept
        exact hK
      · exact hK

theorem failOutst_kept (s : State) (c : Nat) {z : State} (hK : Kept z s) :
    Kept z (failOutst s c) := by
  unfold failOutst
  refine Kept.foldl ?_ ?_
  · exact hK
  · intro v1 v2 k3
    with_reducible apply failRemote_kept
    with_reducible apply bump_kept
    exact k3

theorem chipLost_kept (s : State) (c : Nat) {z : State} (hK : Kept z s) :
    Kept z (chipLost s c) := by
  unfold chipLost
  with_reducible apply takeLost_kept
  with_reducible apply failOutst_kept
  with_reducible apply event_kept
  exact hK

theorem linksTurn_kept (s : State) {z : State} (hK : Kept z s) :
    Kept z (linksTurn s) := by
  unfold linksTurn
  extract_lets +onlyGivenNames x1
  clear_value x1
  extract_lets +onlyGivenNames x2
  clear_value x2
  extract_lets +onlyGivenNames x3
  clear_value x3
  extract_lets +onlyGivenNames x4
  have k5 : Kept z x4 := by
    subst x4
    refine Kept.foldl ?_ ?_
    · exact hK
    · intro v6 v7 k8
      with_reducible apply linkTurn_kept
      exact k8
  clear_value x4
  extract_lets +onlyGivenNames x9
  extract_lets +onlyGivenNames x10
  have k11 : Kept z x10 := by
    subst x10
    with_reducible apply checkReach_kept
    refine Kept.updGl ?_ ..
    exact k5
  clear_value x10
  extract_lets +onlyGivenNames x12
  have k13 : Kept z x12 := by
    subst x12
    refine Kept.foldl ?_ ?_
    · exact k11
    · intro v14 v15 k16
      with_reducible apply chipLost_kept
      exact k16
  clear_value x12
  extract_lets +onlyGivenNames x17
  clear_value x17
  refine Kept.upd ?_ ..
  exact k13

theorem discoveryStart_kept (s : State) {z : State} (hK : Kept z s) :
    Kept z (discoveryStart s) := by
  unfold discoveryStart
  refine Kept.ite ?_ ?_
  · exact hK
  · extract_lets +onlyGivenNames x1
    clear_value x1
    extract_lets +onlyGivenNames x2
    have k3 : Kept z x2 := by
      subst x2
      refine Kept.upd ?_ ..
      exact hK
    clear_value x2
    with_reducible apply multicast_kept
    exact k3

theorem discoverTimeout_kept (s : State) {z : State} (hK : Kept z s) :
    Kept z (discoverTimeout s) := by
  unfold discoverTimeout
  split
  · rename_i v1 v2 e3
    refine Kept.ite ?_ ?_
    · refine Kept.upd ?_ ..
      exact hK
    · exact hK
  · rename_i v4 e5
    exact hK

theorem groupFormation_kept (s : State) {z : State} (hK : Kept z s) :
    Kept z (groupFormation s) := by
  unfold groupFormation
  refine Kept.ite ?_ ?_
  · exact hK
  · with_reducible apply multicast_kept
    exact hK

theorem groupTimeout_kept (s : State) {z : State} (hK : Kept z s) :
    Kept z (groupTimeout s) := by
  unfold groupTimeout
  extract_lets +onlyGivenNames x1
  clear_value x1
  refine Kept.ite ?_ ?_
  · refine Kept.upd ?_ ..
    exact hK
  · exact hK

theorem forwardDiscover_kept (s : State) (m : Msg) {z : State} (hK : Kept z s) :
    Kept z (forwardDiscover s m) := by
  unfold forwardDiscover
  split
  · rename_i v1 e2
    refine Kept.updGl ?_ ..
    exact hK
  · rename_i v3 v4 e5
    extract_lets +onlyGivenNames x6
    clear_value x6
    extract_lets +onlyGivenNames x7
    extract_lets +onlyGivenNames x8
    have k9 : Kept z x8 := by
      subst x8
      refine Kept.updGl ?_ ..
      exact hK
    clear_value x8
    extract_lets +onlyGivenNames x10
    clear_value x10
    extract_lets +onlyGivenNames x11
    clear_value x11
    extract_lets +onlyGivenNames x12
    have k13 : Kept z x12 := by
      subst x12
      refine Kept.foldl ?_ ?_
      · exact k9
      · intro v14 v15 k16
        with_reducible apply writeOff_kept
        with_reducible apply bump_kept
        exact k16
    clear_value x12
    refine Kept.ite ?_ ?_
    · with_reducible apply freeSlots_kept
      exact k13
    · with_reducible apply queueOn_kept
      exact k13

theorem takeDiscover_kept (s : State) (m : Msg) {z : State} (hK : Kept z s) :
    Kept z (takeDiscover s m) := by
  unfold takeDiscover
  refine Kept.ite ?_ ?_
  · exact hK
  · extract_lets +onlyGivenNames x1
    have k2 : Kept z x1 := by
      subst x1
      with_reducible apply forwardDiscover_kept
      exact hK
    clear_value x1
    refine Kept.ite ?_ ?_
    · refine Kept.upd ?_ ..
      exact k2
    · extract_lets +onlyGivenNames x3
      clear_value x3
      extract_lets +onlyGivenNames x4
      have k5 : Kept z x4 := by
        subst x4
        refine Kept.upd ?_ ..
        exact k2
      clear_value x4
      with_reducible apply sendTo_kept
      exact k5

theorem takeDiscoverRep_kept (s : State) (m : Msg) {z : State} (hK : Kept z s) :
    Kept z (takeDiscoverRep s m) := by
  unfold takeDiscoverRep
  refine Kept.ite ?_ ?_
  · exact hK
  · extract_lets +onlyGivenNames x1
    have k2 : Kept z x1 := by
      subst x1
      with_reducible apply consumeMsg_kept
      exact hK
    clear_value x1
    refine Kept.ite ?_ ?_
    · exact k2
    · extract_lets +onlyGivenNames x3
      clear_value x3
      extract_lets +onlyGivenNames x4
      have k5 : Kept z x4 := by
        subst x4
        refine Kept.ite ?_ ?_
        · exact k2
        · refine Kept.upd ?_ ..
          exact k2
      clear_value x4
      refine Kept.ite ?_ ?_
      · refine Kept.upd ?_ ..
        exact k5
      · exact k5

theorem takeLinkStatus_kept (s : State) (m : Msg) {z : State} (hK : Kept z s) :
    Kept z (takeLinkStatus s m) := by
  unfold takeLinkStatus
  refine Kept.ite ?_ ?_
  · exact hK
  · split
    · rename_i v1 e2
      with_reducible apply consumeMsg_kept
      exact hK
    · rename_i v3 v4 e5
      extract_lets +onlyGivenNames x6
      have k7 : Kept z x6 := by
        subst x6
        with_reducible apply consumeMsg_kept
        exact hK
      clear_value x6
      refine Kept.ite ?_ ?_
      · with_reducible apply linkMod_kept
        exact k7
      · exact k7

theorem sendLinkStatus_kept (s : State) {z : State} (hK : Kept z s) :
    Kept z (sendLinkStatus s) := by
  unfold sendLinkStatus
  refine Kept.foldl ?_ ?_
  · exact hK
  · intro v1 v2 k3
    with_reducible apply queueOn_kept
    exact k3

theorem liveRetrain_kept (s : State) (l : Nat) {z : State} (hK : Kept z s) :
    Kept z (liveRetrain s l) := by
  unfold liveRetrain
  extract_lets +onlyGivenNames x1
  clear_value x1
  refine Kept.ite ?_ ?_
  · with_reducible apply retrainPort_kept
    exact hK
  · exact hK

theorem disableLink_kept (s : State) (l : Nat) {z : State} (hK : Kept z s) :
    Kept z (disableLink s l) := by
  unfold disableLink
  refine Kept.ite ?_ ?_
  · with_reducible apply linkMod_kept
    exact hK
  · exact hK

theorem execDataFlit_kept (link : Nat) (flit : List Byte) (s : State) {z : State} (hK : Kept z s) :
    KeptOut z (execDataFlit link flit s) := by
  unfold execDataFlit
  refine KeptOut.next ?_
  with_reducible apply dataFlit_kept
  exact hK

theorem execIdleFlit_kept (link : Nat) (flit : List Byte) (s : State) {z : State} (hK : Kept z s) :
    KeptOut z (execIdleFlit link flit s) := by
  unfold execIdleFlit
  refine KeptOut.next ?_
  with_reducible apply withFlit_kept
  · exact hK
  · intro v1 v2 k3
    with_reducible apply flitFields_kept
    exact k3

theorem execNakFlit_kept (link : Nat) (flit : List Byte) (s : State) {z : State} (hK : Kept z s) :
    KeptOut z (execNakFlit link flit s) := by
  unfold execNakFlit
  refine KeptOut.next ?_
  with_reducible apply withFlit_kept
  · exact hK
  · intro v1 v2 k3
    with_reducible apply resendAll_kept
    with_reducible apply flitFields_kept
    exact k3

theorem execAckTimeout_kept (link : Nat) (s : State) {z : State} (hK : Kept z s) :
    KeptOut z (execAckTimeout link s) := by
  unfold execAckTimeout
  refine KeptOut.next ?_
  refine Kept.ite ?_ ?_
  · with_reducible apply resendAll_kept
    exact hK
  · exact hK

theorem execPortActive_kept (port : Nat) (supported full : Bool) (s : State) {z : State} (hK : Kept z s) :
    KeptOut z (execPortActive port supported full s) := by
  unfold execPortActive
  refine KeptOut.next ?_
  with_reducible apply portActive_kept
  exact hK

theorem execRetrainTimeout_kept (port : Nat) (s : State) {z : State} (hK : Kept z s) :
    KeptOut z (execRetrainTimeout port s) := by
  unfold execRetrainTimeout
  refine KeptOut.next ?_
  with_reducible apply retrainTimeout_kept
  exact hK

theorem execTrainFlit_kept (link : Nat) (flit : List Byte) (s : State) {z : State} (hK : Kept z s) :
    KeptOut z (execTrainFlit link flit s) := by
  unfold execTrainFlit
  refine KeptOut.next ?_
  with_reducible apply trainFlit_kept
  exact hK

theorem execGlLcmdRetrain_kept (link : Nat) (s : State) {z : State} (hK : Kept z s) :
    KeptOut z (execGlLcmdRetrain link s) := by
  unfold execGlLcmdRetrain
  refine KeptOut.next ?_
  with_reducible apply liveRetrain_kept
  exact hK

theorem execGlLcmdDisable_kept (link : Nat) (s : State) {z : State} (hK : Kept z s) :
    KeptOut z (execGlLcmdDisable link s) := by
  unfold execGlLcmdDisable
  refine KeptOut.next ?_
  with_reducible apply disableLink_kept
  exact hK

theorem execGlLcmdEnable_kept (link : Nat) (s : State) {z : State} (hK : Kept z s) :
    KeptOut z (execGlLcmdEnable link s) := by
  unfold execGlLcmdEnable
  refine KeptOut.next ?_
  with_reducible apply startTraining_kept
  exact hK

theorem execDiscoveryStart_kept (s : State) {z : State} (hK : Kept z s) :
    KeptOut z (execDiscoveryStart s) := by
  unfold execDiscoveryStart
  refine KeptOut.next ?_
  with_reducible apply discoveryStart_kept
  exact hK

theorem execDiscoverTimeout_kept (s : State) {z : State} (hK : Kept z s) :
    KeptOut z (execDiscoverTimeout s) := by
  unfold execDiscoverTimeout
  refine KeptOut.next ?_
  with_reducible apply discoverTimeout_kept
  exact hK

theorem execGroupFormation_kept (s : State) {z : State} (hK : Kept z s) :
    KeptOut z (execGroupFormation s) := by
  unfold execGroupFormation
  refine KeptOut.next ?_
  with_reducible apply groupFormation_kept
  exact hK

theorem execGroupFormationTimeout_kept (s : State) {z : State} (hK : Kept z s) :
    KeptOut z (execGroupFormationTimeout s) := by
  unfold execGroupFormationTimeout
  refine KeptOut.next ?_
  with_reducible apply groupTimeout_kept
  exact hK

theorem execMsgDiscover_kept (m : Msg) (s : State) {z : State} (hK : Kept z s) :
    KeptOut z (execMsgDiscover m s) := by
  unfold execMsgDiscover
  refine KeptOut.next ?_
  with_reducible apply takeDiscover_kept
  exact hK

theorem execMsgDiscoverRep_kept (m : Msg) (s : State) {z : State} (hK : Kept z s) :
    KeptOut z (execMsgDiscoverRep m s) := by
  unfold execMsgDiscoverRep
  refine KeptOut.next ?_
  with_reducible apply takeDiscoverRep_kept
  exact hK

theorem execMsgLinkStatus_kept (m : Msg) (s : State) {z : State} (hK : Kept z s) :
    KeptOut z (execMsgLinkStatus m s) := by
  unfold execMsgLinkStatus
  refine KeptOut.next ?_
  with_reducible apply takeLinkStatus_kept
  exact hK

end Sys2Proof.Machine
end

