-- ==== Sys2Proof/Laws/Health.lean ====
section
/-!
SUPPORT. What each operation of Machine/Health.lean keeps (`Kept`): the chip, the queue, the Turn and the canonical stores.
-/
namespace Sys2Proof.Machine

theorem bucketLeak_kept (s : State) {z : State} (hK : Kept z s) :
    Kept z (bucketLeak s) := by
  unfold bucketLeak
  refine Kept.upd ?_ ..
  exact hK

theorem quietEv_kept (s : State) (cls u detail verdict gb ga : Nat) {z : State} (hK : Kept z s) :
    Kept z (quietEv s cls u detail verdict gb ga) := by
  unfold quietEv
  extract_lets +onlyGivenNames x1
  clear_value x1
  with_reducible apply gradedMod_kept
  with_reducible apply recordEv_kept
  exact hK

theorem channelDead_kept (s : State) (mp : Bool) (ch : Nat) {z : State} (hK : Kept z s) :
    Kept z (channelDead s mp ch) := by
  unfold channelDead
  extract_lets +onlyGivenNames x1
  clear_value x1
  extract_lets +onlyGivenNames x2
  clear_value x2
  refine Kept.ite ?_ ?_
  · exact hK
  · extract_lets +onlyGivenNames x3
    extract_lets +onlyGivenNames x4
    have k5 : Kept z x4 := by
      subst x4
      refine Kept.ite ?_ ?_
      · refine Kept.updMem ?_ ..
        exact hK
      · refine Kept.updMem ?_ ..
        exact hK
    clear_value x4
    with_reducible apply event_kept
    exact k5

theorem retireUnit_kept (s : State) (u : Nat) {z : State} (hK : Kept z s) :
    Kept z (retireUnit s u) := by
  unfold retireUnit
  split
  · rename_i v1 e2
    refine Kept.ite ?_ ?_
    · with_reducible apply qnMod_kept
      exact hK
    · exact hK
  · rename_i v3 e4
    with_reducible apply channelDead_kept
    exact hK
  · rename_i v5 e6
    with_reducible apply channelDead_kept
    exact hK
  · rename_i v7 e8
    with_reducible apply linkMod_kept
    exact hK
  · rename_i v9 e10 e11 e12 e13
    exact hK

theorem changeGrade_kept (s : State) (p : Nat × Nat) {z : State} (hK : Kept z s) :
    Kept z (changeGrade s p) := by
  unfold changeGrade
  extract_lets +onlyGivenNames x1
  clear_value x1
  refine Kept.ite ?_ ?_
  · exact hK
  · extract_lets +onlyGivenNames x2
    have k3 : Kept z x2 := by
      subst x2
      with_reducible apply gradedMod_kept
      exact hK
    clear_value x2
    extract_lets +onlyGivenNames x4
    have k5 : Kept z x4 := by
      subst x4
      with_reducible apply quietEv_kept
      exact k3
    clear_value x4
    refine Kept.ite ?_ ?_
    · with_reducible apply retireUnit_kept
      exact k5
    · refine Kept.ite ?_ ?_
      · with_reducible apply startTraining_kept
        exact k5
      · exact k5

theorem gradeTurn_kept (s : State) {z : State} (hK : Kept z s) :
    Kept z (gradeTurn s) := by
  unfold gradeTurn
  refine Kept.foldl ?_ ?_
  · refine Kept.upd ?_ ..
    exact hK
  · intro v1 v2 k3
    with_reducible apply changeGrade_kept
    exact k3

theorem setGrade_kept (s : State) (u g : Nat) {z : State} (hK : Kept z s) :
    Kept z (setGrade s u g) := by
  unfold setGrade
  refine Kept.upd ?_ ..
  exact hK

theorem gradeSet_kept (s : State) (req w : Nat) {z : State} (hK : Kept z s) :
    Kept z (gradeSet s req w) := by
  unfold gradeSet
  refine Kept.ite ?_ ?_
  · with_reducible apply apb_kept
    exact hK
  · extract_lets +onlyGivenNames x1
    have k2 : Kept z x1 := by
      subst x1
      with_reducible apply apb_kept
      with_reducible apply cjWrite_kept
      exact hK
    clear_value x1
    refine Kept.ite ?_ ?_
    · with_reducible apply setGrade_kept
      exact k2
    · exact k2

theorem suspectQuern_kept (s : State) (q : Nat) {z : State} (hK : Kept z s) :
    Kept z (suspectQuern s q) := by
  unfold suspectQuern
  refine Kept.ite ?_ ?_
  · with_reducible apply gradeMajor_kept
    exact hK
  · exact hK

theorem plausDone_kept (s : State) (differs : Bool) {z : State} (hK : Kept z s) :
    Kept z (plausDone s differs) := by
  unfold plausDone
  split
  · rename_i v1 e2
    exact hK
  · rename_i v3 v4 v5 e6
    extract_lets +onlyGivenNames x7
    clear_value x7
    extract_lets +onlyGivenNames x8
    clear_value x8
    extract_lets +onlyGivenNames x9
    have k10 : Kept z x9 := by
      subst x9
      refine Kept.upd ?_ ..
      exact hK
    clear_value x9
    extract_lets +onlyGivenNames x11
    have k12 : Kept z x11 := by
      subst x11
      refine Kept.foldl ?_ ?_
      · exact k10
      · intro v13 v14 k15
        with_reducible apply event_kept
        exact k15
    clear_value x11
    refine Kept.ite ?_ ?_
    · with_reducible apply suspectQuern_kept
      exact k12
    · refine Kept.ite ?_ ?_
      · with_reducible apply markFault_kept
        with_reducible apply suspectQuern_kept
        exact k12
      · with_reducible apply markOverflow_kept
        exact k12

theorem judgeCustom_kept (s : State) (i : Nat) {z : State} (hK : Kept z s) :
    Kept z (judgeCustom s i) := by
  unfold judgeCustom
  extract_lets +onlyGivenNames x1
  clear_value x1
  split
  · rename_i v2 v3 v4 e5
    have k6 : Kept z v4 := by
      refine Kept.of_snd e5 ?_
      with_reducible apply drawFree_kept
      exact hK
    split
    · rename_i v7 v8 v9 v10 e11
      have k12 : Kept z v10 := by
        refine Kept.of_snd_snd e11 ?_
        with_reducible apply readGrads_kept
        exact k6
      extract_lets +onlyGivenNames x13
      clear_value x13
      extract_lets +onlyGivenNames x14
      clear_value x14
      with_reducible apply holdPlaus_kept
      with_reducible apply unitMod_kept
      exact k12

theorem customTurn_kept (s : State) {z : State} (hK : Kept z s) :
    Kept z (customTurn s) := by
  unfold customTurn
  refine Kept.foldl ?_ ?_
  · exact hK
  · intro v1 v2 k3
    with_reducible apply judgeCustom_kept
    exact k3

theorem checksTurn_kept (s : State) (checks : List (Nat × Nat × Nat)) {z : State} (hK : Kept z s) :
    Kept z (checksTurn s checks) := by
  unfold checksTurn
  refine Kept.ite ?_ ?_
  · exact hK
  · extract_lets +onlyGivenNames x1
    clear_value x1
    refine Kept.upd ?_ ..
    exact hK

theorem checkVerdict_kept (s : State) (n verdict : Nat) (suspects : List Nat) {z : State} (hK : Kept z s) :
    Kept z (checkVerdict s n verdict suspects) := by
  unfold checkVerdict
  extract_lets +onlyGivenNames x1
  clear_value x1
  extract_lets +onlyGivenNames x2
  have k3 : Kept z x2 := by
    subst x2
    with_reducible apply event_kept
    refine Kept.upd ?_ ..
    exact hK
  clear_value x2
  refine Kept.foldl ?_ ?_
  · exact k3
  · intro v4 v5 k6
    with_reducible apply suspectQuern_kept
    exact k6

theorem checkDone_kept (s : State) (crc : Nat) {z : State} (hK : Kept z s) :
    Kept z (checkDone s crc) := by
  unfold checkDone
  split
  · rename_i v1 e2
    exact hK
  · rename_i v3 v4 v5 e6
    extract_lets +onlyGivenNames x7
    clear_value x7
    split
    · rename_i v8 e9
      refine Kept.ite ?_ ?_
      · extract_lets +onlyGivenNames x10
        have k11 : Kept z x10 := by
          subst x10
          with_reducible apply checkVerdict_kept
          exact hK
        clear_value x10
        refine Kept.ite ?_ ?_
        · with_reducible apply gradeMinor_kept
          exact k11
        · exact k11
      · refine Kept.ite ?_ ?_
        · with_reducible apply checkVerdict_kept
          exact hK
        · refine Kept.upd ?_ ..
          exact hK
    · rename_i v12 v13 v14 e15
      refine Kept.ite ?_ ?_
      · with_reducible apply markFault_kept
        with_reducible apply checkVerdict_kept
        exact hK
      · with_reducible apply checkVerdict_kept
        exact hK

theorem nextCondition_kept (s : State) (u : Nat) {z : State} (hK : Kept z s) :
    Kept z (nextCondition s u).2 := by
  unfold nextCondition
  refine Kept.ite_snd ?_ ?_
  · extract_lets +onlyGivenNames x1
    clear_value x1
    refine Kept.snd ?_
    refine Kept.upd ?_ ..
    exact hK
  · refine Kept.snd ?_
    exact hK

theorem askStress_kept (s : State) (q k : Nat) {z : State} (hK : Kept z s) :
    Kept z (askStress s q k) := by
  unfold askStress
  with_reducible apply pmAsk_kept
  with_reducible apply clusterMod_kept
  exact hK

theorem startTest_kept (s : State) (q : Nat) {z : State} (hK : Kept z s) :
    Kept z (startTest s q) := by
  unfold startTest
  split
  · rename_i v1 v2 v3 e4
    have k5 : Kept z v3 := by
      refine Kept.of_snd e4 ?_
      with_reducible apply nextCondition_kept
      exact hK
    extract_lets +onlyGivenNames x6
    clear_value x6
    extract_lets +onlyGivenNames x7
    have k8 : Kept z x7 := by
      subst x7
      refine Kept.upd ?_ ..
      exact k5
    clear_value x7
    extract_lets +onlyGivenNames x9
    have k10 : Kept z x9 := by
      subst x9
      with_reducible apply qnMod_kept
      with_reducible apply gradedMod_kept
      exact k8
    clear_value x9
    refine Kept.ite ?_ ?_
    · exact k10
    · refine Kept.ite ?_ ?_
      · with_reducible apply askStress_kept
        exact k10
      · refine Kept.upd ?_ ..
        exact k10

theorem warmTurn_kept (s : State) {z : State} (hK : Kept z s) :
    Kept z (warmTurn s) := by
  unfold warmTurn
  refine Kept.foldl ?_ ?_
  · exact hK
  · intro v1 v2 k3
    extract_lets +onlyGivenNames x4
    clear_value x4
    extract_lets +onlyGivenNames x5
    clear_value x5
    extract_lets +onlyGivenNames x6
    have k7 : Kept z x6 := by
      subst x6
      refine Kept.upd ?_ ..
      exact k3
    clear_value x6
    refine Kept.ite ?_ ?_
    · exact k7
    · with_reducible apply askStress_kept
      exact k7

theorem fieldTestDue_kept (s : State) (u : Nat) {z : State} (hK : Kept z s) :
    Kept z (fieldTestDue s u) := by
  unfold fieldTestDue
  refine Kept.ite ?_ ?_
  · exact hK
  · refine Kept.ite ?_ ?_
    · refine Kept.ite ?_ ?_
      · with_reducible apply startTest_kept
        exact hK
      · with_reducible apply gradedMod_kept
        exact hK
    · refine Kept.upd ?_ ..
      exact hK

theorem releaseTest_kept (s : State) (u : Nat) (cond : Nat) {z : State} (hK : Kept z s) :
    Kept z (releaseTest s u cond) := by
  unfold releaseTest
  extract_lets +onlyGivenNames x1
  clear_value x1
  extract_lets +onlyGivenNames x2
  clear_value x2
  extract_lets +onlyGivenNames x3
  have k4 : Kept z x3 := by
    subst x3
    refine Kept.upd ?_ ..
    exact hK
  clear_value x3
  refine Kept.ite ?_ ?_
  · exact k4
  · extract_lets +onlyGivenNames x5
    have k6 : Kept z x5 := by
      subst x5
      with_reducible apply qnMod_kept
      exact k4
    clear_value x5
    refine Kept.ite ?_ ?_
    · exact k6
    · with_reducible apply pmAsk_kept
      with_reducible apply clusterMod_kept
      exact k6

theorem fieldTestResult_kept (s : State) (u : Nat) (pass : Bool) {z : State} (hK : Kept z s) :
    Kept z (fieldTestResult s u pass) := by
  unfold fieldTestResult
  split
  · rename_i v1 e2
    exact hK
  · rename_i v3 v4 v5 e6
    refine Kept.ite ?_ ?_
    · exact hK
    · extract_lets +onlyGivenNames x7
      clear_value x7
      extract_lets +onlyGivenNames x8
      have k9 : Kept z x8 := by
        subst x8
        with_reducible apply releaseTest_kept
        exact hK
      clear_value x8
      extract_lets +onlyGivenNames x10
      have k11 : Kept z x10 := by
        subst x10
        with_reducible apply gradedMod_kept
        exact k9
      clear_value x10
      extract_lets +onlyGivenNames x12
      clear_value x12
      extract_lets +onlyGivenNames x13
      have k14 : Kept z x13 := by
        subst x13
        with_reducible apply quietEv_kept
        exact k11
      clear_value x13
      refine Kept.ite ?_ ?_
      · with_reducible apply gradeMajor_kept
        exact k14
      · refine Kept.ite ?_ ?_
        · with_reducible apply setGrade_kept
          exact k14
        · refine Kept.ite ?_ ?_
          · with_reducible apply setGrade_kept
            exact k14
          · exact k14

theorem keepCondition_kept (s : State) (u cond : Nat) {z : State} (hK : Kept z s) :
    Kept z (keepCondition s u cond) := by
  unfold keepCondition
  refine Kept.ite ?_ ?_
  · refine Kept.upd ?_ ..
    exact hK
  · exact hK

theorem testsTurn_kept (s : State) {z : State} (hK : Kept z s) :
    Kept z (testsTurn s) := by
  unfold testsTurn
  extract_lets +onlyGivenNames x1
  clear_value x1
  extract_lets +onlyGivenNames x2
  have k3 : Kept z x2 := by
    subst x2
    refine Kept.foldl ?_ ?_
    · exact hK
    · intro v4 v5 k6
      with_reducible apply gradedMod_kept
      with_reducible apply keepCondition_kept
      with_reducible apply releaseTest_kept
      exact k6
  clear_value x2
  with_reducible apply warmTurn_kept
  refine Kept.upd ?_ ..
  exact k3

theorem putSlot_kept (s : State) (k : Nat) (l : List (List Byte)) {z : State} (hK : Kept z s) :
    Kept z (putSlot s k l) := by
  unfold putSlot
  refine Kept.ite ?_ ?_
  · refine Kept.upd ?_ ..
    exact hK
  · refine Kept.upd ?_ ..
    exact hK

theorem cperAdd_kept (s : State) (e : Ev) {z : State} (hK : Kept z s) :
    Kept z (cperAdd s e) := by
  unfold cperAdd
  extract_lets +onlyGivenNames x1
  clear_value x1
  refine Kept.ite ?_ ?_
  · with_reducible apply bump_kept
    exact hK
  · with_reducible apply regSet_kept
    with_reducible apply scrWrite_kept
    exact hK

theorem compact_kept (s : State) {z : State} (hK : Kept z s) :
    Kept z (compact s) := by
  unfold compact
  extract_lets +onlyGivenNames x1
  clear_value x1
  refine Kept.ite ?_ ?_
  · exact hK
  · extract_lets +onlyGivenNames x2
    clear_value x2
    extract_lets +onlyGivenNames x3
    clear_value x3
    extract_lets +onlyGivenNames x4
    clear_value x4
    extract_lets +onlyGivenNames x5
    clear_value x5
    with_reducible apply putSlot_kept
    refine Kept.upd ?_ ..
    exact hK

theorem journalDone_kept (s : State) {z : State} (hK : Kept z s) :
    Kept z (journalDone s) := by
  unfold journalDone
  split
  · rename_i v1 e2
    refine Kept.upd ?_ ..
    exact hK
  · rename_i v3 v4 v5 e6
    refine Kept.ite ?_ ?_
    · exact hK
    · extract_lets +onlyGivenNames x7
      have k8 : Kept z x7 := by
        subst x7
        with_reducible apply putSlot_kept
        exact hK
      clear_value x7
      with_reducible apply compact_kept
      with_reducible apply cperAdd_kept
      refine Kept.upd ?_ ..
      exact k8

theorem stopUnits_kept (s : State) {z : State} (hK : Kept z s) :
    Kept z (stopUnits s) := by
  unfold stopUnits
  refine Kept.updUnits ?_ _ _ _ _ (by simp [modAt, shapeOf]) ..
  exact hK

theorem abandonStep_kept (s : State) {z : State} (hK : Kept z s) :
    Kept z (abandonStep s) := by
  unfold abandonStep
  refine Kept.ite ?_ ?_
  · exact hK
  · refine Kept.upd ?_ ..
    exact hK

theorem flushCache_kept (s : State) {z : State} (hK : Kept z s) :
    Kept z (flushCache s) := by
  unfold flushCache
  extract_lets +onlyGivenNames x1
  have k2 : Kept z x1 := by
    subst x1
    refine Kept.foldl ?_ ?_
    · exact hK
    · intro v3 v4 k5
      split
      · rename_i v6 v7 e8
        with_reducible apply lineBack_kept
        exact k5
      · rename_i v9 e10
        with_reducible apply_assumption
  clear_value x1
  refine Kept.upd ?_ ..
  exact k2

theorem dropTraffic_kept (s : State) {z : State} (hK : Kept z s) :
    Kept z (dropTraffic s) := by
  unfold dropTraffic
  extract_lets +onlyGivenNames x1
  clear_value x1
  extract_lets +onlyGivenNames x2
  extract_lets +onlyGivenNames x3
  have k4 : Kept z x3 := by
    subst x3
    refine Kept.foldl ?_ ?_
    · refine Kept.updGl ?_ ..
      exact hK
    · intro v5 v6 k7
      with_reducible apply freeSlots_kept
      exact k7
  clear_value x3
  extract_lets +onlyGivenNames x8
  clear_value x8
  extract_lets +onlyGivenNames x9
  clear_value x9
  extract_lets +onlyGivenNames x10
  clear_value x10
  extract_lets +onlyGivenNames x11
  extract_lets +onlyGivenNames x12
  have k13 : Kept z x12 := by
    subst x12
    refine Kept.updUnits ?_ _ _ _ _ (by simp [shapeOf]; rfl) ..
    exact k4
  clear_value x12
  refine Kept.foldl ?_ ?_
  · exact k13
  · intro v14 v15 k16
    with_reducible apply freeSlots_kept
    exact k16

theorem enterSepia_kept (s : State) (reason : Nat) {z : State} (hK : Kept z s) :
    Kept z (enterSepia s reason) := by
  unfold enterSepia
  refine Kept.ite ?_ ?_
  · exact hK
  · extract_lets +onlyGivenNames x1
    clear_value x1
    extract_lets +onlyGivenNames x2
    have k3 : Kept z x2 := by
      subst x2
      refine Kept.upd ?_ ..
      exact hK
    clear_value x2
    extract_lets +onlyGivenNames x4
    have k5 : Kept z x4 := by
      subst x4
      with_reducible apply event_kept
      exact k3
    clear_value x4
    with_reducible apply sendLinkStatus_kept
    with_reducible apply dropTraffic_kept
    with_reducible apply flushCache_kept
    with_reducible apply abandonStep_kept
    with_reducible apply stopUnits_kept
    exact k5

theorem execBucketLeak_kept (s : State) {z : State} (hK : Kept z s) :
    KeptOut z (execBucketLeak s) := by
  unfold execBucketLeak
  refine KeptOut.next ?_
  with_reducible apply bucketLeak_kept
  exact hK

theorem execFlipArm_kept (s : State) {z : State} (hK : Kept z s) :
    KeptOut z (execFlipArm s) := by
  unfold execFlipArm
  refine KeptOut.next ?_
  refine Kept.upd ?_ ..
  exact hK

theorem execPlausibilityReplayDone_kept (differs : Bool) (s : State) {z : State} (hK : Kept z s) :
    KeptOut z (execPlausibilityReplayDone differs s) := by
  unfold execPlausibilityReplayDone
  refine KeptOut.next ?_
  with_reducible apply plausDone_kept
  exact hK

theorem execCheckerRecomputeDone_kept (crc : Nat) (s : State) {z : State} (hK : Kept z s) :
    KeptOut z (execCheckerRecomputeDone crc s) := by
  unfold execCheckerRecomputeDone
  refine KeptOut.next ?_
  with_reducible apply checkDone_kept
  exact hK

theorem execFhGradeSet_kept (req w : Nat) (s : State) {z : State} (hK : Kept z s) :
    KeptOut z (execFhGradeSet req w s) := by
  unfold execFhGradeSet
  refine KeptOut.next ?_
  with_reducible apply gradeSet_kept
  exact hK

theorem execFieldTestDue_kept (u : Nat) (s : State) {z : State} (hK : Kept z s) :
    KeptOut z (execFieldTestDue u s) := by
  unfold execFieldTestDue
  refine KeptOut.next ?_
  with_reducible apply fieldTestDue_kept
  exact hK

theorem execFieldTestResult_kept (u : Nat) (pass : Bool) (s : State) {z : State} (hK : Kept z s) :
    KeptOut z (execFieldTestResult u pass s) := by
  unfold execFieldTestResult
  refine KeptOut.next ?_
  with_reducible apply fieldTestResult_kept
  exact hK

theorem execTestAbort_kept (s : State) {z : State} (hK : Kept z s) :
    KeptOut z (execTestAbort s) := by
  unfold execTestAbort
  refine KeptOut.next ?_
  refine Kept.upd ?_ ..
  exact hK

theorem execFatalClear_kept (s : State) {z : State} (hK : Kept z s) :
    KeptOut z (execFatalClear s) := by
  unfold execFatalClear
  refine KeptOut.next ?_
  refine Kept.upd ?_ ..
  exact hK

theorem execStatePoisonClear_kept (s : State) {z : State} (hK : Kept z s) :
    KeptOut z (execStatePoisonClear s) := by
  unfold execStatePoisonClear
  refine KeptOut.next ?_
  refine Kept.upd ?_ ..
  exact hK

theorem execJournalWriteDone_kept (s : State) {z : State} (hK : Kept z s) :
    KeptOut z (execJournalWriteDone s) := by
  unfold execJournalWriteDone
  refine KeptOut.next ?_
  with_reducible apply journalDone_kept
  exact hK

theorem execSepiaEnter_kept (s : State) {z : State} (hK : Kept z s) :
    KeptOut z (execSepiaEnter s) := by
  unfold execSepiaEnter
  refine KeptOut.next ?_
  refine Kept.ite ?_ ?_
  · exact hK
  · refine Kept.upd ?_ ..
    exact hK

theorem execGovernorStall_kept (s : State) {z : State} (hK : Kept z s) :
    KeptOut z (execGovernorStall s) := by
  unfold execGovernorStall
  refine KeptOut.next ?_
  refine Kept.ite ?_ ?_
  · with_reducible apply enterSepia_kept
    exact hK
  · exact hK

end Sys2Proof.Machine
end

