-- ==== Sys2Proof/Laws/Ports.lean ====
section
/-!
SUPPORT. What each operation of Machine/Ports.lean keeps (`Kept`): the chip, the queue, the Turn and the canonical stores.
-/
namespace Sys2Proof.Machine

theorem respond_kept (s : State) (r : AxiReq) (code : Nat) (data : List Byte) (poison : List Bool) {z : State} (hK : Kept z s) :
    Kept z (respond s r code data poison) := by
  unfold respond
  refine Kept.upd ?_ ..
  exact hK

theorem portRefusal_kept {s : State} {r : AxiReq} {atomic : Bool} {z tK : State} (e : portRefusal s r atomic = some tK) (hK : Kept z s) :
    Kept z tK := by
  refine (?_ : KeptOpt z (portRefusal s r atomic)) _ e
  unfold portRefusal
  extract_lets +onlyGivenNames x1
  clear_value x1
  refine KeptOpt.ite ?_ ?_
  · refine KeptOpt.some ?_
    with_reducible apply respond_kept
    with_reducible apply bump_kept
    exact hK
  · refine KeptOpt.ite ?_ ?_
    · refine KeptOpt.some ?_
      with_reducible apply respond_kept
      with_reducible apply bump_kept
      exact hK
    · refine KeptOpt.ite ?_ ?_
      · refine KeptOpt.some ?_
        with_reducible apply respond_kept
        with_reducible apply bump_kept
        exact hK
      · refine KeptOpt.ite ?_ ?_
        · refine KeptOpt.some ?_
          with_reducible apply respond_kept
          exact hK
        · refine KeptOpt.ite ?_ ?_
          · refine KeptOpt.some ?_
            with_reducible apply respond_kept
            exact hK
          · exact KeptOpt.none

theorem doAxiRead_kept (s : State) (r : AxiReq) {z : State} (hK : Kept z s) :
    Kept z (doAxiRead s r) := by
  unfold doAxiRead
  split
  · rename_i v1 v2 e3
    have k4 : Kept z v2 := by
      refine portRefusal_kept e3 ?_
      exact hK
    exact k4
  · rename_i v5 e6
    extract_lets +onlyGivenNames x7
    clear_value x7
    refine Kept.ite ?_ ?_
    · extract_lets +onlyGivenNames x8
      clear_value x8
      with_reducible apply sendVc4_kept
      exact hK
    · split
      · rename_i v9 v10 v11 e12
        have k13 : Kept z v11 := by
          refine Kept.of_snd e12 ?_
          with_reducible apply rangeRead_kept
          exact hK
        refine Kept.ite ?_ ?_
        · with_reducible apply respond_kept
          exact k13
        · with_reducible apply respond_kept
          exact k13

theorem doAxiWrite_kept (s : State) (r : AxiReq) {z : State} (hK : Kept z s) :
    Kept z (doAxiWrite s r) := by
  unfold doAxiWrite
  split
  · rename_i v1 v2 e3
    have k4 : Kept z v2 := by
      refine portRefusal_kept e3 ?_
      exact hK
    exact k4
  · rename_i v5 e6
    extract_lets +onlyGivenNames x7
    clear_value x7
    extract_lets +onlyGivenNames x8
    clear_value x8
    refine Kept.ite ?_ ?_
    · extract_lets +onlyGivenNames x9
      clear_value x9
      extract_lets +onlyGivenNames x10
      have k11 : Kept z x10 := by
        subst x10
        refine Kept.foldl ?_ ?_
        · exact hK
        · intro v12 v13 k14
          refine Kept.ite ?_ ?_
          · with_reducible apply sendVc4_kept
            exact k14
          · with_reducible apply sendVc4_kept
            exact k14
      clear_value x10
      with_reducible apply respond_kept
      exact k11
    · split
      · rename_i v15 v16 v17 e18
        have k19 : Kept z v17 := by
          refine Kept.of_snd e18 ?_
          refine Kept.foldl_snd ?_ ?_
          · refine Kept.snd ?_
            exact hK
          · intro v20 v21 k22
            refine Kept.ite_snd ?_ ?_
            · refine Kept.snd ?_
              exact k22
            · split
              · rename_i v23 v24 v25 e26
                have k27 : Kept z v25 := by
                  refine Kept.of_snd e26 ?_
                  with_reducible apply burstWrite_kept
                  exact k22
                refine Kept.snd ?_
                exact k27
        with_reducible apply respond_kept
        exact k19

theorem doAxiAtomic_kept (s : State) (r : AxiReq) {z : State} (hK : Kept z s) :
    Kept z (doAxiAtomic s r) := by
  unfold doAxiAtomic
  extract_lets +onlyGivenNames x1
  clear_value x1
  extract_lets +onlyGivenNames x2
  clear_value x2
  refine Kept.ite ?_ ?_
  · with_reducible apply respond_kept
    with_reducible apply bump_kept
    exact hK
  · split
    · rename_i v3 v4 e5
      have k6 : Kept z v4 := by
        refine portRefusal_kept e5 ?_
        exact hK
      exact k6
    · rename_i v7 e8
      refine Kept.ite ?_ ?_
      · with_reducible apply respond_kept
        with_reducible apply bump_kept
        exact hK
      · extract_lets +onlyGivenNames x9
        clear_value x9
        extract_lets +onlyGivenNames x10
        clear_value x10
        refine Kept.ite ?_ ?_
        · with_reducible apply sendVc4_kept
          exact hK
        · refine Kept.ite ?_ ?_
          · with_reducible apply respond_kept
            exact hK
          · split
            · rename_i v11 v12 v13 v14 e15
              have k16 : Kept z v14 := by
                refine Kept.of_snd_snd e15 ?_
                with_reducible apply atomicAt_kept
                exact hK
              with_reducible apply respond_kept
              exact k16

theorem doAxi_kept (s : State) (kind : Nat) (r : AxiReq) {z : State} (hK : Kept z s) :
    Kept z (doAxi s kind r) := by
  unfold doAxi
  split
  · rename_i v1
    with_reducible apply doAxiRead_kept
    exact hK
  · rename_i v2
    with_reducible apply doAxiWrite_kept
    exact hK
  · rename_i v3 e4 e5
    with_reducible apply doAxiAtomic_kept
    exact hK

theorem axiArrive_kept (s : State) (kind : Nat) (r : AxiReq) {z : State} (hK : Kept z s) :
    Kept z (axiArrive s kind r) := by
  unfold axiArrive
  refine Kept.ite ?_ ?_
  · exact hK
  · refine Kept.ite ?_ ?_
    · with_reducible apply respond_kept
      exact hK
    · refine Kept.ite ?_ ?_
      · refine Kept.upd ?_ ..
        exact hK
      · with_reducible apply doAxi_kept
        exact hK

theorem releaseWaiting_kept (s : State) {z : State} (hK : Kept z s) :
    Kept z (releaseWaiting s) := by
  unfold releaseWaiting
  extract_lets +onlyGivenNames x1
  clear_value x1
  extract_lets +onlyGivenNames x2
  clear_value x2
  extract_lets +onlyGivenNames x3
  have k4 : Kept z x3 := by
    subst x3
    refine Kept.upd ?_ ..
    exact hK
  clear_value x3
  refine Kept.foldl ?_ ?_
  · exact k4
  · intro v5 v6 k7
    refine Kept.ite ?_ ?_
    · refine Kept.upd ?_ ..
      exact k7
    · extract_lets +onlyGivenNames x8
      clear_value x8
      extract_lets +onlyGivenNames x9
      have k10 : Kept z x9 := by
        subst x9
        with_reducible apply doAxi_kept
        exact k7
      clear_value x9
      extract_lets +onlyGivenNames x11
      clear_value x11
      refine Kept.upd ?_ ..
      exact k10

theorem hostFence_kept (s : State) (r : AxiReq) {z : State} (hK : Kept z s) :
    Kept z (hostFence s r) := by
  unfold hostFence
  extract_lets +onlyGivenNames x1
  clear_value x1
  refine Kept.ite ?_ ?_
  · exact hK
  · refine Kept.ite ?_ ?_
    · with_reducible apply axiArrive_kept
      exact hK
    · refine Kept.ite ?_ ?_
      · with_reducible apply respond_kept
        exact hK
      · refine Kept.ite ?_ ?_
        · with_reducible apply respond_kept
          with_reducible apply bump_kept
          exact hK
        · extract_lets +onlyGivenNames x2
          clear_value x2
          refine Kept.ite ?_ ?_
          · with_reducible apply respond_kept
            with_reducible apply bump_kept
            exact hK
          · extract_lets +onlyGivenNames x3
            clear_value x3
            extract_lets +onlyGivenNames x4
            clear_value x4
            extract_lets +onlyGivenNames x5
            clear_value x5
            refine Kept.upd ?_ ..
            exact hK

theorem fenceRespond_kept (s : State) (narrow : Bool) (p : Nat) {z : State} (hK : Kept z s) :
    Kept z (fenceRespond s narrow p) := by
  unfold fenceRespond
  split
  · rename_i v1 e2
    exact hK
  · rename_i v3 v4 e5
    refine Kept.ite ?_ ?_
    · exact hK
    · extract_lets +onlyGivenNames x6
      clear_value x6
      extract_lets +onlyGivenNames x7
      have k8 : Kept z x7 := by
        subst x7
        refine Kept.upd ?_ ..
        exact hK
      clear_value x7
      extract_lets +onlyGivenNames x9
      clear_value x9
      refine Kept.ite ?_ ?_
      · with_reducible apply respond_kept
        with_reducible apply bump_kept
        exact k8
      · with_reducible apply respond_kept
        with_reducible apply bump_kept
        exact k8

theorem loseWrite_kept (s : State) (narrow : Bool) (p tag : Nat) {z : State} (hK : Kept z s) :
    Kept z (loseWrite s narrow p tag) := by
  unfold loseWrite
  split
  · rename_i v1 v2 e3
    refine Kept.upd ?_ ..
    exact hK
  · rename_i v4 e5
    refine Kept.upd ?_ ..
    exact hK

theorem onPort_kept (r : AxiReq) (t : State) {z : State} (hK : Kept z t) :
    KeptOut z (onPort r t) := by
  unfold onPort
  refine KeptOut.ite ?_ ?_
  · exact KeptOut.refused _
  · refine KeptOut.next ?_
    exact hK

theorem execAxiRead_kept (r : AxiReq) (s : State) {z : State} (hK : Kept z s) :
    KeptOut z (execAxiRead r s) := by
  unfold execAxiRead
  with_reducible apply onPort_kept
  with_reducible apply axiArrive_kept
  exact hK

theorem execAxiWrite_kept (r : AxiReq) (s : State) {z : State} (hK : Kept z s) :
    KeptOut z (execAxiWrite r s) := by
  unfold execAxiWrite
  with_reducible apply onPort_kept
  with_reducible apply axiArrive_kept
  exact hK

theorem execAxiAtomic_kept (r : AxiReq) (s : State) {z : State} (hK : Kept z s) :
    KeptOut z (execAxiAtomic r s) := by
  unfold execAxiAtomic
  with_reducible apply onPort_kept
  with_reducible apply axiArrive_kept
  exact hK

theorem execNarrowSectorRequest_kept (write : Bool) (r : AxiReq) (s : State) {z : State} (hK : Kept z s) :
    KeptOut z (execNarrowSectorRequest write r s) := by
  unfold execNarrowSectorRequest
  with_reducible apply onPort_kept
  with_reducible apply axiArrive_kept
  exact hK

theorem execHostFence_kept (r : AxiReq) (s : State) {z : State} (hK : Kept z s) :
    KeptOut z (execHostFence r s) := by
  unfold execHostFence
  with_reducible apply onPort_kept
  with_reducible apply hostFence_kept
  exact hK

theorem execFenceResponse_kept (narrow : Bool) (port : Nat) (s : State) {z : State} (hK : Kept z s) :
    KeptOut z (execFenceResponse narrow port s) := by
  unfold execFenceResponse
  refine KeptOut.next ?_
  with_reducible apply fenceRespond_kept
  exact hK

end Sys2Proof.Machine
end

