-- ==== Sys2Proof/Laws/MemRows.lean ====
section
/-!
SUPPORT. What each operation of Machine/MemRows.lean keeps (`Kept`): the chip, the queue, the Turn and the canonical stores.
-/
namespace Sys2Proof.Machine

theorem dfiDone_kept (s : State) (d : DfiIn) {z : State} (hK : Kept z s) :
    Kept z (dfiDone s d) := by
  unfold dfiDone
  refine Kept.ite ?_ ?_
  · exact hK
  · extract_lets +onlyGivenNames x1
    clear_value x1
    extract_lets +onlyGivenNames x2
    clear_value x2
    extract_lets +onlyGivenNames x3
    clear_value x3
    extract_lets +onlyGivenNames x4
    clear_value x4
    extract_lets +onlyGivenNames x5
    clear_value x5
    extract_lets +onlyGivenNames x6
    have k7 : Kept z x6 := by
      subst x6
      refine Kept.foldl ?_ ?_
      · exact hK
      · intro v8 v9 k10
        with_reducible apply event_kept
        exact k10
    clear_value x6
    extract_lets +onlyGivenNames x11
    clear_value x11
    extract_lets +onlyGivenNames x12
    clear_value x12
    extract_lets +onlyGivenNames x13
    have k14 : Kept z x13 := by
      subst x13
      with_reducible apply bumpBy_kept
      with_reducible apply bumpBy_kept
      exact k7
    clear_value x13
    extract_lets +onlyGivenNames x15
    clear_value x15
    extract_lets +onlyGivenNames x16
    clear_value x16
    extract_lets +onlyGivenNames x17
    refine Kept.updMem ?_ ..
    exact k14

theorem fillDone_kept (s : State) {z : State} (hK : Kept z s) : Kept z (fillDone s) := by
  unfold fillDone
  refine Kept.ite hK ?_
  refine Kept.setMem hK _ (fun w => ?_) ..
  rw [memory_wf_iff] at w ⊢
  exact ⟨rfl, w.2.1, rfl, w.2.2.2⟩

theorem rewriteRow_kept (s : State) (key : Bool × Nat × Nat) {z : State} (hK : Kept z s) :
    Kept z (rewriteRow s key) := by
  unfold rewriteRow
  refine Kept.foldl ?_ ?_
  · exact hK
  · intro v1 v2 k3
    split
    · rename_i v4 v5 e6
      split
      · rename_i v7 v8 v9 e10
        have k11 : Kept z v9 := by
          refine Kept.of_snd e10 ?_
          with_reducible apply dramDecode_kept
          exact k3
        with_reducible apply dramStore_kept
        exact k11
    · rename_i v12 e13
      exact k3

theorem softPprDone_kept (s : State) (ok : Bool) {z : State} (hK : Kept z s) :
    Kept z (softPprDone s ok) := by
  unfold softPprDone
  split
  · rename_i v1 e2
    exact hK
  · rename_i v3 v4 v5 e6
    extract_lets +onlyGivenNames x7
    have k8 : Kept z x7 := by
      subst x7
      with_reducible apply rewriteRow_kept
      exact hK
    clear_value x7
    extract_lets +onlyGivenNames x9
    extract_lets +onlyGivenNames x10
    have k11 : Kept z x10 := by
      subst x10
      refine Kept.updMem ?_ ..
      exact k8
    clear_value x10
    with_reducible apply releaseWaiting_kept
    refine Kept.ite ?_ ?_
    · with_reducible apply bump_kept
      extract_lets +onlyGivenNames x12
      clear_value x12
      extract_lets +onlyGivenNames x13
      refine Kept.updMem ?_ ..
      exact k11
    · extract_lets +onlyGivenNames x14
      refine Kept.updMem ?_ ..
      exact k11

theorem emptyWay_kept (s : State) (w : Nat) {z : State} (hK : Kept z s) :
    Kept z (emptyWay s w).2 := by
  unfold emptyWay
  extract_lets +onlyGivenNames x1
  clear_value x1
  split
  · rename_i v2 v3 v4 e5
    have k6 : Kept z v4 := by
      refine Kept.of_snd e5 ?_
      refine Kept.foldl_snd ?_ ?_
      · refine Kept.snd ?_
        exact hK
      · intro v7 v8 k9
        split
        · rename_i v10 v11 e12
          split
          · rename_i v13 v14 v15 e16
            have k17 : Kept z v15 := by
              refine Kept.of_snd e16 ?_
              with_reducible apply lineBack_kept
              exact k9
            refine Kept.snd ?_
            exact k17
        · rename_i v18 e19
          with_reducible apply_assumption
    refine Kept.snd ?_
    refine Kept.upd ?_ ..
    exact k6

theorem zeroGranule_kept (s : State) (g : Nat) {z : State} (hK : Kept z s) : Kept z (zeroGranule s g) := by
  unfold zeroGranule
  extract_lets +onlyGivenNames x1
  clear_value x1
  refine Kept.setMem hK _ (fun w => ?_) ..
  rw [memory_wf_iff] at w ⊢
  exact ⟨w.1, mapErase_wf _ _ _ w.2.1, w.2.2.1, mapErase_wf _ _ _ w.2.2.2⟩

theorem convertDone_kept (s : State) (g : Nat) {z : State} (hK : Kept z s) :
    Kept z (convertDone s g) := by
  unfold convertDone
  refine Kept.ite ?_ ?_
  · exact hK
  · split
    · rename_i v1 v2 v3 e4
      have k5 : Kept z v3 := by
        refine Kept.of_snd e4 ?_
        with_reducible apply emptyWay_kept
        exact hK
      extract_lets +onlyGivenNames x6
      have k7 : Kept z x6 := by
        subst x6
        with_reducible apply bumpBy_kept
        exact k5
      clear_value x6
      extract_lets +onlyGivenNames x8
      clear_value x8
      extract_lets +onlyGivenNames x9
      have k10 : Kept z x9 := by
        subst x9
        with_reducible apply zeroGranule_kept
        refine Kept.upd ?_ ..
        exact k7
      clear_value x9
      with_reducible apply releaseWaiting_kept
      exact k10

theorem retrainDone_kept (s : State) (failed : Nat) {z : State} (hK : Kept z s) :
    Kept z (retrainDone s failed) := by
  unfold retrainDone
  split
  · rename_i v1 e2
    exact hK
  · rename_i v3 v4 e5
    extract_lets +onlyGivenNames x6
    have k7 : Kept z x6 := by
      subst x6
      refine Kept.foldl ?_ ?_
      · exact hK
      · intro v8 v9 k10
        with_reducible apply askGrade_kept
        exact k10
    clear_value x6
    extract_lets +onlyGivenNames x11
    extract_lets +onlyGivenNames x12
    have k13 : Kept z x12 := by
      subst x12
      with_reducible apply regClr_kept
      refine Kept.updMem ?_ ..
      exact k7
    clear_value x12
    with_reducible apply releaseWaiting_kept
    exact k13

theorem scrubDram_kept (s : State) (b : Nat) {z : State} (hK : Kept z s) :
    Kept z (scrubDram s b) := by
  unfold scrubDram
  split
  · rename_i v1 e2
    exact hK
  · rename_i v3 v4 e5
    refine Kept.ite ?_ ?_
    · exact hK
    · split
      · rename_i v6 v7 v8 e9
        have k10 : Kept z v8 := by
          refine Kept.of_snd e9 ?_
          with_reducible apply dramDecode_kept
          exact hK
        refine Kept.ite ?_ ?_
        · exact k10
        · with_reducible apply dramStore_kept
          exact k10

theorem scrubHopper_kept (s : State) (b : Nat) {z : State} (hK : Kept z s) :
    Kept z (scrubHopper s b) := by
  unfold scrubHopper
  extract_lets +onlyGivenNames x1
  clear_value x1
  extract_lets +onlyGivenNames x2
  clear_value x2
  split
  · rename_i v3 v4 v5 e6
    have k7 : Kept z v5 := by
      refine Kept.of_snd e6 ?_
      with_reducible apply hopDecode_kept
      exact hK
    extract_lets +onlyGivenNames x8
    clear_value x8
    extract_lets +onlyGivenNames x9
    clear_value x9
    extract_lets +onlyGivenNames x10
    extract_lets +onlyGivenNames x11
    have k12 : Kept z x11 := by
      subst x11
      refine Kept.updMem ?_ ..
      exact k7
    clear_value x11
    refine Kept.ite ?_ ?_
    · extract_lets +onlyGivenNames x13
      refine Kept.setMem ?_ _ (fun w => ?_) ..
      · exact k12
      · rw [memory_wf_iff] at w ⊢
        exact ⟨w.1, w.2.1, w.2.2.1, mapSet_wf _ _ _ w.2.2.2⟩
    · exact k12

theorem scrubTurn_kept (s : State) {z : State} (hK : Kept z s) :
    Kept z (scrubTurn s) := by
  refine unfoldTo (f := scrubTurn) (P := fun f => Kept z (f s)) (by delta scrubTurn; rfl) ?_
  beta_reduce
  extract_lets +onlyGivenNames x1
  clear_value x1
  extract_lets +onlyGivenNames x2
  clear_value x2
  extract_lets +onlyGivenNames x3
  clear_value x3
  extract_lets +onlyGivenNames x4
  clear_value x4
  extract_lets +onlyGivenNames x5
  clear_value x5
  extract_lets +onlyGivenNames x6
  clear_value x6
  extract_lets +onlyGivenNames x7
  have k8 : Kept z x7 := by
    subst x7
    refine Kept.foldl ?_ ?_
    · refine Kept.foldl ?_ ?_
      · exact hK
      · intro v9 v10 k11
        with_reducible apply scrubDram_kept
        exact k11
    · intro v12 v13 k14
      with_reducible apply scrubHopper_kept
      exact k14
  clear_value x7
  split
  · rename_i v15 v16 v17 e18
    split
    · rename_i v19 v20 v21 e22
      split
      · rename_i v23 v24 v25 e26
        extract_lets +onlyGivenNames x27
        clear_value x27
        extract_lets +onlyGivenNames x28
        clear_value x28
        extract_lets +onlyGivenNames x29
        have k30 : Kept z x29 := by
          subst x29
          with_reducible apply regSet_kept
          exact k8
        clear_value x29
        extract_lets +onlyGivenNames x31
        have k32 : Kept z x31 := by
          subst x31
          refine Kept.ite ?_ ?_
          · with_reducible apply bump_kept
            exact k30
          · exact k30
        clear_value x31
        extract_lets +onlyGivenNames x33
        refine Kept.updMem ?_ ..
        exact k32

theorem memWheel_kept (s : State) (i : WheelIn) {z : State} (hK : Kept z s) :
    Kept z (memWheel s i) := by
  unfold memWheel
  extract_lets +onlyGivenNames x1
  have k2 : Kept z x1 := by
    subst x1
    refine Kept.foldl ?_ ?_
    · exact hK
    · intro v3 v4 k5
      split
      · rename_i v6 v7 v8
        split
        · rename_i v9
          exact k5
        · rename_i v10 v11
          extract_lets +onlyGivenNames x12
          clear_value x12
          extract_lets +onlyGivenNames x13
          clear_value x13
          extract_lets +onlyGivenNames x14
          refine Kept.updMem ?_ ..
          exact k5
  clear_value x1
  extract_lets +onlyGivenNames x15
  refine Kept.updMem ?_ ..
  exact k2

theorem execDfiInitialisationDone_kept (d : DfiIn) (s : State) {z : State} (hK : Kept z s) :
    KeptOut z (execDfiInitialisationDone d s) := by
  unfold execDfiInitialisationDone
  refine KeptOut.next ?_
  with_reducible apply dfiDone_kept
  exact hK

theorem execMemoryFillDone_kept (s : State) {z : State} (hK : Kept z s) :
    KeptOut z (execMemoryFillDone s) := by
  unfold execMemoryFillDone
  refine KeptOut.next ?_
  with_reducible apply fillDone_kept
  exact hK

theorem execPhyFatalError_kept (mp : Bool) (channel : Nat) (s : State) {z : State} (hK : Kept z s) :
    KeptOut z (execPhyFatalError mp channel s) := by
  unfold execPhyFatalError
  extract_lets +onlyGivenNames x1
  clear_value x1
  refine KeptOut.next ?_
  refine Kept.ite ?_ ?_
  · with_reducible apply askGrade_kept
    exact hK
  · exact hK

theorem execPhyUpdateRequest_kept (mp : Bool) (port : Nat) (s : State) {z : State} (hK : Kept z s) :
    KeptOut z (execPhyUpdateRequest mp port s) := by
  unfold execPhyUpdateRequest
  refine KeptOut.next ?_
  refine Kept.ite ?_ ?_
  · exact hK
  · extract_lets +onlyGivenNames x1
    refine Kept.updMem ?_ ..
    exact hK

theorem execSoftPprDone_kept (repaired : Bool) (s : State) {z : State} (hK : Kept z s) :
    KeptOut z (execSoftPprDone repaired s) := by
  unfold execSoftPprDone
  refine KeptOut.next ?_
  with_reducible apply softPprDone_kept
  exact hK

theorem execGranuleConvertDone_kept (g : Nat) (s : State) {z : State} (hK : Kept z s) :
    KeptOut z (execGranuleConvertDone g s) := by
  unfold execGranuleConvertDone
  refine KeptOut.next ?_
  with_reducible apply convertDone_kept
  exact hK

theorem execMpRetrainDone_kept (failed : Nat) (s : State) {z : State} (hK : Kept z s) :
    KeptOut z (execMpRetrainDone failed s) := by
  unfold execMpRetrainDone
  refine KeptOut.next ?_
  with_reducible apply retrainDone_kept
  exact hK

end Sys2Proof.Machine
end

