-- ==== Sys2Proof/Laws/Boot.lean ====
section
/-!
SUPPORT. What each operation of Machine/Boot.lean keeps (`Kept`): the chip, the queue, the Turn and the canonical stores.
-/
namespace Sys2Proof.Machine

theorem bootStop_kept (s : State) (err : Nat) {z : State} (hK : Kept z s) :
    Kept z (bootStop s err) := by
  unfold bootStop
  with_reducible apply irqSet_kept
  refine Kept.upd ?_ ..
  exact hK

theorem coldReset_kept (s : State) {z : State} (hK : Kept z { s with time := TimeSt.reset }) : Kept z (coldReset s) :=
  ⟨hK.chip, hK.pending, fun _ => rfl, fun _ => rfl, hK.turn, hK.latch, fun _ => rfl⟩

/-- From the state whose clock is at reset. -/
theorem doReset_kept (s : State) (n : NorFind) {z : State} (hK : Kept z { s with time := TimeSt.reset }) :
    Kept z (doReset s n) := by
  unfold doReset
  extract_lets +onlyGivenNames x1
  have k2 : Kept z x1 := by
    subst x1
    with_reducible apply coldReset_kept
    exact hK
  clear_value x1
  extract_lets +onlyGivenNames x3
  clear_value x3
  extract_lets +onlyGivenNames x4
  have k5 : Kept z x4 := by
    subst x4
    refine Kept.upd ?_ ..
    exact k2
  clear_value x4
  refine Kept.ite ?_ ?_
  · exact k5
  · with_reducible apply bootStop_kept
    exact k5

theorem initReg_kept (s : State) (off v : Nat) {z : State} (hK : Kept z s) :
    Kept z (initReg s off v) := by
  unfold initReg
  extract_lets +onlyGivenNames x1
  clear_value x1
  with_reducible apply regSet_kept
  exact hK

theorem imageRead_kept (s : State) (img : List Byte) {z : State} (hK : Kept z s) :
    Kept z (imageRead s img) := by
  unfold imageRead
  refine Kept.ite ?_ ?_
  · exact hK
  · split
    · rename_i v1 e2
      extract_lets +onlyGivenNames x3
      clear_value x3
      extract_lets +onlyGivenNames x4
      clear_value x4
      refine Kept.upd ?_ ..
      exact hK
    · rename_i v5 e6
      with_reducible apply bootStop_kept
      refine Kept.upd ?_ ..
      exact hK

theorem journalStart_kept (s : State) {z : State} (hK : Kept z s) :
    Kept z (journalStart s) := by
  unfold journalStart
  extract_lets +onlyGivenNames x1
  clear_value x1
  extract_lets +onlyGivenNames x2
  clear_value x2
  extract_lets +onlyGivenNames x3
  clear_value x3
  split
  · rename_i v4
    with_reducible apply putSlot_kept
    refine Kept.upd ?_ ..
    exact hK
  · rename_i v5 v6 v7 v8
    with_reducible apply putSlot_kept
    refine Kept.upd ?_ ..
    exact hK

theorem applyGrades_kept (s : State) {z : State} (hK : Kept z s) :
    Kept z (applyGrades s) := by
  unfold applyGrades
  extract_lets +onlyGivenNames x1
  clear_value x1
  refine Kept.updUnits ?_ _ _ _ _ (by simp [modAt, shapeOf]) ..
  exact hK

theorem loadRecipes_kept (fu : Nat) (s : State) (bs : List Byte) {z : State} (hK : Kept z s) :
    Kept z (loadRecipes fu s bs).2 := by
  induction fu generalizing s bs with
  | zero => exact hK
  | succ fu ih =>
    unfold loadRecipes
    refine Kept.ite_snd ?_ ?_
    · refine Kept.snd ?_
      exact hK
    · extract_lets +onlyGivenNames x1
      clear_value x1
      extract_lets +onlyGivenNames x2
      clear_value x2
      split
      · rename_i v3 v4 v5 e6
        have k7 : Kept z v5 := by
          refine Kept.of_snd e6 ?_
          with_reducible apply ih
          refine Kept.elim ?_ ?_
          · exact hK
          · intro v8
            with_reducible apply placeRecipe_kept
            exact hK
        refine Kept.snd ?_
        exact k7

theorem applyInit_kept (s : State) {z : State} (hK : Kept z s) :
    Kept z (applyInit s) := by
  unfold applyInit
  extract_lets +onlyGivenNames x1
  clear_value x1
  with_reducible apply committedEffects_kept
  refine Kept.foldl ?_ ?_
  · exact hK
  · intro v2 v3 k4
    with_reducible apply initReg_kept
    exact k4

theorem applySchedule_kept (s : State) {z : State} (hK : Kept z s) :
    Kept z (applySchedule s) := by
  unfold applySchedule
  extract_lets +onlyGivenNames x1
  clear_value x1
  extract_lets +onlyGivenNames x2
  have k3 : Kept z x2 := by
    subst x2
    refine Kept.foldl ?_ ?_
    · exact hK
    · intro v4 v5 k6
      with_reducible apply initReg_kept
      exact k6
  clear_value x2
  refine Kept.foldl ?_ ?_
  · exact k3
  · intro v7 v8 k9
    with_reducible apply initReg_kept
    exact k9

theorem applyRoutes_kept (s : State) {z : State} (hK : Kept z s) :
    Kept z (applyRoutes s) := by
  unfold applyRoutes
  extract_lets +onlyGivenNames x1
  clear_value x1
  extract_lets +onlyGivenNames x2
  clear_value x2
  extract_lets +onlyGivenNames x3
  extract_lets +onlyGivenNames x4
  have k5 : Kept z x4 := by
    subst x4
    refine Kept.updGl ?_ ..
    exact hK
  clear_value x4
  extract_lets +onlyGivenNames x6
  have k7 : Kept z x6 := by
    subst x6
    with_reducible apply initReg_kept
    with_reducible apply initReg_kept
    with_reducible apply initReg_kept
    exact k5
  clear_value x6
  extract_lets +onlyGivenNames x8
  have k9 : Kept z x8 := by
    subst x8
    with_reducible apply scrWrite_kept
    exact k7
  clear_value x8
  with_reducible apply scrWrite_kept
  exact k9

theorem applyTopology_kept (s : State) {z : State} (hK : Kept z s) :
    Kept z (applyTopology s) := by
  unfold applyTopology
  extract_lets +onlyGivenNames x1
  clear_value x1
  refine Kept.upd ?_ ..
  exact hK

theorem applyFirmware_kept (s : State) {z : State} (hK : Kept z s) :
    Kept z (applyFirmware s) := by
  unfold applyFirmware
  extract_lets +onlyGivenNames x1
  clear_value x1
  extract_lets +onlyGivenNames x2
  clear_value x2
  extract_lets +onlyGivenNames x3
  have k4 : Kept z x3 := by
    subst x3
    refine Kept.upd ?_ ..
    exact hK
  clear_value x3
  with_reducible apply regSet_kept
  exact k4

theorem startUp_kept (s : State) {z : State} (hK : Kept z s) :
    Kept z (startUp s) := by
  unfold startUp
  extract_lets +onlyGivenNames x1
  have k2 : Kept z x1 := by
    subst x1
    with_reducible apply applyGrades_kept
    with_reducible apply journalStart_kept
    exact hK
  clear_value x1
  extract_lets +onlyGivenNames x3
  have k4 : Kept z x3 := by
    subst x3
    with_reducible apply applyTopology_kept
    with_reducible apply applyRoutes_kept
    with_reducible apply applySchedule_kept
    with_reducible apply applyInit_kept
    exact k2
  clear_value x3
  extract_lets +onlyGivenNames x5
  clear_value x5
  split
  · rename_i v6 v7 v8 e9
    have k10 : Kept z v8 := by
      refine Kept.of_snd e9 ?_
      with_reducible apply loadRecipes_kept
      exact k4
    extract_lets +onlyGivenNames x11
    clear_value x11
    extract_lets +onlyGivenNames x12
    have k13 : Kept z x12 := by
      subst x12
      with_reducible apply applyFirmware_kept
      refine Kept.upd ?_ ..
      exact k10
    clear_value x12
    refine Kept.updUnits ?_ _ _ _ _ (by simp [modAt, shapeOf]) ..
    exact k13

theorem secVerdict_kept (s : State) (done ok : Bool) {z : State} (hK : Kept z s) :
    Kept z (secVerdict s done ok) := by
  unfold secVerdict
  refine Kept.ite ?_ ?_
  · exact hK
  · refine Kept.ite ?_ ?_
    · with_reducible apply startUp_kept
      exact hK
    · with_reducible apply bootStop_kept
      exact hK

theorem portsOpen_kept (s : State) {z : State} (hK : Kept z s) :
    Kept z (portsOpen s) := by
  unfold portsOpen
  refine Kept.ite ?_ ?_
  · exact hK
  · with_reducible apply releaseWaiting_kept
    refine Kept.upd ?_ ..
    exact hK

theorem pfwAssert_kept (s : State) (b : Bool) {z : State} (hK : Kept z s) :
    Kept z (pfwAssert s b) := by
  unfold pfwAssert
  extract_lets +onlyGivenNames x1
  clear_value x1
  extract_lets +onlyGivenNames x2
  have k3 : Kept z x2 := by
    subst x2
    refine Kept.upd ?_ ..
    exact hK
  clear_value x2
  refine Kept.ite ?_ ?_
  · exact k3
  · split
    · rename_i v4 e5
      refine Kept.upd ?_ ..
      exact k3
    · rename_i v6 v7 e8
      refine Kept.ite ?_ ?_
      · exact k3
      · refine Kept.upd ?_ ..
        exact k3

theorem pfwExpiry_kept (s : State) {z : State} (hK : Kept z s) :
    Kept z (pfwExpiry s) := by
  unfold pfwExpiry
  split
  · rename_i v1 e2
    exact hK
  · rename_i v3 v4 e5
    with_reducible apply irqSet_kept
    with_reducible apply bump_kept
    with_reducible apply regOr_kept
    refine Kept.upd ?_ ..
    exact hK

theorem powerFailStart_kept (s : State) {z : State} (hK : Kept z s) :
    Kept z (powerFailStart s) := by
  unfold powerFailStart
  refine Kept.ite ?_ ?_
  · exact hK
  · extract_lets +onlyGivenNames x1
    clear_value x1
    extract_lets +onlyGivenNames x2
    clear_value x2
    extract_lets +onlyGivenNames x3
    have k4 : Kept z x3 := by
      subst x3
      refine Kept.upd ?_ ..
      exact hK
    clear_value x3
    extract_lets +onlyGivenNames x5
    have k6 : Kept z x5 := by
      subst x5
      refine Kept.foldl ?_ ?_
      · exact k4
      · intro v7 v8 k9
        with_reducible apply txnDropped_kept
        exact k9
    clear_value x5
    extract_lets +onlyGivenNames x10
    have k11 : Kept z x10 := by
      subst x10
      refine Kept.ite ?_ ?_
      · with_reducible apply sendTo_kept
        exact k6
      · exact k6
    clear_value x10
    with_reducible apply abandonStep_kept
    with_reducible apply stopUnits_kept
    exact k11

theorem pfDone_kept (s : State) {z : State} (hK : Kept z s) :
    Kept z (pfDone s) := by
  unfold pfDone
  refine Kept.ite ?_ ?_
  · refine Kept.upd ?_ ..
    exact hK
  · exact hK

theorem execReset_kept (n : NorFind) (s : State) {z : State} (hK : Kept z { s with time := TimeSt.reset }) :
    KeptOut z (execReset n s) :=
  KeptOut.next (doReset_kept s n hK)

theorem execImageReadDone_kept (image : List Byte) (s : State) {z : State} (hK : Kept z s) :
    KeptOut z (execImageReadDone image s) := by
  unfold execImageReadDone
  refine KeptOut.next ?_
  with_reducible apply imageRead_kept
  exact hK

theorem execSecVerdict_kept (done ok : Bool) (s : State) {z : State} (hK : Kept z s) :
    KeptOut z (execSecVerdict done ok s) := by
  unfold execSecVerdict
  refine KeptOut.next ?_
  with_reducible apply secVerdict_kept
  exact hK

theorem execPortsOpen_kept (s : State) {z : State} (hK : Kept z s) :
    KeptOut z (execPortsOpen s) := by
  unfold execPortsOpen
  refine KeptOut.next ?_
  with_reducible apply portsOpen_kept
  exact hK

theorem execPfwAssert_kept (chanB : Bool) (s : State) {z : State} (hK : Kept z s) :
    KeptOut z (execPfwAssert chanB s) := by
  unfold execPfwAssert
  refine KeptOut.next ?_
  with_reducible apply pfwAssert_kept
  exact hK

theorem execPfwDeassert_kept (chanB : Bool) (s : State) {z : State} (hK : Kept z s) :
    KeptOut z (execPfwDeassert chanB s) := by
  unfold execPfwDeassert
  refine KeptOut.next ?_
  refine Kept.upd ?_ ..
  exact hK

theorem execPfwWindowExpiry_kept (s : State) {z : State} (hK : Kept z s) :
    KeptOut z (execPfwWindowExpiry s) := by
  unfold execPfwWindowExpiry
  refine KeptOut.next ?_
  with_reducible apply pfwExpiry_kept
  exact hK

theorem execPfDone_kept (s : State) {z : State} (hK : Kept z s) :
    KeptOut z (execPfDone s) := by
  unfold execPfDone
  refine KeptOut.next ?_
  with_reducible apply pfDone_kept
  exact hK

end Sys2Proof.Machine
end

