-- ==== Sys2Proof/Laws/Leat.lean ====
section
/-!
SUPPORT. What each operation of Machine/Leat.lean keeps (`Kept`): the chip, the queue, the Turn and the canonical stores.
-/
namespace Sys2Proof.Machine

theorem leatEngMod_kept (s : State) (e : Nat) (f : Leat → Leat) {z : State} (hK : Kept z s) :
    Kept z (leatEngMod s e f) := by
  unfold leatEngMod
  refine Kept.updUnits ?_ _ _ _ _ (by simp [modAt, shapeOf]) ..
  exact hK

theorem leatMod_kept (s : State) (e n : Nat) (f : LeatDesc → LeatDesc) {z : State} (hK : Kept z s) :
    Kept z (leatMod s e n f) := by
  unfold leatMod
  with_reducible apply leatEngMod_kept
  exact hK

theorem leatBurst_kept (s : State) (e : Nat) (x : LeatDesc) (qs : Bool) (va : Nat) {z : State} (hK : Kept z s) :
    Kept z (leatBurst s e x qs va).2 := by
  unfold leatBurst
  extract_lets +onlyGivenNames x1
  clear_value x1
  refine Kept.ite_snd ?_ ?_
  · extract_lets +onlyGivenNames x2
    clear_value x2
    refine Kept.ite_snd ?_ ?_
    · refine Kept.snd ?_
      exact hK
    · split
      · rename_i v3 v4 v5 e6
        have k7 : Kept z v5 := by
          refine Kept.of_snd e6 ?_
          with_reducible apply storeCheck_kept
          exact hK
        refine Kept.snd ?_
        exact k7
  · split
    · rename_i v8 v9 v10 e11
      have k12 : Kept z v10 := by
        refine Kept.of_snd e11 ?_
        with_reducible apply sluice_kept
        exact hK
      split
      · rename_i v13 v14 v15
        refine Kept.snd ?_
        exact k12
      · rename_i v16 v17
        extract_lets +onlyGivenNames x18
        clear_value x18
        refine Kept.ite_snd ?_ ?_
        · refine Kept.ite_snd ?_ ?_
          · refine Kept.snd ?_
            with_reducible apply bump_kept
            exact k12
          · split
            · rename_i v19 v20 v21 v22 e23
              refine Kept.snd ?_
              exact k12
            · rename_i v24 e25
              refine Kept.ite_snd ?_ ?_
              · refine Kept.snd ?_
                exact k12
              · refine Kept.snd ?_
                with_reducible apply sendVc4_kept
                with_reducible apply leatMod_kept
                exact k12
        · refine Kept.ite_snd ?_ ?_
          · split
            · rename_i v26 v27 v28 e29
              have k30 : Kept z v28 := by
                refine Kept.of_snd e29 ?_
                with_reducible apply burstRead_kept
                exact k12
              refine Kept.snd ?_
              exact k30
          · refine Kept.snd ?_
            exact k12

theorem leatRange_kept (s : State) (e : Nat) (x : LeatDesc) (qs : Bool) (a n : Nat) {z : State} (hK : Kept z s) :
    Kept z (leatRange s e x qs a n).2 := by
  unfold leatRange
  refine Kept.foldl_snd ?_ ?_
  · refine Kept.snd ?_
    exact hK
  · intro v1 v2 k3
    split
    · rename_i v4 v5 v6 e7
      split
      · rename_i v8 v9 v10 e11
        have k12 : Kept z v10 := by
          refine Kept.of_snd e11 ?_
          with_reducible apply leatBurst_kept
          exact k3
        split
        · rename_i v13 v14 v15
          refine Kept.snd ?_
          exact k12
        · rename_i v16 e17
          refine Kept.snd ?_
          exact k12
    · rename_i v18 e19
      exact k3

theorem leatPut_kept (s : State) (e : Nat) (x : LeatDesc) (qs : Bool) (va : Nat) (bs : List Byte) (pz : Bool) {z : State} (hK : Kept z s) :
    Kept z (leatPut s e x qs va bs pz).2 := by
  unfold leatPut
  refine Kept.ite_snd ?_ ?_
  · extract_lets +onlyGivenNames x1
    clear_value x1
    refine Kept.ite_snd ?_ ?_
    · refine Kept.snd ?_
      exact hK
    · refine Kept.snd ?_
      with_reducible apply storeWrite_kept
      exact hK
  · split
    · rename_i v2 v3 v4 e5
      have k6 : Kept z v4 := by
        refine Kept.of_snd e5 ?_
        with_reducible apply sluice_kept
        exact hK
      split
      · rename_i v7 v8 v9
        refine Kept.snd ?_
        exact k6
      · rename_i v10 v11
        extract_lets +onlyGivenNames x12
        clear_value x12
        extract_lets +onlyGivenNames x13
        clear_value x13
        refine Kept.ite_snd ?_ ?_
        · refine Kept.ite_snd ?_ ?_
          · refine Kept.snd ?_
            with_reducible apply bump_kept
            exact k6
          · refine Kept.ite_snd ?_ ?_
            · refine Kept.snd ?_
              with_reducible apply sendVc4_kept
              exact k6
            · refine Kept.snd ?_
              with_reducible apply sendVc4_kept
              exact k6
        · refine Kept.ite_snd ?_ ?_
          · split
            · rename_i v14 v15 v16 e17
              have k18 : Kept z v16 := by
                refine Kept.of_snd e17 ?_
                with_reducible apply burstWrite_kept
                exact k6
              refine Kept.snd ?_
              exact k18
          · refine Kept.snd ?_
            exact k6

theorem leatPutRange_kept (s : State) (e : Nat) (x : LeatDesc) (qs : Bool) (a : Nat) (bs : List Byte) (pz : Bool) {z : State} (hK : Kept z s) :
    Kept z (leatPutRange s e x qs a bs pz).2 := by
  unfold leatPutRange
  refine Kept.foldl_snd ?_ ?_
  · refine Kept.snd ?_
    exact hK
  · intro v1 v2 k3
    split
    · rename_i v4 e5
      with_reducible apply leatPut_kept
      exact k3
    · rename_i v6 e7
      exact k3

theorem readRuns_kept (s : State) (e : Nat) (x : LeatDesc) (qs : Bool) (l : List (Option Nat × Nat)) {z : State} (hK : Kept z s) :
    Kept z (readRuns s e x qs l).2 := by
  unfold readRuns
  refine Kept.foldl_snd ?_ ?_
  · refine Kept.snd ?_
    exact hK
  · intro v1 v2 k3
    split
    · rename_i v4 v5 v6 e7
      split
      · rename_i v8 e9
        refine Kept.snd ?_
        exact k3
      · rename_i v10 v11 e12
        split
        · rename_i v13 v14 v15 e16
          have k17 : Kept z v15 := by
            refine Kept.of_snd e16 ?_
            with_reducible apply leatRange_kept
            exact k3
          split
          · rename_i v18 v19 v20
            refine Kept.snd ?_
            exact k17
          · rename_i v21 e22
            refine Kept.snd ?_
            exact k17
    · rename_i v23 e24
      exact k3

theorem copyPiece_kept (s : State) (e : Nat) (x : LeatDesc) (dst n : Nat) (runs : List (Option Nat × Nat)) (lap : Bool) {z : State} (hK : Kept z s) :
    Kept z (copyPiece s e x dst n runs lap).2 := by
  unfold copyPiece
  split
  · rename_i v1 v2 v3 e4
    have k5 : Kept z v3 := by
      refine Kept.of_snd e4 ?_
      with_reducible apply readRuns_kept
      exact hK
    split
    · rename_i v6
      refine Kept.snd ?_
      exact k5
    · rename_i v7
      refine Kept.snd ?_
      exact k5
    · rename_i v8 v9 v10 v11
      refine Kept.snd ?_
      exact k5
    · rename_i v12 v13 v14
      split
      · rename_i v15 v16 v17 e18
        have k19 : Kept z v17 := by
          refine Kept.of_snd e18 ?_
          refine Kept.ite_snd ?_ ?_
          · with_reducible apply drawBytes_kept
            exact k5
          · refine Kept.snd ?_
            exact k5
        split
        · rename_i v20 v21 v22 e23
          have k24 : Kept z v22 := by
            refine Kept.of_snd e23 ?_
            with_reducible apply leatPut_kept
            exact k19
          split
          · rename_i v25
            refine Kept.snd ?_
            exact k24
          · rename_i v26 v27 v28 v29
            refine Kept.snd ?_
            exact k24
          · rename_i v30
            refine Kept.snd ?_
            exact k24

theorem stridedPiece_kept (s : State) (e : Nat) (x : LeatDesc) {z : State} (hK : Kept z s) :
    Kept z (stridedPiece s e x).2 := by
  unfold stridedPiece
  extract_lets +onlyGivenNames x1
  clear_value x1
  refine Kept.ite_snd ?_ ?_
  · refine Kept.snd ?_
    exact hK
  · extract_lets +onlyGivenNames x2
    clear_value x2
    extract_lets +onlyGivenNames x3
    clear_value x3
    extract_lets +onlyGivenNames x4
    clear_value x4
    extract_lets +onlyGivenNames x5
    clear_value x5
    with_reducible apply copyPiece_kept
    exact hK

theorem gatherPiece_kept (s : State) (e : Nat) (x : LeatDesc) {z : State} (hK : Kept z s) :
    Kept z (gatherPiece s e x).2 := by
  unfold gatherPiece
  extract_lets +onlyGivenNames x1
  clear_value x1
  refine Kept.ite_snd ?_ ?_
  · refine Kept.snd ?_
    exact hK
  · extract_lets +onlyGivenNames x2
    clear_value x2
    extract_lets +onlyGivenNames x3
    clear_value x3
    split
    · rename_i v4 v5 v6 e7
      have k8 : Kept z v6 := by
        refine Kept.of_snd e7 ?_
        with_reducible apply leatRange_kept
        exact hK
      split
      · rename_i v9
        refine Kept.snd ?_
        exact k8
      · rename_i v10
        refine Kept.snd ?_
        exact k8
      · rename_i v11 v12 v13 v14
        refine Kept.snd ?_
        exact k8
      · rename_i v15 v16 v17
        extract_lets +onlyGivenNames x18
        clear_value x18
        refine Kept.ite_snd ?_ ?_
        · refine Kept.snd ?_
          exact k8
        · extract_lets +onlyGivenNames x19
          clear_value x19
          extract_lets +onlyGivenNames x20
          clear_value x20
          with_reducible apply copyPiece_kept
          exact k8

theorem im2colPiece_kept (s : State) (e : Nat) (x : LeatDesc) {z : State} (hK : Kept z s) :
    Kept z (im2colPiece s e x).2 := by
  unfold im2colPiece
  refine Kept.ite_snd ?_ ?_
  · refine Kept.snd ?_
    exact hK
  · extract_lets +onlyGivenNames x1
    clear_value x1
    extract_lets +onlyGivenNames x2
    clear_value x2
    with_reducible apply copyPiece_kept
    exact hK

theorem rowElems_kept (s : State) (e : Nat) (x : LeatDesc) (row c0 n : Nat) {z : State} (hK : Kept z s) :
    Kept z (rowElems s e x row c0 n).2 := by
  unfold rowElems
  extract_lets +onlyGivenNames x1
  clear_value x1
  extract_lets +onlyGivenNames x2
  clear_value x2
  extract_lets +onlyGivenNames x3
  clear_value x3
  split
  · rename_i v4 v5 v6 e7
    have k8 : Kept z v6 := by
      refine Kept.of_snd e7 ?_
      with_reducible apply leatRange_kept
      exact hK
    split
    · rename_i v9 v10 v11
      extract_lets +onlyGivenNames x12
      clear_value x12
      refine Kept.snd ?_
      exact k8
    · rename_i v13 e14
      refine Kept.snd ?_
      exact k8

theorem unitElems_kept (s : State) (e : Nat) (x : LeatDesc) (u : CvUnit) {z : State} (hK : Kept z s) :
    Kept z (unitElems s e x u).2 := by
  unfold unitElems
  refine Kept.foldl_snd ?_ ?_
  · refine Kept.snd ?_
    exact hK
  · intro v1 v2 k3
    split
    · rename_i v4 v5 v6 e7
      split
      · rename_i v8 v9 v10 e11
        have k12 : Kept z v10 := by
          refine Kept.of_snd e11 ?_
          with_reducible apply rowElems_kept
          exact k3
        split
        · rename_i v13 v14 v15
          refine Kept.snd ?_
          exact k12
        · rename_i v16 e17
          refine Kept.snd ?_
          exact k12
    · rename_i v18 e19
      exact k3

theorem unitScales_kept (s : State) (e : Nat) (x : LeatDesc) (u : CvUnit) {z : State} (hK : Kept z s) :
    Kept z (unitScales s e x u).2 := by
  unfold unitScales
  extract_lets +onlyGivenNames x1
  clear_value x1
  refine Kept.ite_snd ?_ ?_
  · extract_lets +onlyGivenNames x2
    clear_value x2
    extract_lets +onlyGivenNames x3
    clear_value x3
    extract_lets +onlyGivenNames x4
    clear_value x4
    split
    · rename_i v5 v6 v7 e8
      have k9 : Kept z v7 := by
        refine Kept.of_snd e8 ?_
        with_reducible apply leatRange_kept
        exact hK
      split
      · rename_i v10 v11 v12
        extract_lets +onlyGivenNames x13
        clear_value x13
        refine Kept.snd ?_
        exact k9
      · rename_i v14 e15
        refine Kept.snd ?_
        exact k9
  · refine Kept.snd ?_
    exact hK

theorem putCodes_kept (s : State) (e : Nat) (x : LeatDesc) (u : CvUnit) (codes : List Nat) (pz : Bool) {z : State} (hK : Kept z s) :
    Kept z (putCodes s e x u codes pz).2 := by
  unfold putCodes
  extract_lets +onlyGivenNames x1
  clear_value x1
  refine Kept.foldl_snd ?_ ?_
  · refine Kept.snd ?_
    exact hK
  · intro v2 v3 k4
    split
    · rename_i v5 e6
      with_reducible apply leatPutRange_kept
      exact k4
    · rename_i v7 e8
      exact k4

theorem putScales_kept (s : State) (e : Nat) (x : LeatDesc) (u : CvUnit) (scales : List Nat) (pz : Bool) {z : State} (hK : Kept z s) :
    Kept z (putScales s e x u scales pz).2 := by
  unfold putScales
  extract_lets +onlyGivenNames x1
  clear_value x1
  extract_lets +onlyGivenNames x2
  clear_value x2
  extract_lets +onlyGivenNames x3
  clear_value x3
  extract_lets +onlyGivenNames x4
  clear_value x4
  refine Kept.foldl_snd ?_ ?_
  · refine Kept.snd ?_
    exact hK
  · intro v5 v6 k7
    split
    · rename_i v8 e9
      with_reducible apply leatPut_kept
      exact k7
    · rename_i v10 e11
      exact k7

theorem convertPiece_kept (s : State) (e : Nat) (x : LeatDesc) {z : State} (hK : Kept z s) :
    Kept z (convertPiece s e x).2 := by
  unfold convertPiece
  split
  · rename_i v1 e2
    refine Kept.snd ?_
    exact hK
  · rename_i v3 v4 e5
    split
    · rename_i v6 v7 v8 e9
      have k10 : Kept z v8 := by
        refine Kept.of_snd e9 ?_
        with_reducible apply unitElems_kept
        exact hK
      split
      · rename_i v11
        refine Kept.snd ?_
        exact k10
      · rename_i v12
        refine Kept.snd ?_
        exact k10
      · rename_i v13 v14 v15 v16
        refine Kept.snd ?_
        exact k10
      · rename_i v17 v18 v19
        split
        · rename_i v20 v21 v22 e23
          have k24 : Kept z v22 := by
            refine Kept.of_snd e23 ?_
            with_reducible apply unitScales_kept
            exact k10
          split
          · rename_i v25
            refine Kept.snd ?_
            exact k24
          · rename_i v26
            refine Kept.snd ?_
            exact k24
          · rename_i v27 v28 v29 v30
            refine Kept.snd ?_
            exact k24
          · rename_i v31 v32 v33
            extract_lets +onlyGivenNames x34
            clear_value x34
            extract_lets +onlyGivenNames x35
            clear_value x35
            extract_lets +onlyGivenNames x36
            clear_value x36
            extract_lets +onlyGivenNames x37
            clear_value x37
            extract_lets +onlyGivenNames x38
            clear_value x38
            split
            · rename_i v39 v40 v41 e42
              have k43 : Kept z v41 := by
                refine Kept.of_snd e42 ?_
                with_reducible apply putCodes_kept
                exact k24
              split
              · rename_i v44 v45 v46 v47
                refine Kept.snd ?_
                exact k43
              · rename_i v48
                refine Kept.snd ?_
                exact k43
              · rename_i v49
                split
                · rename_i v50 v51 v52 e53
                  have k54 : Kept z v52 := by
                    refine Kept.of_snd e53 ?_
                    with_reducible apply putScales_kept
                    exact k43
                  split
                  · rename_i v55 v56 v57 v58
                    refine Kept.snd ?_
                    exact k54
                  · rename_i v59
                    refine Kept.snd ?_
                    exact k54
                  · rename_i v60
                    extract_lets +onlyGivenNames x61
                    have k62 : Kept z x61 := by
                      subst x61
                      refine Kept.ite ?_ ?_
                      · exact k54
                      · with_reducible apply bumpBy_kept
                        exact k54
                    clear_value x61
                    extract_lets +onlyGivenNames x63
                    have k64 : Kept z x63 := by
                      subst x63
                      with_reducible apply regOr_kept
                      exact k62
                    clear_value x63
                    extract_lets +onlyGivenNames x65
                    have k66 : Kept z x65 := by
                      subst x65
                      with_reducible apply leatMod_kept
                      exact k64
                    clear_value x65
                    extract_lets +onlyGivenNames x67
                    have k68 : Kept z x67 := by
                      subst x67
                      refine Kept.ite ?_ ?_
                      · with_reducible apply leatEngMod_kept
                        exact k66
                      · exact k66
                    clear_value x67
                    refine Kept.snd ?_
                    exact k68

theorem takePage_kept (s : State) (f : Nat) {z : State} (hK : Kept z s) :
    Kept z (takePage s f).2 := by
  unfold takePage
  extract_lets +onlyGivenNames x1
  clear_value x1
  extract_lets +onlyGivenNames x2
  clear_value x2
  refine Kept.ite_snd ?_ ?_
  · refine Kept.snd ?_
    exact hK
  · extract_lets +onlyGivenNames x3
    clear_value x3
    refine Kept.snd ?_
    with_reducible apply scrWrite_kept
    exact hK

theorem leatLocal_kept (s : State) (cls addr : Nat) (bs : List Byte) (marks : List Bool) {z : State} (hK : Kept z s) :
    Kept z (leatLocal s cls addr bs marks).2 := by
  unfold leatLocal
  extract_lets +onlyGivenNames x1
  clear_value x1
  refine Kept.ite_snd ?_ ?_
  · refine Kept.snd ?_
    exact hK
  · split
    · rename_i v2 v3 v4 v5 e6
      have k7 : Kept z v5 := by
        refine Kept.of_snd_snd e6 ?_
        with_reducible apply rangeWrite_kept
        exact hK
      refine Kept.snd ?_
      exact k7

theorem ensurePage_kept (s : State) (x : LeatDesc) {z : State} (hK : Kept z s) :
    Kept z (ensurePage s x).2 := by
  unfold ensurePage
  extract_lets +onlyGivenNames x1
  clear_value x1
  extract_lets +onlyGivenNames x2
  clear_value x2
  extract_lets +onlyGivenNames x3
  clear_value x3
  refine Kept.ite_snd ?_ ?_
  · refine Kept.snd ?_
    exact hK
  · refine Kept.ite_snd ?_ ?_
    · refine Kept.snd ?_
      exact hK
    · split
      · rename_i v4 v5 v6 e7
        have k8 : Kept z v6 := by
          refine Kept.of_snd e7 ?_
          with_reducible apply takePage_kept
          exact hK
        split
        · rename_i v9
          refine Kept.snd ?_
          exact k8
        · rename_i v10 v11
          split
          · rename_i v12 v13 v14 e15
            have k16 : Kept z v14 := by
              refine Kept.of_snd e15 ?_
              with_reducible apply leatLocal_kept
              exact k8
            refine Kept.snd ?_
            with_reducible apply scrWrite_kept
            exact k16

theorem flushPage_kept (s : State) (x : LeatDesc) (n : Nat) {z : State} (hK : Kept z s) :
    Kept z (flushPage s x n).2 := by
  unfold flushPage
  split
  · rename_i v1 v2 v3 e4
    have k5 : Kept z v3 := by
      refine Kept.of_snd e4 ?_
      with_reducible apply ensurePage_kept
      exact hK
    split
    · rename_i v6
      extract_lets +onlyGivenNames x7
      clear_value x7
      extract_lets +onlyGivenNames x8
      clear_value x8
      extract_lets +onlyGivenNames x9
      clear_value x9
      split
      · rename_i v10 v11 v12 e13
        have k14 : Kept z v12 := by
          refine Kept.of_snd e13 ?_
          with_reducible apply rangeRead_kept
          exact k5
        extract_lets +onlyGivenNames x15
        clear_value x15
        split
        · rename_i v16 v17 v18 e19
          have k20 : Kept z v18 := by
            refine Kept.of_snd e19 ?_
            with_reducible apply rangeRead_kept
            exact k14
          split
          · rename_i v21 v22 v23 e24
            have k25 : Kept z v23 := by
              refine Kept.of_snd e24 ?_
              with_reducible apply leatLocal_kept
              exact k20
            refine Kept.snd ?_
            exact k25
    · rename_i v26 e27
      refine Kept.snd ?_
      exact k5

theorem appendPiece_kept (s : State) (e : Nat) (x : LeatDesc) {z : State} (hK : Kept z s) :
    Kept z (appendPiece s e x).2 := by
  unfold appendPiece
  extract_lets +onlyGivenNames x1
  clear_value x1
  extract_lets +onlyGivenNames x2
  clear_value x2
  refine Kept.ite_snd ?_ ?_
  · refine Kept.snd ?_
    exact hK
  · refine Kept.ite_snd ?_ ?_
    · split
      · rename_i v3 v4 v5 e6
        have k7 : Kept z v5 := by
          refine Kept.of_snd e6 ?_
          with_reducible apply flushPage_kept
          exact hK
        split
        · rename_i v8
          refine Kept.snd ?_
          exact k7
        · rename_i v9
          refine Kept.snd ?_
          exact k7
        · rename_i v10
          extract_lets +onlyGivenNames x11
          have k12 : Kept z x11 := by
            subst x11
            with_reducible apply scrWrite_kept
            exact k7
          clear_value x11
          refine Kept.snd ?_
          with_reducible apply scrWrite_kept
          exact k12
    · refine Kept.ite_snd ?_ ?_
      · extract_lets +onlyGivenNames x13
        clear_value x13
        extract_lets +onlyGivenNames x14
        clear_value x14
        split
        · rename_i v15 v16 v17 e18
          have k19 : Kept z v17 := by
            refine Kept.of_snd e18 ?_
            with_reducible apply leatRange_kept
            exact hK
          split
          · rename_i v20
            refine Kept.snd ?_
            exact k19
          · rename_i v21
            refine Kept.snd ?_
            exact k19
          · rename_i v22 v23 v24 v25
            refine Kept.snd ?_
            exact k19
          · rename_i v26 v27 v28
            split
            · rename_i v29 v30 v31 e32
              have k33 : Kept z v31 := by
                refine Kept.of_snd e32 ?_
                with_reducible apply leatLocal_kept
                exact k19
              refine Kept.ite_snd ?_ ?_
              · refine Kept.snd ?_
                with_reducible apply scrWrite_kept
                exact k33
              · refine Kept.snd ?_
                exact k33
      · refine Kept.ite_snd ?_ ?_
        · split
          · rename_i v34 v35 v36 e37
            have k38 : Kept z v36 := by
              refine Kept.of_snd e37 ?_
              with_reducible apply flushPage_kept
              exact hK
            split
            · rename_i v39
              refine Kept.snd ?_
              exact k38
            · rename_i v40
              refine Kept.snd ?_
              exact k38
            · rename_i v41
              refine Kept.snd ?_
              exact k38
        · refine Kept.snd ?_
          exact hK

theorem leatPiece_kept (s : State) (e : Nat) (x : LeatDesc) {z : State} (hK : Kept z s) :
    Kept z (leatPiece s e x).2 := by
  unfold leatPiece
  split
  · rename_i v1 e2
    with_reducible apply gatherPiece_kept
    exact hK
  · rename_i v3 e4
    with_reducible apply convertPiece_kept
    exact hK
  · rename_i v5 e6
    with_reducible apply im2colPiece_kept
    exact hK
  · rename_i v7 e8
    with_reducible apply appendPiece_kept
    exact hK
  · rename_i v9 e10 e11 e12 e13
    with_reducible apply stridedPiece_kept
    exact hK

theorem leatFinish_kept (s : State) (e n st : Nat) {z : State} (hK : Kept z s) :
    Kept z (leatFinish s e n st) := by
  unfold leatFinish
  with_reducible apply leatMod_kept
  exact hK

theorem leatGo_kept (fu : Nat) (e n : Nat) (s : State) {z : State} (hK : Kept z s) :
    Kept z (leatGo e n fu s) := by
  induction fu generalizing s with
  | zero => exact hK
  | succ fu ih =>
    unfold leatGo
    split
    · rename_i v1 e2
      exact hK
    · rename_i v3 v4 e5
      refine Kept.ite ?_ ?_
      · exact hK
      · split
        · rename_i v6 v7 v8 e9
          have k10 : Kept z v8 := by
            refine Kept.of_snd e9 ?_
            with_reducible apply leatPiece_kept
            exact hK
          split
          · rename_i v11 v12 v13 v14
            with_reducible apply ih
            with_reducible apply leatMod_kept
            exact k10
          · rename_i v15 v16 v17 v18 v19
            split
            · rename_i v20 v21 v22 e23
              have k24 : Kept z v22 := by
                refine Kept.of_snd e23 ?_
                with_reducible apply raiseFault_kept
                exact k10
              with_reducible apply leatMod_kept
              exact k24
          · rename_i v25
            with_reducible apply leatFinish_kept
            exact k10
          · rename_i v26
            with_reducible apply leatFinish_kept
            exact k10
          · rename_i v27
            refine Kept.ite ?_ ?_
            · with_reducible apply leatMod_kept
              exact k10
            · exact k10
          · rename_i v28
            with_reducible apply leatFinish_kept
            exact k10

theorem leatRun_kept (s : State) (e n : Nat) {z : State} (hK : Kept z s) :
    Kept z (leatRun s e n) := by
  unfold leatRun
  split
  · rename_i v1 v2 e3
    with_reducible apply leatGo_kept
    exact hK
  · rename_i v4 e5
    exact hK

theorem gateOpen_kept (s : State) (e : Nat) (x : LeatDesc) (va least : Nat) {z : State} (hK : Kept z s) :
    Kept z (gateOpen s e x va least).2 := by
  unfold gateOpen
  split
  · rename_i v1 v2 v3 e4
    have k5 : Kept z v3 := by
      refine Kept.of_snd e4 ?_
      with_reducible apply leatRange_kept
      exact hK
    split
    · rename_i v6 v7 v8
      refine Kept.snd ?_
      exact k5
    · rename_i v9
      refine Kept.snd ?_
      exact k5
    · rename_i v10
      refine Kept.snd ?_
      with_reducible apply leatFinish_kept
      exact k5
    · rename_i v11 v12 v13 v14
      split
      · rename_i v15 v16 v17 e18
        have k19 : Kept z v17 := by
          refine Kept.of_snd e18 ?_
          with_reducible apply raiseFault_kept
          exact k5
        refine Kept.snd ?_
        with_reducible apply leatMod_kept
        exact k19

theorem tryGates_kept (s : State) (e n : Nat) {z : State} (hK : Kept z s) :
    Kept z (tryGates s e n) := by
  unfold tryGates
  split
  · rename_i v1 e2
    exact hK
  · rename_i v3 v4 e5
    refine Kept.ite ?_ ?_
    · exact hK
    · split
      · rename_i v6 v7 v8 e9
        have k10 : Kept z v8 := by
          refine Kept.of_snd e9 ?_
          with_reducible apply gateOpen_kept
          exact hK
        split
        · rename_i v11 v12 v13 e14
          have k15 : Kept z v13 := by
            refine Kept.of_snd e14 ?_
            split
            · rename_i v16
              refine Kept.ite_snd ?_ ?_
              · refine Kept.snd ?_
                exact k10
              · with_reducible apply gateOpen_kept
                exact k10
            · rename_i v17 e18
              refine Kept.snd ?_
              exact k10
          extract_lets +onlyGivenNames x19
          have k20 : ∀ y0_0, (Kept z y0_0) → Kept z (x19 y0_0) := by
            subst x19
            intro v21 k22
            beta_reduce
            with_reducible apply leatMod_kept
            exact k22
          clear_value x19
          split
          · rename_i v23
            with_reducible apply leatRun_kept
            with_reducible apply leatMod_kept
            with_reducible apply_assumption
            exact k15
          · rename_i v24
            with_reducible apply_assumption
            exact k15
          · rename_i v25
            with_reducible apply_assumption

theorem leatStart_kept (s : State) (e kind : Nat) {z : State} (hK : Kept z s) :
    Kept z (leatStart s e kind) := by
  unfold leatStart
  refine Kept.ite ?_ ?_
  · exact hK
  · extract_lets +onlyGivenNames x1
    clear_value x1
    extract_lets +onlyGivenNames x2
    clear_value x2
    refine Kept.ite ?_ ?_
    · exact hK
    · extract_lets +onlyGivenNames x3
      clear_value x3
      extract_lets +onlyGivenNames x4
      clear_value x4
      extract_lets +onlyGivenNames x5
      clear_value x5
      extract_lets +onlyGivenNames x6
      have k7 : Kept z x6 := by
        subst x6
        with_reducible apply leatEngMod_kept
        exact hK
      clear_value x6
      extract_lets +onlyGivenNames x8
      have k9 : Kept z x8 := by
        subst x8
        with_reducible apply scrWrite_kept
        exact k7
      clear_value x8
      refine Kept.ite ?_ ?_
      · with_reducible apply tryGates_kept
        exact k9
      · with_reducible apply leatRun_kept
        exact k9

theorem leatComplete_kept (s : State) (e n : Nat) {z : State} (hK : Kept z s) :
    Kept z (leatComplete s e n) := by
  unfold leatComplete
  split
  · rename_i v1 e2
    exact hK
  · rename_i v3 v4 e5
    split
    · rename_i v6 e7
      exact hK
    · rename_i v8 v9 e10
      refine Kept.ite ?_ ?_
      · exact hK
      · extract_lets +onlyGivenNames x11
        clear_value x11
        extract_lets +onlyGivenNames x12
        clear_value x12
        extract_lets +onlyGivenNames x13
        have k14 : Kept z x13 := by
          subst x13
          with_reducible apply scrWrite_kept
          exact hK
        clear_value x13
        extract_lets +onlyGivenNames x15
        clear_value x15
        extract_lets +onlyGivenNames x16
        have k17 : Kept z x16 := by
          subst x16
          with_reducible apply scrWrite_kept
          exact k14
        clear_value x16
        extract_lets +onlyGivenNames x18
        have k19 : Kept z x18 := by
          subst x18
          with_reducible apply leatEngMod_kept
          exact k17
        clear_value x18
        extract_lets +onlyGivenNames x20
        have k21 : Kept z x20 := by
          subst x20
          refine Kept.ite ?_ ?_
          · with_reducible apply bump_kept
            exact k19
          · exact k19
        clear_value x20
        refine Kept.ite ?_ ?_
        · with_reducible apply irqSet_kept
          exact k21
        · exact k21

theorem leatTimeout_kept (s : State) (e n : Nat) {z : State} (hK : Kept z s) :
    Kept z (leatTimeout s e n) := by
  unfold leatTimeout
  split
  · rename_i v1 v2 e3
    extract_lets +onlyGivenNames x4
    clear_value x4
    refine Kept.ite ?_ ?_
    · with_reducible apply leatFinish_kept
      exact hK
    · exact hK
  · rename_i v5 e6
    exact hK

theorem leatTurn_kept (s : State) {z : State} (hK : Kept z s) :
    Kept z (leatTurn s) := by
  unfold leatTurn
  refine Kept.foldl ?_ ?_
  · exact hK
  · intro v1 v2 k3
    refine Kept.ite ?_ ?_
    · exact k3
    · refine Kept.foldl ?_ ?_
      · exact k3
      · intro v4 v5 k6
        refine Kept.ite ?_ ?_
        · extract_lets +onlyGivenNames x7
          have k8 : Kept z x7 := by
            subst x7
            with_reducible apply bump_kept
            exact k6
          clear_value x7
          extract_lets +onlyGivenNames x9
          have k10 : Kept z x9 := by
            subst x9
            with_reducible apply leatMod_kept
            exact k8
          clear_value x9
          refine Kept.ite ?_ ?_
          · with_reducible apply leatRun_kept
            exact k10
          · exact k10
        · exact k6

theorem leatAnswer_kept (s : State) (e n addr : Nat) (data : List Byte) (poison : Bool) {z : State} (hK : Kept z s) :
    Kept z (leatAnswer s e n addr data poison) := by
  unfold leatAnswer
  extract_lets +onlyGivenNames x1
  have k2 : Kept z x1 := by
    subst x1
    with_reducible apply leatMod_kept
    exact hK
  clear_value x1
  split
  · rename_i v3 v4 e5
    refine Kept.ite ?_ ?_
    · with_reducible apply tryGates_kept
      exact k2
    · with_reducible apply leatRun_kept
      exact k2
  · rename_i v6 e7
    exact k2

theorem leatRetry_kept (s : State) (e n : Nat) {z : State} (hK : Kept z s) :
    Kept z (leatRetry s e n) := by
  unfold leatRetry
  extract_lets +onlyGivenNames x1
  have k2 : Kept z x1 := by
    subst x1
    with_reducible apply leatMod_kept
    exact hK
  clear_value x1
  split
  · rename_i v3 v4 e5
    refine Kept.ite ?_ ?_
    · with_reducible apply tryGates_kept
      exact k2
    · with_reducible apply leatRun_kept
      exact k2
  · rename_i v6 e7
    exact k2

theorem leatRelease_kept (s : State) (e : Nat) {z : State} (hK : Kept z s) :
    Kept z (leatRelease s e) := by
  unfold leatRelease
  extract_lets +onlyGivenNames x1
  have k2 : Kept z x1 := by
    subst x1
    with_reducible apply leatEngMod_kept
    exact hK
  clear_value x1
  refine Kept.foldl ?_ ?_
  · exact k2
  · intro v3 v4 k5
    with_reducible apply leatRun_kept
    exact k5

theorem execLeatLinear_kept (e : Nat) (s : State) {z : State} (hK : Kept z s) :
    KeptOut z (execLeatLinear e s) := by
  unfold execLeatLinear
  refine KeptOut.next ?_
  with_reducible apply leatStart_kept
  exact hK

theorem execLeatStrided_kept (e : Nat) (s : State) {z : State} (hK : Kept z s) :
    KeptOut z (execLeatStrided e s) := by
  unfold execLeatStrided
  refine KeptOut.next ?_
  with_reducible apply leatStart_kept
  exact hK

theorem execLeatGather_kept (e : Nat) (s : State) {z : State} (hK : Kept z s) :
    KeptOut z (execLeatGather e s) := by
  unfold execLeatGather
  refine KeptOut.next ?_
  with_reducible apply leatStart_kept
  exact hK

theorem execLeatConvert_kept (e : Nat) (s : State) {z : State} (hK : Kept z s) :
    KeptOut z (execLeatConvert e s) := by
  unfold execLeatConvert
  refine KeptOut.next ?_
  with_reducible apply leatStart_kept
  exact hK

theorem execLeatIm2col_kept (e : Nat) (s : State) {z : State} (hK : Kept z s) :
    KeptOut z (execLeatIm2col e s) := by
  unfold execLeatIm2col
  refine KeptOut.next ?_
  with_reducible apply leatStart_kept
  exact hK

theorem execLeatHaloGated_kept (e : Nat) (s : State) {z : State} (hK : Kept z s) :
    KeptOut z (execLeatHaloGated e s) := by
  unfold execLeatHaloGated
  refine KeptOut.next ?_
  with_reducible apply leatStart_kept
  exact hK

theorem execLeatAppend_kept (e : Nat) (s : State) {z : State} (hK : Kept z s) :
    KeptOut z (execLeatAppend e s) := by
  unfold execLeatAppend
  refine KeptOut.next ?_
  with_reducible apply leatStart_kept
  exact hK

theorem execHaloGateOpen_kept (e seq : Nat) (s : State) {z : State} (hK : Kept z s) :
    KeptOut z (execHaloGateOpen e seq s) := by
  unfold execHaloGateOpen
  refine KeptOut.next ?_
  with_reducible apply tryGates_kept
  exact hK

theorem execLeatWaitTimeout_kept (e seq : Nat) (s : State) {z : State} (hK : Kept z s) :
    KeptOut z (execLeatWaitTimeout e seq s) := by
  unfold execLeatWaitTimeout
  refine KeptOut.next ?_
  with_reducible apply leatTimeout_kept
  exact hK

theorem execLeatComplete_kept (e seq : Nat) (s : State) {z : State} (hK : Kept z s) :
    KeptOut z (execLeatComplete e seq s) := by
  unfold execLeatComplete
  refine KeptOut.next ?_
  with_reducible apply leatComplete_kept
  exact hK

end Sys2Proof.Machine
end

