-- ==== Sys2Proof/Laws/SluiceRows.lean ====
section
/-!
SUPPORT. What each operation of Machine/SluiceRows.lean keeps (`Kept`): the chip, the queue, the Turn and the canonical stores.
-/
namespace Sys2Proof.Machine

theorem suspendFor_kept (s : State) (a : SlAccess) (ty lv : Nat) {z : State} (hK : Kept z s) :
    Kept z (suspendFor s a ty lv) := by
  unfold suspendFor
  split
  · rename_i v1 e2
    split
    · rename_i v3 v4 e5
      split
      · rename_i v6 v7 v8 e9
        have k10 : Kept z v8 := by
          refine Kept.of_snd e9 ?_
          with_reducible apply raiseFault_kept
          exact hK
        with_reducible apply leatMod_kept
        exact k10
    · rename_i v11 e12
      exact hK
  · rename_i v13 e14
    extract_lets +onlyGivenNames x15
    clear_value x15
    refine Kept.ite ?_ ?_
    · with_reducible apply suspendQ_kept
      exact hK
    · exact hK
  · rename_i v16 e17
    split
    · rename_i v18 v19 e20
      refine Kept.ite ?_ ?_
      · split
        · rename_i v21 v22 v23 e24
          have k25 : Kept z v23 := by
            refine Kept.of_snd e24 ?_
            with_reducible apply raiseFault_kept
            exact hK
          with_reducible apply bolMod_kept
          exact k25
      · exact hK
    · rename_i v26 e27
      exact hK
  · rename_i v28 e29 e30 e31
    refine Kept.ite ?_ ?_
    · split
      · rename_i v32 v33 v34 e35
        have k36 : Kept z v34 := by
          refine Kept.of_snd e35 ?_
          with_reducible apply raiseFault_kept
          exact hK
        refine Kept.upd ?_ ..
        exact k36
    · exact hK

theorem sluiceFault_kept (s : State) (a : SlAccess) {z : State} (hK : Kept z s) :
    Kept z (sluiceFault s a) := by
  unfold sluiceFault
  split
  · rename_i v1 v2 v3 e4
    have k5 : Kept z v3 := by
      refine Kept.of_snd e4 ?_
      with_reducible apply sluice_kept
      exact hK
    split
    · rename_i v6 v7 v8
      with_reducible apply suspendFor_kept
      exact k5
    · rename_i v9 v10
      exact hK

theorem slRetry_kept (s : State) (token : Nat) {z : State} (hK : Kept z s) :
    Kept z (slRetry s token) := by
  unfold slRetry
  split
  · rename_i v1 e2
    with_reducible apply bump_kept
    exact hK
  · rename_i v3 v4 e5
    extract_lets +onlyGivenNames x6
    have k7 : Kept z x6 := by
      subst x6
      with_reducible apply dropToken_kept
      exact hK
    clear_value x6
    split
    · rename_i v8 e9
      refine Kept.elim ?_ ?_
      · exact k7
      · intro v10
        with_reducible apply leatRetry_kept
        exact k7
    · rename_i v11 e12
      split
      · rename_i v13 v14 e15
        refine Kept.ite ?_ ?_
        · with_reducible apply retryQ_kept
          exact k7
        · with_reducible apply qnMod_kept
          exact k7
      · rename_i v16 e17
        refine Kept.updQn ?_ ..
        exact k7
    · rename_i v18 e19
      with_reducible apply bolRetry_kept
      exact k7
    · rename_i v20 e21 e22 e23
      refine Kept.upd ?_ ..
      exact k7

theorem pubDiscard_kept (s : State) {z : State} (hK : Kept z s) :
    Kept z (pubDiscard s) := by
  unfold pubDiscard
  refine Kept.upd ?_ ..
  exact hK

theorem slDiscard_kept (s : State) (token : Nat) {z : State} (hK : Kept z s) :
    Kept z (slDiscard s token) := by
  unfold slDiscard
  split
  · rename_i v1 e2
    with_reducible apply bump_kept
    exact hK
  · rename_i v3 v4 e5
    extract_lets +onlyGivenNames x6
    have k7 : Kept z x6 := by
      subst x6
      with_reducible apply dropToken_kept
      exact hK
    clear_value x6
    split
    · rename_i v8 e9
      refine Kept.elim ?_ ?_
      · exact k7
      · intro v10
        with_reducible apply leatFinish_kept
        exact k7
    · rename_i v11 e12
      split
      · rename_i v13 v14 e15
        refine Kept.ite ?_ ?_
        · with_reducible apply markFault_kept
          with_reducible apply qnMod_kept
          exact k7
        · with_reducible apply discardQ_kept
          exact k7
      · rename_i v16 e17
        with_reducible apply markFault_kept
        refine Kept.updQn ?_ ..
        exact k7
    · rename_i v18 e19
      with_reducible apply bolDiscard_kept
      exact k7
    · rename_i v20 e21 e22 e23
      with_reducible apply pubDiscard_kept
      exact k7

theorem recordWrite_kept (s : State) {z : State} (hK : Kept z s) :
    Kept z (recordWrite s) := by
  unfold recordWrite
  split
  · rename_i v1 e2
    exact hK
  · rename_i v3 v4 v5 e6
    refine Kept.ite ?_ ?_
    · extract_lets +onlyGivenNames x7
      have k8 : Kept z x7 := by
        subst x7
        with_reducible apply writeFaultRecord_kept
        exact hK
      clear_value x7
      refine Kept.ite ?_ ?_
      · with_reducible apply slDiscard_kept
        exact k8
      · exact k8
    · exact hK

theorem slInval_kept (s : State) (ctx : Option Nat) {z : State} (hK : Kept z s) :
    Kept z (slInval s ctx) := by
  unfold slInval
  refine Kept.upd ?_ ..
  exact hK

theorem execSluiceFault_kept (a : SlAccess) (s : State) {z : State} (hK : Kept z s) :
    KeptOut z (execSluiceFault a s) := by
  unfold execSluiceFault
  refine KeptOut.next ?_
  with_reducible apply sluiceFault_kept
  exact hK

theorem execFaultRecordWrite_kept (s : State) {z : State} (hK : Kept z s) :
    KeptOut z (execFaultRecordWrite s) := by
  unfold execFaultRecordWrite
  refine KeptOut.next ?_
  with_reducible apply recordWrite_kept
  exact hK

theorem execSlRetry_kept (token : Nat) (s : State) {z : State} (hK : Kept z s) :
    KeptOut z (execSlRetry token s) := by
  unfold execSlRetry
  refine KeptOut.next ?_
  with_reducible apply slRetry_kept
  exact hK

theorem execSlDiscard_kept (token : Nat) (s : State) {z : State} (hK : Kept z s) :
    KeptOut z (execSlDiscard token s) := by
  unfold execSlDiscard
  refine KeptOut.next ?_
  with_reducible apply slDiscard_kept
  exact hK

theorem execSlInvalAll_kept (s : State) {z : State} (hK : Kept z s) :
    KeptOut z (execSlInvalAll s) := by
  unfold execSlInvalAll
  refine KeptOut.next ?_
  with_reducible apply slInval_kept
  exact hK

theorem execSlInvalCtx_kept (ctx : Nat) (s : State) {z : State} (hK : Kept z s) :
    KeptOut z (execSlInvalCtx ctx s) := by
  unfold execSlInvalCtx
  refine KeptOut.next ?_
  with_reducible apply slInval_kept
  exact hK

theorem execSlInvalDone_kept (s : State) {z : State} (hK : Kept z s) :
    KeptOut z (execSlInvalDone s) := by
  unfold execSlInvalDone
  refine KeptOut.next ?_
  refine Kept.upd ?_ ..
  exact hK

end Sys2Proof.Machine
end

