-- ==== Sys2Proof/Laws/StepRows.lean ====
section
/-!
SUPPORT. What each operation of Machine/StepRows.lean keeps (`Kept`): the chip, the queue, the Turn and the canonical stores.
-/
namespace Sys2Proof.Machine

theorem dropEntry_kept (s : State) {z : State} (hK : Kept z s) :
    Kept z (dropEntry s) := by
  unfold dropEntry
  with_reducible apply regSet_kept
  refine Kept.upd ?_ ..
  exact hK

theorem skipBad_kept (fu : Nat) (s : State) {z : State} (hK : Kept z s) :
    Kept z (skipBad fu s) := by
  induction fu generalizing s with
  | zero => exact hK
  | succ fu ih =>
    unfold skipBad
    split
    · rename_i v1 v2 v3 e4
      refine Kept.ite ?_ ?_
      · with_reducible apply ih
        with_reducible apply bump_kept
        with_reducible apply dropEntry_kept
        exact hK
      · exact hK
    · rename_i v5 e6
      exact hK

theorem popRing_kept (s : State) {z : State} (hK : Kept z s) :
    Kept z (popRing s) := by
  unfold popRing
  extract_lets +onlyGivenNames x1
  have k2 : Kept z x1 := by
    subst x1
    with_reducible apply dropEntry_kept
    exact hK
  clear_value x1
  with_reducible apply skipBad_kept
  exact k2

theorem refuseEntry_kept (s : State) {z : State} (hK : Kept z s) :
    Kept z (refuseEntry s) := by
  unfold refuseEntry
  with_reducible apply popRing_kept
  with_reducible apply bump_kept
  exact hK

theorem sampleAll_kept (s : State) {z : State} (hK : Kept z s) :
    Kept z (sampleAll s) := by
  unfold sampleAll
  extract_lets +onlyGivenNames x1
  clear_value x1
  extract_lets +onlyGivenNames x2
  clear_value x2
  extract_lets +onlyGivenNames x3
  clear_value x3
  extract_lets +onlyGivenNames x4
  clear_value x4
  extract_lets +onlyGivenNames x5
  clear_value x5
  extract_lets +onlyGivenNames x6
  clear_value x6
  extract_lets +onlyGivenNames x7
  clear_value x7
  extract_lets +onlyGivenNames x8
  clear_value x8
  extract_lets +onlyGivenNames x9
  have k10 : Kept z x9 := by
    subst x9
    refine Kept.upd ?_ ..
    exact hK
  clear_value x9
  extract_lets +onlyGivenNames x11
  clear_value x11
  extract_lets +onlyGivenNames x12
  have k13 : Kept z x12 := by
    subst x12
    refine Kept.upd ?_ ..
    exact k10
  clear_value x12
  with_reducible apply bumpBy_kept
  exact k13

theorem sendOpenRec_kept (s : State) {z : State} (hK : Kept z s) :
    Kept z (sendOpenRec s) := by
  unfold sendOpenRec
  extract_lets +onlyGivenNames x1
  clear_value x1
  extract_lets +onlyGivenNames x2
  clear_value x2
  with_reducible apply sendTo_kept
  refine Kept.upd ?_ ..
  exact hK

theorem openStep_kept (s : State) (e : RingEntry) {z : State} (hK : Kept z s) :
    Kept z (openStep s e) := by
  unfold openStep
  extract_lets +onlyGivenNames x1
  extract_lets +onlyGivenNames x2
  have k3 : Kept z x2 := by
    subst x2
    refine Kept.updQn ?_ ..
    exact hK
  clear_value x2
  extract_lets +onlyGivenNames x4
  have k5 : Kept z x4 := by
    subst x4
    with_reducible apply openNamed_kept
    exact k3
  clear_value x4
  extract_lets +onlyGivenNames x6
  clear_value x6
  extract_lets +onlyGivenNames x7
  have k8 : Kept z x7 := by
    subst x7
    refine Kept.upd ?_ ..
    exact k5
  clear_value x7
  extract_lets +onlyGivenNames x9
  have k10 : Kept z x9 := by
    subst x9
    with_reducible apply sampleAll_kept
    exact k8
  clear_value x9
  extract_lets +onlyGivenNames x11
  extract_lets +onlyGivenNames x12
  have k13 : Kept z x12 := by
    subst x12
    refine Kept.updQn ?_ ..
    exact k10
  clear_value x12
  with_reducible apply sendOpenRec_kept
  exact k13

theorem stepOpen_kept (s : State) {z : State} (hK : Kept z s) :
    Kept z (stepOpen s) := by
  unfold stepOpen
  split
  · rename_i v1 e2
    exact hK
  · rename_i v3 v4 e5
    split
    · rename_i v6 e7
      exact hK
    · rename_i v8 e9
      exact hK
    · rename_i v10 e11
      refine Kept.ite ?_ ?_
      · with_reducible apply openStep_kept
        with_reducible apply popRing_kept
        exact hK
      · with_reducible apply refuseEntry_kept
        exact hK
    · rename_i v12 e13
      refine Kept.ite ?_ ?_
      · with_reducible apply openStep_kept
        with_reducible apply popRing_kept
        exact hK
      · with_reducible apply refuseEntry_kept
        exact hK
    · rename_i v14 e15 e16 e17 e18
      with_reducible apply refuseEntry_kept
      exact hK

theorem sailJumpDone_kept (s : State) {z : State} (hK : Kept z s) :
    Kept z (sailJumpDone s) := by
  unfold sailJumpDone
  refine Kept.ite ?_ ?_
  · exact hK
  · extract_lets +onlyGivenNames x1
    clear_value x1
    refine Kept.updUnits ?_ _ _ _ _ (by simp [modAt, shapeOf]) ..
    exact hK

theorem ringLayer_kept (s : State) (e : RingEntry) {z : State} (hK : Kept z s) :
    Kept z (ringLayer s e) := by
  unfold ringLayer
  refine Kept.upd ?_ ..
  exact hK

theorem layerDoorbell_kept (s : State) {z : State} (hK : Kept z s) :
    Kept z (layerDoorbell s) := by
  unfold layerDoorbell
  split
  · rename_i v1 e2
    exact hK
  · rename_i v3 v4 e5
    extract_lets +onlyGivenNames x6
    clear_value x6
    refine Kept.ite ?_ ?_
    · with_reducible apply refuseEntry_kept
      exact hK
    · extract_lets +onlyGivenNames x7
      have k8 : Kept z x7 := by
        subst x7
        with_reducible apply popRing_kept
        exact hK
      clear_value x7
      refine Kept.ite ?_ ?_
      · refine Kept.upd ?_ ..
        exact k8
      · with_reducible apply trySlices_kept
        with_reducible apply ringLayer_kept
        exact k8

theorem sendEarly_kept (s : State) {z : State} (hK : Kept z s) :
    Kept z (sendEarly s) := by
  unfold sendEarly
  refine Kept.ite ?_ ?_
  · exact hK
  · extract_lets +onlyGivenNames x1
    clear_value x1
    extract_lets +onlyGivenNames x2
    have k3 : Kept z x2 := by
      subst x2
      refine Kept.upd ?_ ..
      exact hK
    clear_value x2
    with_reducible apply sendTo_kept
    exact k3

theorem hostAbort_kept (s : State) {z : State} (hK : Kept z s) :
    Kept z (hostAbort s) := by
  unfold hostAbort
  split
  · rename_i v1 e2
    exact hK
  · rename_i v3 v4 e5
    refine Kept.ite ?_ ?_
    · with_reducible apply sendEarly_kept
      with_reducible apply markWith_kept
      with_reducible apply popRing_kept
      exact hK
    · with_reducible apply refuseEntry_kept
      exact hK

theorem doContinue_kept (s : State) {z : State} (hK : Kept z s) :
    Kept z (doContinue s) := by
  unfold doContinue
  extract_lets +onlyGivenNames x1
  clear_value x1
  extract_lets +onlyGivenNames x2
  extract_lets +onlyGivenNames x3
  clear_value x3
  extract_lets +onlyGivenNames x4
  have k5 : Kept z x4 := by
    subst x4
    refine Kept.upd ?_ ..
    exact hK
  refine Kept.ite ?_ ?_
  · extract_lets +onlyGivenNames x6
    have k7 : Kept z x6 := by
      subst x6
      with_reducible apply writeGs_kept
      exact k5
    clear_value x6
    refine Kept.foldl ?_ ?_
    · exact k7
    · intro v8 v9 k10
      with_reducible apply runUpdate_kept
      exact k10
  · exact k5

theorem takeContinue_kept (s : State) {z : State} (hK : Kept z s) :
    Kept z (takeContinue s) := by
  unfold takeContinue
  refine Kept.ite ?_ ?_
  · refine Kept.ite ?_ ?_
    · with_reducible apply doContinue_kept
      exact hK
    · refine Kept.upd ?_ ..
      exact hK
  · exact hK

theorem redoRerun_kept (s : State) (i : Nat) {z : State} (hK : Kept z s) :
    Kept z (redoRerun s i) := by
  unfold redoRerun
  refine Kept.ite ?_ ?_
  · exact hK
  · extract_lets +onlyGivenNames x1
    have k2 : Kept z x1 := by
      subst x1
      with_reducible apply writeGs_kept
      exact hK
    clear_value x1
    split
    · rename_i v3 e4
      exact k2
    · rename_i v5 v6 e7
      refine Kept.ite ?_ ?_
      · exact k2
      · extract_lets +onlyGivenNames x8
        have k9 : Kept z x8 := by
          subst x8
          with_reducible apply unitMod_kept
          with_reducible apply bump_kept
          exact k2
        clear_value x8
        with_reducible apply runUpdate_kept
        exact k9

theorem phase2_kept (s : State) (i : Nat) {z : State} (hK : Kept z s) :
    Kept z (phase2 s i) := by
  unfold phase2
  extract_lets +onlyGivenNames x1
  clear_value x1
  refine Kept.ite ?_ ?_
  · exact hK
  · split
    · rename_i v2 v3 e4
      with_reducible apply lambPhase2_kept
      with_reducible apply scrWrite_kept
      exact hK
    · rename_i v5 e6
      exact hK

theorem takeNormSum_kept (s : State) (m : Msg) {z : State} (hK : Kept z s) :
    Kept z (takeNormSum s m) := by
  unfold takeNormSum
  extract_lets +onlyGivenNames x1
  clear_value x1
  extract_lets +onlyGivenNames x2
  clear_value x2
  extract_lets +onlyGivenNames x3
  have k4 : Kept z x3 := by
    subst x3
    refine Kept.upd ?_ ..
    exact hK
  refine Kept.ite ?_ ?_
  · exact k4
  · refine Kept.ite ?_ ?_
    · extract_lets +onlyGivenNames x5
      clear_value x5
      extract_lets +onlyGivenNames x6
      have k7 : Kept z x6 := by
        subst x6
        refine Kept.upd ?_ ..
        exact k4
      clear_value x6
      refine Kept.foldl ?_ ?_
      · exact k7
      · intro v8 v9 k10
        with_reducible apply phase2_kept
        exact k10
    · extract_lets +onlyGivenNames x11
      extract_lets +onlyGivenNames x12
      have k13 : Kept z x12 := by
        subst x12
        refine Kept.upd ?_ ..
        exact k4
      refine Kept.ite ?_ ?_
      · with_reducible apply doContinue_kept
        exact k13
      · exact k13

theorem withStep_kept (s : State) (m : Msg) (kind : Nat) (body : State → State) {z : State} (hK : Kept z s) (hbody : ∀ t, Kept z t → Kept z (body t)) :
    Kept z (withStep s m kind body) := by
  unfold withStep
  refine Kept.ite ?_ ?_
  · exact hK
  · extract_lets +onlyGivenNames x1
    have k2 : Kept z x1 := by
      subst x1
      with_reducible apply consumeMsg_kept
      exact hK
    clear_value x1
    refine Kept.ite ?_ ?_
    · with_reducible apply_assumption
      exact k2
    · refine Kept.ite ?_ ?_
      · exact k2
      · with_reducible apply staleMsg_kept
        exact k2

theorem withDecision_kept (s : State) (m : Msg) (code : Nat) (body : State → State) {z : State} (hK : Kept z s) (hbody : ∀ t, Kept z t → Kept z (body t)) :
    Kept z (withDecision s m code body) := by
  unfold withDecision
  refine Kept.ite ?_ ?_
  · exact hK
  · refine Kept.ite ?_ ?_
    · with_reducible apply takeCopy_kept
      with_reducible apply consumeMsg_kept
      exact hK
    · with_reducible apply withStep_kept
      · exact hK
      · intro v1 k2
        with_reducible apply_assumption
        exact k2

theorem setMove_kept (s : State) (mv : Nat) {z : State} (hK : Kept z s) :
    Kept z (setMove s mv) := by
  unfold setMove
  refine Kept.ite ?_ ?_
  · exact hK
  · refine Kept.upd ?_ ..
    exact hK

theorem takeGo_kept (s : State) {z : State} (hK : Kept z s) :
    Kept z (takeGo s) := by
  unfold takeGo
  refine Kept.ite ?_ ?_
  · with_reducible apply setMove_kept
    refine Kept.upd ?_ ..
    exact hK
  · exact hK

theorem takeHold_kept (s : State) (m : Msg) {z : State} (hK : Kept z s) :
    Kept z (takeHold s m) := by
  unfold takeHold
  refine Kept.ite ?_ ?_
  · refine Kept.upd ?_ ..
    exact hK
  · exact hK

theorem takeCommit_kept (s : State) {z : State} (hK : Kept z s) :
    Kept z (takeCommit s) := by
  unfold takeCommit
  refine Kept.ite ?_ ?_
  · with_reducible apply setMove_kept
    exact hK
  · exact hK

theorem takeAbort_kept (s : State) (m : Msg) {z : State} (hK : Kept z s) :
    Kept z (takeAbort s m) := by
  unfold takeAbort
  refine Kept.ite ?_ ?_
  · with_reducible apply setMove_kept
    refine Kept.upd ?_ ..
    exact hK
  · refine Kept.ite ?_ ?_
    · refine Kept.upd ?_ ..
      exact hK
    · exact hK

theorem withAny_kept (s : State) (m : Msg) (kind : Nat) (body : State → State) {z : State} (hK : Kept z s) (hbody : ∀ t, Kept z t → Kept z (body t)) :
    Kept z (withAny s m kind body) := by
  unfold withAny
  refine Kept.ite ?_ ?_
  · exact hK
  · with_reducible apply_assumption
    with_reducible apply consumeMsg_kept
    exact hK

theorem takeEarly_kept (s : State) (m : Msg) {z : State} (hK : Kept z s) :
    Kept z (takeEarly s m) := by
  unfold takeEarly
  refine Kept.ite ?_ ?_
  · with_reducible apply decideAbort_kept
    exact hK
  · exact hK

theorem withShard_kept (s : State) (m : Msg) (kind : Nat) (body : State → Nat → State) {z : State} (hK : Kept z s) (hbody : ∀ t y0, Kept z t → Kept z (body t y0)) :
    Kept z (withShard s m kind body) := by
  unfold withShard
  refine Kept.ite ?_ ?_
  · exact hK
  · with_reducible apply withRole_kept
    · exact hK
    · intro v1 v2 k3
      refine Kept.ite ?_ ?_
      · with_reducible apply_assumption
        exact k3
      · refine Kept.ite ?_ ?_
        · with_reducible apply staleMsg_kept
          exact k3
        · exact k3

theorem openTimeout_kept (s : State) {z : State} (hK : Kept z s) :
    Kept z (openTimeout s) := by
  unfold openTimeout
  refine Kept.ite ?_ ?_
  · exact hK
  · extract_lets +onlyGivenNames x1
    clear_value x1
    extract_lets +onlyGivenNames x2
    have k3 : Kept z x2 := by
      subst x2
      refine Kept.upd ?_ ..
      exact hK
    clear_value x2
    split
    · rename_i v4 e5
      exact k3
    · rename_i v6 v7 e8
      extract_lets +onlyGivenNames x9
      clear_value x9
      extract_lets +onlyGivenNames x10
      clear_value x10
      refine Kept.ite ?_ ?_
      · exact k3
      · with_reducible apply decideAbort_kept
        exact k3

theorem settleTimeout_kept (s : State) {z : State} (hK : Kept z s) :
    Kept z (settleTimeout s) := by
  unfold settleTimeout
  refine Kept.ite ?_ ?_
  · exact hK
  · extract_lets +onlyGivenNames x1
    clear_value x1
    extract_lets +onlyGivenNames x2
    have k3 : Kept z x2 := by
      subst x2
      refine Kept.upd ?_ ..
      exact hK
    clear_value x2
    split
    · rename_i v4 e5
      exact k3
    · rename_i v6 v7 e8
      extract_lets +onlyGivenNames x9
      clear_value x9
      extract_lets +onlyGivenNames x10
      clear_value x10
      extract_lets +onlyGivenNames x11
      clear_value x11
      refine Kept.ite ?_ ?_
      · exact k3
      · with_reducible apply decideAbort_kept
        exact k3

theorem grindTimeout_kept (s : State) {z : State} (hK : Kept z s) :
    Kept z (grindTimeout s) := by
  unfold grindTimeout
  extract_lets +onlyGivenNames x1
  clear_value x1
  refine Kept.ite ?_ ?_
  · exact hK
  · with_reducible apply sendEarly_kept
    with_reducible apply markWith_kept
    refine Kept.upd ?_ ..
    exact hK

theorem decisionWaitTimeout_kept (s : State) {z : State} (hK : Kept z s) :
    Kept z (decisionWaitTimeout s) := by
  unfold decisionWaitTimeout
  refine Kept.ite ?_ ?_
  · exact hK
  · with_reducible apply sendTo_kept
    refine Kept.upd ?_ ..
    exact hK

theorem standbyAckTimeout_kept (s : State) {z : State} (hK : Kept z s) :
    Kept z (standbyAckTimeout s) := by
  unfold standbyAckTimeout
  refine Kept.ite ?_ ?_
  · with_reducible apply loseStandby_kept
    exact hK
  · exact hK

theorem pubTimeout_kept (s : State) {z : State} (hK : Kept z s) :
    Kept z (pubTimeout s) := by
  unfold pubTimeout
  refine Kept.ite ?_ ?_
  · refine Kept.upd ?_ ..
    exact hK
  · exact hK

theorem execStepOpen_kept (s : State) {z : State} (hK : Kept z s) :
    KeptOut z (execStepOpen s) := by
  unfold execStepOpen
  refine KeptOut.next ?_
  with_reducible apply stepOpen_kept
  exact hK

theorem execSailJumpDone_kept (s : State) {z : State} (hK : Kept z s) :
    KeptOut z (execSailJumpDone s) := by
  unfold execSailJumpDone
  refine KeptOut.next ?_
  with_reducible apply sailJumpDone_kept
  exact hK

theorem execLayerDoorbell_kept (s : State) {z : State} (hK : Kept z s) :
    KeptOut z (execLayerDoorbell s) := by
  unfold execLayerDoorbell
  refine KeptOut.next ?_
  with_reducible apply layerDoorbell_kept
  exact hK

theorem execHostAbort_kept (s : State) {z : State} (hK : Kept z s) :
    KeptOut z (execHostAbort s) := by
  unfold execHostAbort
  refine KeptOut.next ?_
  with_reducible apply hostAbort_kept
  exact hK

theorem execUnitAdmit_kept (s : State) {z : State} (hK : Kept z s) :
    KeptOut z (execUnitAdmit s) := by
  unfold execUnitAdmit
  refine KeptOut.next ?_
  with_reducible apply admitNext_kept
  exact hK

theorem execUnitFinalise_kept (entry : Nat) (s : State) {z : State} (hK : Kept z s) :
    KeptOut z (execUnitFinalise entry s) := by
  unfold execUnitFinalise
  refine KeptOut.next ?_
  with_reducible apply finalise_kept
  exact hK

theorem execLayerDone_kept (layer : Nat) (s : State) {z : State} (hK : Kept z s) :
    KeptOut z (execLayerDone layer s) := by
  unfold execLayerDone
  refine KeptOut.next ?_
  with_reducible apply layerDone_kept
  exact hK

theorem execSettleReady_kept (s : State) {z : State} (hK : Kept z s) :
    KeptOut z (execSettleReady s) := by
  unfold execSettleReady
  refine KeptOut.next ?_
  refine Kept.ite ?_ ?_
  · with_reducible apply setMove_kept
    exact hK
  · exact hK

theorem execEarlyAbortSend_kept (s : State) {z : State} (hK : Kept z s) :
    KeptOut z (execEarlyAbortSend s) := by
  unfold execEarlyAbortSend
  refine KeptOut.next ?_
  with_reducible apply sendEarly_kept
  exact hK

theorem execRedoRerun_kept (entry : Nat) (s : State) {z : State} (hK : Kept z s) :
    KeptOut z (execRedoRerun entry s) := by
  unfold execRedoRerun
  refine KeptOut.next ?_
  with_reducible apply redoRerun_kept
  exact hK

theorem execRoundBReady_kept (s : State) {z : State} (hK : Kept z s) :
    KeptOut z (execRoundBReady s) := by
  unfold execRoundBReady
  extract_lets +onlyGivenNames x1
  have k2 : Kept z x1 := by
    subst x1
    refine Kept.ite ?_ ?_
    · with_reducible apply writeGs_kept
      exact hK
    · exact hK
  clear_value x1
  refine KeptOut.next ?_
  refine Kept.ite ?_ ?_
  · with_reducible apply sendRecord_kept
    refine Kept.upd ?_ ..
    exact k2
  · exact k2

theorem execOpenTimeout_kept (s : State) {z : State} (hK : Kept z s) :
    KeptOut z (execOpenTimeout s) := by
  unfold execOpenTimeout
  refine KeptOut.next ?_
  with_reducible apply openTimeout_kept
  exact hK

theorem execGrindTimeout_kept (s : State) {z : State} (hK : Kept z s) :
    KeptOut z (execGrindTimeout s) := by
  unfold execGrindTimeout
  refine KeptOut.next ?_
  with_reducible apply grindTimeout_kept
  exact hK

theorem execSettleTimeout_kept (s : State) {z : State} (hK : Kept z s) :
    KeptOut z (execSettleTimeout s) := by
  unfold execSettleTimeout
  refine KeptOut.next ?_
  with_reducible apply settleTimeout_kept
  exact hK

theorem execDecisionWaitTimeout_kept (s : State) {z : State} (hK : Kept z s) :
    KeptOut z (execDecisionWaitTimeout s) := by
  unfold execDecisionWaitTimeout
  refine KeptOut.next ?_
  with_reducible apply decisionWaitTimeout_kept
  exact hK

theorem execStandbyAckTimeout_kept (s : State) {z : State} (hK : Kept z s) :
    KeptOut z (execStandbyAckTimeout s) := by
  unfold execStandbyAckTimeout
  refine KeptOut.next ?_
  with_reducible apply standbyAckTimeout_kept
  exact hK

theorem execPubTimeout_kept (s : State) {z : State} (hK : Kept z s) :
    KeptOut z (execPubTimeout s) := by
  unfold execPubTimeout
  refine KeptOut.next ?_
  with_reducible apply pubTimeout_kept
  exact hK

theorem execMsgOpenRec_kept (m : Msg) (s : State) {z : State} (hK : Kept z s) :
    KeptOut z (execMsgOpenRec m s) := by
  unfold execMsgOpenRec
  refine KeptOut.next ?_
  with_reducible apply withStep_kept
  · exact hK
  · intro v1 k2
    with_reducible apply takeOpenRec_kept
    exact k2

theorem execMsgDecisionGo_kept (m : Msg) (s : State) {z : State} (hK : Kept z s) :
    KeptOut z (execMsgDecisionGo m s) := by
  unfold execMsgDecisionGo
  refine KeptOut.next ?_
  with_reducible apply withDecision_kept
  · exact hK
  · intro v1 k2
    with_reducible apply takeGo_kept
    exact k2

theorem execMsgDecisionHold_kept (m : Msg) (s : State) {z : State} (hK : Kept z s) :
    KeptOut z (execMsgDecisionHold m s) := by
  unfold execMsgDecisionHold
  refine KeptOut.next ?_
  with_reducible apply withDecision_kept
  · exact hK
  · intro v1 k2
    with_reducible apply takeHold_kept
    exact k2

theorem execMsgDecisionContinue_kept (m : Msg) (s : State) {z : State} (hK : Kept z s) :
    KeptOut z (execMsgDecisionContinue m s) := by
  unfold execMsgDecisionContinue
  refine KeptOut.next ?_
  with_reducible apply withDecision_kept
  · exact hK
  · intro v1 k2
    with_reducible apply takeContinue_kept
    exact k2

theorem execMsgDecisionCommit_kept (m : Msg) (s : State) {z : State} (hK : Kept z s) :
    KeptOut z (execMsgDecisionCommit m s) := by
  unfold execMsgDecisionCommit
  refine KeptOut.next ?_
  with_reducible apply withDecision_kept
  · exact hK
  · intro v1 k2
    with_reducible apply takeCommit_kept
    exact k2

theorem execMsgDecisionAbort_kept (m : Msg) (s : State) {z : State} (hK : Kept z s) :
    KeptOut z (execMsgDecisionAbort m s) := by
  unfold execMsgDecisionAbort
  refine KeptOut.next ?_
  with_reducible apply withDecision_kept
  · exact hK
  · intro v1 k2
    with_reducible apply takeAbort_kept
    exact k2

theorem execMsgRoundRec_kept (m : Msg) (s : State) {z : State} (hK : Kept z s) :
    KeptOut z (execMsgRoundRec m s) := by
  unfold execMsgRoundRec
  refine KeptOut.next ?_
  with_reducible apply withStep_kept
  · exact hK
  · intro v1 k2
    with_reducible apply takeRoundRec_kept
    exact k2

theorem execMsgGroupRec_kept (m : Msg) (s : State) {z : State} (hK : Kept z s) :
    KeptOut z (execMsgGroupRec m s) := by
  unfold execMsgGroupRec
  refine KeptOut.next ?_
  with_reducible apply withStep_kept
  · exact hK
  · intro v1 k2
    with_reducible apply takeGroupRec_kept
    exact k2

theorem execMsgEarlyAbort_kept (m : Msg) (s : State) {z : State} (hK : Kept z s) :
    KeptOut z (execMsgEarlyAbort m s) := by
  unfold execMsgEarlyAbort
  refine KeptOut.next ?_
  with_reducible apply withStep_kept
  · exact hK
  · intro v1 k2
    with_reducible apply takeEarly_kept
    exact k2

theorem execMsgStandbyAck_kept (m : Msg) (s : State) {z : State} (hK : Kept z s) :
    KeptOut z (execMsgStandbyAck m s) := by
  unfold execMsgStandbyAck
  refine KeptOut.next ?_
  with_reducible apply withAny_kept
  · exact hK
  · intro v1 k2
    with_reducible apply takeAck_kept
    exact k2

theorem execMsgQuery_kept (m : Msg) (s : State) {z : State} (hK : Kept z s) :
    KeptOut z (execMsgQuery m s) := by
  unfold execMsgQuery
  refine KeptOut.next ?_
  with_reducible apply withAny_kept
  · exact hK
  · intro v1 k2
    with_reducible apply takeQuery_kept
    exact k2

theorem execMsgNormPart_kept (m : Msg) (s : State) {z : State} (hK : Kept z s) :
    KeptOut z (execMsgNormPart m s) := by
  unfold execMsgNormPart
  refine KeptOut.next ?_
  with_reducible apply withStep_kept
  · exact hK
  · intro v1 k2
    with_reducible apply takeNormPart_kept
    exact k2

theorem execMsgNormSum_kept (m : Msg) (s : State) {z : State} (hK : Kept z s) :
    KeptOut z (execMsgNormSum m s) := by
  unfold execMsgNormSum
  refine KeptOut.next ?_
  with_reducible apply withStep_kept
  · exact hK
  · intro v1 k2
    with_reducible apply takeNormSum_kept
    exact k2

theorem execMsgAdmit_kept (m : Msg) (s : State) {z : State} (hK : Kept z s) :
    KeptOut z (execMsgAdmit m s) := by
  unfold execMsgAdmit
  refine KeptOut.next ?_
  with_reducible apply withShard_kept
  · exact hK
  · intro v1 v2 k3
    with_reducible apply trySlices_kept
    with_reducible apply noteAdmit_kept
    exact k3

theorem execMsgFinal_kept (m : Msg) (s : State) {z : State} (hK : Kept z s) :
    KeptOut z (execMsgFinal m s) := by
  unfold execMsgFinal
  refine KeptOut.next ?_
  with_reducible apply withShard_kept
  · exact hK
  · intro v1 v2 k3
    exact k3

theorem execMsgRecomp_kept (m : Msg) (s : State) {z : State} (hK : Kept z s) :
    KeptOut z (execMsgRecomp m s) := by
  unfold execMsgRecomp
  refine KeptOut.next ?_
  with_reducible apply withShard_kept
  · exact hK
  · intro v1 v2 k3
    with_reducible apply takeRecomp_kept
    exact k3

theorem execMsgLost_kept (m : Msg) (s : State) {z : State} (hK : Kept z s) :
    KeptOut z (execMsgLost m s) := by
  unfold execMsgLost
  refine KeptOut.next ?_
  with_reducible apply withAny_kept
  · exact hK
  · intro v1 k2
    with_reducible apply takeLost_kept
    exact k2

theorem execMsgContrib_kept (m : Msg) (s : State) {z : State} (hK : Kept z s) :
    KeptOut z (execMsgContrib m s) := by
  unfold execMsgContrib
  refine KeptOut.next ?_
  with_reducible apply withShard_kept
  · exact hK
  · intro v1 v2 k3
    with_reducible apply takeContrib_kept
    exact k3

theorem execMsgPartial_kept (m : Msg) (s : State) {z : State} (hK : Kept z s) :
    KeptOut z (execMsgPartial m s) := by
  unfold execMsgPartial
  refine KeptOut.next ?_
  with_reducible apply withShard_kept
  · exact hK
  · intro v1 v2 k3
    with_reducible apply takePartial_kept
    exact k3

end Sys2Proof.Machine
end

