-- ==== Sys2Proof/Laws/Vc4.lean ====
section
/-!
SUPPORT. What each operation of Machine/Vc4.lean keeps (`Kept`): the chip, the queue, the Turn and the canonical stores.
-/
namespace Sys2Proof.Machine

theorem vc4Answer_kept (s : State) (m : Msg) (kind code poison : Nat) (data : List Byte) {z : State} (hK : Kept z s) :
    Kept z (vc4Answer s m kind code poison data) := by
  unfold vc4Answer
  with_reducible apply sendTo_kept
  exact hK

theorem withHome_kept (s : State) (m : Msg) (kind len : Nat) (body : State → State) {z : State} (hK : Kept z s) (hbody : ∀ t, Kept z t → Kept z (body t)) :
    Kept z (withHome s m kind len body) := by
  unfold withHome
  extract_lets +onlyGivenNames x1
  clear_value x1
  refine Kept.ite ?_ ?_
  · exact hK
  · with_reducible apply_assumption
    with_reducible apply consumeMsg_kept
    exact hK

theorem homeRead_kept (s : State) (m : Msg) {z : State} (hK : Kept z s) :
    Kept z (homeRead s m) := by
  unfold homeRead
  extract_lets +onlyGivenNames x1
  clear_value x1
  refine Kept.ite ?_ ?_
  · with_reducible apply vc4Answer_kept
    exact hK
  · split
    · rename_i v2 v3 v4 e5
      have k6 : Kept z v4 := by
        refine Kept.of_snd e5 ?_
        with_reducible apply rangeRead_kept
        exact hK
      refine Kept.ite ?_ ?_
      · with_reducible apply vc4Answer_kept
        exact k6
      · with_reducible apply vc4Answer_kept
        exact k6

theorem homeWrite_kept (s : State) (m : Msg) (strb : List Bool) {z : State} (hK : Kept z s) :
    Kept z (homeWrite s m strb) := by
  unfold homeWrite
  extract_lets +onlyGivenNames x1
  clear_value x1
  refine Kept.ite ?_ ?_
  · with_reducible apply vc4Answer_kept
    exact hK
  · split
    · rename_i v2 v3 v4 e5
      have k6 : Kept z v4 := by
        refine Kept.of_snd e5 ?_
        refine Kept.foldl_snd ?_ ?_
        · refine Kept.snd ?_
          exact hK
        · intro v7 v8 k9
          split
          · rename_i v10 v11 v12
            refine Kept.ite_snd ?_ ?_
            · refine Kept.snd ?_
              exact k9
            · split
              · rename_i v13 v14 v15 e16
                have k17 : Kept z v15 := by
                  refine Kept.of_snd e16 ?_
                  with_reducible apply burstWrite_kept
                  exact k9
                refine Kept.snd ?_
                exact k17
      refine Kept.ite ?_ ?_
      · with_reducible apply vc4Answer_kept
        exact k6
      · with_reducible apply vc4Answer_kept
        exact k6

theorem homeAtomic_kept (s : State) (m : Msg) {z : State} (hK : Kept z s) :
    Kept z (homeAtomic s m) := by
  unfold homeAtomic
  extract_lets +onlyGivenNames x1
  clear_value x1
  extract_lets +onlyGivenNames x2
  clear_value x2
  refine Kept.ite ?_ ?_
  · with_reducible apply vc4Answer_kept
    exact hK
  · split
    · rename_i v3 v4 v5 v6 e7
      have k8 : Kept z v6 := by
        refine Kept.of_snd_snd e7 ?_
        with_reducible apply atomicAt_kept
        exact hK
      with_reducible apply vc4Answer_kept
      exact k8

theorem releaseRoute_kept (s : State) (c : Nat) {z : State} (hK : Kept z s) :
    Kept z (releaseRoute s c) := by
  unfold releaseRoute
  extract_lets +onlyGivenNames x1
  clear_value x1
  refine Kept.ite ?_ ?_
  · exact hK
  · extract_lets +onlyGivenNames x2
    clear_value x2
    extract_lets +onlyGivenNames x3
    have k4 : Kept z x3 := by
      subst x3
      refine Kept.upd ?_ ..
      exact hK
    clear_value x3
    refine Kept.foldl ?_ ?_
    · exact k4
    · intro v5 v6 k7
      with_reducible apply sendTo_kept
      exact k7

theorem hostAnswer_kept (s : State) (r : AxiReq) (off : Nat) (at_ : Bool) (code poison : Nat) (data : List Byte) {z : State} (hK : Kept z s) :
    Kept z (hostAnswer s r off at_ code poison data) := by
  unfold hostAnswer
  refine Kept.ite ?_ ?_
  · refine Kept.ite ?_ ?_
    · with_reducible apply respond_kept
      exact hK
    · with_reducible apply respond_kept
      exact hK
  · refine Kept.ite ?_ ?_
    · split
      · rename_i v1 v2 v3 e4
        have k5 : Kept z v3 := by
          refine Kept.of_snd e4 ?_
          with_reducible apply drawBytes_kept
          exact hK
        with_reducible apply respond_kept
        exact k5
    · with_reducible apply respond_kept
      exact hK

theorem quernAnswerBad_kept (s : State) (q addr code : Nat) {z : State} (hK : Kept z s) :
    Kept z (quernAnswerBad s q addr code) := by
  unfold quernAnswerBad
  extract_lets +onlyGivenNames x1
  have k2 : Kept z x1 := by
    subst x1
    with_reducible apply qnMod_kept
    exact hK
  clear_value x1
  refine Kept.ite ?_ ?_
  · with_reducible apply trapQ_kept
    exact k2
  · with_reducible apply trapQ_kept
    with_reducible apply consumePoison_kept
    exact k2

theorem giveAnswer_kept (s : State) (o : Outst) (code poison : Nat) (data : List Byte) {z : State} (hK : Kept z s) :
    Kept z (giveAnswer s o code poison data) := by
  unfold giveAnswer
  extract_lets +onlyGivenNames x1
  clear_value x1
  extract_lets +onlyGivenNames x2
  clear_value x2
  split
  · rename_i v3 v4 v5 e6
    with_reducible apply hostAnswer_kept
    exact hK
  · rename_i v7 v8 e9
    refine Kept.ite ?_ ?_
    · exact hK
    · with_reducible apply loseWrite_kept
      exact hK
  · rename_i v10 v11 v12 e13
    with_reducible apply leatAnswer_kept
    exact hK
  · rename_i v14 v15 v16 v17 e18
    refine Kept.ite ?_ ?_
    · with_reducible apply getBurst_kept
      exact hK
    · split
      · rename_i v19 v20 v21 e22
        have k23 : Kept z v21 := by
          refine Kept.of_snd e22 ?_
          with_reducible apply drawBytes_kept
          exact hK
        with_reducible apply getBurst_kept
        exact k23
  · rename_i v24 v25 v26 v27 e28
    refine Kept.ite ?_ ?_
    · exact hK
    · refine Kept.ite ?_ ?_
      · with_reducible apply quernAnswerBad_kept
        exact hK
      · with_reducible apply completePlain_kept
        with_reducible apply qnMod_kept
        exact hK
  · rename_i v29 v30 v31 v32 v33 e34
    refine Kept.ite ?_ ?_
    · refine Kept.ite ?_ ?_
      · with_reducible apply qnMod_kept
        exact hK
      · exact hK
    · refine Kept.ite ?_ ?_
      · with_reducible apply quernAnswerBad_kept
        exact hK
      · with_reducible apply finishWaitw_kept
        with_reducible apply qnMod_kept
        exact hK
  · rename_i v35 v36 v37 e38
    refine Kept.ite ?_ ?_
    · exact hK
    · with_reducible apply leatFinish_kept
      exact hK
  · rename_i v39 v40 v41 e42
    exact hK
  · rename_i v43 e44
    with_reducible apply bolAnswer_kept
    exact hK
  · rename_i v45 e46
    refine Kept.ite ?_ ?_
    · exact hK
    · with_reducible apply bolMod_kept
      exact hK
  · rename_i v47 e48
    exact hK

theorem takeAnswer_kept (s : State) (m : Msg) (kind code : Nat) {z : State} (hK : Kept z s) :
    Kept z (takeAnswer s m kind code) := by
  unfold takeAnswer
  refine Kept.ite ?_ ?_
  · exact hK
  · extract_lets +onlyGivenNames x1
    have k2 : Kept z x1 := by
      subst x1
      with_reducible apply consumeMsg_kept
      exact hK
    clear_value x1
    split
    · rename_i v3 e4
      exact k2
    · rename_i v5 v6 e7
      extract_lets +onlyGivenNames x8
      clear_value x8
      extract_lets +onlyGivenNames x9
      have k10 : Kept z x9 := by
        subst x9
        refine Kept.upd ?_ ..
        exact k2
      clear_value x9
      with_reducible apply releaseRoute_kept
      with_reducible apply giveAnswer_kept
      exact k10

theorem takeBulk_kept (s : State) (m : Msg) {z : State} (hK : Kept z s) :
    Kept z (takeBulk s m) := by
  unfold takeBulk
  extract_lets +onlyGivenNames x1
  clear_value x1
  with_reducible apply rangeWrite_kept
  exact hK

theorem execMsgVc4Rd_kept (m : Msg) (s : State) {z : State} (hK : Kept z s) :
    KeptOut z (execMsgVc4Rd m s) := by
  unfold execMsgVc4Rd
  refine KeptOut.next ?_
  with_reducible apply withHome_kept
  · exact hK
  · intro v1 k2
    with_reducible apply homeRead_kept
    exact k2

theorem execMsgVc4Wr_kept (m : Msg) (s : State) {z : State} (hK : Kept z s) :
    KeptOut z (execMsgVc4Wr m s) := by
  unfold execMsgVc4Wr
  refine KeptOut.next ?_
  with_reducible apply withHome_kept
  · exact hK
  · intro v1 k2
    with_reducible apply homeWrite_kept
    exact k2

theorem execMsgVc4Wrs_kept (m : Msg) (s : State) {z : State} (hK : Kept z s) :
    KeptOut z (execMsgVc4Wrs m s) := by
  unfold execMsgVc4Wrs
  refine KeptOut.next ?_
  with_reducible apply withHome_kept
  · exact hK
  · intro v1 k2
    with_reducible apply homeWrite_kept
    exact k2

theorem execMsgVc4Atom_kept (m : Msg) (s : State) {z : State} (hK : Kept z s) :
    KeptOut z (execMsgVc4Atom m s) := by
  unfold execMsgVc4Atom
  refine KeptOut.next ?_
  with_reducible apply withHome_kept
  · exact hK
  · intro v1 k2
    with_reducible apply homeAtomic_kept
    exact k2

theorem execMsgVc4Resp_kept (m : Msg) (s : State) {z : State} (hK : Kept z s) :
    KeptOut z (execMsgVc4Resp m s) := by
  unfold execMsgVc4Resp
  refine KeptOut.next ?_
  with_reducible apply takeAnswer_kept
  exact hK

theorem execMsgVc4Wack_kept (m : Msg) (s : State) {z : State} (hK : Kept z s) :
    KeptOut z (execMsgVc4Wack m s) := by
  unfold execMsgVc4Wack
  refine KeptOut.next ?_
  with_reducible apply takeAnswer_kept
  exact hK

theorem execMsgBulk_kept (m : Msg) (s : State) {z : State} (hK : Kept z s) :
    KeptOut z (execMsgBulk m s) := by
  unfold execMsgBulk
  refine KeptOut.next ?_
  refine Kept.ite ?_ ?_
  · exact hK
  · with_reducible apply takeBulk_kept
    with_reducible apply consumeMsg_kept
    exact hK

end Sys2Proof.Machine
end

