-- ==== Sys2Proof/Laws/Publish.lean ====
section
/-!
SUPPORT. What each operation of Machine/Publish.lean keeps (`Kept`): the chip, the queue, the Turn and the canonical stores.
-/
namespace Sys2Proof.Machine

theorem convertShort_kept (s : State) (t : TEnt) (st seed : Nat) {z : State} (hK : Kept z s) :
    Kept z (convertShort s t st seed) := by
  unfold convertShort
  extract_lets +onlyGivenNames x1
  clear_value x1
  split
  · rename_i v2 v3 v4 v5 e6
    have k7 : Kept z v5 := by
      refine Kept.of_snd_snd e6 ?_
      with_reducible apply readMasters_kept
      exact hK
    extract_lets +onlyGivenNames x8
    clear_value x8
    extract_lets +onlyGivenNames x9
    clear_value x9
    extract_lets +onlyGivenNames x10
    clear_value x10
    extract_lets +onlyGivenNames x11
    clear_value x11
    extract_lets +onlyGivenNames x12
    clear_value x12
    extract_lets +onlyGivenNames x13
    clear_value x13
    extract_lets +onlyGivenNames x14
    have k15 : ∀ y0_0 y0_1 y0_2, (Kept z y0_0) → Kept z (x14 y0_0 y0_1 y0_2) := by
      subst x14
      intro v16 v17 v18 k19
      beta_reduce
      with_reducible apply rangeWrite_kept
      exact k19
    clear_value x14
    extract_lets +onlyGivenNames x20
    have k21 : Kept z x20 := by
      subst x20
      split
      · rename_i v22 v23 v24 v25 e26
        with_reducible apply_assumption
        with_reducible apply_assumption
        exact k7
      · rename_i v27 e28
        with_reducible apply_assumption
    clear_value x20
    extract_lets +onlyGivenNames x29
    have k30 : Kept z x29 := by
      subst x29
      with_reducible apply regOr_kept
      exact k21
    clear_value x29
    with_reducible apply bumpBy_kept
    exact k30

theorem sendPart_kept (s : State) (t : TEnt) (st att : Nat) (x : PubPart) {z : State} (hK : Kept z s) :
    Kept z (sendPart s t st att x) := by
  unfold sendPart
  extract_lets +onlyGivenNames x1
  clear_value x1
  refine Kept.foldl ?_ ?_
  · exact hK
  · intro v2 v3 k4
    extract_lets +onlyGivenNames x5
    clear_value x5
    extract_lets +onlyGivenNames x6
    clear_value x6
    split
    · rename_i v7 v8 v9 e10
      have k11 : Kept z v9 := by
        refine Kept.of_snd e10 ?_
        with_reducible apply rangeRead_kept
        exact k4
      refine Kept.ite ?_ ?_
      · refine Kept.upd ?_ ..
        exact k11
      · extract_lets +onlyGivenNames x12
        clear_value x12
        extract_lets +onlyGivenNames x13
        extract_lets +onlyGivenNames x14
        have k15 : Kept z x14 := by
          subst x14
          refine Kept.updGl ?_ ..
          exact k11
        clear_value x14
        with_reducible apply multicast_kept
        exact k15

theorem noteGot_kept (s : State) (st i key n : Nat) {z : State} (hK : Kept z s) :
    Kept z (noteGot s st i key n) := by
  unfold noteGot
  refine Kept.ite ?_ ?_
  · exact hK
  · refine Kept.upd ?_ ..
    exact hK

theorem pubReady_kept (s : State) {z : State} (hK : Kept z s) :
    Kept z (pubReady s) := by
  unfold pubReady
  extract_lets +onlyGivenNames x1
  clear_value x1
  extract_lets +onlyGivenNames x2
  clear_value x2
  refine Kept.foldl ?_ ?_
  · exact hK
  · intro v3 v4 k5
    refine Kept.ite ?_ ?_
    · exact k5
    · extract_lets +onlyGivenNames x6
      have k7 : Kept z x6 := by
        subst x6
        with_reducible apply scrWrite_kept
        exact k5
      clear_value x6
      refine Kept.upd ?_ ..
      exact k7

theorem takePub_kept (s : State) (m : Msg) (i : Nat) {z : State} (hK : Kept z s) :
    Kept z (takePub s m i) := by
  unfold takePub
  extract_lets +onlyGivenNames x1
  clear_value x1
  extract_lets +onlyGivenNames x2
  clear_value x2
  split
  · rename_i v3 e4
    exact hK
  · rename_i v5 v6 e7
    extract_lets +onlyGivenNames x8
    clear_value x8
    extract_lets +onlyGivenNames x9
    clear_value x9
    extract_lets +onlyGivenNames x10
    have k11 : Kept z x10 := by
      subst x10
      with_reducible apply rangeWrite_kept
      exact hK
    clear_value x10
    extract_lets +onlyGivenNames x12
    have k13 : Kept z x12 := by
      subst x12
      with_reducible apply noteGot_kept
      exact k11
    clear_value x12
    refine Kept.ite ?_ ?_
    · with_reducible apply pubReady_kept
      exact k13
    · exact k13

theorem publishRange_kept (s : State) {z : State} (hK : Kept z s) :
    Kept z (publishRange s) := by
  unfold publishRange
  split
  · rename_i v1 e2
    exact hK
  · rename_i v3 v4 v5 e6
    refine Kept.ite ?_ ?_
    · exact hK
    · extract_lets +onlyGivenNames x7
      clear_value x7
      extract_lets +onlyGivenNames x8
      clear_value x8
      extract_lets +onlyGivenNames x9
      have k10 : Kept z x9 := by
        subst x9
        refine Kept.upd ?_ ..
        exact hK
      clear_value x9
      extract_lets +onlyGivenNames x11
      have k12 : Kept z x11 := by
        subst x11
        refine Kept.ite ?_ ?_
        · exact k10
        · with_reducible apply convertShort_kept
          exact k10
      clear_value x11
      extract_lets +onlyGivenNames x13
      have k14 : Kept z x13 := by
        subst x13
        refine Kept.foldl ?_ ?_
        · exact k12
        · intro v15 v16 k17
          with_reducible apply sendPart_kept
          exact k17
      clear_value x13
      extract_lets +onlyGivenNames x18
      have k19 : Kept z x18 := by
        subst x18
        with_reducible apply noteGot_kept
        exact k14
      clear_value x18
      extract_lets +onlyGivenNames x20
      have k21 : Kept z x20 := by
        subst x20
        refine Kept.ite ?_ ?_
        · with_reducible apply bump_kept
          exact k19
        · exact k19
      clear_value x20
      with_reducible apply pubReady_kept
      exact k21

theorem publishDone_kept (s : State) {z : State} (hK : Kept z s) :
    Kept z (publishDone s) := by
  unfold publishDone
  extract_lets +onlyGivenNames x1
  clear_value x1
  refine Kept.ite ?_ ?_
  · exact hK
  · extract_lets +onlyGivenNames x2
    clear_value x2
    extract_lets +onlyGivenNames x3
    clear_value x3
    extract_lets +onlyGivenNames x4
    have k5 : Kept z x4 := by
      subst x4
      refine Kept.upd ?_ ..
      exact hK
    refine Kept.ite ?_ ?_
    · refine Kept.upd ?_ ..
      exact k5
    · exact k5

theorem republish_kept (s : State) (is : List Nat) {z : State} (hK : Kept z s) :
    Kept z (republish s is) := by
  unfold republish
  refine Kept.upd ?_ ..
  exact hK

theorem trRepub_kept (s : State) (w : Nat) {z : State} (hK : Kept z s) :
    Kept z (trRepub s w) := by
  unfold trRepub
  refine Kept.ite ?_ ?_
  · exact hK
  · extract_lets +onlyGivenNames x1
    clear_value x1
    refine Kept.ite ?_ ?_
    · with_reducible apply republish_kept
      exact hK
    · refine Kept.upd ?_ ..
      exact hK

theorem execPublishRange_kept (s : State) {z : State} (hK : Kept z s) :
    KeptOut z (execPublishRange s) := by
  unfold execPublishRange
  refine KeptOut.next ?_
  with_reducible apply publishRange_kept
  exact hK

theorem execPublishDone_kept (s : State) {z : State} (hK : Kept z s) :
    KeptOut z (execPublishDone s) := by
  unfold execPublishDone
  refine KeptOut.next ?_
  with_reducible apply publishDone_kept
  exact hK

theorem execTrRepub_kept (w : Nat) (s : State) {z : State} (hK : Kept z s) :
    KeptOut z (execTrRepub w s) := by
  unfold execTrRepub
  refine KeptOut.next ?_
  with_reducible apply trRepub_kept
  exact hK

theorem execMsgPub_kept (m : Msg) (s : State) {z : State} (hK : Kept z s) :
    KeptOut z (execMsgPub m s) := by
  unfold execMsgPub
  refine KeptOut.next ?_
  refine Kept.ite ?_ ?_
  · exact hK
  · with_reducible apply withRole_kept
    · exact hK
    · intro v1 v2 k3
      with_reducible apply takePub_kept
      exact k3

end Sys2Proof.Machine
end

