-- ==== Sys2Proof/Laws/Copy.lean ====
section
/-!
SUPPORT. What each operation of Machine/Copy.lean keeps (`Kept`): the chip, the queue, the Turn and the canonical stores.
-/
namespace Sys2Proof.Machine

theorem readMarked_kept (s : State) (off n : Nat) {z : State} (hK : Kept z s) :
    Kept z (readMarked s off n).2 := by
  unfold readMarked
  split
  · rename_i v1 v2 v3 e4
    have k5 : Kept z v3 := by
      refine Kept.of_snd e4 ?_
      with_reducible apply rangeRead_kept
      exact hK
    refine Kept.snd ?_
    exact k5

theorem fieldMarked_kept (s : State) (t : TEnt) (slot k : Nat) {z : State} (hK : Kept z s) :
    Kept z (fieldMarked s t slot k).2 := by
  unfold fieldMarked
  refine Kept.foldl_snd ?_ ?_
  · refine Kept.snd ?_
    exact hK
  · intro v1 v2 k3
    split
    · rename_i v4 v5 v6 e7
      have k8 : Kept z v6 := by
        refine Kept.of_snd e7 ?_
        with_reducible apply readMarked_kept
        exact k3
      refine Kept.snd ?_
      exact k8

theorem fieldArrays_kept (s : State) (t : TEnt) (hs : List Byte) (p mask : Nat) {z : State} (hK : Kept z s) :
    Kept z (fieldArrays s t hs p mask).2 := by
  unfold fieldArrays
  extract_lets +onlyGivenNames x1
  clear_value x1
  extract_lets +onlyGivenNames x2
  have k3 : ∀ y0_0 y0_1 y0_2, (∀ y1_0, (Kept z y1_0) → Kept z (y0_1 y1_0).2) → (Kept z y0_2.2) → Kept z (x2 y0_0 y0_1 y0_2).2 := by
    subst x2
    intro v4 v5 v6 v7 k8
    beta_reduce
    refine Kept.ite_snd ?_ ?_
    · split
      · rename_i v9 v10 v11 e12
        have k13 : Kept z v11 := by
          refine Kept.of_snd e12 ?_
          with_reducible apply_assumption
          exact k8
        refine Kept.snd ?_
        exact k13
    · exact k8
  clear_value x2
  refine Kept.bind_snd_snd ?_ fun x14 k15 => ?_
  · with_reducible apply_assumption
    · intro v16 k17
      with_reducible apply readMarked_kept
      exact k17
    · with_reducible apply_assumption
      · intro v18 k19
        split
        · rename_i v20 v21 v22 e23
          have k24 : Kept z v22 := by
            refine Kept.of_snd e23 ?_
            with_reducible apply fieldMarked_kept
            exact k19
          refine Kept.ite_snd ?_ ?_
          · split
            · rename_i v25 v26 v27 e28
              have k29 : Kept z v27 := by
                refine Kept.of_snd e28 ?_
                with_reducible apply fieldMarked_kept
                exact k24
              refine Kept.snd ?_
              exact k29
          · refine Kept.snd ?_
            exact k24
      · with_reducible apply_assumption
        · intro v30 k31
          with_reducible apply fieldMarked_kept
          exact k31
        · with_reducible apply_assumption
          · intro v32 k33
            with_reducible apply fieldMarked_kept
            exact k33
          · with_reducible apply_assumption
            · intro v34 k35
              with_reducible apply readMarked_kept
              exact k35
            · refine Kept.snd ?_
              exact hK
  · with_reducible apply_assumption
    · intro v36 k37
      with_reducible apply readMarked_kept
      exact k37
    · exact k15

theorem hsxRecord_kept (s : State) (t : TEnt) (hs : List Byte) (st mask : Nat) {z : State} (hK : Kept z s) :
    Kept z (hsxRecord s t hs st mask).2 := by
  unfold hsxRecord
  extract_lets +onlyGivenNames x1
  clear_value x1
  extract_lets +onlyGivenNames x2
  clear_value x2
  split
  · rename_i v3 v4 v5 e6
    have k7 : Kept z v5 := by
      refine Kept.of_snd e6 ?_
      with_reducible apply fieldArrays_kept
      exact hK
    extract_lets +onlyGivenNames x8
    clear_value x8
    extract_lets +onlyGivenNames x9
    clear_value x9
    refine Kept.snd ?_
    exact k7

theorem h3wRecord_kept (s : State) (t : TEnt) (st : Nat) {z : State} (hK : Kept z s) :
    Kept z (h3wRecord s t st).2 := by
  unfold h3wRecord
  split
  · rename_i v1 v2 v3 e4
    have k5 : Kept z v3 := by
      refine Kept.of_snd e4 ?_
      with_reducible apply readMarked_kept
      exact hK
    refine Kept.snd ?_
    exact k5

theorem putCopy_kept (s : State) (dest aux st : Nat) (m : Marked) {z : State} (hK : Kept z s) :
    Kept z (putCopy s dest aux st m) := by
  unfold putCopy
  extract_lets +onlyGivenNames x1
  clear_value x1
  refine Kept.ite ?_ ?_
  · refine Kept.foldl ?_ ?_
    · exact hK
    · intro v2 v3 k4
      extract_lets +onlyGivenNames x5
      clear_value x5
      extract_lets +onlyGivenNames x6
      clear_value x6
      with_reducible apply sendTo_kept
      exact k4
  · extract_lets +onlyGivenNames x7
    clear_value x7
    with_reducible apply rangeWrite_kept
    exact hK

theorem ckptPut_kept (s : State) (off entry : Nat) (m : Marked) {z : State} (hK : Kept z s) :
    Kept z (ckptPut s off entry m) := by
  unfold ckptPut
  extract_lets +onlyGivenNames x1
  clear_value x1
  extract_lets +onlyGivenNames x2
  have k3 : Kept z x2 := by
    subst x2
    with_reducible apply putCopy_kept
    exact hK
  clear_value x2
  refine Kept.ite ?_ ?_
  · with_reducible apply putCopy_kept
    exact k3
  · exact k3

theorem ckptStop_kept (s : State) {z : State} (hK : Kept z s) :
    Kept z (ckptStop s) := by
  unfold ckptStop
  extract_lets +onlyGivenNames x1
  clear_value x1
  with_reducible apply event_kept
  refine Kept.upd ?_ ..
  exact hK

theorem ckptNext_kept (s : State) {z : State} (hK : Kept z s) :
    Kept z (ckptNext s) := by
  unfold ckptNext
  split
  · rename_i v1 e2
    exact hK
  · rename_i v3 v4 v5 e6
    refine Kept.ite ?_ ?_
    · with_reducible apply ckptStop_kept
      exact hK
    · extract_lets +onlyGivenNames x7
      clear_value x7
      split
      · rename_i v8 v9 v10 e11
        have k12 : Kept z v10 := by
          refine Kept.of_snd e11 ?_
          with_reducible apply hsxRecord_kept
          exact hK
        extract_lets +onlyGivenNames x13
        have k14 : Kept z x13 := by
          subst x13
          with_reducible apply ckptPut_kept
          exact k12
        clear_value x13
        refine Kept.upd ?_ ..
        exact k14

theorem checkpointDone_kept (s : State) {z : State} (hK : Kept z s) :
    Kept z (checkpointDone s) := by
  unfold checkpointDone
  extract_lets +onlyGivenNames x1
  have k2 : Kept z x1 := by
    subst x1
    refine Kept.foldl ?_ ?_
    · exact hK
    · intro v3 v4 k5
      with_reducible apply ckptNext_kept
      exact k5
  clear_value x1
  refine Kept.ite ?_ ?_
  · exact k2
  · refine Kept.ite ?_ ?_
    · with_reducible apply ckptStop_kept
      exact k2
    · extract_lets +onlyGivenNames x6
      clear_value x6
      extract_lets +onlyGivenNames x7
      clear_value x7
      extract_lets +onlyGivenNames x8
      have k9 : Kept z x8 := by
        subst x8
        with_reducible apply ckptPut_kept
        exact k2
      clear_value x8
      refine Kept.upd ?_ ..
      exact k9

theorem startCheckpoint_kept (s : State) (st : Nat) {z : State} (hK : Kept z s) :
    Kept z (startCheckpoint s st) := by
  unfold startCheckpoint
  extract_lets +onlyGivenNames x1
  clear_value x1
  refine Kept.ite ?_ ?_
  · exact hK
  · extract_lets +onlyGivenNames x2
    have k3 : Kept z x2 := by
      subst x2
      refine Kept.ite ?_ ?_
      · with_reducible apply checkpointDone_kept
        exact hK
      · exact hK
    clear_value x2
    refine Kept.upd ?_ ..
    exact k3

theorem exportStart_kept (s : State) {z : State} (hK : Kept z s) :
    Kept z (exportStart s) := by
  unfold exportStart
  extract_lets +onlyGivenNames x1
  clear_value x1
  refine Kept.ite ?_ ?_
  · refine Kept.upd ?_ ..
    exact hK
  · refine Kept.ite ?_ ?_
    · refine Kept.upd ?_ ..
      exact hK
    · extract_lets +onlyGivenNames x2
      clear_value x2
      extract_lets +onlyGivenNames x3
      clear_value x3
      extract_lets +onlyGivenNames x4
      clear_value x4
      extract_lets +onlyGivenNames x5
      clear_value x5
      extract_lets +onlyGivenNames x6
      clear_value x6
      extract_lets +onlyGivenNames x7
      clear_value x7
      refine Kept.upd ?_ ..
      exact hK

theorem expNext_kept (s : State) {z : State} (hK : Kept z s) :
    Kept z (expNext s) := by
  unfold expNext
  split
  · rename_i v1 e2
    exact hK
  · rename_i v3 v4 v5 e6
    extract_lets +onlyGivenNames x7
    clear_value x7
    refine Kept.ite ?_ ?_
    · exact hK
    · split
      · rename_i v8 v9 v10 e11
        have k12 : Kept z v10 := by
          refine Kept.of_snd e11 ?_
          refine Kept.ite_snd ?_ ?_
          · with_reducible apply h3wRecord_kept
            exact hK
          · with_reducible apply hsxRecord_kept
            exact hK
        extract_lets +onlyGivenNames x13
        clear_value x13
        refine Kept.ite ?_ ?_
        · refine Kept.upd ?_ ..
          exact k12
        · extract_lets +onlyGivenNames x14
          have k15 : Kept z x14 := by
            subst x14
            with_reducible apply putCopy_kept
            exact k12
          clear_value x14
          extract_lets +onlyGivenNames x16
          clear_value x16
          refine Kept.upd ?_ ..
          exact k15

theorem exportDone_kept (s : State) {z : State} (hK : Kept z s) :
    Kept z (exportDone s) := by
  unfold exportDone
  extract_lets +onlyGivenNames x1
  have k2 : Kept z x1 := by
    subst x1
    refine Kept.foldl ?_ ?_
    · exact hK
    · intro v3 v4 k5
      with_reducible apply expNext_kept
      exact k5
  clear_value x1
  refine Kept.ite ?_ ?_
  · refine Kept.upd ?_ ..
    exact k2
  · exact k2

theorem waitEnd_kept (s : State) (i : Nat) {z : State} (hK : Kept z s) :
    Kept z (waitEnd s i) := by
  unfold waitEnd
  extract_lets +onlyGivenNames x1
  have k2 : ∀ y0_0 y0_1 y0_2, (∀ y1_0, (Kept z y1_0) → Kept z (y0_0 y1_0)) → (Kept z y0_2) → Kept z (x1 y0_0 y0_1 y0_2) := by
    subst x1
    intro v3 v4 v5 v6 k7
    beta_reduce
    refine Kept.foldl ?_ ?_
    · exact k7
    · intro v8 v9 k10
      refine Kept.ite ?_ ?_
      · with_reducible apply_assumption
        exact k10
      · exact k10
  clear_value x1
  extract_lets +onlyGivenNames x11
  have k12 : Kept z x11 := by
    subst x11
    with_reducible apply_assumption
    · intro v13 k14
      with_reducible apply ckptNext_kept
      exact k14
    · exact hK
  clear_value x11
  extract_lets +onlyGivenNames x15
  have k16 : Kept z x15 := by
    subst x15
    with_reducible apply_assumption
    · intro v17 k18
      with_reducible apply expNext_kept
      exact k18
    · exact k12
  clear_value x15
  with_reducible apply ckptWaitEnd_kept
  exact k16

theorem replayOpen_kept (s : State) (i : Nat) (u : FwUnit) {z : State} (hK : Kept z s) :
    Kept z (replayOpen s i u) := by
  unfold replayOpen
  refine Kept.ite ?_ ?_
  · exact hK
  · refine Kept.ite ?_ ?_
    · extract_lets +onlyGivenNames x1
      have k2 : Kept z x1 := by
        subst x1
        with_reducible apply unitMod_kept
        exact hK
      clear_value x1
      refine Kept.upd ?_ ..
      exact k2
    · extract_lets +onlyGivenNames x3
      clear_value x3
      extract_lets +onlyGivenNames x4
      have k5 : Kept z x4 := by
        subst x4
        with_reducible apply runUpdate_kept
        with_reducible apply unitMod_kept
        exact hK
      clear_value x4
      extract_lets +onlyGivenNames x6
      clear_value x6
      extract_lets +onlyGivenNames x7
      have k8 : Kept z x7 := by
        subst x7
        refine Kept.ite ?_ ?_
        · with_reducible apply refreshEntry_kept
          refine Kept.upd ?_ ..
          exact k5
        · exact k5
      clear_value x7
      refine Kept.ite ?_ ?_
      · with_reducible apply phase2_kept
        exact k8
      · exact k8

theorem committedView_kept (s : State) (i : Nat) {z : State} (hK : Kept z s) :
    Kept z (committedView s i) := by
  unfold committedView
  refine Kept.upd ?_ ..
  exact hK

theorem replayCommitted_kept (s : State) (i : Nat) {z : State} (hK : Kept z s) :
    Kept z (replayCommitted s i) := by
  unfold replayCommitted
  extract_lets +onlyGivenNames x1
  have k2 : Kept z x1 := by
    subst x1
    with_reducible apply committedView_kept
    exact hK
  clear_value x1
  extract_lets +onlyGivenNames x3
  clear_value x3
  refine Kept.ite ?_ ?_
  · exact hK
  · refine Kept.ite ?_ ?_
    · refine Kept.upd ?_ ..
      exact hK
    · extract_lets +onlyGivenNames x4
      have k5 : Kept z x4 := by
        subst x4
        with_reducible apply runUpdate_kept
        exact k2
      clear_value x4
      extract_lets +onlyGivenNames x6
      have k7 : Kept z x6 := by
        subst x6
        refine Kept.ite ?_ ?_
        · with_reducible apply refreshEntry_kept
          exact k5
        · exact k5
      clear_value x6
      extract_lets +onlyGivenNames x8
      clear_value x8
      extract_lets +onlyGivenNames x9
      have k10 : Kept z x9 := by
        subst x9
        refine Kept.ite ?_ ?_
        · with_reducible apply lambPhase2_kept
          exact k7
        · exact k7
      clear_value x9
      extract_lets +onlyGivenNames x11
      clear_value x11
      with_reducible apply republish_kept
      refine Kept.upd ?_ ..
      exact k10

theorem replay_kept (s : State) (i : Nat) {z : State} (hK : Kept z s) :
    Kept z (replay s i) := by
  unfold replay
  split
  · rename_i v1 v2 e3
    refine Kept.ite ?_ ?_
    · with_reducible apply replayOpen_kept
      exact hK
    · refine Kept.ite ?_ ?_
      · with_reducible apply replayCommitted_kept
        exact hK
      · exact hK
  · rename_i v4 e5
    refine Kept.ite ?_ ?_
    · with_reducible apply replayCommitted_kept
      exact hK
    · exact hK

theorem digestBoth_kept (a : Marked) (b : Marked × State) {z : State} (hK : Kept z b.2) : Kept z (digestBoth a b).2 := hK

theorem digestSlot_kept (t : TEnt) (p : Nat) (a : Marked × State) {z : State} (hK : Kept z a.2) :
    Kept z (digestSlot t p a).2 := by
  rw [digestSlot]
  exact digestBoth_kept _ _ (readMarked_kept _ _ _ hK)

theorem shardDigest_kept (s : State) (i : Nat) {z : State} (hK : Kept z s) : Kept z (shardDigest s i).2 := by
  rw [shardDigest]
  exact digestSlot_kept _ _ _ (readMarked_kept _ _ _ hK)

theorem setOwnDigest_kept (s : State) (i d : Nat) {z : State} (hK : Kept z s) :
    Kept z (setOwnDigest s i d) := by
  unfold setOwnDigest
  refine Kept.upd ?_ ..
  exact hK

theorem sendDigest_kept (s : State) (i d round : Nat) {z : State} (hK : Kept z s) :
    Kept z (sendDigest s i d round) := by
  unfold sendDigest
  extract_lets +onlyGivenNames x1
  clear_value x1
  extract_lets +onlyGivenNames x2
  clear_value x2
  refine Kept.foldl ?_ ?_
  · exact hK
  · intro v3 v4 k5
    with_reducible apply sendTo_kept
    exact k5

theorem digestDone_kept (s : State) (i : Nat) {z : State} (hK : Kept z s) :
    Kept z (digestDone s i) := by
  unfold digestDone
  refine Kept.upd ?_ ..
  exact hK

theorem digestFatal_kept (s : State) (i own : Nat) (peer : Nat × Nat) {z : State} (hK : Kept z s) :
    Kept z (digestFatal s i own peer) := by
  unfold digestFatal
  extract_lets +onlyGivenNames x1
  clear_value x1
  extract_lets +onlyGivenNames x2
  have k3 : Kept z x2 := by
    subst x2
    refine Kept.upd ?_ ..
    exact hK
  clear_value x2
  with_reducible apply markWith_kept
  exact k3

theorem askShard_kept (s : State) (i chip : Nat) {z : State} (hK : Kept z s) :
    Kept z (askShard s i chip) := by
  unfold askShard
  extract_lets +onlyGivenNames x1
  clear_value x1
  extract_lets +onlyGivenNames x2
  clear_value x2
  with_reducible apply sendTo_kept
  exact hK

theorem digestRedo_kept (i v : Nat) (peers : List (Nat × Nat)) (a : Nat × State) {z : State} (hK : Kept z a.2) :
    Kept z (digestRedo i v peers a) :=
  Kept.ite (digestDone_kept _ _ (setOwnDigest_kept _ _ _ hK)) (askShard_kept _ _ _ (setOwnDigest_kept _ _ _ hK))

theorem digestSecond_kept (i : Nat) (a : Nat × State) {z : State} (hK : Kept z a.2) : Kept z (digestSecond i a) :=
  sendDigest_kept _ _ _ _ (Kept.upd (setOwnDigest_kept _ _ _ hK) ..)

theorem digestJudge_kept (s : State) (i : Nat) {z : State} (hK : Kept z s) :
    Kept z (digestJudge s i) := by
  unfold digestJudge
  split
  · rename_i v1 e2
    exact hK
  · rename_i v3 v4 v5 e6
    extract_lets +onlyGivenNames x7
    clear_value x7
    extract_lets +onlyGivenNames x8
    clear_value x8
    refine Kept.ite ?_ ?_
    · exact hK
    · split
      · rename_i v9 e10
        with_reducible apply digestDone_kept
        exact hK
      · rename_i v11 v12 e13
        extract_lets +onlyGivenNames x14
        clear_value x14
        extract_lets +onlyGivenNames x15
        have k16 : Kept z x15 := by
          subst x15
          with_reducible apply event_kept
          with_reducible apply bump_kept
          exact hK
        clear_value x15
        refine Kept.ite ?_ ?_
        · with_reducible apply digestDone_kept
          with_reducible apply digestFatal_kept
          exact k16
        · split
          · rename_i v17 v18 e19
            refine Kept.ite ?_ ?_
            · with_reducible apply digestDone_kept
              exact k16
            · with_reducible apply digestRedo_kept
              with_reducible apply shardDigest_kept
              with_reducible apply replayCommitted_kept
              with_reducible apply gradeMinor_kept
              exact k16
          · rename_i v20 e21
            with_reducible apply digestSecond_kept
            with_reducible apply shardDigest_kept
            with_reducible apply replayCommitted_kept
            exact k16

theorem digestCompute_kept (s : State) {z : State} (hK : Kept z s) :
    Kept z (digestCompute s) := by
  unfold digestCompute
  refine Kept.foldl ?_ ?_
  · exact hK
  · intro v1 v2 k3
    split
    · rename_i v4 v5 v6 e7
      have k8 : Kept z v6 := by
        refine Kept.of_snd e7 ?_
        with_reducible apply shardDigest_kept
        exact k3
      refine Kept.ite ?_ ?_
      · extract_lets +onlyGivenNames x9
        have k10 : Kept z x9 := by
          subst x9
          with_reducible apply setOwnDigest_kept
          exact k8
        clear_value x9
        extract_lets +onlyGivenNames x11
        clear_value x11
        refine Kept.ite ?_ ?_
        · with_reducible apply digestDone_kept
          exact k10
        · exact k10
      · with_reducible apply digestJudge_kept
        with_reducible apply sendDigest_kept
        with_reducible apply setOwnDigest_kept
        exact k8

theorem startDigests_kept (s : State) (st : Nat) {z : State} (hK : Kept z s) :
    Kept z (startDigests s st) := by
  unfold startDigests
  extract_lets +onlyGivenNames x1
  clear_value x1
  refine Kept.ite ?_ ?_
  · exact hK
  · refine Kept.upd ?_ ..
    exact hK

theorem takeDigest_kept (s : State) (m : Msg) (i : Nat) {z : State} (hK : Kept z s) :
    Kept z (takeDigest s m i) := by
  unfold takeDigest
  extract_lets +onlyGivenNames x1
  clear_value x1
  extract_lets +onlyGivenNames x2
  clear_value x2
  extract_lets +onlyGivenNames x3
  have k4 : Kept z x3 := by
    subst x3
    refine Kept.upd ?_ ..
    exact hK
  clear_value x3
  extract_lets +onlyGivenNames x5
  have k6 : Kept z x5 := by
    subst x5
    with_reducible apply digestJudge_kept
    exact k4
  clear_value x5
  refine Kept.ite ?_ ?_
  · with_reducible apply digestJudge_kept
    exact k6
  · exact k6

theorem recopy_kept (s : State) (m : Msg) {z : State} (hK : Kept z s) :
    Kept z (recopy s m) := by
  unfold recopy
  extract_lets +onlyGivenNames x1
  clear_value x1
  extract_lets +onlyGivenNames x2
  clear_value x2
  extract_lets +onlyGivenNames x3
  clear_value x3
  refine Kept.ite ?_ ?_
  · refine Kept.ite ?_ ?_
    · with_reducible apply putCopy_kept
      exact hK
    · extract_lets +onlyGivenNames x4
      clear_value x4
      split
      · rename_i v5 v6 v7 e8
        have k9 : Kept z v7 := by
          refine Kept.of_snd e8 ?_
          with_reducible apply hsxRecord_kept
          exact hK
        with_reducible apply putCopy_kept
        exact k9
  · refine Kept.ite ?_ ?_
    · extract_lets +onlyGivenNames x10
      clear_value x10
      split
      · rename_i v11 v12 v13 e14
        have k15 : Kept z v13 := by
          refine Kept.of_snd e14 ?_
          refine Kept.ite_snd ?_ ?_
          · with_reducible apply h3wRecord_kept
            exact hK
          · with_reducible apply hsxRecord_kept
            exact hK
        with_reducible apply putCopy_kept
        exact k15
    · refine Kept.ite ?_ ?_
      · extract_lets +onlyGivenNames x16
        clear_value x16
        extract_lets +onlyGivenNames x17
        clear_value x17
        split
        · rename_i v18 v19 v20 e21
          have k22 : Kept z v20 := by
            refine Kept.of_snd e21 ?_
            refine Kept.ite_snd ?_ ?_
            · with_reducible apply readMarked_kept
              exact hK
            · with_reducible apply readMarked_kept
              exact hK
          with_reducible apply putCopy_kept
          exact k22
      · exact hK

theorem putRead_kept (dest aux step : Nat) (a : Marked × State) {z : State} (hK : Kept z a.2) :
    Kept z (putRead dest aux step a) := putCopy_kept _ _ _ _ _ hK

theorem sendShard_kept (s : State) (m : Msg) {z : State} (hK : Kept z s) :
    Kept z (sendShard s m) := by
  unfold sendShard
  split
  · rename_i v1 e2
    exact hK
  · rename_i v3 v4 e5
    extract_lets +onlyGivenNames x6
    clear_value x6
    extract_lets +onlyGivenNames x7
    clear_value x7
    extract_lets +onlyGivenNames x8
    clear_value x8
    extract_lets +onlyGivenNames x9
    clear_value x9
    extract_lets +onlyGivenNames x10
    clear_value x10
    extract_lets +onlyGivenNames x11
    have k12 : Kept z x11 := by
      subst x11
      with_reducible apply putRead_kept
      with_reducible apply readMarked_kept
      exact hK
    clear_value x11
    with_reducible apply putRead_kept
    with_reducible apply readMarked_kept
    exact k12

theorem takeResend_kept (s : State) (m : Msg) {z : State} (hK : Kept z s) :
    Kept z (takeResend s m) := by
  unfold takeResend
  split
  · rename_i v1 e2
    refine Kept.ite ?_ ?_
    · with_reducible apply republish_kept
      exact hK
    · exact hK
  · rename_i v3 e4
    with_reducible apply recopy_kept
    exact hK
  · rename_i v5 e6
    refine Kept.ite ?_ ?_
    · with_reducible apply sendShard_kept
      exact hK
    · exact hK
  · rename_i v7 e8 e9 e10
    with_reducible apply_assumption

theorem execCkptWaitEnd_kept (entry : Nat) (s : State) {z : State} (hK : Kept z s) :
    KeptOut z (execCkptWaitEnd entry s) := by
  unfold execCkptWaitEnd
  refine KeptOut.next ?_
  with_reducible apply waitEnd_kept
  exact hK

theorem execCheckpointDone_kept (s : State) {z : State} (hK : Kept z s) :
    KeptOut z (execCheckpointDone s) := by
  unfold execCheckpointDone
  refine KeptOut.next ?_
  with_reducible apply checkpointDone_kept
  exact hK

theorem execExportStart_kept (s : State) {z : State} (hK : Kept z s) :
    KeptOut z (execExportStart s) := by
  unfold execExportStart
  refine KeptOut.next ?_
  with_reducible apply exportStart_kept
  exact hK

theorem execExportDone_kept (s : State) {z : State} (hK : Kept z s) :
    KeptOut z (execExportDone s) := by
  unfold execExportDone
  refine KeptOut.next ?_
  with_reducible apply exportDone_kept
  exact hK

theorem execDigestCompute_kept (s : State) {z : State} (hK : Kept z s) :
    KeptOut z (execDigestCompute s) := by
  unfold execDigestCompute
  refine KeptOut.next ?_
  with_reducible apply digestCompute_kept
  exact hK

theorem execReplay_kept (entry : Nat) (s : State) {z : State} (hK : Kept z s) :
    KeptOut z (execReplay entry s) := by
  unfold execReplay
  refine KeptOut.next ?_
  with_reducible apply replay_kept
  exact hK

theorem execMsgDigest_kept (m : Msg) (s : State) {z : State} (hK : Kept z s) :
    KeptOut z (execMsgDigest m s) := by
  unfold execMsgDigest
  refine KeptOut.next ?_
  refine Kept.ite ?_ ?_
  · exact hK
  · with_reducible apply withRole_kept
    · exact hK
    · intro v1 v2 k3
      with_reducible apply takeDigest_kept
      exact k3

theorem execMsgResend_kept (m : Msg) (s : State) {z : State} (hK : Kept z s) :
    KeptOut z (execMsgResend m s) := by
  unfold execMsgResend
  refine KeptOut.next ?_
  with_reducible apply withAny_kept
  · exact hK
  · intro v1 k2
    with_reducible apply takeResend_kept
    exact k2

end Sys2Proof.Machine
end

