-- ==== Sys2Proof/Laws/State.lean ====
section
/-!
SUPPORT. Each field of State after each of the small updates: unchanged, but for the one the update writes.
-/
namespace Sys2Proof.Machine

@[simp] theorem regSet_chip (s : State) (off v : Nat) : (regSet s off v).chip = s.chip := rfl
@[simp] theorem regSet_nor (s : State) (off v : Nat) : (regSet s off v).nor = s.nor := rfl
@[simp] theorem regSet_boot (s : State) (off v : Nat) : (regSet s off v).boot = s.boot := rfl
@[simp] theorem regSet_time (s : State) (off v : Nat) : (regSet s off v).time = s.time := rfl
@[simp] theorem regSet_clk (s : State) (off v : Nat) : (regSet s off v).clk = s.clk := rfl
@[simp] theorem regSet_mem (s : State) (off v : Nat) : (regSet s off v).mem = s.mem := rfl
@[simp] theorem regSet_hop (s : State) (off v : Nat) : (regSet s off v).hop = s.hop := rfl
@[simp] theorem regSet_port (s : State) (off v : Nat) : (regSet s off v).port = s.port := rfl
@[simp] theorem regSet_qn (s : State) (off v : Nat) : (regSet s off v).qn = s.qn := rfl
@[simp] theorem regSet_step (s : State) (off v : Nat) : (regSet s off v).step = s.step := rfl
@[simp] theorem regSet_work (s : State) (off v : Nat) : (regSet s off v).work = s.work := rfl
@[simp] theorem regSet_root (s : State) (off v : Nat) : (regSet s off v).root = s.root := rfl
@[simp] theorem regSet_pub (s : State) (off v : Nat) : (regSet s off v).pub = s.pub := rfl
@[simp] theorem regSet_copy (s : State) (off v : Nat) : (regSet s off v).copy = s.copy := rfl
@[simp] theorem regSet_leat (s : State) (off v : Nat) : (regSet s off v).leat = s.leat := rfl
@[simp] theorem regSet_sl (s : State) (off v : Nat) : (regSet s off v).sl = s.sl := rfl
@[simp] theorem regSet_bol (s : State) (off v : Nat) : (regSet s off v).bol = s.bol := rfl
@[simp] theorem regSet_gl (s : State) (off v : Nat) : (regSet s off v).gl = s.gl := rfl
@[simp] theorem regSet_fh (s : State) (off v : Nat) : (regSet s off v).fh = s.fh := rfl
@[simp] theorem regSet_gov (s : State) (off v : Nat) : (regSet s off v).gov = s.gov := rfl
@[simp] theorem regSet_free (s : State) (off v : Nat) : (regSet s off v).free = s.free := rfl
@[simp] theorem regSet_pending (s : State) (off v : Nat) : (regSet s off v).pending = s.pending := rfl

@[simp] theorem bump_chip (s : State) (off : Nat) : (bump s off).chip = s.chip := rfl
@[simp] theorem bump_nor (s : State) (off : Nat) : (bump s off).nor = s.nor := rfl
@[simp] theorem bump_boot (s : State) (off : Nat) : (bump s off).boot = s.boot := rfl
@[simp] theorem bump_time (s : State) (off : Nat) : (bump s off).time = s.time := rfl
@[simp] theorem bump_clk (s : State) (off : Nat) : (bump s off).clk = s.clk := rfl
@[simp] theorem bump_mem (s : State) (off : Nat) : (bump s off).mem = s.mem := rfl
@[simp] theorem bump_hop (s : State) (off : Nat) : (bump s off).hop = s.hop := rfl
@[simp] theorem bump_port (s : State) (off : Nat) : (bump s off).port = s.port := rfl
@[simp] theorem bump_qn (s : State) (off : Nat) : (bump s off).qn = s.qn := rfl
@[simp] theorem bump_step (s : State) (off : Nat) : (bump s off).step = s.step := rfl
@[simp] theorem bump_work (s : State) (off : Nat) : (bump s off).work = s.work := rfl
@[simp] theorem bump_root (s : State) (off : Nat) : (bump s off).root = s.root := rfl
@[simp] theorem bump_pub (s : State) (off : Nat) : (bump s off).pub = s.pub := rfl
@[simp] theorem bump_copy (s : State) (off : Nat) : (bump s off).copy = s.copy := rfl
@[simp] theorem bump_leat (s : State) (off : Nat) : (bump s off).leat = s.leat := rfl
@[simp] theorem bump_sl (s : State) (off : Nat) : (bump s off).sl = s.sl := rfl
@[simp] theorem bump_bol (s : State) (off : Nat) : (bump s off).bol = s.bol := rfl
@[simp] theorem bump_gl (s : State) (off : Nat) : (bump s off).gl = s.gl := rfl
@[simp] theorem bump_fh (s : State) (off : Nat) : (bump s off).fh = s.fh := rfl
@[simp] theorem bump_gov (s : State) (off : Nat) : (bump s off).gov = s.gov := rfl
@[simp] theorem bump_free (s : State) (off : Nat) : (bump s off).free = s.free := rfl
@[simp] theorem bump_pending (s : State) (off : Nat) : (bump s off).pending = s.pending := rfl

@[simp] theorem qnMod_chip (s : State) (q : Nat) (f : Quern → Quern) : (qnMod s q f).chip = s.chip := rfl
@[simp] theorem qnMod_nor (s : State) (q : Nat) (f : Quern → Quern) : (qnMod s q f).nor = s.nor := rfl
@[simp] theorem qnMod_boot (s : State) (q : Nat) (f : Quern → Quern) : (qnMod s q f).boot = s.boot := rfl
@[simp] theorem qnMod_time (s : State) (q : Nat) (f : Quern → Quern) : (qnMod s q f).time = s.time := rfl
@[simp] theorem qnMod_clk (s : State) (q : Nat) (f : Quern → Quern) : (qnMod s q f).clk = s.clk := rfl
@[simp] theorem qnMod_regs (s : State) (q : Nat) (f : Quern → Quern) : (qnMod s q f).regs = s.regs := rfl
@[simp] theorem qnMod_mem (s : State) (q : Nat) (f : Quern → Quern) : (qnMod s q f).mem = s.mem := rfl
@[simp] theorem qnMod_hop (s : State) (q : Nat) (f : Quern → Quern) : (qnMod s q f).hop = s.hop := rfl
@[simp] theorem qnMod_port (s : State) (q : Nat) (f : Quern → Quern) : (qnMod s q f).port = s.port := rfl
@[simp] theorem qnMod_step (s : State) (q : Nat) (f : Quern → Quern) : (qnMod s q f).step = s.step := rfl
@[simp] theorem qnMod_work (s : State) (q : Nat) (f : Quern → Quern) : (qnMod s q f).work = s.work := rfl
@[simp] theorem qnMod_root (s : State) (q : Nat) (f : Quern → Quern) : (qnMod s q f).root = s.root := rfl
@[simp] theorem qnMod_pub (s : State) (q : Nat) (f : Quern → Quern) : (qnMod s q f).pub = s.pub := rfl
@[simp] theorem qnMod_copy (s : State) (q : Nat) (f : Quern → Quern) : (qnMod s q f).copy = s.copy := rfl
@[simp] theorem qnMod_leat (s : State) (q : Nat) (f : Quern → Quern) : (qnMod s q f).leat = s.leat := rfl
@[simp] theorem qnMod_sl (s : State) (q : Nat) (f : Quern → Quern) : (qnMod s q f).sl = s.sl := rfl
@[simp] theorem qnMod_bol (s : State) (q : Nat) (f : Quern → Quern) : (qnMod s q f).bol = s.bol := rfl
@[simp] theorem qnMod_gl (s : State) (q : Nat) (f : Quern → Quern) : (qnMod s q f).gl = s.gl := rfl
@[simp] theorem qnMod_fh (s : State) (q : Nat) (f : Quern → Quern) : (qnMod s q f).fh = s.fh := rfl
@[simp] theorem qnMod_gov (s : State) (q : Nat) (f : Quern → Quern) : (qnMod s q f).gov = s.gov := rfl
@[simp] theorem qnMod_free (s : State) (q : Nat) (f : Quern → Quern) : (qnMod s q f).free = s.free := rfl
@[simp] theorem qnMod_pending (s : State) (q : Nat) (f : Quern → Quern) : (qnMod s q f).pending = s.pending := rfl

@[simp] theorem ctxMod_chip (s : State) (q : Nat) (f : QCtx → QCtx) : (ctxMod s q f).chip = s.chip := rfl
@[simp] theorem ctxMod_nor (s : State) (q : Nat) (f : QCtx → QCtx) : (ctxMod s q f).nor = s.nor := rfl
@[simp] theorem ctxMod_boot (s : State) (q : Nat) (f : QCtx → QCtx) : (ctxMod s q f).boot = s.boot := rfl
@[simp] theorem ctxMod_time (s : State) (q : Nat) (f : QCtx → QCtx) : (ctxMod s q f).time = s.time := rfl
@[simp] theorem ctxMod_clk (s : State) (q : Nat) (f : QCtx → QCtx) : (ctxMod s q f).clk = s.clk := rfl
@[simp] theorem ctxMod_regs (s : State) (q : Nat) (f : QCtx → QCtx) : (ctxMod s q f).regs = s.regs := rfl
@[simp] theorem ctxMod_mem (s : State) (q : Nat) (f : QCtx → QCtx) : (ctxMod s q f).mem = s.mem := rfl
@[simp] theorem ctxMod_hop (s : State) (q : Nat) (f : QCtx → QCtx) : (ctxMod s q f).hop = s.hop := rfl
@[simp] theorem ctxMod_port (s : State) (q : Nat) (f : QCtx → QCtx) : (ctxMod s q f).port = s.port := rfl
@[simp] theorem ctxMod_step (s : State) (q : Nat) (f : QCtx → QCtx) : (ctxMod s q f).step = s.step := rfl
@[simp] theorem ctxMod_work (s : State) (q : Nat) (f : QCtx → QCtx) : (ctxMod s q f).work = s.work := rfl
@[simp] theorem ctxMod_root (s : State) (q : Nat) (f : QCtx → QCtx) : (ctxMod s q f).root = s.root := rfl
@[simp] theorem ctxMod_pub (s : State) (q : Nat) (f : QCtx → QCtx) : (ctxMod s q f).pub = s.pub := rfl
@[simp] theorem ctxMod_copy (s : State) (q : Nat) (f : QCtx → QCtx) : (ctxMod s q f).copy = s.copy := rfl
@[simp] theorem ctxMod_leat (s : State) (q : Nat) (f : QCtx → QCtx) : (ctxMod s q f).leat = s.leat := rfl
@[simp] theorem ctxMod_sl (s : State) (q : Nat) (f : QCtx → QCtx) : (ctxMod s q f).sl = s.sl := rfl
@[simp] theorem ctxMod_bol (s : State) (q : Nat) (f : QCtx → QCtx) : (ctxMod s q f).bol = s.bol := rfl
@[simp] theorem ctxMod_gl (s : State) (q : Nat) (f : QCtx → QCtx) : (ctxMod s q f).gl = s.gl := rfl
@[simp] theorem ctxMod_fh (s : State) (q : Nat) (f : QCtx → QCtx) : (ctxMod s q f).fh = s.fh := rfl
@[simp] theorem ctxMod_gov (s : State) (q : Nat) (f : QCtx → QCtx) : (ctxMod s q f).gov = s.gov := rfl
@[simp] theorem ctxMod_free (s : State) (q : Nat) (f : QCtx → QCtx) : (ctxMod s q f).free = s.free := rfl
@[simp] theorem ctxMod_pending (s : State) (q : Nat) (f : QCtx → QCtx) : (ctxMod s q f).pending = s.pending := rfl

@[simp] theorem sailMod_chip (s : State) (n : Nat) (f : SailPos → SailPos) : (sailMod s n f).chip = s.chip := rfl
@[simp] theorem sailMod_nor (s : State) (n : Nat) (f : SailPos → SailPos) : (sailMod s n f).nor = s.nor := rfl
@[simp] theorem sailMod_boot (s : State) (n : Nat) (f : SailPos → SailPos) : (sailMod s n f).boot = s.boot := rfl
@[simp] theorem sailMod_time (s : State) (n : Nat) (f : SailPos → SailPos) : (sailMod s n f).time = s.time := rfl
@[simp] theorem sailMod_clk (s : State) (n : Nat) (f : SailPos → SailPos) : (sailMod s n f).clk = s.clk := rfl
@[simp] theorem sailMod_regs (s : State) (n : Nat) (f : SailPos → SailPos) : (sailMod s n f).regs = s.regs := rfl
@[simp] theorem sailMod_mem (s : State) (n : Nat) (f : SailPos → SailPos) : (sailMod s n f).mem = s.mem := rfl
@[simp] theorem sailMod_hop (s : State) (n : Nat) (f : SailPos → SailPos) : (sailMod s n f).hop = s.hop := rfl
@[simp] theorem sailMod_port (s : State) (n : Nat) (f : SailPos → SailPos) : (sailMod s n f).port = s.port := rfl
@[simp] theorem sailMod_step (s : State) (n : Nat) (f : SailPos → SailPos) : (sailMod s n f).step = s.step := rfl
@[simp] theorem sailMod_work (s : State) (n : Nat) (f : SailPos → SailPos) : (sailMod s n f).work = s.work := rfl
@[simp] theorem sailMod_root (s : State) (n : Nat) (f : SailPos → SailPos) : (sailMod s n f).root = s.root := rfl
@[simp] theorem sailMod_pub (s : State) (n : Nat) (f : SailPos → SailPos) : (sailMod s n f).pub = s.pub := rfl
@[simp] theorem sailMod_copy (s : State) (n : Nat) (f : SailPos → SailPos) : (sailMod s n f).copy = s.copy := rfl
@[simp] theorem sailMod_leat (s : State) (n : Nat) (f : SailPos → SailPos) : (sailMod s n f).leat = s.leat := rfl
@[simp] theorem sailMod_sl (s : State) (n : Nat) (f : SailPos → SailPos) : (sailMod s n f).sl = s.sl := rfl
@[simp] theorem sailMod_bol (s : State) (n : Nat) (f : SailPos → SailPos) : (sailMod s n f).bol = s.bol := rfl
@[simp] theorem sailMod_gl (s : State) (n : Nat) (f : SailPos → SailPos) : (sailMod s n f).gl = s.gl := rfl
@[simp] theorem sailMod_fh (s : State) (n : Nat) (f : SailPos → SailPos) : (sailMod s n f).fh = s.fh := rfl
@[simp] theorem sailMod_gov (s : State) (n : Nat) (f : SailPos → SailPos) : (sailMod s n f).gov = s.gov := rfl
@[simp] theorem sailMod_free (s : State) (n : Nat) (f : SailPos → SailPos) : (sailMod s n f).free = s.free := rfl
@[simp] theorem sailMod_pending (s : State) (n : Nat) (f : SailPos → SailPos) : (sailMod s n f).pending = s.pending := rfl

@[simp] theorem clusterMod_chip (s : State) (c : Nat) (f : Cluster → Cluster) : (clusterMod s c f).chip = s.chip := rfl
@[simp] theorem clusterMod_nor (s : State) (c : Nat) (f : Cluster → Cluster) : (clusterMod s c f).nor = s.nor := rfl
@[simp] theorem clusterMod_boot (s : State) (c : Nat) (f : Cluster → Cluster) : (clusterMod s c f).boot = s.boot := rfl
@[simp] theorem clusterMod_time (s : State) (c : Nat) (f : Cluster → Cluster) : (clusterMod s c f).time = s.time := rfl
@[simp] theorem clusterMod_regs (s : State) (c : Nat) (f : Cluster → Cluster) : (clusterMod s c f).regs = s.regs := rfl
@[simp] theorem clusterMod_mem (s : State) (c : Nat) (f : Cluster → Cluster) : (clusterMod s c f).mem = s.mem := rfl
@[simp] theorem clusterMod_hop (s : State) (c : Nat) (f : Cluster → Cluster) : (clusterMod s c f).hop = s.hop := rfl
@[simp] theorem clusterMod_port (s : State) (c : Nat) (f : Cluster → Cluster) : (clusterMod s c f).port = s.port := rfl
@[simp] theorem clusterMod_qn (s : State) (c : Nat) (f : Cluster → Cluster) : (clusterMod s c f).qn = s.qn := rfl
@[simp] theorem clusterMod_step (s : State) (c : Nat) (f : Cluster → Cluster) : (clusterMod s c f).step = s.step := rfl
@[simp] theorem clusterMod_work (s : State) (c : Nat) (f : Cluster → Cluster) : (clusterMod s c f).work = s.work := rfl
@[simp] theorem clusterMod_root (s : State) (c : Nat) (f : Cluster → Cluster) : (clusterMod s c f).root = s.root := rfl
@[simp] theorem clusterMod_pub (s : State) (c : Nat) (f : Cluster → Cluster) : (clusterMod s c f).pub = s.pub := rfl
@[simp] theorem clusterMod_copy (s : State) (c : Nat) (f : Cluster → Cluster) : (clusterMod s c f).copy = s.copy := rfl
@[simp] theorem clusterMod_leat (s : State) (c : Nat) (f : Cluster → Cluster) : (clusterMod s c f).leat = s.leat := rfl
@[simp] theorem clusterMod_sl (s : State) (c : Nat) (f : Cluster → Cluster) : (clusterMod s c f).sl = s.sl := rfl
@[simp] theorem clusterMod_bol (s : State) (c : Nat) (f : Cluster → Cluster) : (clusterMod s c f).bol = s.bol := rfl
@[simp] theorem clusterMod_gl (s : State) (c : Nat) (f : Cluster → Cluster) : (clusterMod s c f).gl = s.gl := rfl
@[simp] theorem clusterMod_fh (s : State) (c : Nat) (f : Cluster → Cluster) : (clusterMod s c f).fh = s.fh := rfl
@[simp] theorem clusterMod_gov (s : State) (c : Nat) (f : Cluster → Cluster) : (clusterMod s c f).gov = s.gov := rfl
@[simp] theorem clusterMod_free (s : State) (c : Nat) (f : Cluster → Cluster) : (clusterMod s c f).free = s.free := rfl
@[simp] theorem clusterMod_pending (s : State) (c : Nat) (f : Cluster → Cluster) : (clusterMod s c f).pending = s.pending := rfl

@[simp] theorem linkMod_chip (s : State) (l : Nat) (f : Link → Link) : (linkMod s l f).chip = s.chip := rfl
@[simp] theorem linkMod_nor (s : State) (l : Nat) (f : Link → Link) : (linkMod s l f).nor = s.nor := rfl
@[simp] theorem linkMod_boot (s : State) (l : Nat) (f : Link → Link) : (linkMod s l f).boot = s.boot := rfl
@[simp] theorem linkMod_time (s : State) (l : Nat) (f : Link → Link) : (linkMod s l f).time = s.time := rfl
@[simp] theorem linkMod_clk (s : State) (l : Nat) (f : Link → Link) : (linkMod s l f).clk = s.clk := rfl
@[simp] theorem linkMod_regs (s : State) (l : Nat) (f : Link → Link) : (linkMod s l f).regs = s.regs := rfl
@[simp] theorem linkMod_mem (s : State) (l : Nat) (f : Link → Link) : (linkMod s l f).mem = s.mem := rfl
@[simp] theorem linkMod_hop (s : State) (l : Nat) (f : Link → Link) : (linkMod s l f).hop = s.hop := rfl
@[simp] theorem linkMod_port (s : State) (l : Nat) (f : Link → Link) : (linkMod s l f).port = s.port := rfl
@[simp] theorem linkMod_qn (s : State) (l : Nat) (f : Link → Link) : (linkMod s l f).qn = s.qn := rfl
@[simp] theorem linkMod_step (s : State) (l : Nat) (f : Link → Link) : (linkMod s l f).step = s.step := rfl
@[simp] theorem linkMod_work (s : State) (l : Nat) (f : Link → Link) : (linkMod s l f).work = s.work := rfl
@[simp] theorem linkMod_root (s : State) (l : Nat) (f : Link → Link) : (linkMod s l f).root = s.root := rfl
@[simp] theorem linkMod_pub (s : State) (l : Nat) (f : Link → Link) : (linkMod s l f).pub = s.pub := rfl
@[simp] theorem linkMod_copy (s : State) (l : Nat) (f : Link → Link) : (linkMod s l f).copy = s.copy := rfl
@[simp] theorem linkMod_leat (s : State) (l : Nat) (f : Link → Link) : (linkMod s l f).leat = s.leat := rfl
@[simp] theorem linkMod_sl (s : State) (l : Nat) (f : Link → Link) : (linkMod s l f).sl = s.sl := rfl
@[simp] theorem linkMod_bol (s : State) (l : Nat) (f : Link → Link) : (linkMod s l f).bol = s.bol := rfl
@[simp] theorem linkMod_fh (s : State) (l : Nat) (f : Link → Link) : (linkMod s l f).fh = s.fh := rfl
@[simp] theorem linkMod_gov (s : State) (l : Nat) (f : Link → Link) : (linkMod s l f).gov = s.gov := rfl
@[simp] theorem linkMod_free (s : State) (l : Nat) (f : Link → Link) : (linkMod s l f).free = s.free := rfl
@[simp] theorem linkMod_pending (s : State) (l : Nat) (f : Link → Link) : (linkMod s l f).pending = s.pending := rfl

@[simp] theorem portMod_chip (s : State) (p : Nat) (f : GPort → GPort) : (portMod s p f).chip = s.chip := rfl
@[simp] theorem portMod_nor (s : State) (p : Nat) (f : GPort → GPort) : (portMod s p f).nor = s.nor := rfl
@[simp] theorem portMod_boot (s : State) (p : Nat) (f : GPort → GPort) : (portMod s p f).boot = s.boot := rfl
@[simp] theorem portMod_time (s : State) (p : Nat) (f : GPort → GPort) : (portMod s p f).time = s.time := rfl
@[simp] theorem portMod_clk (s : State) (p : Nat) (f : GPort → GPort) : (portMod s p f).clk = s.clk := rfl
@[simp] theorem portMod_regs (s : State) (p : Nat) (f : GPort → GPort) : (portMod s p f).regs = s.regs := rfl
@[simp] theorem portMod_mem (s : State) (p : Nat) (f : GPort → GPort) : (portMod s p f).mem = s.mem := rfl
@[simp] theorem portMod_hop (s : State) (p : Nat) (f : GPort → GPort) : (portMod s p f).hop = s.hop := rfl
@[simp] theorem portMod_port (s : State) (p : Nat) (f : GPort → GPort) : (portMod s p f).port = s.port := rfl
@[simp] theorem portMod_qn (s : State) (p : Nat) (f : GPort → GPort) : (portMod s p f).qn = s.qn := rfl
@[simp] theorem portMod_step (s : State) (p : Nat) (f : GPort → GPort) : (portMod s p f).step = s.step := rfl
@[simp] theorem portMod_work (s : State) (p : Nat) (f : GPort → GPort) : (portMod s p f).work = s.work := rfl
@[simp] theorem portMod_root (s : State) (p : Nat) (f : GPort → GPort) : (portMod s p f).root = s.root := rfl
@[simp] theorem portMod_pub (s : State) (p : Nat) (f : GPort → GPort) : (portMod s p f).pub = s.pub := rfl
@[simp] theorem portMod_copy (s : State) (p : Nat) (f : GPort → GPort) : (portMod s p f).copy = s.copy := rfl
@[simp] theorem portMod_leat (s : State) (p : Nat) (f : GPort → GPort) : (portMod s p f).leat = s.leat := rfl
@[simp] theorem portMod_sl (s : State) (p : Nat) (f : GPort → GPort) : (portMod s p f).sl = s.sl := rfl
@[simp] theorem portMod_bol (s : State) (p : Nat) (f : GPort → GPort) : (portMod s p f).bol = s.bol := rfl
@[simp] theorem portMod_fh (s : State) (p : Nat) (f : GPort → GPort) : (portMod s p f).fh = s.fh := rfl
@[simp] theorem portMod_gov (s : State) (p : Nat) (f : GPort → GPort) : (portMod s p f).gov = s.gov := rfl
@[simp] theorem portMod_free (s : State) (p : Nat) (f : GPort → GPort) : (portMod s p f).free = s.free := rfl
@[simp] theorem portMod_pending (s : State) (p : Nat) (f : GPort → GPort) : (portMod s p f).pending = s.pending := rfl

@[simp] theorem leatEngMod_chip (s : State) (e : Nat) (f : Leat → Leat) : (leatEngMod s e f).chip = s.chip := rfl
@[simp] theorem leatEngMod_nor (s : State) (e : Nat) (f : Leat → Leat) : (leatEngMod s e f).nor = s.nor := rfl
@[simp] theorem leatEngMod_boot (s : State) (e : Nat) (f : Leat → Leat) : (leatEngMod s e f).boot = s.boot := rfl
@[simp] theorem leatEngMod_time (s : State) (e : Nat) (f : Leat → Leat) : (leatEngMod s e f).time = s.time := rfl
@[simp] theorem leatEngMod_clk (s : State) (e : Nat) (f : Leat → Leat) : (leatEngMod s e f).clk = s.clk := rfl
@[simp] theorem leatEngMod_regs (s : State) (e : Nat) (f : Leat → Leat) : (leatEngMod s e f).regs = s.regs := rfl
@[simp] theorem leatEngMod_mem (s : State) (e : Nat) (f : Leat → Leat) : (leatEngMod s e f).mem = s.mem := rfl
@[simp] theorem leatEngMod_hop (s : State) (e : Nat) (f : Leat → Leat) : (leatEngMod s e f).hop = s.hop := rfl
@[simp] theorem leatEngMod_port (s : State) (e : Nat) (f : Leat → Leat) : (leatEngMod s e f).port = s.port := rfl
@[simp] theorem leatEngMod_qn (s : State) (e : Nat) (f : Leat → Leat) : (leatEngMod s e f).qn = s.qn := rfl
@[simp] theorem leatEngMod_step (s : State) (e : Nat) (f : Leat → Leat) : (leatEngMod s e f).step = s.step := rfl
@[simp] theorem leatEngMod_work (s : State) (e : Nat) (f : Leat → Leat) : (leatEngMod s e f).work = s.work := rfl
@[simp] theorem leatEngMod_root (s : State) (e : Nat) (f : Leat → Leat) : (leatEngMod s e f).root = s.root := rfl
@[simp] theorem leatEngMod_pub (s : State) (e : Nat) (f : Leat → Leat) : (leatEngMod s e f).pub = s.pub := rfl
@[simp] theorem leatEngMod_copy (s : State) (e : Nat) (f : Leat → Leat) : (leatEngMod s e f).copy = s.copy := rfl
@[simp] theorem leatEngMod_sl (s : State) (e : Nat) (f : Leat → Leat) : (leatEngMod s e f).sl = s.sl := rfl
@[simp] theorem leatEngMod_bol (s : State) (e : Nat) (f : Leat → Leat) : (leatEngMod s e f).bol = s.bol := rfl
@[simp] theorem leatEngMod_gl (s : State) (e : Nat) (f : Leat → Leat) : (leatEngMod s e f).gl = s.gl := rfl
@[simp] theorem leatEngMod_fh (s : State) (e : Nat) (f : Leat → Leat) : (leatEngMod s e f).fh = s.fh := rfl
@[simp] theorem leatEngMod_gov (s : State) (e : Nat) (f : Leat → Leat) : (leatEngMod s e f).gov = s.gov := rfl
@[simp] theorem leatEngMod_free (s : State) (e : Nat) (f : Leat → Leat) : (leatEngMod s e f).free = s.free := rfl
@[simp] theorem leatEngMod_pending (s : State) (e : Nat) (f : Leat → Leat) : (leatEngMod s e f).pending = s.pending := rfl

@[simp] theorem bolMod_chip (s : State) (f : BolterSt → BolterSt) : (bolMod s f).chip = s.chip := rfl
@[simp] theorem bolMod_nor (s : State) (f : BolterSt → BolterSt) : (bolMod s f).nor = s.nor := rfl
@[simp] theorem bolMod_boot (s : State) (f : BolterSt → BolterSt) : (bolMod s f).boot = s.boot := rfl
@[simp] theorem bolMod_time (s : State) (f : BolterSt → BolterSt) : (bolMod s f).time = s.time := rfl
@[simp] theorem bolMod_clk (s : State) (f : BolterSt → BolterSt) : (bolMod s f).clk = s.clk := rfl
@[simp] theorem bolMod_regs (s : State) (f : BolterSt → BolterSt) : (bolMod s f).regs = s.regs := rfl
@[simp] theorem bolMod_mem (s : State) (f : BolterSt → BolterSt) : (bolMod s f).mem = s.mem := rfl
@[simp] theorem bolMod_hop (s : State) (f : BolterSt → BolterSt) : (bolMod s f).hop = s.hop := rfl
@[simp] theorem bolMod_port (s : State) (f : BolterSt → BolterSt) : (bolMod s f).port = s.port := rfl
@[simp] theorem bolMod_qn (s : State) (f : BolterSt → BolterSt) : (bolMod s f).qn = s.qn := rfl
@[simp] theorem bolMod_step (s : State) (f : BolterSt → BolterSt) : (bolMod s f).step = s.step := rfl
@[simp] theorem bolMod_work (s : State) (f : BolterSt → BolterSt) : (bolMod s f).work = s.work := rfl
@[simp] theorem bolMod_root (s : State) (f : BolterSt → BolterSt) : (bolMod s f).root = s.root := rfl
@[simp] theorem bolMod_pub (s : State) (f : BolterSt → BolterSt) : (bolMod s f).pub = s.pub := rfl
@[simp] theorem bolMod_copy (s : State) (f : BolterSt → BolterSt) : (bolMod s f).copy = s.copy := rfl
@[simp] theorem bolMod_leat (s : State) (f : BolterSt → BolterSt) : (bolMod s f).leat = s.leat := rfl
@[simp] theorem bolMod_sl (s : State) (f : BolterSt → BolterSt) : (bolMod s f).sl = s.sl := rfl
@[simp] theorem bolMod_gl (s : State) (f : BolterSt → BolterSt) : (bolMod s f).gl = s.gl := rfl
@[simp] theorem bolMod_fh (s : State) (f : BolterSt → BolterSt) : (bolMod s f).fh = s.fh := rfl
@[simp] theorem bolMod_gov (s : State) (f : BolterSt → BolterSt) : (bolMod s f).gov = s.gov := rfl
@[simp] theorem bolMod_free (s : State) (f : BolterSt → BolterSt) : (bolMod s f).free = s.free := rfl
@[simp] theorem bolMod_pending (s : State) (f : BolterSt → BolterSt) : (bolMod s f).pending = s.pending := rfl

@[simp] theorem unitMod_chip (s : State) (i : Nat) (f : FwUnit → FwUnit) : (unitMod s i f).chip = s.chip := rfl
@[simp] theorem unitMod_nor (s : State) (i : Nat) (f : FwUnit → FwUnit) : (unitMod s i f).nor = s.nor := rfl
@[simp] theorem unitMod_boot (s : State) (i : Nat) (f : FwUnit → FwUnit) : (unitMod s i f).boot = s.boot := rfl
@[simp] theorem unitMod_time (s : State) (i : Nat) (f : FwUnit → FwUnit) : (unitMod s i f).time = s.time := rfl
@[simp] theorem unitMod_clk (s : State) (i : Nat) (f : FwUnit → FwUnit) : (unitMod s i f).clk = s.clk := rfl
@[simp] theorem unitMod_regs (s : State) (i : Nat) (f : FwUnit → FwUnit) : (unitMod s i f).regs = s.regs := rfl
@[simp] theorem unitMod_mem (s : State) (i : Nat) (f : FwUnit → FwUnit) : (unitMod s i f).mem = s.mem := rfl
@[simp] theorem unitMod_hop (s : State) (i : Nat) (f : FwUnit → FwUnit) : (unitMod s i f).hop = s.hop := rfl
@[simp] theorem unitMod_port (s : State) (i : Nat) (f : FwUnit → FwUnit) : (unitMod s i f).port = s.port := rfl
@[simp] theorem unitMod_qn (s : State) (i : Nat) (f : FwUnit → FwUnit) : (unitMod s i f).qn = s.qn := rfl
@[simp] theorem unitMod_step (s : State) (i : Nat) (f : FwUnit → FwUnit) : (unitMod s i f).step = s.step := rfl
@[simp] theorem unitMod_root (s : State) (i : Nat) (f : FwUnit → FwUnit) : (unitMod s i f).root = s.root := rfl
@[simp] theorem unitMod_pub (s : State) (i : Nat) (f : FwUnit → FwUnit) : (unitMod s i f).pub = s.pub := rfl
@[simp] theorem unitMod_copy (s : State) (i : Nat) (f : FwUnit → FwUnit) : (unitMod s i f).copy = s.copy := rfl
@[simp] theorem unitMod_leat (s : State) (i : Nat) (f : FwUnit → FwUnit) : (unitMod s i f).leat = s.leat := rfl
@[simp] theorem unitMod_sl (s : State) (i : Nat) (f : FwUnit → FwUnit) : (unitMod s i f).sl = s.sl := rfl
@[simp] theorem unitMod_bol (s : State) (i : Nat) (f : FwUnit → FwUnit) : (unitMod s i f).bol = s.bol := rfl
@[simp] theorem unitMod_gl (s : State) (i : Nat) (f : FwUnit → FwUnit) : (unitMod s i f).gl = s.gl := rfl
@[simp] theorem unitMod_fh (s : State) (i : Nat) (f : FwUnit → FwUnit) : (unitMod s i f).fh = s.fh := rfl
@[simp] theorem unitMod_gov (s : State) (i : Nat) (f : FwUnit → FwUnit) : (unitMod s i f).gov = s.gov := rfl
@[simp] theorem unitMod_free (s : State) (i : Nat) (f : FwUnit → FwUnit) : (unitMod s i f).free = s.free := rfl
@[simp] theorem unitMod_pending (s : State) (i : Nat) (f : FwUnit → FwUnit) : (unitMod s i f).pending = s.pending := rfl

@[simp] theorem bolMod_bol (s : State) (f : BolterSt → BolterSt) : (bolMod s f).bol = f s.bol := rfl
@[simp] theorem qnMod_sails (s : State) (q : Nat) (f : Quern → Quern) : (qnMod s q f).qn.sails = s.qn.sails := rfl
@[simp] theorem ctxMod_sails (s : State) (q : Nat) (f : QCtx → QCtx) : (ctxMod s q f).qn.sails = s.qn.sails := rfl

end Sys2Proof.Machine
end

