-- ==== Sys2Proof/Laws/Regs.lean ====
section
/-!
SUPPORT. The register file and the Querns read after each update: what a write gives and what it leaves.
-/
namespace Sys2Proof.Machine

/-! ### Registers -/

theorem regSet_wf (s : State) (off v : Nat) (h : regsWf s = true) : regsWf (regSet s off v) = true :=
  mapSet_wf _ _ _ h

/-- A register after a write: the value's low 32 bits where it was written, else as before. -/
theorem regGet_regSet (s : State) (off v j : Nat) :
    regGet (regSet s off v) j = if j = off then v % 2 ^ 32 else regGet s j := by
  have e : regGet (regSet s off v) j
      = (mapGet (regDefault s.chip.variant) (mapSet (regDefault s.chip.variant) s.regs off (BitVec.ofNat 32 v)) j).toNat := rfl
  rw [e, mapGet_mapSet _ s.regs off (BitVec.ofNat 32 v) j]
  by_cases c : j = off
  · simp [c]
  · simp [c, regGet]

/-- Only the register file is written. -/
theorem regSet_only (s : State) (off v : Nat) : regSet s off v = { s with regs := (regSet s off v).regs } := rfl

theorem clearCounters_wf (s : State) (base w n : Nat) (h : regsWf s = true) : regsWf (clearCounters s base w n) = true := by
  induction n with
  | zero => exact h
  | succ n ih =>
    unfold clearCounters
    dsimp only
    split
    · exact regSet_wf _ _ _ ih
    · exact ih

theorem clearCounters_only (s : State) (base w n : Nat) :
    clearCounters s base w n = { s with regs := (clearCounters s base w n).regs } := by
  induction n with
  | zero => rfl
  | succ n ih =>
    unfold clearCounters
    dsimp only
    split
    · rw [regSet_only, ih]
    · exact ih

/-- The counters of a clear register: 0 where the bit is written, else as before. -/
theorem regGet_clearCounters (s : State) (base w n j : Nat) :
    regGet (clearCounters s base w n) j
      = if ∃ k, k < n ∧ bitOf w k = true ∧ j = base + 4 * k then 0 else regGet s j := by
  induction n with
  | zero => simp [clearCounters]
  | succ n ih =>
    unfold clearCounters
    dsimp only
    by_cases b : bitOf w n = true
    · rw [if_pos b, regGet_regSet, ih]
      by_cases c : j = base + 4 * n
      · rw [if_pos c, if_pos ⟨n, by omega, b, c⟩]
        rfl
      · rw [if_neg c]
        congr 1
        apply propext
        constructor
        · rintro ⟨k, hk, x, y⟩
          exact ⟨k, by omega, x, y⟩
        · rintro ⟨k, hk, x, y⟩
          refine ⟨k, ?_, x, y⟩
          have : k ≠ n := by rintro rfl; exact c y
          omega
    · rw [if_neg b, ih]
      congr 1
      apply propext
      constructor
      · rintro ⟨k, hk, x, y⟩
        exact ⟨k, by omega, x, y⟩
      · rintro ⟨k, hk, x, y⟩
        refine ⟨k, ?_, x, y⟩
        have : k ≠ n := by rintro rfl; exact b x
        omega

/-! ### Bits -/

theorem bitOf_eq_testBit (w n : Nat) : bitOf w n = w.testBit n := by
  rw [bitOf, Nat.testBit_eq_decide_div_mod_eq, Nat.shiftRight_eq_div_pow]
  rfl

/-- A bit of the register that was just set reads 1. -/
theorem bitOf_regOr (s : State) (off b : Nat) (h : b < 32) : bitOf (regGet (regOr s off (2 ^ b)) off) b = true := by
  rw [regOr, regGet_regSet, if_pos rfl, bitOf_eq_testBit, Nat.testBit_mod_two_pow, Nat.testBit_or, Nat.testBit_two_pow_self]
  simp [h]

/-! ### The numbers of units -/

theorem shape_of {s : State} (h : shapeWf s = true) : s.qn.q.length = 36 ∧ s.qn.sails.length = 32 ∧
    s.clk.clusters.length = 9 ∧ s.gl.links.length = 96 ∧ s.gl.ports.length = 24 ∧ s.leat.length = 16 := by
  simpa [shapeWf, shapeOf] using h

theorem quern_lt {s : State} {q : Nat} (h : shapeWf s = true) (k : q < 36) : q < s.qn.q.length := by
  rw [(shape_of h).1]
  exact k

theorem cluster_lt {s : State} {c : Nat} (h : shapeWf s = true) (k : c < 9) : c < s.clk.clusters.length := by
  rw [(shape_of h).2.2.1]
  exact k

theorem link_lt {s : State} {l : Nat} (h : shapeWf s = true) (k : l < 96) : l < s.gl.links.length := by
  rw [(shape_of h).2.2.2.1]
  exact k

theorem port_lt {s : State} {p : Nat} (h : shapeWf s = true) (k : p < 24) : p < s.gl.ports.length := by
  rw [(shape_of h).2.2.2.2.1]
  exact k

theorem engine_lt {s : State} {e : Nat} (h : shapeWf s = true) (k : e < 16) : e < s.leat.length := by
  rw [(shape_of h).2.2.2.2.2]
  exact k

/-! ### Querns -/

/-- A Quern that exists in the list, after an update of Quern q. -/
theorem qnAt_qnMod (s : State) (q p : Nat) (f : Quern → Quern) (h : q < s.qn.q.length) :
    qnAt (qnMod s q f) p = if p = q then f (qnAt s q) else qnAt s p := by
  unfold qnAt qnMod modAt
  by_cases c : p = q
  · subst c
    simp [List.getD, h]
  · simp [List.getD, c, Ne.symm c]

theorem qnAt_ctxMod (s : State) (q p : Nat) (f : QCtx → QCtx) (h : q < s.qn.q.length) :
    qnAt (ctxMod s q f) p = if p = q then { qnAt s q with ctx := f (ctxOf s q) } else qnAt s p :=
  qnAt_qnMod s q p _ h

theorem ctxOf_ctxMod (s : State) (q : Nat) (f : QCtx → QCtx) (h : q < s.qn.q.length) :
    ctxOf (ctxMod s q f) q = f (ctxOf s q) := by
  unfold ctxOf
  rw [qnAt_ctxMod _ _ _ _ h, if_pos rfl]
  rfl

/-- A running Quern is one of the list. -/
theorem quernRuns_lt {s : State} {q : Nat} (h : quernRuns s q = true) : q < s.qn.q.length := by
  by_contra c
  have : qnAt s q = Quern.resetTo 0 := by
    unfold qnAt
    rw [List.getD_eq_default _ _ (by omega)]
  unfold quernRuns at h
  rw [this] at h
  revert h
  simp [Quern.resetTo]

end Sys2Proof.Machine
end

