-- ==== Sys2Proof/Laws/Events.lean ====
section
/-!
SUPPORT. What recording an event touches, and lists and clusters after an update of one entry.
-/
namespace Sys2Proof.Machine

/-! ### One entry of a list -/

theorem getD_modAt {α : Type} (l : List α) (n p : Nat) (f : α → α) (d : α) (h : n < l.length) :
    (modAt l n f).getD p d = if p = n then f (l.getD n d) else l.getD p d := by
  unfold modAt
  by_cases c : p = n
  · subst c
    simp [List.getD, h]
  · simp [List.getD, c, Ne.symm c]

theorem clusterAt_clusterMod (s : State) (c p : Nat) (f : Cluster → Cluster) (h : c < s.clk.clusters.length) :
    clusterAt (clusterMod s c f) p = if p = c then f (clusterAt s c) else clusterAt s p :=
  getD_modAt s.clk.clusters c p f Cluster.reset h

/-! ### Events -/

/-- `t` differs from `s` only where an event is recorded: registers, the ring in scratch, the Foreman's Hand and the
model's counter of open values. -/
def EventOnly (s t : State) : Prop :=
  t = { s with regs := t.regs, mem := { s.mem with scratch := t.mem.scratch }, fh := t.fh, free := t.free }

theorem EventOnly.rfl {s : State} : EventOnly s s := Eq.refl s

theorem EventOnly.trans {s t u : State} (a : EventOnly s t) (b : EventOnly t u) : EventOnly s u := by
  unfold EventOnly at *
  rw [b, a]

theorem EventOnly.regs (s : State) (off v : Nat) : EventOnly s (regSet s off v) := Eq.refl _

theorem EventOnly.scratch (s : State) (o : Nat) (bs : List Byte) : EventOnly s (scrWrite s o bs) := by
  unfold scrWrite
  split
  · exact EventOnly.rfl
  · exact Eq.refl _

theorem ringAdd_only (s : State) (e : Ev) : EventOnly s (ringAdd s e) := by
  unfold ringAdd
  extract_lets prod
  split
  · exact EventOnly.regs ..
  · exact (EventOnly.scratch ..).trans (EventOnly.regs ..)

theorem recordEv_only (s : State) (cls u op detail verdict gb ga : Nat) :
    EventOnly s (recordEv s cls u op detail verdict gb ga) := by
  unfold recordEv
  split
  rename_i k s1 e1
  have o : EventOnly s s1 := by
    cases e1
    exact Eq.refl _
  refine o.trans ?_
  extract_lets e s2 s3 s4
  have a : EventOnly s1 s2 := EventOnly.regs ..
  have b : EventOnly s2 s3 := ringAdd_only _ _
  have c : EventOnly s3 s4 := by
    subst s4
    split
    · exact EventOnly.regs ..
    · exact EventOnly.rfl
  have d : EventOnly s4 { s4 with fh := { s4.fh with
      seq := (s4.fh.seq + 1) % 2 ^ 32
      pend := journalAdd s4.fh.writing s4.fh.pend e
      writing := true
      units := putGraded s4.fh.units { gradedOf s4 u with last := cls, bad := true } } } := Eq.refl _
  exact ((a.trans b).trans c).trans d

theorem event_only (s : State) (cls u op detail verdict : Nat) : EventOnly s (event s cls u op detail verdict) :=
  recordEv_only ..

/-- Events of a list of units or clusters, one after the other. -/
theorem EventOnly.foldl {α : Type} (f : State → α → State) (h : ∀ s a, EventOnly s (f s a)) (l : List α) (s : State) :
    EventOnly s (l.foldl f s) := by
  induction l generalizing s with
  | nil => exact EventOnly.rfl
  | cons a l ih => exact (h s a).trans (ih (f s a))

theorem EventOnly.clk {s t : State} (h : EventOnly s t) : t.clk = s.clk := by rw [h]
theorem EventOnly.qn {s t : State} (h : EventOnly s t) : t.qn = s.qn := by rw [h]
theorem EventOnly.gl {s t : State} (h : EventOnly s t) : t.gl = s.gl := by rw [h]
theorem EventOnly.step {s t : State} (h : EventOnly s t) : t.step = s.step := by rw [h]
theorem EventOnly.gov {s t : State} (h : EventOnly s t) : t.gov = s.gov := by rw [h]
theorem EventOnly.sl {s t : State} (h : EventOnly s t) : t.sl = s.sl := by rw [h]
theorem EventOnly.bol {s t : State} (h : EventOnly s t) : t.bol = s.bol := by rw [h]
theorem EventOnly.leat {s t : State} (h : EventOnly s t) : t.leat = s.leat := by rw [h]
theorem EventOnly.time {s t : State} (h : EventOnly s t) : t.time = s.time := by rw [h]

end Sys2Proof.Machine
end

