-- ==== Sys2Proof/Laws/Turn.lean ====
section
/-!
SUPPORT. What each operation of Machine/Turn.lean keeps (`Kept`): the chip, the queue, the Turn and the canonical stores.
-/
namespace Sys2Proof.Machine

theorem setMap_kept (s : State) (n p : Nat) {z : State} (hK : Kept z s) :
    Kept z (setMap s n p) := by
  unfold setMap
  extract_lets +onlyGivenNames x1
  clear_value x1
  with_reducible apply regSet_kept
  exact hK

theorem quernErrorsTurn_kept (s : State) (qs : List Nat) {z : State} (hK : Kept z s) :
    Kept z (quernErrorsTurn s qs) := by
  unfold quernErrorsTurn
  refine Kept.foldl ?_ ?_
  · exact hK
  · intro v1 v2 k3
    refine Kept.ite ?_ ?_
    · with_reducible apply quernFail_kept
      exact k3
    · exact k3

theorem stripQuern_kept (s : State) (q : Nat) {z : State} (hK : Kept z s) :
    Kept z (stripQuern s q) := by
  unfold stripQuern
  extract_lets +onlyGivenNames x1
  have k2 : Kept z x1 := by
    subst x1
    split
    · rename_i v3 v4 e5
      with_reducible apply dropToken_kept
      exact hK
    · rename_i v6 e7
      with_reducible apply_assumption
  clear_value x1
  with_reducible apply qnMod_kept
  exact k2

theorem reuseSave_kept (s : State) (n : Nat) {z : State} (hK : Kept z s) :
    Kept z (reuseSave s n) := by
  unfold reuseSave
  refine Kept.updQn ?_ ..
  exact hK

theorem takeOver_kept (s : State) (q : Nat) {z : State} (hK : Kept z s) :
    Kept z (takeOver s q) := by
  unfold takeOver
  extract_lets +onlyGivenNames x1
  clear_value x1
  split
  · rename_i v2 e3
    refine Kept.ite ?_ ?_
    · exact hK
    · with_reducible apply stripQuern_kept
      exact hK
  · rename_i v4 v5 e6
    extract_lets +onlyGivenNames x7
    have k8 : Kept z x7 := by
      subst x7
      with_reducible apply stripQuern_kept
      exact hK
    clear_value x7
    split
    · rename_i v9 e10
      with_reducible apply setMap_kept
      exact k8
    · rename_i v11 v12 e13
      extract_lets +onlyGivenNames x14
      have k15 : Kept z x14 := by
        subst x14
        with_reducible apply setMap_kept
        exact k8
      clear_value x14
      refine Kept.ite ?_ ?_
      · with_reducible apply qnMod_kept
        with_reducible apply reuseSave_kept
        exact k15
      · extract_lets +onlyGivenNames x16
        have k17 : Kept z x16 := by
          subst x16
          refine Kept.ite ?_ ?_
          · with_reducible apply sailMod_kept
            exact k15
          · exact k15
        clear_value x16
        with_reducible apply qnMod_kept
        exact k17

theorem takeOvers_kept (s : State) {z : State} (hK : Kept z s) :
    Kept z (takeOvers s) := by
  unfold takeOvers
  refine Kept.foldl ?_ ?_
  · exact hK
  · intro v1 v2 k3
    with_reducible apply takeOver_kept
    exact k3

theorem relieve_kept (s : State) (q : Nat) {z : State} (hK : Kept z s) :
    Kept z (relieve s q) := by
  unfold relieve
  extract_lets +onlyGivenNames x1
  clear_value x1
  split
  · rename_i v2 v3 v4 v5 e6 e7
    refine Kept.ite ?_ ?_
    · with_reducible apply qnMod_kept
      with_reducible apply qnMod_kept
      with_reducible apply setMap_kept
      exact hK
    · exact hK
  · rename_i v8 v9 e10
    exact hK

theorem reliefs_kept (s : State) {z : State} (hK : Kept z s) :
    Kept z (reliefs s) := by
  unfold reliefs
  refine Kept.ite ?_ ?_
  · exact hK
  · refine Kept.foldl ?_ ?_
    · exact hK
    · intro v1 v2 k3
      with_reducible apply relieve_kept
      exact k3

theorem endCeilings_kept (s : State) {z : State} (hK : Kept z s) :
    Kept z (endCeilings s) := by
  unfold endCeilings
  extract_lets +onlyGivenNames x1
  clear_value x1
  refine Kept.foldl ?_ ?_
  · exact hK
  · intro v2 v3 k4
    extract_lets +onlyGivenNames x5
    clear_value x5
    extract_lets +onlyGivenNames x6
    clear_value x6
    extract_lets +onlyGivenNames x7
    clear_value x7
    extract_lets +onlyGivenNames x8
    clear_value x8
    extract_lets +onlyGivenNames x9
    clear_value x9
    extract_lets +onlyGivenNames x10
    clear_value x10
    extract_lets +onlyGivenNames x11
    clear_value x11
    with_reducible apply scrWrite_kept
    exact k4

theorem endNorms_kept (s : State) {z : State} (hK : Kept z s) :
    Kept z (endNorms s) := by
  unfold endNorms
  extract_lets +onlyGivenNames x1
  clear_value x1
  refine Kept.foldl ?_ ?_
  · exact hK
  · intro v2 v3 k4
    extract_lets +onlyGivenNames x5
    clear_value x5
    extract_lets +onlyGivenNames x6
    clear_value x6
    refine Kept.ite ?_ ?_
    · exact k4
    · with_reducible apply scrWrite_kept
      exact k4

theorem setStepNext_kept (s : State) (n : Nat) {z : State} (hK : Kept z s) :
    Kept z (setStepNext s n) := by
  unfold setStepNext
  with_reducible apply regSet_kept
  with_reducible apply regSet_kept
  exact hK

theorem startPublication_kept (s : State) {z : State} (hK : Kept z s) :
    Kept z (startPublication s) := by
  unfold startPublication
  extract_lets +onlyGivenNames x1
  clear_value x1
  extract_lets +onlyGivenNames x2
  clear_value x2
  refine Kept.upd ?_ ..
  exact hK

theorem commitDone_kept (s : State) {z : State} (hK : Kept z s) :
    Kept z (commitDone s) := by
  unfold commitDone
  extract_lets +onlyGivenNames x1
  clear_value x1
  split
  · rename_i v2 v3 v4 e5
    extract_lets +onlyGivenNames x6
    have k7 : Kept z x6 := by
      subst x6
      with_reducible apply startPublication_kept
      with_reducible apply endNorms_kept
      with_reducible apply endCeilings_kept
      exact hK
    clear_value x6
    extract_lets +onlyGivenNames x8
    have k9 : Kept z x8 := by
      subst x8
      with_reducible apply setStepNext_kept
      exact k7
    clear_value x8
    extract_lets +onlyGivenNames x10
    clear_value x10
    extract_lets +onlyGivenNames x11
    have k12 : Kept z x11 := by
      subst x11
      refine Kept.upd ?_ ..
      exact k9
    clear_value x11
    extract_lets +onlyGivenNames x13
    have k14 : Kept z x13 := by
      subst x13
      with_reducible apply startDigests_kept
      with_reducible apply startCheckpoint_kept
      exact k12
    clear_value x13
    with_reducible apply pubReady_kept
    refine Kept.upd ?_ ..
    exact k14

theorem abortDone_kept (s : State) {z : State} (hK : Kept z s) :
    Kept z (abortDone s) := by
  unfold abortDone
  extract_lets +onlyGivenNames x1
  clear_value x1
  extract_lets +onlyGivenNames x2
  clear_value x2
  extract_lets +onlyGivenNames x3
  have k4 : Kept z x3 := by
    subst x3
    with_reducible apply endNorms_kept
    with_reducible apply endCeilings_kept
    with_reducible apply abortLayerWords_kept
    exact hK
  clear_value x3
  extract_lets +onlyGivenNames x5
  have k6 : Kept z x5 := by
    subst x5
    with_reducible apply regSet_kept
    exact k4
  clear_value x5
  extract_lets +onlyGivenNames x7
  have k8 : Kept z x7 := by
    subst x7
    with_reducible apply bump_kept
    exact k6
  clear_value x7
  refine Kept.upd ?_ ..
  exact k8

theorem enterGrind_kept (s : State) {z : State} (hK : Kept z s) :
    Kept z (enterGrind s) := by
  unfold enterGrind
  extract_lets +onlyGivenNames x1
  clear_value x1
  extract_lets +onlyGivenNames x2
  clear_value x2
  extract_lets +onlyGivenNames x3
  have k4 : Kept z x3 := by
    subst x3
    refine Kept.upd ?_ ..
    exact hK
  clear_value x3
  extract_lets +onlyGivenNames x5
  have k6 : Kept z x5 := by
    subst x5
    with_reducible apply writeFactors_kept
    exact k4
  clear_value x5
  extract_lets +onlyGivenNames x7
  have k8 : Kept z x7 := by
    subst x7
    refine Kept.foldl ?_ ?_
    · exact k6
    · intro v9 v10 k11
      with_reducible apply ringLayer_kept
      exact k11
  clear_value x7
  extract_lets +onlyGivenNames x12
  clear_value x12
  extract_lets +onlyGivenNames x13
  have k14 : Kept z x13 := by
    subst x13
    refine Kept.upd ?_ ..
    exact k8
  clear_value x13
  with_reducible apply trySlices_kept
  with_reducible apply admitAll_kept
  exact k14

theorem stepTurn_kept (s : State) {z : State} (hK : Kept z s) :
    Kept z (stepTurn s) := by
  unfold stepTurn
  split
  · rename_i v1 v2 e3
    with_reducible apply commitDone_kept
    exact hK
  · rename_i v4 v5 e6
    with_reducible apply abortDone_kept
    exact hK
  · rename_i v7 v8 e9 e10 e11
    with_reducible apply enterGrind_kept
    exact hK
  · rename_i v12 v13 e14 e15 e16
    with_reducible apply sendRecord_kept
    refine Kept.upd ?_ ..
    exact hK
  · rename_i v17 v18 e19 e20 e21
    refine Kept.ite ?_ ?_
    · with_reducible apply irqSet_kept
      refine Kept.upd ?_ ..
      exact hK
    · exact hK
  · rename_i v22 v23 e24 e25 e26
    with_reducible apply irqSet_kept
    refine Kept.upd ?_ ..
    exact hK
  · rename_i v27 v28 e29 e30
    refine Kept.upd ?_ ..
    exact hK
  · rename_i v31 v32 e33 e34 e35 e36 e37 e38 e39
    exact hK

theorem beginSave_kept (s : State) (q area : Nat) {z : State} (hK : Kept z s) :
    Kept z (beginSave s q area) := by
  unfold beginSave
  extract_lets +onlyGivenNames x1
  clear_value x1
  refine Kept.ite ?_ ?_
  · exact hK
  · with_reducible apply qnMod_kept
    exact hK

theorem beginRestore_kept (s : State) (n q : Nat) {z : State} (hK : Kept z s) :
    Kept z (beginRestore s n q) := by
  unfold beginRestore
  extract_lets +onlyGivenNames x1
  clear_value x1
  extract_lets +onlyGivenNames x2
  clear_value x2
  refine Kept.ite ?_ ?_
  · exact hK
  · extract_lets +onlyGivenNames x3
    clear_value x3
    extract_lets +onlyGivenNames x4
    have k5 : Kept z x4 := by
      subst x4
      refine Kept.ite ?_ ?_
      · exact hK
      · with_reducible apply qnMod_kept
        with_reducible apply setMap_kept
        exact hK
    clear_value x4
    with_reducible apply qnMod_kept
    exact k5

theorem enginesTurn_kept (s : State) (i : TurnIn) {z : State} (hK : Kept z s) :
    Kept z (enginesTurn s i) := by
  unfold enginesTurn
  extract_lets +onlyGivenNames x1
  clear_value x1
  extract_lets +onlyGivenNames x2
  clear_value x2
  extract_lets +onlyGivenNames x3
  have k4 : Kept z x3 := by
    subst x3
    refine Kept.updUnits ?_ _ _ _ _ (by simp [modAt, shapeOf]) ..
    exact hK
  clear_value x3
  refine Kept.ite ?_ ?_
  · exact k4
  · extract_lets +onlyGivenNames x5
    have k6 : Kept z x5 := by
      subst x5
      refine Kept.foldl ?_ ?_
      · exact k4
      · intro v7 v8 k9
        with_reducible apply leatRelease_kept
        exact k9
    clear_value x5
    extract_lets +onlyGivenNames x10
    clear_value x10
    extract_lets +onlyGivenNames x11
    have k12 : Kept z x11 := by
      subst x11
      refine Kept.ite ?_ ?_
      · with_reducible apply bolRun_kept
        refine Kept.upd ?_ ..
        exact k6
      · exact k6
    clear_value x11
    refine Kept.ite ?_ ?_
    · refine Kept.upd ?_ ..
      exact k12
    · exact k12

theorem startSequence_kept (s : State) (n q entry : Nat) (refresh replay : Bool) (r : Recipe) {z : State} (hK : Kept z s) :
    Kept z (startSequence s n q entry refresh replay r) := by
  unfold startSequence
  extract_lets +onlyGivenNames x1
  clear_value x1
  extract_lets +onlyGivenNames x2
  clear_value x2
  extract_lets +onlyGivenNames x3
  clear_value x3
  extract_lets +onlyGivenNames x4
  clear_value x4
  extract_lets +onlyGivenNames x5
  clear_value x5
  extract_lets +onlyGivenNames x6
  clear_value x6
  extract_lets +onlyGivenNames x7
  extract_lets +onlyGivenNames x8
  have k9 : Kept z x8 := by
    subst x8
    refine Kept.updQn ?_ ..
    exact hK
  clear_value x8
  extract_lets +onlyGivenNames x10
  have k11 : Kept z x10 := by
    subst x10
    refine Kept.ite ?_ ?_
    · exact k9
    · with_reducible apply unitMod_kept
      exact k9
  clear_value x10
  with_reducible apply qnMod_kept
  exact k11

theorem nextItem_kept (s : State) (q : Nat) (i : Item) (r : Recipe) {z : State} (hK : Kept z s) :
    Kept z (nextItem s q i r) := by
  unfold nextItem
  extract_lets +onlyGivenNames x1
  clear_value x1
  extract_lets +onlyGivenNames x2
  clear_value x2
  extract_lets +onlyGivenNames x3
  clear_value x3
  extract_lets +onlyGivenNames x4
  extract_lets +onlyGivenNames x5
  have k6 : Kept z x5 := by
    subst x5
    refine Kept.updQn ?_ ..
    exact hK
  clear_value x5
  with_reducible apply qnMod_kept
  exact k6

theorem dispatchOne_kept (s : State) (d : Dispatch) {z : State} (hK : Kept z s) :
    Kept z (dispatchOne s d) := by
  unfold dispatchOne
  extract_lets +onlyGivenNames x1
  clear_value x1
  refine Kept.ite ?_ ?_
  · exact hK
  · extract_lets +onlyGivenNames x2
    clear_value x2
    split
    · rename_i v3 v4 e5
      refine Kept.ite ?_ ?_
      · exact hK
      · split
        · rename_i v6 v7 e8
          with_reducible apply nextItem_kept
          exact hK
        · rename_i v9 e10
          exact hK
    · rename_i v11 e12
      extract_lets +onlyGivenNames x13
      clear_value x13
      refine Kept.ite ?_ ?_
      · exact hK
      · extract_lets +onlyGivenNames x14
        clear_value x14
        refine Kept.ite ?_ ?_
        · split
          · rename_i v15 v16 e17
            with_reducible apply startSequence_kept
            exact hK
          · rename_i v18 e19
            exact hK
        · refine Kept.ite ?_ ?_
          · with_reducible apply refreshEntry_kept
            exact hK
          · exact hK

theorem redispatch_kept (s : State) (q : Nat) {z : State} (hK : Kept z s) :
    Kept z (redispatch s q) := by
  unfold redispatch
  extract_lets +onlyGivenNames x1
  clear_value x1
  split
  · rename_i v2 v3 e4
    refine Kept.ite ?_ ?_
    · with_reducible apply qnMod_kept
      exact hK
    · exact hK
  · rename_i v5 e6
    exact hK

theorem readWait_kept (s : State) (q : Nat) {z : State} (hK : Kept z s) :
    Kept z (readWait s q) := by
  unfold readWait
  extract_lets +onlyGivenNames x1
  clear_value x1
  split
  · rename_i v2 v3 v4 v5 e6
    refine Kept.ite ?_ ?_
    · exact hK
    · refine Kept.ite ?_ ?_
      · refine Kept.ite ?_ ?_
        · exact hK
        · with_reducible apply sendVc4_kept
          exact hK
      · extract_lets +onlyGivenNames x7
        clear_value x7
        refine Kept.ite ?_ ?_
        · exact hK
        · split
          · rename_i v8 v9 v10 e11
            have k12 : Kept z v10 := by
              refine Kept.of_snd e11 ?_
              with_reducible apply scratchRead_kept
              exact hK
            refine Kept.ite ?_ ?_
            · with_reducible apply qnMod_kept
              exact k12
            · exact k12
  · rename_i v13 e14
    exact hK

theorem dispatchTurn_kept (s : State) (ds : List Dispatch) {z : State} (hK : Kept z s) :
    Kept z (dispatchTurn s ds) := by
  unfold dispatchTurn
  extract_lets +onlyGivenNames x1
  have k2 : Kept z x1 := by
    subst x1
    refine Kept.foldl ?_ ?_
    · exact hK
    · intro v3 v4 k5
      with_reducible apply redispatch_kept
      exact k5
  clear_value x1
  refine Kept.foldl ?_ ?_
  · refine Kept.foldl ?_ ?_
    · exact k2
    · intro v6 v7 k8
      with_reducible apply dispatchOne_kept
      exact k8
  · intro v9 v10 k11
    with_reducible apply readWait_kept
    exact k11

theorem slotTurn_kept (s : State) {z : State} (hK : Kept z s) : Kept z (slotTurn s) := by
  unfold slotTurn
  extract_lets +onlyGivenNames x1
  clear_value x1
  refine Kept.updTime hK _ ?_ ?_ ..
  · rfl
  · rfl

theorem slowTurn_kept (s : State) {z : State} (hK : Kept z s) :
    Kept z (slowTurn s) := by
  unfold slowTurn
  refine Kept.updUnits ?_ _ _ _ _ (by simp [modAt, shapeOf]) ..
  exact hK

theorem entryRead_kept (r : RangeRd × State) {z : State} (hK : Kept z r.2) : Kept z (entryRead r).2 := hK

theorem readEntry_kept (s : State) (k : Nat) {z : State} (hK : Kept z s) : Kept z (readEntry s k).2 := by
  rw [readEntry]
  exact entryRead_kept _ (rangeRead_kept _ _ _ _ _ _ hK)

theorem ringRead_kept (a : RangeRd × State) {z : State} (hK : Kept z a.2) : Kept z (ringRead a) := by
  unfold ringRead
  refine Kept.ite hK (Kept.ite (bump_kept _ _ (Kept.upd hK ..)) ?_)
  refine skipBad_kept _ _ (Kept.upd ?_ ..)
  exact Kept.foldl_snd (Kept.snd hK) fun p x k => Kept.snd (readEntry_kept _ _ k)

theorem ringTurn_kept (s : State) {z : State} (hK : Kept z s) :
    Kept z (ringTurn s) := by
  unfold ringTurn
  refine Kept.ite ?_ ?_
  · exact hK
  · with_reducible apply ringRead_kept
    with_reducible apply rangeRead_kept
    exact hK

theorem holdTurn_kept (s : State) {z : State} (hK : Kept z s) :
    Kept z (holdTurn s) := by
  unfold holdTurn
  extract_lets +onlyGivenNames x1
  clear_value x1
  refine Kept.ite ?_ ?_
  · with_reducible apply sendOpenRec_kept
    with_reducible apply sampleAll_kept
    exact hK
  · exact hK

theorem waitCounts_kept (s : State) {z : State} (hK : Kept z s) :
    Kept z (waitCounts s) := by
  unfold waitCounts
  extract_lets +onlyGivenNames x1
  have k2 : Kept z x1 := by
    subst x1
    refine Kept.ite ?_ ?_
    · with_reducible apply bump_kept
      exact hK
    · exact hK
  clear_value x1
  refine Kept.ite ?_ ?_
  · with_reducible apply bump_kept
    exact k2
  · exact k2

theorem creditsTurn_kept (s : State) {z : State} (hK : Kept z s) :
    Kept z (creditsTurn s) := by
  unfold creditsTurn
  refine Kept.updUnits ?_ _ _ _ _ (by simp [modAt, shapeOf]) ..
  exact hK

theorem hardwareTurn_kept (s : State) {z : State} (hK : Kept z s) :
    Kept z (hardwareTurn s) := by
  unfold hardwareTurn
  extract_lets +onlyGivenNames x1
  have k2 : Kept z x1 := by
    subst x1
    refine Kept.ite ?_ ?_
    · with_reducible apply scrubTurn_kept
      exact hK
    · exact hK
  clear_value x1
  extract_lets +onlyGivenNames x3
  extract_lets +onlyGivenNames x4
  have k5 : Kept z x4 := by
    subst x4
    refine Kept.updMem ?_ ..
    exact k2
  clear_value x4
  with_reducible apply creditsTurn_kept
  with_reducible apply bolTurn_kept
  with_reducible apply leatTurn_kept
  exact k5

theorem faultTurn_kept (s : State) (i : TurnIn) {z : State} (hK : Kept z s) :
    Kept z (faultTurn s i) := by
  unfold faultTurn
  extract_lets +onlyGivenNames x1
  have k2 : Kept z x1 := by
    subst x1
    with_reducible apply gradeTurn_kept
    with_reducible apply linksTurn_kept
    with_reducible apply quernErrorsTurn_kept
    exact hK
  clear_value x1
  with_reducible apply reliefs_kept
  with_reducible apply takeOvers_kept
  with_reducible apply checksTurn_kept
  with_reducible apply customTurn_kept
  exact k2

theorem modeTurn_kept (s : State) (i : TurnIn) {z : State} (hK : Kept z s) :
    Kept z (modeTurn s i) := by
  unfold modeTurn
  extract_lets +onlyGivenNames x1
  have k2 : Kept z x1 := by
    subst x1
    with_reducible apply powerFailStart_kept
    exact hK
  clear_value x1
  extract_lets +onlyGivenNames x3
  have k4 : Kept z x3 := by
    subst x3
    refine Kept.ite ?_ ?_
    · exact k2
    · with_reducible apply enterSepia_kept
      exact k2
  clear_value x3
  extract_lets +onlyGivenNames x5
  have k6 : Kept z x5 := by
    subst x5
    with_reducible apply stepTurn_kept
    exact k4
  clear_value x5
  with_reducible apply testsTurn_kept
  with_reducible apply voltTurn_kept
  with_reducible apply pointsTurn_kept
  exact k6

theorem saveTurn_kept (s : State) (i : TurnIn) {z : State} (hK : Kept z s) :
    Kept z (saveTurn s i) := by
  unfold saveTurn
  extract_lets +onlyGivenNames x1
  have k2 : Kept z x1 := by
    subst x1
    refine Kept.foldl ?_ ?_
    · exact hK
    · intro v3 v4 k5
      with_reducible apply beginSave_kept
      exact k5
  clear_value x1
  extract_lets +onlyGivenNames x6
  have k7 : Kept z x6 := by
    subst x6
    refine Kept.foldl ?_ ?_
    · exact k2
    · intro v8 v9 k10
      with_reducible apply beginRestore_kept
      exact k10
  clear_value x6
  with_reducible apply enginesTurn_kept
  exact k7

theorem governorTurn_kept (s : State) {z : State} (hK : Kept z s) :
    Kept z (governorTurn s) := by
  unfold governorTurn
  extract_lets +onlyGivenNames x1
  have k2 : Kept z x1 := by
    subst x1
    with_reducible apply waitCounts_kept
    with_reducible apply holdTurn_kept
    with_reducible apply ringTurn_kept
    with_reducible apply slowTurn_kept
    exact hK
  clear_value x1
  extract_lets +onlyGivenNames x3
  clear_value x3
  extract_lets +onlyGivenNames x4
  have k5 : Kept z x4 := by
    subst x4
    refine Kept.ite ?_ ?_
    · refine Kept.upd ?_ ..
      exact k2
    · exact k2
  clear_value x4
  with_reducible apply tempAsk_kept
  exact k5

/-- From the state whose Turn has advanced. -/
theorem turnBoundary_kept (s : State) (i : TurnIn) {z : State}
    (hK : Kept z { s with time := { s.time with turn := (s.time.turn + 1) % 2 ^ 48, cycle := 0 } }) :
    Kept z (turnBoundary s i) := by
  unfold turnBoundary
  extract_lets +onlyGivenNames x1
  extract_lets +onlyGivenNames x2
  have k3 : Kept z x2 := by
    subst x2
    with_reducible apply hardwareTurn_kept
    exact hK
  clear_value x2
  refine Kept.ite ?_ ?_
  · exact k3
  · refine Kept.ite ?_ ?_
    · refine Kept.updTime k3 _ ?_ ?_ ..
      · rfl
      · rfl
    · extract_lets +onlyGivenNames x4
      extract_lets +onlyGivenNames x5
      have k6 : Kept z x5 := by
        subst x5
        refine Kept.updTime k3 _ ?_ ?_ ..
        · rfl
        · rfl
      clear_value x5
      extract_lets +onlyGivenNames x7
      have k8 : Kept z x7 := by
        subst x7
        with_reducible apply saveTurn_kept
        with_reducible apply modeTurn_kept
        with_reducible apply applyDue_kept
        with_reducible apply faultTurn_kept
        exact k6
      clear_value x7
      with_reducible apply governorTurn_kept
      with_reducible apply dispatchTurn_kept
      with_reducible apply slotTurn_kept
      exact k8

theorem ledgerWheel_kept (s : State) {z : State} (hK : Kept z s) :
    Kept z (ledgerWheel s) := by
  unfold ledgerWheel
  split
  · rename_i v1 v2 v3 e4
    refine Kept.ite ?_ ?_
    · exact hK
    · with_reducible apply irqSet_kept
      refine Kept.upd ?_ ..
      exact hK
  · rename_i v5 e6
    exact hK

theorem wheelBoundary_kept (s : State) (i : WheelIn) {z : State} (hK : Kept z s) :
    Kept z (wheelBoundary s i) := by
  unfold wheelBoundary
  refine Kept.ite ?_ ?_
  · exact hK
  · extract_lets +onlyGivenNames x1
    have k2 : Kept z x1 := by
      subst x1
      with_reducible apply tempAsk_kept
      with_reducible apply thermalWheel_kept
      exact hK
    clear_value x1
    extract_lets +onlyGivenNames x3
    have k4 : Kept z x3 := by
      subst x3
      with_reducible apply memWheel_kept
      exact k2
    clear_value x3
    extract_lets +onlyGivenNames x5
    have k6 : Kept z x5 := by
      subst x5
      refine Kept.ite ?_ ?_
      · with_reducible apply sendLinkStatus_kept
        exact k4
      · exact k4
    clear_value x5
    with_reducible apply ledgerWheel_kept
    exact k6

theorem execTurnBoundary_kept (i : TurnIn) (s : State) {z : State}
    (hK : Kept z { s with time := { s.time with turn := (s.time.turn + 1) % 2 ^ 48, cycle := 0 } }) :
    KeptOut z (execTurnBoundary i s) :=
  KeptOut.next (turnBoundary_kept s i hK)

theorem execWheelBoundary_kept (i : WheelIn) (s : State) {z : State} (hK : Kept z s) :
    KeptOut z (execWheelBoundary i s) := by
  unfold execWheelBoundary
  refine KeptOut.next ?_
  with_reducible apply wheelBoundary_kept
  exact hK

end Sys2Proof.Machine
end

