-- ==== Sys2Proof/Laws/Mgmt.lean ====
section
/-!
SUPPORT. What each operation of Machine/Mgmt.lean keeps (`Kept`): the chip, the queue, the Turn and the canonical stores.
-/
namespace Sys2Proof.Machine

/-- From the state whose latches are as the read leaves them. -/
theorem turnNowRead_kept (s : State) (req : Nat) {z : State}
    (hK : Kept z { s with time := { s.time with
      hiLatch := mapSet natZeroAt s.time.hiLatch req (s.time.turn / 2 ^ 32 % 2 ^ 16) } }) : Kept z (turnNowRead s req) := by
  unfold turnNowRead
  with_reducible apply apb_kept
  exact hK

theorem plainWrite_kept (s : State) (f : RegFam) (off v : Nat) {z : State} (hK : Kept z s) :
    Kept z (plainWrite s f off v) := by
  unfold plainWrite
  extract_lets +onlyGivenNames x1
  clear_value x1
  extract_lets +onlyGivenNames x2
  clear_value x2
  with_reducible apply regSet_kept
  exact hK

theorem clearWrite_kept {s : State} {off v : Nat} {z tK : State} (e : clearWrite s off v = some tK) (hK : Kept z s) :
    Kept z tK := by
  refine (?_ : KeptOpt z (clearWrite s off v)) _ e
  unfold clearWrite
  refine KeptOpt.ite ?_ ?_
  · refine KeptOpt.some ?_
    with_reducible apply clearIf_kept
    exact hK
  · refine KeptOpt.ite ?_ ?_
    · refine KeptOpt.some ?_
      with_reducible apply clearCounters_kept
      exact hK
    · refine KeptOpt.ite ?_ ?_
      · refine KeptOpt.some ?_
        with_reducible apply clearCounters_kept
        exact hK
      · refine KeptOpt.ite ?_ ?_
        · refine KeptOpt.some ?_
          with_reducible apply clearCounters_kept
          exact hK
        · refine KeptOpt.ite ?_ ?_
          · refine KeptOpt.some ?_
            with_reducible apply clearCounters_kept
            exact hK
          · refine KeptOpt.ite ?_ ?_
            · refine KeptOpt.some ?_
              with_reducible apply clearCounters_kept
              exact hK
            · refine KeptOpt.ite ?_ ?_
              · refine KeptOpt.some ?_
                with_reducible apply clearCounters_kept
                exact hK
              · refine KeptOpt.ite ?_ ?_
                · extract_lets +onlyGivenNames x1
                  have k2 : Kept z x1 := by
                    subst x1
                    with_reducible apply clearCounters_kept
                    exact hK
                  clear_value x1
                  refine KeptOpt.some ?_
                  refine Kept.ite ?_ ?_
                  · with_reducible apply clearLeatUfb_kept
                    exact k2
                  · exact k2
                · refine KeptOpt.ite ?_ ?_
                  · refine KeptOpt.some ?_
                    with_reducible apply clearCounters_kept
                    exact hK
                  · refine KeptOpt.ite ?_ ?_
                    · refine KeptOpt.some ?_
                      with_reducible apply clearCounters_kept
                      exact hK
                    · refine KeptOpt.ite ?_ ?_
                      · refine KeptOpt.some ?_
                        with_reducible apply clearIf_kept
                        exact hK
                      · refine KeptOpt.ite ?_ ?_
                        · refine KeptOpt.some ?_
                          with_reducible apply clearIf_kept
                          with_reducible apply clearIf_kept
                          with_reducible apply clearCounters_kept
                          exact hK
                        · refine KeptOpt.ite ?_ ?_
                          · refine KeptOpt.some ?_
                            with_reducible apply clearIf_kept
                            with_reducible apply clearIf_kept
                            with_reducible apply clearCounters_kept
                            exact hK
                          · refine KeptOpt.ite ?_ ?_
                            · refine KeptOpt.some ?_
                              with_reducible apply clearIf_kept
                              with_reducible apply clearIf_kept
                              exact hK
                            · exact KeptOpt.none

theorem quernWrite_kept (s : State) (q at_ v : Nat) {z : State} (hK : Kept z s) :
    Kept z (quernWrite s q at_ v) := by
  unfold quernWrite
  split
  · rename_i v1
    refine Kept.ite ?_ ?_
    · with_reducible apply discardQ_kept
      exact hK
    · refine Kept.ite ?_ ?_
      · with_reducible apply resumeQ_kept
        exact hK
      · exact hK
  · rename_i v2
    refine Kept.ite ?_ ?_
    · with_reducible apply qnMod_kept
      exact hK
    · exact hK
  · rename_i v3
    with_reducible apply clearIf_kept
    with_reducible apply clearIf_kept
    with_reducible apply clearIf_kept
    exact hK
  · rename_i v4 e5 e6 e7
    exact hK

theorem lcmdWrite_kept (s : State) (l v : Nat) {z : State} (hK : Kept z s) :
    Kept z (lcmdWrite s l v) := by
  unfold lcmdWrite
  refine Kept.ite ?_ ?_
  · with_reducible apply disableLink_kept
    exact hK
  · extract_lets +onlyGivenNames x1
    have k2 : Kept z x1 := by
      subst x1
      refine Kept.ite ?_ ?_
      · with_reducible apply clearLink_kept
        exact hK
      · exact hK
    clear_value x1
    extract_lets +onlyGivenNames x3
    have k4 : Kept z x3 := by
      subst x3
      refine Kept.ite ?_ ?_
      · with_reducible apply startTraining_kept
        exact k2
      · exact k2
    clear_value x3
    refine Kept.ite ?_ ?_
    · with_reducible apply liveRetrain_kept
      exact k4
    · exact k4

theorem sluiceWrite_kept (s : State) (off v : Nat) {z : State} (hK : Kept z s) :
    Kept z (sluiceWrite s off v) := by
  unfold sluiceWrite
  refine Kept.ite ?_ ?_
  · refine Kept.ite ?_ ?_
    · with_reducible apply slDiscard_kept
      exact hK
    · refine Kept.ite ?_ ?_
      · with_reducible apply slRetry_kept
        exact hK
      · exact hK
  · with_reducible apply slInval_kept
    exact hK

theorem txnWrite_kept (s : State) (req v : Nat) {z : State} (hK : Kept z s) :
    Kept z (txnWrite s req v) := by
  unfold txnWrite
  split
  · rename_i v1 e2
    with_reducible apply txnBegin_kept
    exact hK
  · rename_i v3 e4
    with_reducible apply txnCommit_kept
    exact hK
  · rename_i v5 e6
    with_reducible apply txnRollback_kept
    exact hK
  · rename_i v7 e8 e9 e10
    with_reducible apply apb_kept
    exact hK

theorem sideWrite_kept (s : State) (off v : Nat) {z : State} (hK : Kept z s) :
    Kept z (sideWrite s off v) := by
  unfold sideWrite
  extract_lets +onlyGivenNames x1
  have k2 : ∀ y0_0 y0_1 y0_2, (∀ y1_0, (Kept z y1_0) → Kept z (y0_1 y1_0)) → (Kept z y0_2) → Kept z (x1 y0_0 y0_1 y0_2) := by
    subst x1
    intro v3 v4 v5 v6 k7
    beta_reduce
    refine Kept.ite ?_ ?_
    · with_reducible apply_assumption
      exact k7
    · exact k7
  clear_value x1
  refine Kept.ite ?_ ?_
  · with_reducible apply_assumption
    · intro v8 k9
      with_reducible apply exportStart_kept
      exact k9
    · exact hK
  · refine Kept.ite ?_ ?_
    · with_reducible apply_assumption
      · intro v10 k11
        refine Kept.upd ?_ ..
        exact k11
      · exact hK
    · refine Kept.ite ?_ ?_
      · with_reducible apply_assumption
        · intro v12 k13
          refine Kept.upd ?_ ..
          exact k13
        · exact hK
      · refine Kept.ite ?_ ?_
        · with_reducible apply_assumption
          · intro v14 k15
            refine Kept.upd ?_ ..
            exact k15
          · exact hK
        · refine Kept.ite ?_ ?_
          · with_reducible apply_assumption
            · intro v16 k17
              refine Kept.upd ?_ ..
              exact k17
            · exact hK
          · refine Kept.ite ?_ ?_
            · with_reducible apply trRepub_kept
              exact hK
            · refine Kept.ite ?_ ?_
              · with_reducible apply sluiceWrite_kept
                exact hK
              · refine Kept.ite ?_ ?_
                · with_reducible apply_assumption
                  · intro v18 k19
                    refine Kept.upd ?_ ..
                    exact k19
                  · with_reducible apply_assumption
                    · intro v20 k21
                      refine Kept.upd ?_ ..
                      exact k21
                    · exact hK
                · refine Kept.ite ?_ ?_
                  · with_reducible apply_assumption
                    · intro v22 k23
                      refine Kept.upd ?_ ..
                      exact k23
                    · with_reducible apply_assumption
                      · intro v24 k25
                        refine Kept.upd ?_ ..
                        exact k25
                      · exact hK
                  · refine Kept.ite ?_ ?_
                    · with_reducible apply_assumption
                      · intro v26 k27
                        refine Kept.upd ?_ ..
                        exact k27
                      · exact hK
                    · refine Kept.ite ?_ ?_
                      · with_reducible apply_assumption
                        · intro v28 k29
                          refine Kept.ite ?_ ?_
                          · exact k29
                          · refine Kept.upd ?_ ..
                            exact k29
                        · exact hK
                      · refine Kept.ite ?_ ?_
                        · with_reducible apply_assumption
                          · intro v30 k31
                            refine Kept.upd ?_ ..
                            exact k31
                          · exact hK
                        · refine Kept.ite ?_ ?_
                          · with_reducible apply quernWrite_kept
                            exact hK
                          · refine Kept.ite ?_ ?_
                            · with_reducible apply lcmdWrite_kept
                              exact hK
                            · refine Kept.getD ?_ ?_
                              · exact hK
                              · intro v32 v33
                                have k34 : Kept z v32 := by
                                  refine clearWrite_kept v33 ?_
                                  exact hK
                                exact k34

theorem codedWrite_kept (s : State) (f : RegFam) (req off v : Nat) {z : State} (hK : Kept z s) :
    Kept z (codedWrite s f req off v) := by
  unfold codedWrite
  refine Kept.ite ?_ ?_
  · with_reducible apply txnWrite_kept
    exact hK
  · refine Kept.ite ?_ ?_
    · with_reducible apply stageLoad_kept
      exact hK
    · refine Kept.ite ?_ ?_
      · with_reducible apply txnCancel_kept
        exact hK
      · refine Kept.ite ?_ ?_
        · with_reducible apply gradeSet_kept
          exact hK
        · extract_lets +onlyGivenNames x1
          clear_value x1
          refine Kept.ite ?_ ?_
          · with_reducible apply apb_kept
            with_reducible apply sideWrite_kept
            with_reducible apply plainWrite_kept
            exact hK
          · split
            · rename_i v2 v3 v4 e5
              have k6 : Kept z v4 := by
                refine Kept.of_snd e5 ?_
                with_reducible apply stageWrite_kept
                exact hK
              refine Kept.ite ?_ ?_
              · with_reducible apply apb_kept
                exact k6
              · with_reducible apply apb_kept
                with_reducible apply sideWrite_kept
                with_reducible apply plainWrite_kept
                exact k6

theorem registerWrite_kept (s : State) (req addr v strb : Nat) {z : State} (hK : Kept z s) :
    Kept z (registerWrite s req addr v strb) := by
  unfold registerWrite
  refine Kept.ite ?_ ?_
  · with_reducible apply apb_kept
    exact hK
  · split
    · rename_i v1 e2
      with_reducible apply apb_kept
      exact hK
    · rename_i v3 v4 e5
      refine Kept.ite ?_ ?_
      · with_reducible apply codedWrite_kept
        exact hK
      · with_reducible apply apb_kept
        exact hK

theorem execTurnNowLoRead_kept (req : Nat) (s : State) {z : State}
    (hK : Kept z { s with time := { s.time with
      hiLatch := mapSet natZeroAt s.time.hiLatch req (s.time.turn / 2 ^ 32 % 2 ^ 16) } }) :
    KeptOut z (execTurnNowLoRead req s) := by
  unfold execTurnNowLoRead
  refine KeptOut.next ?_
  with_reducible apply turnNowRead_kept
  exact hK

theorem execRegisterWrite_kept (req addr value strb : Nat) (s : State) {z : State} (hK : Kept z s) :
    KeptOut z (execRegisterWrite req addr value strb s) := by
  unfold execRegisterWrite
  refine KeptOut.next ?_
  with_reducible apply registerWrite_kept
  exact hK

end Sys2Proof.Machine
end

