-- ==== Sys2Proof/Laws/QuernMatrix.lean ====
section
/-!
SUPPORT. What each operation of Machine/QuernMatrix.lean keeps (`Kept`): the chip, the queue, the Turn and the canonical stores.
-/
namespace Sys2Proof.Machine

theorem spillChain_kept (s : State) (ch : Chain) {z : State} (hK : Kept z s) :
    Kept z (spillChain s ch).2.2 := by
  unfold spillChain
  extract_lets +onlyGivenNames x1
  clear_value x1
  split
  · rename_i v2 v3 v4 e5
    have k6 : Kept z v4 := by
      refine Kept.of_snd e5 ?_
      refine Kept.foldl_snd ?_ ?_
      · refine Kept.snd ?_
        exact hK
      · intro v7 v8 k9
        split
        · rename_i v10 v11 v12
          extract_lets +onlyGivenNames x13
          clear_value x13
          split
          · rename_i v14 v15 v16 e17
            refine Kept.snd ?_
            with_reducible apply scrWrite_kept
            exact k9
    refine Kept.snd_snd_mk ?_
    refine Kept.snd ?_
    exact k6

theorem chunkInto_kept (w : Nat) (as bs : Array (List FV)) (s : State) (ch : Chain) (k0 n : Nat) {z : State} (hK : Kept z s) :
    Kept z (chunkInto w as bs s ch k0 n).2.2 := by
  unfold chunkInto
  extract_lets +onlyGivenNames x1
  clear_value x1
  extract_lets +onlyGivenNames x2
  clear_value x2
  extract_lets +onlyGivenNames x3
  clear_value x3
  refine Kept.ite_snd_snd ?_ ?_
  · split
    · rename_i v4 v5 v6 v7 e8
      have k9 : Kept z v7 := by
        refine Kept.of_snd_snd e8 ?_
        with_reducible apply spillChain_kept
        exact hK
      refine Kept.snd_snd_mk ?_
      refine Kept.snd ?_
      exact k9
  · refine Kept.snd_snd_mk ?_
    refine Kept.snd ?_
    exact hK

theorem passInto_kept (w k : Nat) (as bs : Array (List FV)) (s : State) (ch : Chain) {z : State} (hK : Kept z s) :
    Kept z (passInto w k as bs s ch).2.2 := by
  unfold passInto
  refine Kept.foldl_snd_snd ?_ ?_
  · refine Kept.snd_snd_mk ?_
    refine Kept.snd ?_
    exact hK
  · intro v1 v2 k3
    split
    · rename_i v4 v5 v6
      split
      · rename_i v7 v8 v9 v10 e11
        have k12 : Kept z v10 := by
          refine Kept.of_snd_snd e11 ?_
          with_reducible apply chunkInto_kept
          exact k3
        refine Kept.snd_snd_mk ?_
        refine Kept.snd ?_
        exact k12

theorem mmaInto_kept (s : State) (ch : Chain) (a b : Tile) (k : Nat) {z : State} (hK : Kept z s) :
    Kept z (mmaInto s ch a b k).2.2.2 := by
  unfold mmaInto
  split
  · rename_i v1 e2
    split
    · rename_i v3 v4 v5 v6 e7
      refine Kept.snd_snd_snd_mk ?_
      refine Kept.snd_snd_mk ?_
      refine Kept.snd ?_
      exact hK
  · rename_i v8 e9
    split
    · rename_i v10 v11 v12 e13
      split
      · rename_i v14 v15 v16 e17
        extract_lets +onlyGivenNames x18
        clear_value x18
        refine Kept.snd_snd_snd_mk ?_
        refine Kept.snd_snd_mk ?_
        refine Kept.snd ?_
        exact hK
  · rename_i v19 e20
    split
    · rename_i e21
      split
      · rename_i v22 v23 v24 e25
        split
        · rename_i v26 v27 v28 e29
          split
          · rename_i v30 v31 v32 e33
            refine Kept.snd_snd_snd_mk ?_
            refine Kept.snd_snd_mk ?_
            refine Kept.snd ?_
            exact hK
    · rename_i e34
      extract_lets +onlyGivenNames x35
      clear_value x35
      split
      · rename_i v36 v37 v38 e39
        refine Kept.snd_snd_snd_mk ?_
        refine Kept.snd_snd_mk ?_
        refine Kept.snd ?_
        exact hK
  · rename_i v40 v41 e42
    extract_lets +onlyGivenNames x43
    clear_value x43
    split
    · rename_i v44 v45 v46 v47 e48
      have k49 : Kept z v47 := by
        refine Kept.of_snd_snd e48 ?_
        refine Kept.foldl_snd_snd ?_ ?_
        · refine Kept.snd_snd_mk ?_
          refine Kept.snd ?_
          exact hK
        · intro v50 v51 k52
          split
          · rename_i v53 v54 v55 v56 e57
            have k58 : Kept z v56 := by
              refine Kept.of_snd_snd e57 ?_
              with_reducible apply passInto_kept
              exact k52
            refine Kept.snd_snd_mk ?_
            refine Kept.snd ?_
            exact k58
      refine Kept.snd_snd_snd_mk ?_
      refine Kept.snd_snd_mk ?_
      refine Kept.snd ?_
      exact k49
  · rename_i v59 v60 e61
    split
    · rename_i v62 v63 v64 e65
      split
      · rename_i v66 v67 v68 e69
        split
        · rename_i v70 v71 v72 v73 e74
          have k75 : Kept z v73 := by
            refine Kept.of_snd_snd e74 ?_
            with_reducible apply passInto_kept
            exact hK
          refine Kept.snd_snd_snd_mk ?_
          refine Kept.snd_snd_mk ?_
          refine Kept.snd ?_
          exact k75

theorem runMma_kept (s : State) (q op : Nat) (f : QFields) (ch : Chain) (a b : Tile) (k : Nat) (f0 : Flags) {z : State} (hK : Kept z s) :
    Kept z (runMma s q op f ch a b k f0) := by
  unfold runMma
  extract_lets +onlyGivenNames x1
  clear_value x1
  split
  · rename_i v2 v3 v4 v5 v6 e7
    have k8 : Kept z v6 := by
      refine Kept.of_snd_snd_snd e7 ?_
      with_reducible apply mmaInto_kept
      exact hK
    extract_lets +onlyGivenNames x9
    have k10 : Kept z x9 := by
      subst x9
      refine Kept.ite ?_ ?_
      · exact k8
      · with_reducible apply bumpBy_kept
        exact k8
    clear_value x9
    extract_lets +onlyGivenNames x11
    have k12 : Kept z x11 := by
      subst x11
      with_reducible apply ctxMod_kept
      exact k10
    clear_value x11
    with_reducible apply complete_kept
    exact k12

theorem doMcfg_kept (s : State) (q : Nat) (f : QFields) {z : State} (hK : Kept z s) :
    Kept z (doMcfg s q f) := by
  unfold doMcfg
  extract_lets +onlyGivenNames x1
  clear_value x1
  refine Kept.ite ?_ ?_
  · with_reducible apply trapQ_kept
    exact hK
  · with_reducible apply completePlain_kept
    exact hK

theorem doMmaOpen_kept (s : State) (q : Nat) (f : QFields) {z : State} (hK : Kept z s) :
    Kept z (doMmaOpen s q f) := by
  unfold doMmaOpen
  extract_lets +onlyGivenNames x1
  clear_value x1
  extract_lets +onlyGivenNames x2
  clear_value x2
  extract_lets +onlyGivenNames x3
  clear_value x3
  extract_lets +onlyGivenNames x4
  clear_value x4
  split
  · rename_i v5 v6 v7 v8 e9 e10
    split
    · rename_i v11 e12
      with_reducible apply trapQ_kept
      exact hK
    · rename_i v13 v14 e15
      refine Kept.ite ?_ ?_
      · with_reducible apply trapQ_kept
        exact hK
      · split
        · rename_i v16 e17
          with_reducible apply trapQ_kept
          exact hK
        · rename_i v18 v19 v20 e21
          extract_lets +onlyGivenNames x22
          clear_value x22
          extract_lets +onlyGivenNames x23
          have k24 : Kept z x23 := by
            subst x23
            with_reducible apply ctxMod_kept
            exact hK
          clear_value x23
          with_reducible apply runMma_kept
          exact k24
  · rename_i v25 v26 e27
    with_reducible apply trapQ_kept
    exact hK

theorem doMma_kept (s : State) (q : Nat) (f : QFields) {z : State} (hK : Kept z s) :
    Kept z (doMma s q f) := by
  unfold doMma
  extract_lets +onlyGivenNames x1
  clear_value x1
  extract_lets +onlyGivenNames x2
  clear_value x2
  extract_lets +onlyGivenNames x3
  clear_value x3
  split
  · rename_i v4 v5 v6 v7 v8 v9 e10 e11 e12
    refine Kept.ite ?_ ?_
    · with_reducible apply trapQ_kept
      exact hK
    · with_reducible apply runMma_kept
      exact hK
  · rename_i v13 v14 v15 e16
    with_reducible apply trapQ_kept
    exact hK

theorem drainOut_kept (s : State) (q : Nat) (f : QFields) (ch : Chain) {z : State} (hK : Kept z s) :
    Kept z (drainOut s q f ch) := by
  unfold drainOut
  extract_lets +onlyGivenNames x1
  clear_value x1
  extract_lets +onlyGivenNames x2
  clear_value x2
  extract_lets +onlyGivenNames x3
  clear_value x3
  extract_lets +onlyGivenNames x4
  clear_value x4
  extract_lets +onlyGivenNames x5
  clear_value x5
  extract_lets +onlyGivenNames x6
  clear_value x6
  extract_lets +onlyGivenNames x7
  clear_value x7
  extract_lets +onlyGivenNames x8
  clear_value x8
  extract_lets +onlyGivenNames x9
  clear_value x9
  split
  · rename_i v10 v11 v12 e13
    have k14 : Kept z v12 := by
      refine Kept.of_snd e13 ?_
      with_reducible apply tileWords_kept
      exact hK
    extract_lets +onlyGivenNames x15
    clear_value x15
    extract_lets +onlyGivenNames x16
    have k17 : Kept z x16 := by
      subst x16
      with_reducible apply putTile_kept
      exact k14
    clear_value x16
    extract_lets +onlyGivenNames x18
    clear_value x18
    extract_lets +onlyGivenNames x19
    clear_value x19
    extract_lets +onlyGivenNames x20
    clear_value x20
    extract_lets +onlyGivenNames x21
    have k22 : Kept z x21 := by
      subst x21
      refine Kept.foldl ?_ ?_
      · exact k17
      · intro v23 v24 k25
        with_reducible apply storeWrite_kept
        exact k25
    clear_value x21
    extract_lets +onlyGivenNames x26
    have k27 : Kept z x26 := by
      subst x26
      with_reducible apply countUnder_kept
      exact k22
    clear_value x26
    extract_lets +onlyGivenNames x28
    clear_value x28
    extract_lets +onlyGivenNames x29
    have k30 : Kept z x29 := by
      subst x29
      with_reducible apply ctxMod_kept
      exact k27
    clear_value x29
    extract_lets +onlyGivenNames x31
    clear_value x31
    extract_lets +onlyGivenNames x32
    clear_value x32
    with_reducible apply complete_kept
    exact k30

theorem doDrn_kept (s : State) (q : Nat) (f : QFields) {z : State} (hK : Kept z s) :
    Kept z (doDrn s q f) := by
  unfold doDrn
  extract_lets +onlyGivenNames x1
  clear_value x1
  extract_lets +onlyGivenNames x2
  clear_value x2
  extract_lets +onlyGivenNames x3
  clear_value x3
  extract_lets +onlyGivenNames x4
  clear_value x4
  extract_lets +onlyGivenNames x5
  clear_value x5
  split
  · rename_i v6 e7
    with_reducible apply trapQ_kept
    exact hK
  · rename_i v8 v9 e10
    extract_lets +onlyGivenNames x11
    clear_value x11
    extract_lets +onlyGivenNames x12
    clear_value x12
    extract_lets +onlyGivenNames x13
    clear_value x13
    refine Kept.ite ?_ ?_
    · with_reducible apply trapQ_kept
      exact hK
    · with_reducible apply withStore_kept
      · exact hK
      · intro v14 k15
        refine Kept.ite ?_ ?_
        · with_reducible apply trapQ_kept
          exact k15
        · refine Kept.ite ?_ ?_
          · exact k15
          · refine Kept.ite ?_ ?_
            · refine Kept.ite ?_ ?_
              · with_reducible apply completePlain_kept
                exact k15
              · with_reducible apply trapQ_kept
                exact k15
            · with_reducible apply drainOut_kept
              exact k15

theorem execMcfg_kept (q : Nat) (f : QFields) (s : State) {z : State} (hK : Kept z s) :
    KeptOut z (execMcfg q f s) := by
  unfold execMcfg
  refine KeptOut.next ?_
  with_reducible apply issue_kept
  · exact hK
  · intro v1 k2
    with_reducible apply doMcfg_kept
    exact k2

theorem execMmaOpen_kept (q : Nat) (f : QFields) (s : State) {z : State} (hK : Kept z s) :
    KeptOut z (execMmaOpen q f s) := by
  unfold execMmaOpen
  refine KeptOut.next ?_
  with_reducible apply issue_kept
  · exact hK
  · intro v1 k2
    with_reducible apply doMmaOpen_kept
    exact k2

theorem execMma_kept (q : Nat) (f : QFields) (s : State) {z : State} (hK : Kept z s) :
    KeptOut z (execMma q f s) := by
  unfold execMma
  refine KeptOut.next ?_
  with_reducible apply issue_kept
  · exact hK
  · intro v1 k2
    with_reducible apply doMma_kept
    exact k2

theorem execDrn_kept (q : Nat) (f : QFields) (s : State) {z : State} (hK : Kept z s) :
    KeptOut z (execDrn q f s) := by
  unfold execDrn
  refine KeptOut.next ?_
  with_reducible apply issue_kept
  · exact hK
  · intro v1 k2
    with_reducible apply doDrn_kept
    exact k2

end Sys2Proof.Machine
end

