-- ==== Sys2Proof/Laws/QuernVector.lean ====
section
/-!
SUPPORT. What each operation of Machine/QuernVector.lean keeps (`Kept`): the chip, the queue, the Turn and the canonical stores.
-/
namespace Sys2Proof.Machine

theorem lanewise_kept (s : State) (q op : Nat) (f : QFields) (fi fo : Nat) (srcs : List Nat) (fn : List Nat → Nat × Flags) {z : State} (hK : Kept z s) :
    Kept z (lanewise s q op f fi fo srcs fn) := by
  unfold lanewise
  extract_lets +onlyGivenNames x1
  clear_value x1
  extract_lets +onlyGivenNames x2
  clear_value x2
  extract_lets +onlyGivenNames x3
  clear_value x3
  extract_lets +onlyGivenNames x4
  clear_value x4
  extract_lets +onlyGivenNames x5
  clear_value x5
  extract_lets +onlyGivenNames x6
  clear_value x6
  extract_lets +onlyGivenNames x7
  clear_value x7
  with_reducible apply complete_kept
  with_reducible apply ctxMod_kept
  exact hK

theorem vecVal_kept (q op : Nat) (f : QFields) (srcs : List Nat) (fn : List FV → FV × Flags) (s : State) {z : State} (hK : Kept z s) :
    Kept z (vecVal q op f srcs fn s) := by
  unfold vecVal
  with_reducible apply lanewise_kept
  exact hK

theorem vec2_kept (q op : Nat) (f : QFields) (fn : RM → FV → FV → FV × Flags) (s : State) {z : State} (hK : Kept z s) :
    Kept z (vec2 q op f fn s) := by
  unfold vec2
  with_reducible apply vecVal_kept
  exact hK

theorem vec1_kept (q op : Nat) (f : QFields) (fn : RM → FV → FV × Flags) (s : State) {z : State} (hK : Kept z s) :
    Kept z (vec1 q op f fn s) := by
  unfold vec1
  with_reducible apply vecVal_kept
  exact hK

theorem execVadd_kept (q : Nat) (f : QFields) (s : State) {z : State} (hK : Kept z s) :
    KeptOut z (execVadd q f s) := by
  unfold execVadd
  refine KeptOut.next ?_
  with_reducible apply issue_kept
  · exact hK
  · intro v1 k2
    with_reducible apply vec2_kept
    exact k2

theorem execVsub_kept (q : Nat) (f : QFields) (s : State) {z : State} (hK : Kept z s) :
    KeptOut z (execVsub q f s) := by
  unfold execVsub
  refine KeptOut.next ?_
  with_reducible apply issue_kept
  · exact hK
  · intro v1 k2
    with_reducible apply vec2_kept
    exact k2

theorem execVmul_kept (q : Nat) (f : QFields) (s : State) {z : State} (hK : Kept z s) :
    KeptOut z (execVmul q f s) := by
  unfold execVmul
  refine KeptOut.next ?_
  with_reducible apply issue_kept
  · exact hK
  · intro v1 k2
    with_reducible apply vec2_kept
    exact k2

theorem execVfma_kept (q : Nat) (f : QFields) (s : State) {z : State} (hK : Kept z s) :
    KeptOut z (execVfma q f s) := by
  unfold execVfma
  refine KeptOut.next ?_
  with_reducible apply issue_kept
  · exact hK
  · intro v1 k2
    with_reducible apply vecVal_kept
    exact k2

theorem execVdiv_kept (q : Nat) (f : QFields) (s : State) {z : State} (hK : Kept z s) :
    KeptOut z (execVdiv q f s) := by
  unfold execVdiv
  refine KeptOut.next ?_
  with_reducible apply issue_kept
  · exact hK
  · intro v1 k2
    with_reducible apply vec2_kept
    exact k2

theorem execVmax_kept (q : Nat) (f : QFields) (s : State) {z : State} (hK : Kept z s) :
    KeptOut z (execVmax q f s) := by
  unfold execVmax
  refine KeptOut.next ?_
  with_reducible apply issue_kept
  · exact hK
  · intro v1 k2
    with_reducible apply vec2_kept
    exact k2

theorem execVmin_kept (q : Nat) (f : QFields) (s : State) {z : State} (hK : Kept z s) :
    KeptOut z (execVmin q f s) := by
  unfold execVmin
  refine KeptOut.next ?_
  with_reducible apply issue_kept
  · exact hK
  · intro v1 k2
    with_reducible apply vec2_kept
    exact k2

theorem execVmaxn_kept (q : Nat) (f : QFields) (s : State) {z : State} (hK : Kept z s) :
    KeptOut z (execVmaxn q f s) := by
  unfold execVmaxn
  refine KeptOut.next ?_
  with_reducible apply issue_kept
  · exact hK
  · intro v1 k2
    with_reducible apply vec2_kept
    exact k2

theorem execVminn_kept (q : Nat) (f : QFields) (s : State) {z : State} (hK : Kept z s) :
    KeptOut z (execVminn q f s) := by
  unfold execVminn
  refine KeptOut.next ?_
  with_reducible apply issue_kept
  · exact hK
  · intro v1 k2
    with_reducible apply vec2_kept
    exact k2

theorem execVabs_kept (q : Nat) (f : QFields) (s : State) {z : State} (hK : Kept z s) :
    KeptOut z (execVabs q f s) := by
  unfold execVabs
  refine KeptOut.next ?_
  with_reducible apply issue_kept
  · exact hK
  · intro v1 k2
    with_reducible apply lanewise_kept
    exact k2

theorem execVneg_kept (q : Nat) (f : QFields) (s : State) {z : State} (hK : Kept z s) :
    KeptOut z (execVneg q f s) := by
  unfold execVneg
  refine KeptOut.next ?_
  with_reducible apply issue_kept
  · exact hK
  · intro v1 k2
    with_reducible apply lanewise_kept
    exact k2

theorem execVcpsgn_kept (q : Nat) (f : QFields) (s : State) {z : State} (hK : Kept z s) :
    KeptOut z (execVcpsgn q f s) := by
  unfold execVcpsgn
  refine KeptOut.next ?_
  with_reducible apply issue_kept
  · exact hK
  · intro v1 k2
    with_reducible apply lanewise_kept
    exact k2

theorem execVrem_kept (q : Nat) (f : QFields) (s : State) {z : State} (hK : Kept z s) :
    KeptOut z (execVrem q f s) := by
  unfold execVrem
  refine KeptOut.next ?_
  with_reducible apply issue_kept
  · exact hK
  · intro v1 k2
    with_reducible apply vec2_kept
    exact k2

theorem execVrint_kept (q : Nat) (f : QFields) (s : State) {z : State} (hK : Kept z s) :
    KeptOut z (execVrint q f s) := by
  unfold execVrint
  refine KeptOut.next ?_
  with_reducible apply issue_kept
  · exact hK
  · intro v1 k2
    with_reducible apply vec1_kept
    exact k2

theorem execVscalb_kept (q : Nat) (f : QFields) (s : State) {z : State} (hK : Kept z s) :
    KeptOut z (execVscalb q f s) := by
  unfold execVscalb
  refine KeptOut.next ?_
  with_reducible apply issue_kept
  · exact hK
  · intro v1 k2
    extract_lets +onlyGivenNames x3
    clear_value x3
    extract_lets +onlyGivenNames x4
    clear_value x4
    extract_lets +onlyGivenNames x5
    clear_value x5
    extract_lets +onlyGivenNames x6
    clear_value x6
    extract_lets +onlyGivenNames x7
    clear_value x7
    extract_lets +onlyGivenNames x8
    clear_value x8
    extract_lets +onlyGivenNames x9
    clear_value x9
    with_reducible apply complete_kept
    with_reducible apply ctxMod_kept
    exact k2

theorem execVlogb_kept (q : Nat) (f : QFields) (s : State) {z : State} (hK : Kept z s) :
    KeptOut z (execVlogb q f s) := by
  unfold execVlogb
  refine KeptOut.next ?_
  with_reducible apply issue_kept
  · exact hK
  · intro v1 k2
    with_reducible apply lanewise_kept
    exact k2

theorem execVnext_kept (q : Nat) (f : QFields) (s : State) {z : State} (hK : Kept z s) :
    KeptOut z (execVnext q f s) := by
  unfold execVnext
  refine KeptOut.next ?_
  with_reducible apply issue_kept
  · exact hK
  · intro v1 k2
    with_reducible apply lanewise_kept
    exact k2

theorem execVcmp_kept (q : Nat) (f : QFields) (s : State) {z : State} (hK : Kept z s) :
    KeptOut z (execVcmp q f s) := by
  unfold execVcmp
  refine KeptOut.next ?_
  with_reducible apply issue_kept
  · exact hK
  · intro v1 k2
    extract_lets +onlyGivenNames x3
    clear_value x3
    extract_lets +onlyGivenNames x4
    clear_value x4
    extract_lets +onlyGivenNames x5
    clear_value x5
    extract_lets +onlyGivenNames x6
    clear_value x6
    with_reducible apply completePlain_kept
    exact k2

theorem execVclass_kept (q : Nat) (f : QFields) (s : State) {z : State} (hK : Kept z s) :
    KeptOut z (execVclass q f s) := by
  unfold execVclass
  refine KeptOut.next ?_
  with_reducible apply issue_kept
  · exact hK
  · intro v1 k2
    with_reducible apply lanewise_kept
    exact k2

theorem execVsel_kept (q : Nat) (f : QFields) (s : State) {z : State} (hK : Kept z s) :
    KeptOut z (execVsel q f s) := by
  unfold execVsel
  refine KeptOut.next ?_
  with_reducible apply issue_kept
  · exact hK
  · intro v1 k2
    extract_lets +onlyGivenNames x3
    clear_value x3
    extract_lets +onlyGivenNames x4
    clear_value x4
    extract_lets +onlyGivenNames x5
    clear_value x5
    extract_lets +onlyGivenNames x6
    clear_value x6
    extract_lets +onlyGivenNames x7
    clear_value x7
    extract_lets +onlyGivenNames x8
    clear_value x8
    with_reducible apply complete_kept
    with_reducible apply ctxMod_kept
    exact k2

theorem execViop_kept (q : Nat) (f : QFields) (s : State) {z : State} (hK : Kept z s) :
    KeptOut z (execViop q f s) := by
  unfold execViop
  refine KeptOut.next ?_
  with_reducible apply issue_kept
  · exact hK
  · intro v1 k2
    with_reducible apply lanewise_kept
    exact k2

theorem execVmov_kept (q : Nat) (f : QFields) (s : State) {z : State} (hK : Kept z s) :
    KeptOut z (execVmov q f s) := by
  unfold execVmov
  refine KeptOut.next ?_
  with_reducible apply issue_kept
  · exact hK
  · intro v1 k2
    with_reducible apply lanewise_kept
    exact k2

theorem execVbcast_kept (q : Nat) (f : QFields) (s : State) {z : State} (hK : Kept z s) :
    KeptOut z (execVbcast q f s) := by
  unfold execVbcast
  refine KeptOut.next ?_
  with_reducible apply issue_kept
  · exact hK
  · intro v1 k2
    extract_lets +onlyGivenNames x3
    clear_value x3
    extract_lets +onlyGivenNames x4
    clear_value x4
    extract_lets +onlyGivenNames x5
    clear_value x5
    with_reducible apply complete_kept
    with_reducible apply ctxMod_kept
    exact k2

theorem execVext_kept (q : Nat) (f : QFields) (s : State) {z : State} (hK : Kept z s) :
    KeptOut z (execVext q f s) := by
  unfold execVext
  refine KeptOut.next ?_
  with_reducible apply issue_kept
  · exact hK
  · intro v1 k2
    extract_lets +onlyGivenNames x3
    clear_value x3
    refine Kept.ite ?_ ?_
    · extract_lets +onlyGivenNames x4
      clear_value x4
      with_reducible apply complete_kept
      with_reducible apply ctxMod_kept
      exact k2
    · with_reducible apply ctxMod_kept
      exact k2

theorem execVlane_kept (q : Nat) (f : QFields) (s : State) {z : State} (hK : Kept z s) :
    KeptOut z (execVlane q f s) := by
  unfold execVlane
  refine KeptOut.next ?_
  with_reducible apply issue_kept
  · exact hK
  · intro v1 k2
    with_reducible apply completePlain_kept
    exact k2

theorem execVpk_kept (q : Nat) (f : QFields) (s : State) {z : State} (hK : Kept z s) :
    KeptOut z (execVpk q f s) := by
  unfold execVpk
  refine KeptOut.next ?_
  with_reducible apply issue_kept
  · exact hK
  · intro v1 k2
    with_reducible apply completePlain_kept
    exact k2

theorem execVupk_kept (q : Nat) (f : QFields) (s : State) {z : State} (hK : Kept z s) :
    KeptOut z (execVupk q f s) := by
  unfold execVupk
  refine KeptOut.next ?_
  with_reducible apply issue_kept
  · exact hK
  · intro v1 k2
    with_reducible apply completePlain_kept
    exact k2

theorem execVrcp_kept (q : Nat) (f : QFields) (s : State) {z : State} (hK : Kept z s) :
    KeptOut z (execVrcp q f s) := by
  unfold execVrcp
  refine KeptOut.next ?_
  with_reducible apply issue_kept
  · exact hK
  · intro v1 k2
    with_reducible apply vec1_kept
    exact k2

theorem execVrsqrt_kept (q : Nat) (f : QFields) (s : State) {z : State} (hK : Kept z s) :
    KeptOut z (execVrsqrt q f s) := by
  unfold execVrsqrt
  refine KeptOut.next ?_
  with_reducible apply issue_kept
  · exact hK
  · intro v1 k2
    with_reducible apply vec1_kept
    exact k2

theorem execVsqrt_kept (q : Nat) (f : QFields) (s : State) {z : State} (hK : Kept z s) :
    KeptOut z (execVsqrt q f s) := by
  unfold execVsqrt
  refine KeptOut.next ?_
  with_reducible apply issue_kept
  · exact hK
  · intro v1 k2
    with_reducible apply vec1_kept
    exact k2

theorem execVexp2_kept (q : Nat) (f : QFields) (s : State) {z : State} (hK : Kept z s) :
    KeptOut z (execVexp2 q f s) := by
  unfold execVexp2
  refine KeptOut.next ?_
  with_reducible apply issue_kept
  · exact hK
  · intro v1 k2
    with_reducible apply vec1_kept
    exact k2

theorem execVlog2_kept (q : Nat) (f : QFields) (s : State) {z : State} (hK : Kept z s) :
    KeptOut z (execVlog2 q f s) := by
  unfold execVlog2
  refine KeptOut.next ?_
  with_reducible apply issue_kept
  · exact hK
  · intro v1 k2
    with_reducible apply vec1_kept
    exact k2

theorem doCvt_kept (q op : Nat) (f : QFields) (sel : QCtx → RndSel) (s : State) {z : State} (hK : Kept z s) :
    Kept z (doCvt q op f sel s) := by
  unfold doCvt
  extract_lets +onlyGivenNames x1
  clear_value x1
  extract_lets +onlyGivenNames x2
  clear_value x2
  extract_lets +onlyGivenNames x3
  clear_value x3
  split
  · rename_i v4 v5 v6 e7
    have k8 : Kept z v6 := by
      refine Kept.of_snd e7 ?_
      refine Kept.ite_snd ?_ ?_
      · with_reducible apply drawActive_kept
        exact hK
      · refine Kept.snd ?_
        exact hK
    extract_lets +onlyGivenNames x9
    clear_value x9
    extract_lets +onlyGivenNames x10
    clear_value x10
    extract_lets +onlyGivenNames x11
    clear_value x11
    with_reducible apply complete_kept
    with_reducible apply ctxMod_kept
    exact k8

theorem doCvtb_kept (q : Nat) (f : QFields) (s : State) {z : State} (hK : Kept z s) :
    Kept z (doCvtb q f s) := by
  unfold doCvtb
  extract_lets +onlyGivenNames x1
  clear_value x1
  extract_lets +onlyGivenNames x2
  clear_value x2
  extract_lets +onlyGivenNames x3
  clear_value x3
  extract_lets +onlyGivenNames x4
  clear_value x4
  split
  · rename_i v5 v6 v7 e8
    have k9 : Kept z v7 := by
      refine Kept.of_snd e8 ?_
      refine Kept.ite_snd ?_ ?_
      · with_reducible apply drawActive_kept
        exact hK
      · refine Kept.snd ?_
        exact hK
    extract_lets +onlyGivenNames x10
    clear_value x10
    extract_lets +onlyGivenNames x11
    have k12 : Kept z x11 := by
      subst x11
      with_reducible apply countUnder_kept
      exact k9
    clear_value x11
    extract_lets +onlyGivenNames x13
    clear_value x13
    extract_lets +onlyGivenNames x14
    clear_value x14
    with_reducible apply complete_kept
    with_reducible apply ctxMod_kept
    exact k12

theorem doCvtw_kept (q : Nat) (f : QFields) (s : State) {z : State} (hK : Kept z s) :
    Kept z (doCvtw q f s) := by
  unfold doCvtw
  extract_lets +onlyGivenNames x1
  clear_value x1
  extract_lets +onlyGivenNames x2
  clear_value x2
  extract_lets +onlyGivenNames x3
  clear_value x3
  extract_lets +onlyGivenNames x4
  clear_value x4
  extract_lets +onlyGivenNames x5
  clear_value x5
  extract_lets +onlyGivenNames x6
  clear_value x6
  extract_lets +onlyGivenNames x7
  clear_value x7
  extract_lets +onlyGivenNames x8
  clear_value x8
  with_reducible apply complete_kept
  with_reducible apply ctxMod_kept
  exact hK

theorem execCvt_kept (q : Nat) (f : QFields) (s : State) {z : State} (hK : Kept z s) :
    KeptOut z (execCvt q f s) := by
  unfold execCvt
  refine KeptOut.next ?_
  with_reducible apply issue_kept
  · exact hK
  · intro v1 k2
    with_reducible apply doCvt_kept
    exact k2

theorem execCvtOdd_kept (q : Nat) (f : QFields) (s : State) {z : State} (hK : Kept z s) :
    KeptOut z (execCvtOdd q f s) := by
  unfold execCvtOdd
  refine KeptOut.next ?_
  with_reducible apply issue_kept
  · exact hK
  · intro v1 k2
    with_reducible apply doCvt_kept
    exact k2

theorem execCvtb_kept (q : Nat) (f : QFields) (s : State) {z : State} (hK : Kept z s) :
    KeptOut z (execCvtb q f s) := by
  unfold execCvtb
  refine KeptOut.next ?_
  with_reducible apply issue_kept
  · exact hK
  · intro v1 k2
    with_reducible apply doCvtb_kept
    exact k2

theorem execCvtw_kept (q : Nat) (f : QFields) (s : State) {z : State} (hK : Kept z s) :
    KeptOut z (execCvtw q f s) := by
  unfold execCvtw
  refine KeptOut.next ?_
  with_reducible apply issue_kept
  · exact hK
  · intro v1 k2
    with_reducible apply doCvtw_kept
    exact k2

theorem reduceTo_kept (q op : Nat) (f : QFields) (fn : List FV → FV × Flags) (s : State) {z : State} (hK : Kept z s) :
    Kept z (reduceTo q op f fn s) := by
  unfold reduceTo
  extract_lets +onlyGivenNames x1
  clear_value x1
  extract_lets +onlyGivenNames x2
  clear_value x2
  split
  · rename_i v3 v4 v5 e6
    with_reducible apply complete_kept
    with_reducible apply ctxMod_kept
    exact hK

theorem execVrsum_kept (q : Nat) (f : QFields) (s : State) {z : State} (hK : Kept z s) :
    KeptOut z (execVrsum q f s) := by
  unfold execVrsum
  refine KeptOut.next ?_
  with_reducible apply issue_kept
  · exact hK
  · intro v1 k2
    with_reducible apply reduceTo_kept
    exact k2

theorem execVrssq_kept (q : Nat) (f : QFields) (s : State) {z : State} (hK : Kept z s) :
    KeptOut z (execVrssq q f s) := by
  unfold execVrssq
  refine KeptOut.next ?_
  with_reducible apply issue_kept
  · exact hK
  · intro v1 k2
    with_reducible apply reduceTo_kept
    exact k2

theorem execVrmax_kept (q : Nat) (f : QFields) (s : State) {z : State} (hK : Kept z s) :
    KeptOut z (execVrmax q f s) := by
  unfold execVrmax
  refine KeptOut.next ?_
  with_reducible apply issue_kept
  · exact hK
  · intro v1 k2
    with_reducible apply reduceTo_kept
    exact k2

theorem execVrmin_kept (q : Nat) (f : QFields) (s : State) {z : State} (hK : Kept z s) :
    KeptOut z (execVrmin q f s) := by
  unfold execVrmin
  refine KeptOut.next ?_
  with_reducible apply issue_kept
  · exact hK
  · intro v1 k2
    with_reducible apply reduceTo_kept
    exact k2

theorem execVrargmax_kept (q : Nat) (f : QFields) (s : State) {z : State} (hK : Kept z s) :
    KeptOut z (execVrargmax q f s) := by
  unfold execVrargmax
  refine KeptOut.next ?_
  with_reducible apply issue_kept
  · exact hK
  · intro v1 k2
    with_reducible apply completePlain_kept
    exact k2

theorem execVrargmin_kept (q : Nat) (f : QFields) (s : State) {z : State} (hK : Kept z s) :
    KeptOut z (execVrargmin q f s) := by
  unfold execVrargmin
  refine KeptOut.next ?_
  with_reducible apply issue_kept
  · exact hK
  · intro v1 k2
    with_reducible apply completePlain_kept
    exact k2

theorem execFwcvt_kept (q : Nat) (f : QFields) (s : State) {z : State} (hK : Kept z s) :
    KeptOut z (execFwcvt q f s) := by
  unfold execFwcvt
  refine KeptOut.next ?_
  with_reducible apply issue_kept
  · exact hK
  · intro v1 k2
    with_reducible apply completePlain_kept
    exact k2

theorem execFwadd_kept (q : Nat) (f : QFields) (s : State) {z : State} (hK : Kept z s) :
    KeptOut z (execFwadd q f s) := by
  unfold execFwadd
  refine KeptOut.next ?_
  with_reducible apply issue_kept
  · exact hK
  · intro v1 k2
    with_reducible apply completePlain_kept
    exact k2

theorem execFwfin_kept (q : Nat) (f : QFields) (s : State) {z : State} (hK : Kept z s) :
    KeptOut z (execFwfin q f s) := by
  unfold execFwfin
  refine KeptOut.next ?_
  with_reducible apply issue_kept
  · exact hK
  · intro v1 k2
    with_reducible apply completePlain_kept
    exact k2

theorem execFwsq_kept (q : Nat) (f : QFields) (s : State) {z : State} (hK : Kept z s) :
    KeptOut z (execFwsq q f s) := by
  unfold execFwsq
  refine KeptOut.next ?_
  with_reducible apply issue_kept
  · exact hK
  · intro v1 k2
    with_reducible apply completePlain_kept
    exact k2

theorem execFwadd128_kept (q : Nat) (f : QFields) (s : State) {z : State} (hK : Kept z s) :
    KeptOut z (execFwadd128 q f s) := by
  unfold execFwadd128
  refine KeptOut.next ?_
  with_reducible apply issue_kept
  · exact hK
  · intro v1 k2
    with_reducible apply completePlain_kept
    exact k2

theorem execFwfin128_kept (q : Nat) (f : QFields) (s : State) {z : State} (hK : Kept z s) :
    KeptOut z (execFwfin128 q f s) := by
  unfold execFwfin128
  refine KeptOut.next ?_
  with_reducible apply issue_kept
  · exact hK
  · intro v1 k2
    with_reducible apply completePlain_kept
    exact k2

theorem doDraw_kept (q : Nat) (f : QFields) (fn : List Bool → List Nat → QCtx → QCtx) (s : State) {z : State} (hK : Kept z s) :
    Kept z (doDraw q f fn s) := by
  unfold doDraw
  extract_lets +onlyGivenNames x1
  clear_value x1
  split
  · rename_i v2 v3 v4 e5
    have k6 : Kept z v4 := by
      refine Kept.of_snd e5 ?_
      with_reducible apply drawActive_kept
      exact hK
    with_reducible apply completePlain_kept
    exact k6

theorem execRbits_kept (q : Nat) (f : QFields) (s : State) {z : State} (hK : Kept z s) :
    KeptOut z (execRbits q f s) := by
  unfold execRbits
  refine KeptOut.next ?_
  with_reducible apply issue_kept
  · exact hK
  · intro v1 k2
    with_reducible apply doDraw_kept
    exact k2

theorem execRuni_kept (q : Nat) (f : QFields) (s : State) {z : State} (hK : Kept z s) :
    KeptOut z (execRuni q f s) := by
  unfold execRuni
  refine KeptOut.next ?_
  with_reducible apply issue_kept
  · exact hK
  · intro v1 k2
    with_reducible apply doDraw_kept
    exact k2

theorem execRbern_kept (q : Nat) (f : QFields) (s : State) {z : State} (hK : Kept z s) :
    KeptOut z (execRbern q f s) := by
  unfold execRbern
  refine KeptOut.next ?_
  with_reducible apply issue_kept
  · exact hK
  · intro v1 k2
    with_reducible apply doDraw_kept
    exact k2

end Sys2Proof.Machine
end

