-- ==== Sys2Proof/Laws/Exec.lean ====
section
/-!
SUPPORT. What every command keeps: the chip's fixed properties, the queue's rest, the canonical stores and, but for RESET,
TURN_BOUNDARY and TURN_NOW_LO_READ, the Turn and its latches.
-/
namespace Sys2Proof.Machine

/-- The state a command is compared with: RESET restarts the clock, TURN_BOUNDARY advances it and
TURN_NOW_LO_READ latches its high bits. -/
def clockOf (c : Instr) (s : State) : State :=
  match c with
  | .reset _ => { s with time := TimeSt.reset }
  | .turnBoundary _ => { s with time := { s.time with turn := (s.time.turn + 1) % 2 ^ 48, cycle := 0 } }
  | .turnNowLoRead req => { s with time := { s.time with
      hiLatch := mapSet natZeroAt s.time.hiLatch req (s.time.turn / 2 ^ 32 % 2 ^ 16) } }
  | _ => s

theorem exec_kept (c : Instr) (s : State) : KeptOut (clockOf c s) (exec c s) :=
  match c with
  | .reset n => execReset_kept n s (Kept.refl _)
  | .imageReadDone image => execImageReadDone_kept image s (Kept.refl _)
  | .secVerdict done ok => execSecVerdict_kept done ok s (Kept.refl _)
  | .memoryFillDone => execMemoryFillDone_kept s (Kept.refl _)
  | .portsOpen => execPortsOpen_kept s (Kept.refl _)
  | .turnBoundary t => execTurnBoundary_kept t s (Kept.refl _)
  | .wheelBoundary t => execWheelBoundary_kept t s (Kept.refl _)
  | .overrunEnd q cycles => execOverrunEnd_kept q cycles s (Kept.refl _)
  | .pmAck refused volt => execPmAck_kept refused volt s (Kept.refl _)
  | .pmAckTimeout => execPmAckTimeout_kept s (Kept.refl _)
  | .tempReply temp => execTempReply_kept temp s (Kept.refl _)
  | .tempReplyTimeout => execTempReplyTimeout_kept s (Kept.refl _)
  | .turnNowLoRead req => execTurnNowLoRead_kept req s (Kept.refl _)
  | .registerWrite req addr value strb => execRegisterWrite_kept req addr value strb s (Kept.refl _)
  | .fwrCntClear w => execFwrCntClear_kept w s (Kept.refl _)
  | .qnResume q => execQnResume_kept q s (Kept.refl _)
  | .qnDiscard q => execQnDiscard_kept q s (Kept.refl _)
  | .clrRej q => execClrRej_kept q s (Kept.refl _)
  | .clrRescale q => execClrRescale_kept q s (Kept.refl _)
  | .clrUfb q => execClrUfb_kept q s (Kept.refl _)
  | .fnanValidClear q => execFnanValidClear_kept q s (Kept.refl _)
  | .contextSaveDone q => execContextSaveDone_kept q s (Kept.refl _)
  | .quernHang q => execQuernHang_kept q s (Kept.refl _)
  | .nop q f => execNop_kept q f s (Kept.refl _)
  | .endi q f => execEndi_kept q f s (Kept.refl _)
  | .ends q f => execEnds_kept q f s (Kept.refl _)
  | .br q f => execBr_kept q f s (Kept.refl _)
  | .brc q f => execBrc_kept q f s (Kept.refl _)
  | .loop q f => execLoop_kept q f s (Kept.refl _)
  | .waitw q f => execWaitw_kept q f s (Kept.refl _)
  | .mfence q f => execMfence_kept q f s (Kept.refl _)
  | .atom q f => execAtom_kept q f s (Kept.refl _)
  | .qcrw q f => execQcrw_kept q f s (Kept.refl _)
  | .qcrr q f => execQcrr_kept q f s (Kept.refl _)
  | .frd q f => execFrd_kept q f s (Kept.refl _)
  | .fclr q f => execFclr_kept q f s (Kept.refl _)
  | .sli q f => execSli_kept q f s (Kept.refl _)
  | .saddi q f => execSaddi_kept q f s (Kept.refl _)
  | .salu q f => execSalu_kept q f s (Kept.refl _)
  | .tld q f => execTld_kept q f s (Kept.refl _)
  | .tst q f => execTst_kept q f s (Kept.refl _)
  | .vld q f => execVld_kept q f s (Kept.refl _)
  | .vst q f => execVst_kept q f s (Kept.refl _)
  | .mget q f => execMget_kept q f s (Kept.refl _)
  | .mput q f => execMput_kept q f s (Kept.refl _)
  | .quernTransferDone q tag => execQuernTransferDone_kept q tag s (Kept.refl _)
  | .mwait q f => execMwait_kept q f s (Kept.refl _)
  | .mcfg q f => execMcfg_kept q f s (Kept.refl _)
  | .mmaOpen q f => execMmaOpen_kept q f s (Kept.refl _)
  | .mma q f => execMma_kept q f s (Kept.refl _)
  | .drn q f => execDrn_kept q f s (Kept.refl _)
  | .vadd q f => execVadd_kept q f s (Kept.refl _)
  | .vsub q f => execVsub_kept q f s (Kept.refl _)
  | .vmul q f => execVmul_kept q f s (Kept.refl _)
  | .vfma q f => execVfma_kept q f s (Kept.refl _)
  | .vdiv q f => execVdiv_kept q f s (Kept.refl _)
  | .vmax q f => execVmax_kept q f s (Kept.refl _)
  | .vmin q f => execVmin_kept q f s (Kept.refl _)
  | .vmaxn q f => execVmaxn_kept q f s (Kept.refl _)
  | .vminn q f => execVminn_kept q f s (Kept.refl _)
  | .vabs q f => execVabs_kept q f s (Kept.refl _)
  | .vneg q f => execVneg_kept q f s (Kept.refl _)
  | .vcpsgn q f => execVcpsgn_kept q f s (Kept.refl _)
  | .vrem q f => execVrem_kept q f s (Kept.refl _)
  | .vrint q f => execVrint_kept q f s (Kept.refl _)
  | .vscalb q f => execVscalb_kept q f s (Kept.refl _)
  | .vlogb q f => execVlogb_kept q f s (Kept.refl _)
  | .vnext q f => execVnext_kept q f s (Kept.refl _)
  | .vcmp q f => execVcmp_kept q f s (Kept.refl _)
  | .vclass q f => execVclass_kept q f s (Kept.refl _)
  | .vsel q f => execVsel_kept q f s (Kept.refl _)
  | .viop q f => execViop_kept q f s (Kept.refl _)
  | .vmov q f => execVmov_kept q f s (Kept.refl _)
  | .vbcast q f => execVbcast_kept q f s (Kept.refl _)
  | .vext q f => execVext_kept q f s (Kept.refl _)
  | .vlane q f => execVlane_kept q f s (Kept.refl _)
  | .vpk q f => execVpk_kept q f s (Kept.refl _)
  | .vupk q f => execVupk_kept q f s (Kept.refl _)
  | .vrcp q f => execVrcp_kept q f s (Kept.refl _)
  | .vrsqrt q f => execVrsqrt_kept q f s (Kept.refl _)
  | .vsqrt q f => execVsqrt_kept q f s (Kept.refl _)
  | .vexp2 q f => execVexp2_kept q f s (Kept.refl _)
  | .vlog2 q f => execVlog2_kept q f s (Kept.refl _)
  | .cvt q f => execCvt_kept q f s (Kept.refl _)
  | .cvtOdd q f => execCvtOdd_kept q f s (Kept.refl _)
  | .cvtb q f => execCvtb_kept q f s (Kept.refl _)
  | .cvtw q f => execCvtw_kept q f s (Kept.refl _)
  | .vrsum q f => execVrsum_kept q f s (Kept.refl _)
  | .vrssq q f => execVrssq_kept q f s (Kept.refl _)
  | .vrmax q f => execVrmax_kept q f s (Kept.refl _)
  | .vrmin q f => execVrmin_kept q f s (Kept.refl _)
  | .vrargmax q f => execVrargmax_kept q f s (Kept.refl _)
  | .vrargmin q f => execVrargmin_kept q f s (Kept.refl _)
  | .fwcvt q f => execFwcvt_kept q f s (Kept.refl _)
  | .fwadd q f => execFwadd_kept q f s (Kept.refl _)
  | .fwfin q f => execFwfin_kept q f s (Kept.refl _)
  | .fwsq q f => execFwsq_kept q f s (Kept.refl _)
  | .fwadd128 q f => execFwadd128_kept q f s (Kept.refl _)
  | .fwfin128 q f => execFwfin128_kept q f s (Kept.refl _)
  | .rbits q f => execRbits_kept q f s (Kept.refl _)
  | .runi q f => execRuni_kept q f s (Kept.refl _)
  | .rbern q f => execRbern_kept q f s (Kept.refl _)
  | .exportStart => execExportStart_kept s (Kept.refl _)
  | .exportDone => execExportDone_kept s (Kept.refl _)
  | .stepOpen => execStepOpen_kept s (Kept.refl _)
  | .sailJumpDone => execSailJumpDone_kept s (Kept.refl _)
  | .layerDoorbell => execLayerDoorbell_kept s (Kept.refl _)
  | .hostAbort => execHostAbort_kept s (Kept.refl _)
  | .unitAdmit => execUnitAdmit_kept s (Kept.refl _)
  | .unitFinalise entry => execUnitFinalise_kept entry s (Kept.refl _)
  | .ckptWaitEnd entry => execCkptWaitEnd_kept entry s (Kept.refl _)
  | .layerDone layer => execLayerDone_kept layer s (Kept.refl _)
  | .settleReady => execSettleReady_kept s (Kept.refl _)
  | .earlyAbortSend => execEarlyAbortSend_kept s (Kept.refl _)
  | .redoRerun entry => execRedoRerun_kept entry s (Kept.refl _)
  | .roundBReady => execRoundBReady_kept s (Kept.refl _)
  | .openTimeout => execOpenTimeout_kept s (Kept.refl _)
  | .grindTimeout => execGrindTimeout_kept s (Kept.refl _)
  | .settleTimeout => execSettleTimeout_kept s (Kept.refl _)
  | .decisionWaitTimeout => execDecisionWaitTimeout_kept s (Kept.refl _)
  | .standbyAckTimeout => execStandbyAckTimeout_kept s (Kept.refl _)
  | .pubTimeout => execPubTimeout_kept s (Kept.refl _)
  | .publishRange => execPublishRange_kept s (Kept.refl _)
  | .publishDone => execPublishDone_kept s (Kept.refl _)
  | .trRepub w => execTrRepub_kept w s (Kept.refl _)
  | .trCntClear w => execTrCntClear_kept w s (Kept.refl _)
  | .checkpointDone => execCheckpointDone_kept s (Kept.refl _)
  | .digestCompute => execDigestCompute_kept s (Kept.refl _)
  | .replay entry => execReplay_kept entry s (Kept.refl _)
  | .stepCntClear w => execStepCntClear_kept w s (Kept.refl _)
  | .phyFatalError mp channel => execPhyFatalError_kept mp channel s (Kept.refl _)
  | .phyUpdateRequest mp port => execPhyUpdateRequest_kept mp port s (Kept.refl _)
  | .softPprDone repaired => execSoftPprDone_kept repaired s (Kept.refl _)
  | .memCntClear w => execMemCntClear_kept w s (Kept.refl _)
  | .granuleConvertDone g => execGranuleConvertDone_kept g s (Kept.refl _)
  | .hopCntClear w => execHopCntClear_kept w s (Kept.refl _)
  | .axiRead r => execAxiRead_kept r s (Kept.refl _)
  | .axiWrite r => execAxiWrite_kept r s (Kept.refl _)
  | .axiAtomic r => execAxiAtomic_kept r s (Kept.refl _)
  | .narrowSectorRequest write r => execNarrowSectorRequest_kept write r s (Kept.refl _)
  | .hostFence r => execHostFence_kept r s (Kept.refl _)
  | .fenceResponse narrow port => execFenceResponse_kept narrow port s (Kept.refl _)
  | .mmCntClear w => execMmCntClear_kept w s (Kept.refl _)
  | .leatLinear e => execLeatLinear_kept e s (Kept.refl _)
  | .leatStrided e => execLeatStrided_kept e s (Kept.refl _)
  | .leatGather e => execLeatGather_kept e s (Kept.refl _)
  | .leatConvert e => execLeatConvert_kept e s (Kept.refl _)
  | .leatIm2col e => execLeatIm2col_kept e s (Kept.refl _)
  | .leatHaloGated e => execLeatHaloGated_kept e s (Kept.refl _)
  | .haloGateOpen e seq => execHaloGateOpen_kept e seq s (Kept.refl _)
  | .leatAppend e => execLeatAppend_kept e s (Kept.refl _)
  | .leatWaitTimeout e seq => execLeatWaitTimeout_kept e seq s (Kept.refl _)
  | .leatComplete e seq => execLeatComplete_kept e seq s (Kept.refl _)
  | .leatCntClear w => execLeatCntClear_kept w s (Kept.refl _)
  | .leatClrUfb => execLeatClrUfb_kept s (Kept.refl _)
  | .sluiceFault a => execSluiceFault_kept a s (Kept.refl _)
  | .faultRecordWrite => execFaultRecordWrite_kept s (Kept.refl _)
  | .slRetry token => execSlRetry_kept token s (Kept.refl _)
  | .slDiscard token => execSlDiscard_kept token s (Kept.refl _)
  | .slInvalAll => execSlInvalAll_kept s (Kept.refl _)
  | .slInvalCtx ctx => execSlInvalCtx_kept ctx s (Kept.refl _)
  | .slInvalDone => execSlInvalDone_kept s (Kept.refl _)
  | .slCntClear w => execSlCntClear_kept w s (Kept.refl _)
  | .bolterJobStart => execBolterJobStart_kept s (Kept.refl _)
  | .batchWrite => execBatchWrite_kept s (Kept.refl _)
  | .bolterJobDone => execBolterJobDone_kept s (Kept.refl _)
  | .bolCntClear w => execBolCntClear_kept w s (Kept.refl _)
  | .sailCntClear w => execSailCntClear_kept w s (Kept.refl _)
  | .nakFlit link flit => execNakFlit_kept link flit s (Kept.refl _)
  | .ackTimeout link => execAckTimeout_kept link s (Kept.refl _)
  | .portActive port supported full => execPortActive_kept port supported full s (Kept.refl _)
  | .retrainTimeout port => execRetrainTimeout_kept port s (Kept.refl _)
  | .trainFlit link flit => execTrainFlit_kept link flit s (Kept.refl _)
  | .glLcmdRetrain link => execGlLcmdRetrain_kept link s (Kept.refl _)
  | .glLcmdDisable link => execGlLcmdDisable_kept link s (Kept.refl _)
  | .glLcmdEnable link => execGlLcmdEnable_kept link s (Kept.refl _)
  | .glLcmdClr link => execGlLcmdClr_kept link s (Kept.refl _)
  | .glCntClear w => execGlCntClear_kept w s (Kept.refl _)
  | .discoveryStart => execDiscoveryStart_kept s (Kept.refl _)
  | .discoverTimeout => execDiscoverTimeout_kept s (Kept.refl _)
  | .groupFormation => execGroupFormation_kept s (Kept.refl _)
  | .groupFormationTimeout => execGroupFormationTimeout_kept s (Kept.refl _)
  | .msgOpenRec m => execMsgOpenRec_kept m s (Kept.refl _)
  | .msgDecisionGo m => execMsgDecisionGo_kept m s (Kept.refl _)
  | .msgDecisionHold m => execMsgDecisionHold_kept m s (Kept.refl _)
  | .msgDecisionContinue m => execMsgDecisionContinue_kept m s (Kept.refl _)
  | .msgDecisionCommit m => execMsgDecisionCommit_kept m s (Kept.refl _)
  | .msgDecisionAbort m => execMsgDecisionAbort_kept m s (Kept.refl _)
  | .msgRoundRec m => execMsgRoundRec_kept m s (Kept.refl _)
  | .msgGroupRec m => execMsgGroupRec_kept m s (Kept.refl _)
  | .msgEarlyAbort m => execMsgEarlyAbort_kept m s (Kept.refl _)
  | .msgStandbyAck m => execMsgStandbyAck_kept m s (Kept.refl _)
  | .msgQuery m => execMsgQuery_kept m s (Kept.refl _)
  | .msgNormPart m => execMsgNormPart_kept m s (Kept.refl _)
  | .msgNormSum m => execMsgNormSum_kept m s (Kept.refl _)
  | .msgAdmit m => execMsgAdmit_kept m s (Kept.refl _)
  | .msgFinal m => execMsgFinal_kept m s (Kept.refl _)
  | .msgRecomp m => execMsgRecomp_kept m s (Kept.refl _)
  | .msgDigest m => execMsgDigest_kept m s (Kept.refl _)
  | .msgResend m => execMsgResend_kept m s (Kept.refl _)
  | .msgLost m => execMsgLost_kept m s (Kept.refl _)
  | .msgDiscover m => execMsgDiscover_kept m s (Kept.refl _)
  | .msgDiscoverRep m => execMsgDiscoverRep_kept m s (Kept.refl _)
  | .msgLinkStatus m => execMsgLinkStatus_kept m s (Kept.refl _)
  | .msgContrib m => execMsgContrib_kept m s (Kept.refl _)
  | .msgPartial m => execMsgPartial_kept m s (Kept.refl _)
  | .msgPub m => execMsgPub_kept m s (Kept.refl _)
  | .msgVc4Rd m => execMsgVc4Rd_kept m s (Kept.refl _)
  | .msgVc4Wr m => execMsgVc4Wr_kept m s (Kept.refl _)
  | .msgVc4Wrs m => execMsgVc4Wrs_kept m s (Kept.refl _)
  | .msgVc4Atom m => execMsgVc4Atom_kept m s (Kept.refl _)
  | .msgVc4Resp m => execMsgVc4Resp_kept m s (Kept.refl _)
  | .msgVc4Wack m => execMsgVc4Wack_kept m s (Kept.refl _)
  | .msgBulk m => execMsgBulk_kept m s (Kept.refl _)
  | .bucketLeak => execBucketLeak_kept s (Kept.refl _)
  | .flipArm => execFlipArm_kept s (Kept.refl _)
  | .plausibilityReplayDone differs => execPlausibilityReplayDone_kept differs s (Kept.refl _)
  | .checkerRecomputeDone crc => execCheckerRecomputeDone_kept crc s (Kept.refl _)
  | .fhGradeSet req w => execFhGradeSet_kept req w s (Kept.refl _)
  | .fieldTestDue u => execFieldTestDue_kept u s (Kept.refl _)
  | .fieldTestResult u pass => execFieldTestResult_kept u pass s (Kept.refl _)
  | .testAbort => execTestAbort_kept s (Kept.refl _)
  | .fatalClear => execFatalClear_kept s (Kept.refl _)
  | .statePoisonClear => execStatePoisonClear_kept s (Kept.refl _)
  | .journalWriteDone => execJournalWriteDone_kept s (Kept.refl _)
  | .sepiaEnter => execSepiaEnter_kept s (Kept.refl _)
  | .governorStall => execGovernorStall_kept s (Kept.refl _)
  | .clrClass w => execClrClass_kept w s (Kept.refl _)
  | .clrRing => execClrRing_kept s (Kept.refl _)
  | .clrCper => execClrCper_kept s (Kept.refl _)
  | .txnBegin req => execTxnBegin_kept req s (Kept.refl _)
  | .txnCommit req wh => execTxnCommit_kept req wh s (Kept.refl _)
  | .txnRollback req => execTxnRollback_kept req s (Kept.refl _)
  | .txnValidated => execTxnValidated_kept s (Kept.refl _)
  | .txnCancel id => execTxnCancel_kept id s (Kept.refl _)
  | .loadTensorTable req => execLoadTensorTable_kept req s (Kept.refl _)
  | .loadHyperparameterSets req => execLoadHyperparameterSets_kept req s (Kept.refl _)
  | .loadRouteTable req => execLoadRouteTable_kept req s (Kept.refl _)
  | .loadMulticastTable req => execLoadMulticastTable_kept req s (Kept.refl _)
  | .loadCustomRecipe req => execLoadCustomRecipe_kept req s (Kept.refl _)
  | .recipeRemoval req => execRecipeRemoval_kept req s (Kept.refl _)
  | .loadGovernorFirmware req => execLoadGovernorFirmware_kept req s (Kept.refl _)
  | .mpRetrainDone failed => execMpRetrainDone_kept failed s (Kept.refl _)
  | .clrDisc => execClrDisc_kept s (Kept.refl _)
  | .clrCjDrop => execClrCjDrop_kept s (Kept.refl _)
  | .pfwAssert chanB => execPfwAssert_kept chanB s (Kept.refl _)
  | .pfwWindowExpiry => execPfwWindowExpiry_kept s (Kept.refl _)
  | .pfDone => execPfDone_kept s (Kept.refl _)
  | .portCntClear w => execPortCntClear_kept w s (Kept.refl _)
  | .dfiInitialisationDone d => execDfiInitialisationDone_kept d s (Kept.refl _)
  | .dataFlit link flit => execDataFlit_kept link flit s (Kept.refl _)
  | .idleFlit link flit => execIdleFlit_kept link flit s (Kept.refl _)
  | .contextRestoreDone q => execContextRestoreDone_kept q s (Kept.refl _)
  | .tableCopyDone => execTableCopyDone_kept s (Kept.refl _)
  | .pfwDeassert chanB => execPfwDeassert_kept chanB s (Kept.refl _)

theorem clockOf_chip (c : Instr) (s : State) : (clockOf c s).chip = s.chip := by
  unfold clockOf
  split <;> rfl

theorem clockOf_pending (c : Instr) (s : State) : (clockOf c s).pending = s.pending := by
  unfold clockOf
  split <;> rfl

theorem clockOf_mem (c : Instr) (s : State) : (clockOf c s).mem = s.mem := by
  unfold clockOf
  split <;> rfl

theorem clockOf_regs (c : Instr) (s : State) : regsWf (clockOf c s) = regsWf s := by
  unfold clockOf
  split <;> rfl

theorem clockOf_shape (c : Instr) (s : State) : shapeWf (clockOf c s) = shapeWf s := by
  unfold clockOf
  split <;> rfl

/-- What the command answered keeps: the chip, the queue, canonical memories, canonical registers, the numbers of units,
and the Turn and its latches but for RESET, TURN_BOUNDARY and TURN_NOW_LO_READ. -/
theorem exec_keeps {c : Instr} {s t : State} (h : exec c s = .next t) :
    t.chip = s.chip ∧ t.pending = s.pending ∧ (Memory.wf s.mem = true → Memory.wf t.mem = true) ∧
      (regsWf s = true → regsWf t = true) ∧ t.time.turn = (clockOf c s).time.turn ∧ t.time.hiLatch = (clockOf c s).time.hiLatch ∧
      (shapeWf s = true → shapeWf t = true) := by
  have k := exec_kept c s t h
  refine ⟨k.chip.trans (clockOf_chip c s), k.pending.trans (clockOf_pending c s), fun x => k.mem ?_, fun x => k.regs ?_,
    k.turn, k.latch, fun x => k.shape ?_⟩
  · rw [clockOf_mem]
    exact x
  · rw [clockOf_regs]
    exact x
  · rw [clockOf_shape]
    exact x

end Sys2Proof.Machine
end

