-- ==== Sys2Proof/Laws/Querns.lean ====
section
/-!
SUPPORT. Reading a Quern after its store, its context or its record is written.
-/
namespace Sys2Proof.Machine

/-! ### Runs of keys -/

theorem getElem?_mapRead {β : Type} (d : Nat → β) (m : Store β) (k n i : Nat) :
    (mapRead d m k n)[i]? = if i < n then some (mapGet d m (k + i)) else none := by
  induction n generalizing k i with
  | zero => simp [mapRead]
  | succ n ih =>
    cases i with
    | zero => simp [mapRead]
    | succ i =>
      simp only [mapRead, List.getElem?_cons_succ, ih]
      have : k + 1 + i = k + (i + 1) := by omega
      simp [this]

/-- A run reads back as it was written. -/
theorem mapRead_mapWrite {β : Type} [DecidableEq β] (d : Nat → β) (m : Store β) (k : Nat) (vs : List β) :
    mapRead d (mapWrite d m k vs) k vs.length = vs := by
  apply List.ext_getElem?
  intro i
  rw [getElem?_mapRead, mapGet_mapWrite]
  by_cases h : i < vs.length
  · simp [h]
  · simp [h]

/-- A run beside a written one reads as before. -/
theorem mapRead_mapWrite_of_disjoint {β : Type} [DecidableEq β] (d : Nat → β) (m : Store β) (k : Nat) (vs : List β)
    (j n : Nat) (h : j + n ≤ k ∨ k + vs.length ≤ j) : mapRead d (mapWrite d m k vs) j n = mapRead d m j n := by
  apply List.ext_getElem?
  intro i
  rw [getElem?_mapRead, getElem?_mapRead]
  by_cases c : i < n
  · rw [if_pos c, if_pos c, mapGet_mapWrite, if_neg (by omega)]
  · simp [c]

/-! ### One Quern's store -/

/-- `t` is `s` but for Quern q's store and its poison marks, bit errors and an armed checker test. -/
def StoreOnly (s t : State) (q : Nat) : Prop :=
  t = { s with mem := { s.mem with errs := t.mem.errs }, fh := t.fh, qn := { s.qn with q := t.qn.q } } ∧
  (∀ p, p ≠ q → qnAt t p = qnAt s p) ∧ t.qn.q.length = s.qn.q.length ∧
  qnAt t q = { qnAt s q with store := (qnAt t q).store, storePoison := (qnAt t q).storePoison }

theorem StoreOnly.rfl {s : State} {q : Nat} : StoreOnly s s q := ⟨Eq.refl _, fun _ _ => Eq.refl _, Eq.refl _, Eq.refl _⟩

theorem StoreOnly.trans {s t u : State} {q : Nat} (a : StoreOnly s t q) (b : StoreOnly t u q) : StoreOnly s u q := by
  obtain ⟨a1, a2, a3, a4⟩ := a
  obtain ⟨b1, b2, b3, b4⟩ := b
  refine ⟨?_, fun p h => (b2 p h).trans (a2 p h), b3.trans a3, ?_⟩
  · generalize hq : u.qn.q = x at *
    generalize u.fh = y at *
    generalize u.mem.errs = z at *
    rw [b1, a1]
  · generalize (qnAt u q).store = x at *
    generalize (qnAt u q).storePoison = y at *
    rw [b4, a4]

theorem qnMod_length (s : State) (q : Nat) (f : Quern → Quern) : (qnMod s q f).qn.q.length = s.qn.q.length := by
  simp [qnMod, modAt]

theorem StoreOnly.poison {s : State} {q : Nat} (h : q < s.qn.q.length) (f : Store Bool → Store Bool) :
    StoreOnly s (qnMod s q (fun m => { m with storePoison := f m.storePoison })) q := by
  refine ⟨Eq.refl _, fun p hp => ?_, qnMod_length .., ?_⟩
  · rw [qnAt_qnMod _ _ _ _ h, if_neg hp]
  · rw [qnAt_qnMod _ _ _ _ h, if_pos (Eq.refl q)]

theorem StoreOnly.store {s : State} {q : Nat} (h : q < s.qn.q.length) (f : Store Byte → Store Byte) :
    StoreOnly s (qnMod s q (fun m => { m with store := f m.store })) q := by
  refine ⟨Eq.refl _, fun p hp => ?_, qnMod_length .., ?_⟩
  · rw [qnAt_qnMod _ _ _ _ h, if_neg hp]
  · rw [qnAt_qnMod _ _ _ _ h, if_pos (Eq.refl q)]

theorem flipInto_storeOnly (s : State) (u space b q : Nat) : StoreOnly s (flipInto s u space b) q := by
  unfold flipInto
  extract_lets ctl
  split
  · exact ⟨Eq.refl _, fun _ _ => Eq.refl _, Eq.refl _, Eq.refl _⟩
  · exact StoreOnly.rfl

theorem StoreOnly.errs (s : State) (l : List ErrCell) (q : Nat) :
    StoreOnly s { s with mem := { s.mem with errs := l } } q :=
  ⟨Eq.refl _, fun _ _ => Eq.refl _, Eq.refl _, Eq.refl _⟩

theorem flipInto_store (s : State) (u space b p : Nat) : (qnAt (flipInto s u space b) p).store = (qnAt s p).store := by
  unfold flipInto
  extract_lets ctl
  split <;> rfl

/-- What one burst of a store write does to its poison mark and protection. -/
theorem storeMark_only (s : State) (q b : Nat) (whole pz : Bool) (h : q < s.qn.q.length) :
    let t := if whole then
        flipInto { qnMod s q (fun m => { m with storePoison := mapSet offAt m.storePoison b pz }) with
          mem := { (qnMod s q (fun m => { m with storePoison := mapSet offAt m.storePoison b pz })).mem with
            errs := dropErrs (qnMod s q (fun m => { m with storePoison := mapSet offAt m.storePoison b pz })).mem.errs (2 + q) b b } }
          (unitQuern q) (2 + q) b
      else if pz then qnMod s q (fun m => { m with storePoison := mapSet offAt m.storePoison b true }) else s
    StoreOnly s t q ∧ (qnAt t q).store = (qnAt s q).store := by
  dsimp only
  split
  · refine ⟨((StoreOnly.poison h (fun m => mapSet offAt m b pz)).trans (StoreOnly.errs _ _ q)).trans (flipInto_storeOnly ..), ?_⟩
    rw [flipInto_store]
    show (qnAt (qnMod s q _) q).store = _
    rw [qnAt_qnMod _ _ _ _ h, if_pos (Eq.refl q)]
  · split
    · refine ⟨StoreOnly.poison h (fun m => mapSet offAt m b true), ?_⟩
      rw [qnAt_qnMod _ _ _ _ h, if_pos (Eq.refl q)]
    · exact ⟨StoreOnly.rfl, Eq.refl _⟩

/-- A store write changes the Quern's store as written, its poison marks and protection, and nothing else. -/
theorem storeWrite_only (s : State) (q o : Nat) (bs : List Byte) (poison : List Bool) (h : q < s.qn.q.length) :
    StoreOnly s (storeWrite s q o bs poison) q ∧
      (qnAt (storeWrite s q o bs poison) q).store = mapWrite zeroAt (qnAt s q).store o bs := by
  unfold storeWrite
  extract_lets s1
  have h1 : StoreOnly s s1 q := StoreOnly.store h (fun m => mapWrite zeroAt m o bs)
  have e1 : (qnAt s1 q).store = mapWrite zeroAt (qnAt s q).store o bs := by
    subst s1
    rw [qnAt_qnMod _ _ _ _ h, if_pos (Eq.refl q)]
  have l1 : q < s1.qn.q.length := by
    rw [h1.2.2.1]
    exact h
  rw [← e1]
  clear_value s1
  clear e1
  generalize (burstSpan o bs.length).zipIdx = l
  suffices k : ∀ t : State, StoreOnly s1 t q → (qnAt t q).store = (qnAt s1 q).store →
      StoreOnly s1 (l.foldl (fun s x =>
        if x.1.2.2 = 64 then
          flipInto { qnMod s q (fun m => { m with storePoison := mapSet offAt m.storePoison (x.1.1 / 64) (poison.getD x.2 false) }) with
            mem := { (qnMod s q (fun m => { m with storePoison := mapSet offAt m.storePoison (x.1.1 / 64) (poison.getD x.2 false) })).mem with
              errs := dropErrs (qnMod s q (fun m => { m with storePoison := mapSet offAt m.storePoison (x.1.1 / 64) (poison.getD x.2 false) })).mem.errs (2 + q) (x.1.1 / 64) (x.1.1 / 64) } }
            (unitQuern q) (2 + q) (x.1.1 / 64)
        else if poison.getD x.2 false then qnMod s q (fun m => { m with storePoison := mapSet offAt m.storePoison (x.1.1 / 64) true }) else s) t) q ∧
      (qnAt (l.foldl (fun s x =>
        if x.1.2.2 = 64 then
          flipInto { qnMod s q (fun m => { m with storePoison := mapSet offAt m.storePoison (x.1.1 / 64) (poison.getD x.2 false) }) with
            mem := { (qnMod s q (fun m => { m with storePoison := mapSet offAt m.storePoison (x.1.1 / 64) (poison.getD x.2 false) })).mem with
              errs := dropErrs (qnMod s q (fun m => { m with storePoison := mapSet offAt m.storePoison (x.1.1 / 64) (poison.getD x.2 false) })).mem.errs (2 + q) (x.1.1 / 64) (x.1.1 / 64) } }
            (unitQuern q) (2 + q) (x.1.1 / 64)
        else if poison.getD x.2 false then qnMod s q (fun m => { m with storePoison := mapSet offAt m.storePoison (x.1.1 / 64) true }) else s) t) q).store
        = (qnAt s1 q).store by
    have := k s1 StoreOnly.rfl (Eq.refl _)
    exact ⟨h1.trans this.1, this.2⟩
  induction l with
  | nil => exact fun t a b => ⟨a, b⟩
  | cons x l ih =>
    intro t a b
    rw [List.foldl_cons]
    have lt : q < t.qn.q.length := by
      rw [a.2.2.1]
      exact l1
    have m := storeMark_only t q (x.1.1 / 64) (decide (x.1.2.2 = 64)) (poison.getD x.2 false) lt
    simp only [decide_eq_true_eq] at m
    exact ih _ (a.trans m.1) (m.2.trans b)

end Sys2Proof.Machine
end

