-- ==== Sys2Proof/Laws/Lanes.lean ====
section
/-!
SUPPORT. Quern registers and vector lanes read back after a write (R107, R130).
-/
namespace Sys2Proof.Machine

theorem sReg_setS (c : QCtx) (r v j : Nat) : sReg (setS c r v) j = if j = r then v % 2 ^ 64 else sReg c j := by
  have e : sReg (setS c r v) j = (mapGet zeroAt (mapSet zeroAt c.s r (BitVec.ofNat 64 v)) j).toNat := rfl
  rw [e, mapGet_mapSet]
  by_cases h : j = r
  · simp [h]
  · simp [h, sReg]

theorem pReg_setP (c : QCtx) (r v j : Nat) :
    pReg (setP c r v) j = if j = 0 then 2 ^ 64 - 1 else if j = r then v % 2 ^ 64 else pReg c j := by
  unfold setP
  by_cases h : r = 0
  · rw [if_pos h]
    by_cases k : j = 0
    · simp [pReg, k]
    · simp [pReg, k, h]
  · rw [if_neg h]
    unfold pReg
    by_cases k : j = 0
    · simp [k]
    · rw [if_neg k, if_neg k, mapGet_mapSet]
      by_cases l : j = r
      · simp [l]
      · simp [l, k]

theorem vLanes_length (c : QCtx) (r : Nat) : (vLanes c r).length = 64 := by
  simp [vLanes, mapRead_length]

theorem vLanes_getElem? (c : QCtx) (r i : Nat) : (vLanes c r)[i]? = if i < 64 then some (vLane c r i) else none := by
  unfold vLanes
  rw [List.getElem?_map, getElem?_mapRead]
  by_cases h : i < 64
  · simp [h, vLane]
  · simp [h]

theorem vLane_setLanes (c : QCtx) (d : Nat) (xs : List Nat) (h : xs.length = 64) (r i : Nat) (hi : i < 64) :
    vLane (setLanes c d xs) r i = if r = d then xs.getD i 0 % 2 ^ 32 else vLane c r i := by
  have e : vLane (setLanes c d xs) r i = (mapGet zeroAt (mapWrite zeroAt c.v (64 * d) (xs.map (BitVec.ofNat 32))) (64 * r + i)).toNat := rfl
  rw [e, mapGet_mapWrite, List.length_map, h]
  by_cases k : r = d
  · subst k
    rw [if_pos (by omega), if_pos rfl, show 64 * r + i - 64 * r = i by omega, List.getElem?_map,
      List.getElem?_eq_getElem (by omega)]
    simp [List.getD, List.getElem?_eq_getElem (show i < xs.length by omega)]
  · rw [if_neg (by omega), if_neg k]
    rfl

theorem vLanes_setLanes_ne (c : QCtx) (d : Nat) (xs : List Nat) (h : xs.length = 64) (r : Nat) (k : r ≠ d) :
    vLanes (setLanes c d xs) r = vLanes c r := by
  apply List.ext_getElem?
  intro i
  rw [vLanes_getElem?, vLanes_getElem?]
  by_cases hi : i < 64
  · rw [if_pos hi, if_pos hi, vLane_setLanes _ _ _ h _ _ hi, if_neg k]
  · rw [if_neg hi, if_neg hi]

theorem vLane_lt (c : QCtx) (r i : Nat) : vLane c r i < 2 ^ 32 := (mapGet zeroAt c.v (64 * r + i)).isLt

/-- Lane i of an operand: a pair's two words, or the low bits of the lane. -/
theorem lanesOf_getD (c : QCtx) (fmt r i : Nat) (hi : i < 64) : (lanesOf c fmt r).getD i 0
    = if isPair fmt then vLane c r i + vLane c (r + 1) i * 2 ^ 32 else vLane c r i % 2 ^ fmtBits fmt := by
  unfold lanesOf
  split
  · have e : ((vLanes c r).zip (vLanes c (r + 1)))[i]? = some (vLane c r i, vLane c (r + 1) i) :=
      List.getElem?_zip_eq_some.2 ⟨by rw [vLanes_getElem?, if_pos hi], by rw [vLanes_getElem?, if_pos hi]⟩
    rw [List.getD_eq_getElem?_getD, List.getElem?_map, e, Option.map_some, Option.getD_some]
  · rw [List.getD_eq_getElem?_getD, List.getElem?_map, vLanes_getElem?, if_pos hi]
    rfl

theorem putLanes_length (c : QCtx) (r : Nat) (xs : List (Option Nat)) (h : xs.length = 64) (g : Option Nat → Nat → Nat) :
    ((xs.zip (vLanes c r)).map (fun x => g x.1 x.2)).length = 64 := by
  simp [h, vLanes_length]

theorem zipLanes_getD (c : QCtx) (r : Nat) (xs : List (Option Nat)) (h : xs.length = 64) (g : Option Nat → Nat → Nat)
    (i : Nat) (hi : i < 64) :
    ((xs.zip (vLanes c r)).map (fun x => g x.1 x.2)).getD i 0 = g (xs.getD i none) (vLane c r i) := by
  have e : (xs.zip (vLanes c r))[i]? = some (xs.getD i none, vLane c r i) := by
    refine List.getElem?_zip_eq_some.2 ⟨?_, ?_⟩
    · rw [List.getD_eq_getElem?_getD, List.getElem?_eq_getElem (by omega)]
      rfl
    · rw [vLanes_getElem?, if_pos hi]
  rw [List.getD_eq_getElem?_getD, List.getElem?_map, e]
  rfl

/-- Where a vector write puts what: the operand's registers by lane, and no other register. -/
theorem vLane_putLanes (c : QCtx) (fmt d : Nat) (xs : List (Option Nat)) (h : xs.length = 64) (r i : Nat) (hi : i < 64) :
    vLane (putLanes c fmt d xs) r i =
      if isPair fmt then
        (if r = d + 1 then (xs.getD i none).elim (vLane c r i) (fun v => v / 2 ^ 32 % 2 ^ 32)
         else if r = d then (xs.getD i none).elim (vLane c r i) (fun v => v % 2 ^ 32) else vLane c r i)
      else if r = d then (xs.getD i none).elim (vLane c r i) (fun v => v % 2 ^ fmtBits fmt) % 2 ^ 32 else vLane c r i := by
  unfold putLanes
  split
  · rw [vLane_setLanes _ _ _ (putLanes_length c (d + 1) xs h (fun x o => x.elim o (fun v => v / 2 ^ 32 % 2 ^ 32))) _ _ hi]
    rw [zipLanes_getD c (d + 1) xs h (fun x o => x.elim o (fun v => v / 2 ^ 32 % 2 ^ 32)) i hi]
    rw [vLane_setLanes _ _ _ (putLanes_length c d xs h (fun x o => x.elim o (fun v => v % 2 ^ 32))) _ _ hi]
    rw [zipLanes_getD c d xs h (fun x o => x.elim o (fun v => v % 2 ^ 32)) i hi]
    by_cases a : r = d + 1
    · rw [if_pos a, if_pos a, a]
      cases xs.getD i none with
      | none => exact Nat.mod_eq_of_lt (vLane_lt ..)
      | some v => exact Nat.mod_eq_of_lt (Nat.mod_lt _ (by decide))
    · rw [if_neg a, if_neg a]
      by_cases b : r = d
      · rw [if_pos b, if_pos b, b]
        cases xs.getD i none with
        | none => exact Nat.mod_eq_of_lt (vLane_lt ..)
        | some v => exact Nat.mod_eq_of_lt (Nat.mod_lt _ (by decide))
      · rw [if_neg b, if_neg b]
  · rw [vLane_setLanes _ _ _ (putLanes_length c d xs h (fun x o => x.elim o (fun v => v % 2 ^ fmtBits fmt))) _ _ hi]
    rw [zipLanes_getD c d xs h (fun x o => x.elim o (fun v => v % 2 ^ fmtBits fmt)) i hi]
    by_cases b : r = d
    · rw [if_pos b, if_pos b, b]
    · rw [if_neg b, if_neg b]

theorem fmtBits_pair {fmt : Nat} (h : isPair fmt = true) : fmtBits fmt = 64 := by
  simp only [isPair, Bool.or_eq_true, beq_iff_eq] at h
  rcases h with h | h <;> subst h <;> rfl

theorem fmtBits_le {fmt : Nat} (h : isPair fmt = false) (k : okFmt fmt = true) : fmtBits fmt ≤ 32 := by
  have k : fmt ≤ 12 := by simpa [okFmt] using k
  simp only [isPair, Bool.or_eq_false_iff, beq_eq_false_iff_ne, ne_eq] at h
  obtain ⟨h0, hC⟩ := h
  unfold fmtBits
  split <;> omega

/-- Each written lane reads back as its value in the format, the others as before. -/
theorem lanesOf_putLanes (c : QCtx) (fmt d : Nat) (xs : List (Option Nat)) (k : okFmt fmt = true) (h : xs.length = 64)
    (i : Nat) (hi : i < 64) :
    (lanesOf (putLanes c fmt d xs) fmt d).getD i 0
      = (xs.getD i none).elim ((lanesOf c fmt d).getD i 0) (fun v => v % 2 ^ fmtBits fmt) := by
  rw [lanesOf_getD _ _ _ _ hi, lanesOf_getD _ _ _ _ hi, vLane_putLanes _ _ _ _ h _ _ hi, vLane_putLanes _ _ _ _ h _ _ hi]
  by_cases p : isPair fmt = true
  · rw [if_pos p, if_pos p, if_pos p, if_pos p, if_neg (by omega), if_pos rfl, if_pos rfl]
    cases xs.getD i none with
    | none => rw [Option.elim_none, Option.elim_none, Option.elim_none]
    | some v =>
      simp only [Option.elim]
      rw [fmtBits_pair p]
      rw [show (2 : Nat) ^ 64 = 2 ^ 32 * 2 ^ 32 from (Nat.pow_add 2 32 32), Nat.mod_mul, Nat.mul_comm (v / 2 ^ 32 % 2 ^ 32)]
  · have le := fmtBits_le (by simpa using p) k
    rw [if_neg p, if_neg p, if_neg p, if_pos rfl]
    cases xs.getD i none with
    | none =>
      simp only [Option.elim]
      rw [Nat.mod_eq_of_lt (vLane_lt ..)]
    | some v =>
      simp only [Option.elim]
      have lt : v % 2 ^ fmtBits fmt < 2 ^ 32 :=
        lt_of_lt_of_le (Nat.mod_lt _ (by positivity)) (Nat.pow_le_pow_right (by decide) le)
      rw [Nat.mod_eq_of_lt lt, Nat.mod_mod]

theorem putLanes_regs (c : QCtx) (fmt d : Nat) (xs : List (Option Nat)) :
    putLanes c fmt d xs = { c with v := (putLanes c fmt d xs).v } := by
  unfold putLanes
  split <;> rfl

end Sys2Proof.Machine
end

