-- ==== Sys2Proof/Tests/Slice0.lean ====
section
/-!
SUPPORT. Tests of the model: ill-formed commands that the check refuses.
-/
namespace Sys2Proof.Tests

/-- A field set with every field 0. -/
def f0 : QFields := ⟨0, 0, 0, 0, 0, 0, 0, false, 0, 0⟩

theorem test_wf_quern : (Instr.nop 36 f0).wf = false := by decide
theorem test_wf_fields : (Instr.nop 0 { f0 with d := 64 }).wf = false := by decide
theorem test_wf_link : (Instr.glLcmdClr 96).wf = false := by decide
theorem test_wf_flit : (Instr.dataFlit 0 []).wf = false := by decide
theorem test_wf_granule : (Instr.granuleConvertDone 16).wf = false := by decide
theorem test_wf_context : (Instr.slInvalCtx 64).wf = false := by decide
theorem test_wf_word : (Instr.hopCntClear (2 ^ 32)).wf = false := by decide
theorem test_wf_req : (Instr.txnBegin 256).wf = false := by decide

end Sys2Proof.Tests
end

/-!
PROOF. The commands that clear counters (O6, O7).
-/
namespace Sys2Proof.Spec

open Sys2Proof Sys2Proof.Machine

/-! ### Clearing as a relation -/

theorem mem_countersOf (base n w o : Nat) :
    o ∈ countersOf base n w ↔ ∃ k, k < n ∧ bitOf w k = true ∧ o = base + 4 * k := by
  simp only [countersOf, List.mem_map, List.mem_filter, List.mem_range, and_assoc, eq_comm (a := o)]

theorem Cleared.refl (s : State) : Cleared s s [] := ⟨rfl, by simp, fun _ _ => rfl⟩

/-- Clearing some registers and then others clears both lists. -/
theorem Cleared.trans {s t u : State} {a b : List Nat} (h : Cleared s t a) (k : Cleared t u b) : Cleared s u (a ++ b) := by
  obtain ⟨ht, hzero, hkeep⟩ := h
  obtain ⟨hu, kzero, kkeep⟩ := k
  refine ⟨by rw [hu, ht], fun o ho => ?_, fun o ho => ?_⟩
  · by_cases hb : o ∈ b
    · exact kzero o hb
    · rw [kkeep o hb]
      exact hzero o ((List.mem_append.1 ho).resolve_right hb)
  · obtain ⟨ha, hb⟩ := not_or.1 (mt List.mem_append.2 ho)
    rw [kkeep o hb, hkeep o ha]

theorem cleared_regSet (s : State) (off : Nat) : Cleared s (regSet s off 0) [off] := by
  refine ⟨regSet_only s off 0, fun o ho => ?_, fun o ho => ?_⟩
  · rw [regGet_regSet, if_pos (List.mem_singleton.1 ho), Nat.zero_mod]
  · rw [regGet_regSet, if_neg (mt List.mem_singleton.2 ho)]

theorem cleared_clearCounters (s : State) (base w n : Nat) :
    Cleared s (clearCounters s base w n) (countersOf base n w) := by
  refine ⟨clearCounters_only s base w n, fun o ho => ?_, fun o ho => ?_⟩
  · rw [regGet_clearCounters, if_pos ((mem_countersOf ..).1 ho)]
  · rw [regGet_clearCounters, if_neg (mt (mem_countersOf ..).2 ho)]

theorem cleared_clearIf (s : State) (w b off : Nat) :
    Cleared s (clearIf s w b off) (if bitOf w b then [off] else []) := by
  unfold clearIf
  split
  · exact cleared_regSet s off
  · exact Cleared.refl s

theorem cleared_clearLeatUfb (s : State) : Cleared s (clearLeatUfb s) (countersOf oLeatUfbCnt 16 0xFFFF) :=
  cleared_clearCounters ..

theorem cleared_quernClear {s : State} {q : Nat} (h : quernExists s q = true) (off : Nat) :
    Cleared s (quernClear s q off) [off + 0x40 * q] := by
  rw [quernClear, if_pos h]
  exact cleared_regSet ..

/-- The registers of an absent Quern ignore a clear (R415). -/
theorem quernClear_absent {s : State} {q : Nat} (h : quernExists s q = false) (off : Nat) : quernClear s q off = s := by
  rw [quernClear, if_neg (by simp [h])]

theorem cleared_clearLink {s : State} {l : Nat} (h : linkExists s l = true) (hl : l < 96) :
    Cleared s (clearLink s l)
      ([oGlLcrcCnt + 0x20 * l] ++ [oGlLreplayCnt + 0x20 * l] ++ [oGlLretrainCnt + 0x20 * l]) := by
  rw [clearLink, if_pos (by simp [h, hl])]
  exact ((cleared_regSet ..).trans (cleared_regSet ..)).trans (cleared_regSet ..)

/-- The registers of an absent link ignore a clear (R415). -/
theorem clearLink_absent {s : State} {l : Nat} (h : linkExists s l = false ∨ 96 ≤ l) : clearLink s l = s := by
  rw [clearLink, if_neg]
  rcases h with h | h
  · simp [h]
  · simp [Nat.not_lt.2 h]

/-! ### The commands -/

theorem gives_leatCntClear (s : State) (w : Nat) :
    Gives (.leatCntClear w) s (fun t => Cleared s t (countersOf oLeatHaloWaitCnt 3 w
      ++ if bitOf w 3 then countersOf oLeatUfbCnt 16 0xFFFF else [])) := by
  refine ⟨_, rfl, (cleared_clearCounters s oLeatHaloWaitCnt w 3).trans ?_⟩
  split
  · exact cleared_clearLeatUfb _
  · exact Cleared.refl _

theorem gives_glCntClear (s : State) (w : Nat) :
    Gives (.glCntClear w) s (fun t => Cleared s t (countersOf oGlWriteoffCnt 4 w
      ++ (if bitOf w 4 then [oGlBadmsgCnt] else []) ++ if bitOf w 5 then [oGlTopoMismatchCnt] else [])) :=
  ⟨_, rfl, ((cleared_clearCounters ..).trans (cleared_clearIf ..)).trans (cleared_clearIf ..)⟩

/-- Settles O6: every clear register is a run of counters by bit, with at most two more bits after it, so the clearings
compose. -/
theorem counterClearWritesClearExactlyTheNamedCounters : Obligations.CounterClearWritesClearExactlyTheNamedCounters :=
  fun s w =>
    ⟨⟨_, rfl, cleared_clearCounters ..⟩, ⟨_, rfl, cleared_clearCounters ..⟩, ⟨_, rfl, cleared_clearCounters ..⟩,
      ⟨_, rfl, cleared_clearCounters ..⟩, ⟨_, rfl, cleared_clearCounters ..⟩, ⟨_, rfl, cleared_clearCounters ..⟩,
      ⟨_, rfl, cleared_clearCounters ..⟩, ⟨_, rfl, cleared_clearCounters ..⟩, ⟨_, rfl, cleared_clearCounters ..⟩,
      gives_leatCntClear s w, gives_glCntClear s w⟩

/-- Settles O7, by the unit's presence for a Quern's and a link's counters; the others are one register, one bit or
one run. -/
theorem singleClearsClearExactlyTheirCounters : Obligations.SingleClearsClearExactlyTheirCounters := by
  intro s w q link
  refine ⟨fun h => ?_, fun h => ?_, fun h hl => ?_, fun h => ?_, ?_, ?_, ?_, ?_, ?_, ?_, ?_⟩
  · exact ⟨⟨_, rfl, cleared_quernClear h _⟩, ⟨_, rfl, cleared_quernClear h _⟩, ⟨_, rfl, cleared_quernClear h _⟩⟩
  · exact ⟨⟨_, rfl, quernClear_absent h _⟩, ⟨_, rfl, quernClear_absent h _⟩, ⟨_, rfl, quernClear_absent h _⟩⟩
  · exact ⟨_, rfl, cleared_clearLink h hl⟩
  · exact ⟨_, rfl, clearLink_absent h⟩
  · exact ⟨_, rfl, cleared_clearLeatUfb s⟩
  · exact ⟨_, rfl, cleared_clearIf s w 0 oSailMissCnt⟩
  · exact ⟨_, rfl, cleared_clearIf s w 0 oBadAxiCnt⟩
  · exact ⟨_, rfl, cleared_regSet s oFhRingDropCnt⟩
  · exact ⟨_, rfl, cleared_regSet s oFhCperDropCnt⟩
  · exact ⟨_, rfl, cleared_regSet s oGovPfwDiscCnt⟩
  · exact ⟨_, rfl, cleared_regSet s oGovCjDropCnt⟩

end Sys2Proof.Spec

/-!
PROOF. Management writes (O13).
-/
namespace Sys2Proof.Spec

open Sys2Proof Sys2Proof.Machine

/-! ### Registers of 32 bits -/

theorem regGet_lt (s : State) (off : Nat) : regGet s off < 2 ^ 32 := (mapGet (regDefault s.chip.variant) s.regs off).isLt

@[simp] theorem regGet_apb (s : State) (data off : Nat) (err : Bool) : regGet (apb s data err) off = regGet s off := rfl

/-- The value a write of v leaves in a register of RW and W1C fields (R7). -/
def codedValue (f : RegFam) (old v : Nat) : Nat :=
  ((old &&& (2 ^ 32 - 1 - f.rw)) ||| (v &&& f.rw)) &&& (2 ^ 32 - 1 - (v &&& f.w1c))

theorem codedValue_lt (f : RegFam) {old v : Nat} (ho : old < 2 ^ 32) (hv : v < 2 ^ 32) : codedValue f old v < 2 ^ 32 :=
  calc codedValue f old v ≤ (old &&& (2 ^ 32 - 1 - f.rw)) ||| (v &&& f.rw) := Nat.and_le_left
    _ < 2 ^ 32 := Nat.or_lt_two_pow (Nat.and_le_left.trans_lt ho) (Nat.and_le_left.trans_lt hv)

/-- A plain write touches only its own register, which takes the coded value. -/
theorem oneReg_plainWrite (s : State) (f : RegFam) (off : Nat) {v : Nat} (hv : v < 2 ^ 32) :
    OneReg s (plainWrite s f off v) off (codedValue f (regGet s off) v) := by
  have e : plainWrite s f off v = regSet s off (codedValue f (regGet s off) v) := rfl
  rw [e]
  refine ⟨regSet_only .., ?_, fun o ho => ?_⟩
  · rw [regGet_regSet, if_pos rfl, Nat.mod_eq_of_lt (codedValue_lt f (regGet_lt s off) hv)]
  · rw [regGet_regSet, if_neg ho]

/-! ### The outcomes of a write (R403, R404) -/

theorem registerWrite_refused (s : State) (req : Nat) {addr strb : Nat} (v : Nat)
    (h : strb ≠ 15 ∨ addr % 4 ≠ 0 ∨ 0x7000 ≤ addr) : registerWrite s req addr v strb = apb s 0 true := by
  rw [registerWrite, if_pos (by simpa [or_assoc] using h)]

theorem registerWrite_noRegister (s : State) (req : Nat) {addr : Nat} (v : Nat) (ha : addr % 4 = 0) (hw : addr < 0x7000)
    (hat : regAt addr = none) : registerWrite s req addr v 15 = apb s 0 false := by
  rw [registerWrite, if_neg (by simp [ha, hw]), hat]

/-- A write that starts nothing beyond its register is the plain write, answered without an error. -/
theorem registerWrite_plain {s : State} {f : RegFam} {addr v : Nat} (req : Nat) (h : PlainWrite s f addr v) :
    registerWrite s req addr v 15 = apb (plainWrite s f addr (v % 2 ^ 32)) 0 false := by
  obtain ⟨ha, hw, hat, hpres, hrwt, hcmd, htbl, hcancel, hgrade, hside⟩ := h
  rw [registerWrite, if_neg (by simp [ha, hw]), hat]
  dsimp only
  rw [if_pos hpres, codedWrite, if_neg hcmd, if_neg htbl, if_neg hcancel, if_neg hgrade]
  dsimp only
  rw [if_pos hrwt, hside]

/-- Settles O13, by the three outcomes of a transfer: refused, ignored, or the coded value in the one register. -/
theorem managementWritesFollowTheAccessCodes : Obligations.ManagementWritesFollowTheAccessCodes := by
  intro s req addr v strb
  refine ⟨fun h => ⟨_, rfl, registerWrite_refused s req v h⟩,
    fun ha hw hat => ⟨_, rfl, registerWrite_noRegister s req v ha hw hat⟩, fun f h => ⟨_, rfl, ?_⟩⟩
  · rw [registerWrite_plain req h]
    obtain ⟨-, hval, hkeep⟩ := oneReg_plainWrite s f addr (Nat.mod_lt v (by decide : 0 < 2 ^ 32))
    exact ⟨rfl, hval, hkeep⟩

/-- The hypotheses of the last clause of O13 are met: IRQ_STATUS takes a plain write of any value. -/
theorem plainWrite_irqStatus (v : Nat) : ∃ f, PlainWrite State.reset f oIrqStatus v :=
  ⟨_, by decide, by decide, rfl, by decide, rfl, by decide, by decide, by decide, by decide, fun _ => rfl⟩

end Sys2Proof.Spec

/-!
PROOF. Accesses of the host ports (O45).
-/
namespace Sys2Proof.Spec

open Sys2Proof Sys2Proof.Machine

/-! ### Responses and counters -/

theorem regGet_bump (s : State) (off j : Nat) :
    regGet (bump s off) j = if j = off then min (regGet s off + 1) 0xFFFFFFFF else regGet s j := by
  have lt : min (regGet s off + 1) 0xFFFFFFFF < 2 ^ 32 := by omega
  rw [bump, bumpBy, regGet_regSet, Nat.mod_eq_of_lt lt]

@[simp] theorem regGet_respond (s : State) (r : AxiReq) (code : Nat) (data : List Byte) (poison : List Bool) (off : Nat) :
    regGet (respond s r code data poison) off = regGet s off := rfl

theorem respOf_respond (s : State) (r : AxiReq) (code : Nat) (data : List Byte) (poison : List Bool) :
    respOf (respond s r code data poison) r.narrow r.port = some ⟨code, data, poison⟩ := by
  rw [respOf, respond, mapGet_mapSet, if_pos rfl]

/-- A response without data, after an update of registers alone. -/
theorem onlyResponds_respond {s u : State} (h : u = { s with regs := u.regs }) (r : AxiReq) (code : Nat) :
    OnlyResponds s (respond u r code [] []) r code := by
  refine ⟨?_, respOf_respond .., fun k hk => ?_⟩
  · rw [h]
    rfl
  · rw [respond, mapGet_mapSet, if_neg hk, h]

/-- A refusal that counts: the response comes and the counter advances, saturating. -/
theorem onlyResponds_respond_bump (s : State) (off : Nat) (r : AxiReq) (code : Nat) :
    OnlyResponds s (respond (bump s off) r code [] []) r code ∧
      regGet (respond (bump s off) r code [] []) off = min (regGet s off + 1) 0xFFFFFFFF :=
  ⟨onlyResponds_respond rfl r code, by rw [regGet_respond, regGet_bump, if_pos rfl]⟩

/-! ### Refusals at the port (R270, R399, R402) -/

theorem portRefusal_unsupported (s : State) {r : AxiReq} (atomic : Bool) (h : r.unsupported = true) :
    portRefusal s r atomic = some (respond (bump s oBadAxiCnt) r slverr [] []) := by
  rw [portRefusal, if_pos h]

/-- Space 0b11 answers DECERR; of another chip it is also counted. -/
theorem portRefusal_reservedSpace (s : State) {r : AxiReq} (atomic : Bool) (h : r.unsupported = false)
    (h3 : (baddrOf r.addr).space = 3) :
    ∃ u, u = { s with regs := u.regs } ∧ portRefusal s r atomic = some (respond u r decerr [] []) := by
  by_cases hr : (baddrOf r.addr).remote = true
  · exact ⟨bump s oMmRemoteBadCnt, rfl, by simp [portRefusal, h, h3, hr]⟩
  · exact ⟨s, rfl, by simp [portRefusal, h, h3, hr]⟩

/-- A read or a write that the port refuses leaves what the refusal leaves. -/
theorem doAxi_refused {s t : State} {r : AxiReq} {kind : Nat} (hk : kind < 2) (h : portRefusal s r false = some t) :
    doAxi s kind r = t := by
  match kind, hk with
  | 0, _ => rw [doAxi, doAxiRead, h]
  | 1, _ => rw [doAxi, doAxiWrite, h]

/-! ### Reads -/

theorem doAxiRead_local {s : State} {r : AxiReq} (h : portRefusal s r false = none) (hl : isRemote s r.addr = false) :
    doAxiRead s r =
      let d := rangeRead s (baddrOf r.addr).space (baddrOf r.addr).off r.len (readClass s r) r.narrow
      if d.1.ok then respond d.2 r okay d.1.data d.1.poison else respond d.2 r decerr [] [] := by
  rw [doAxiRead, h]
  simp [hl]

theorem doAxiRead_remote {s : State} {r : AxiReq} (h : portRefusal s r false = none) (hr : isRemote s r.addr = true) :
    doAxiRead s r = sendVc4 s 0x38 (baddrOf r.addr).chip (r.addr / 64 * 64)
      (roundUp (r.addr + r.len) 64 - r.addr / 64 * 64) [] 0 (.host r (r.addr % 64)) := by
  rw [doAxiRead, h]
  simp [hr]

/-! ### Writes of a whole scratch burst (R246, R400) -/

theorem burstSpan_wholeBurst {off : Nat} (h : off % 64 = 0) : burstSpan off 64 = [(off, 0, 64)] := by
  have hn : (off + 64 - 1) / 64 - off / 64 + 1 = 1 := by omega
  have hb : (off / 64 + 0) * 64 = off := by omega
  rw [burstSpan, if_neg (by decide), hn]
  simp only [List.range_one, List.map_cons, List.map_nil, hb]
  simp

theorem placeIn_whole {bs : List Byte} (h : bs.length = 64) : placeIn 0 bs = bs := by
  simp [placeIn, padTo, zeroBytes, h]

/-- A whole burst is one part, with all its strobes. -/
theorem axiBursts_wholeBurst {r : AxiReq} {off : Nat} (ho : off % 64 = 0) (hlen : r.len = 64) (hdata : r.data.length = 64)
    (hstrb : r.strb = []) :
    axiBursts r off = [(off, r.data, List.replicate 64 true, r.poison.getD 0 false)] := by
  have hd : r.data.take 64 = r.data := List.take_of_length_le hdata.le
  simp [axiBursts, hlen, hstrb, burstSpan_wholeBurst ho, hd, placeIn_whole hdata]

/-- With every strobe set the new bytes replace the old ones. -/
theorem mergeBytes_allStrobes {n : Nat} {old new : List Byte} (ho : old.length = n) (hn : new.length = n) :
    mergeBytes old new (List.replicate n true) = new := by
  apply List.ext_getElem
  · simp [mergeBytes, ho, hn]
  · intro i _ _
    simp [mergeBytes]

@[simp] theorem flipInto_scratch (s : State) (u space b : Nat) : (flipInto s u space b).mem.scratch = s.mem.scratch := by
  unfold flipInto
  extract_lets
  split <;> rfl

theorem scratchWrite_whole_scratch (s : State) (b : Nat) {data : List Byte} (h : data.length = 64) (poison : Bool) :
    (scratchWrite s b data (List.replicate 64 true) poison).mem.scratch = mapWrite zeroAt s.mem.scratch (b * 64) data := by
  have hold : (scrRead s (b * 64) 64).length = 64 := mapRead_length ..
  have hall : (List.replicate 64 true).all id = true := by decide
  rw [scratchWrite]
  dsimp only
  rw [if_pos hall, flipInto_scratch, mergeBytes_allStrobes hold h]

theorem doAxiWrite_wholeScratchBurst {s : State} {r : AxiReq} (h : portRefusal s r false = none)
    (hl : isRemote s r.addr = false) (hs : (baddrOf r.addr).space = 1) (hok : scratchOk s (baddrOf r.addr).off 64 = true)
    (ho : (baddrOf r.addr).off % 64 = 0) (hlen : r.len = 64) (hdata : r.data.length = 64) (hstrb : r.strb = []) :
    doAxiWrite s r = respond (scratchWrite s ((baddrOf r.addr).off / 64) r.data (List.replicate 64 true)
      (r.poison.getD 0 false)) r okay [] [] := by
  have hmem : memOk s 1 (baddrOf r.addr).off = true := by
    rw [memOk, Nat.div_mul_cancel (Nat.dvd_of_mod_eq_zero ho)]
    simpa using hok
  rw [doAxiWrite, h]
  simp [hl, hs, axiBursts_wholeBurst ho hlen hdata hstrb, hmem, burstWrite]

/-- A byte of the burst reads as written, every other byte of scratch as before. -/
theorem scratchWrite_whole_byte (s : State) {off : Nat} (ho : off % 64 = 0) {data : List Byte} (h : data.length = 64)
    (poison : Bool) (a : Nat) :
    mapGet zeroAt (scratchWrite s (off / 64) data (List.replicate 64 true) poison).mem.scratch a
      = if off ≤ a ∧ a < off + 64 then data.getD (a - off) 0 else mapGet zeroAt s.mem.scratch a := by
  rw [scratchWrite_whole_scratch s _ h, mapGet_mapWrite, Nat.div_mul_cancel (Nat.dvd_of_mod_eq_zero ho), h]
  rfl

/-! ### Atomics (R241, R253) -/

theorem doAxiAtomic_dram {s : State} {r : AxiReq} (h : r.unsupported = false) (hs : (baddrOf r.addr).space = 0) :
    doAxiAtomic s r = respond (bump s oAtomicRejCnt) r slverr [] [] := by
  rw [doAxiAtomic]
  simp [h, hs]

/-- A well-formed atomic on scratch of this chip, but for the compare form, is performed at its home. -/
theorem doAxiAtomic_scratch {s : State} {r : AxiReq} (h : portRefusal s r true = none) (hl : isRemote s r.addr = false)
    (hs : (baddrOf r.addr).space = 1) (hok : scratchOk s ((baddrOf r.addr).off / 64 * 64) 64 = true)
    (hend : r.bigEndian = false) (hlen : r.len = 4 ∨ r.len = 8) (hal : (baddrOf r.addr).off % r.len = 0) (hop : r.op < 9) :
    doAxiAtomic s r =
      let a := atomicAt s (baddrOf r.addr).off r.len r.op (leAt r.data 0 r.len) 0
      respond a.2.2 r okay (leBytes r.len a.1) [a.2.1] := by
  have h9 : r.op ≠ 9 := by omega
  have h10 : ¬ 10 ≤ r.op := by omega
  have hsize : atomicSize r = r.len := by rw [atomicSize, if_neg h9]
  have hpow : (r.len == 4 || r.len == 8) = true := by simpa using hlen
  rw [doAxiAtomic, hsize, h]
  simp [hs, hend, hpow, hal, h9, h10, hl, hok]

/-! ### Arrival (R261, R377, R394) -/

theorem axiArrive_absent {s : State} {r : AxiReq} (kind : Nat) (h : portExists s r = false) : axiArrive s kind r = s := by
  simp [axiArrive, h]

theorem axiArrive_powerFail {s : State} {r : AxiReq} (kind : Nat) (h : portExists s r = true) (hp : s.gov.pfActive = true) :
    axiArrive s kind r = respond s r slverr [] [] := by
  simp [axiArrive, h, hp]

theorem axiArrive_held {s : State} {r : AxiReq} (kind : Nat) (h : portExists s r = true) (hp : s.gov.pfActive = false)
    (hw : mustWait s r = true) :
    axiArrive s kind r = { s with port := { s.port with
      waiting := s.port.waiting ++ [⟨s.port.nextHeld, kind, r⟩], nextHeld := s.port.nextHeld + 1 } } := by
  simp [axiArrive, h, hp, hw]

theorem axiArrive_atOnce {s : State} {r : AxiReq} (kind : Nat) (h : AtOnce s r) : axiArrive s kind r = doAxi s kind r := by
  obtain ⟨-, hport, hpf, hwait⟩ := h
  simp [axiArrive, hport, hpf, hwait]

/-! ### The five commands -/

/-- Command `cmd` with operand `r` brings the access `r'` of a kind to its port: 0 a read, 1 a write, 2 an atomic. -/
def Brings (cmd : Instr) (kind : Nat) (r r' : AxiReq) : Prop :=
  (cmd = .axiRead r ∧ kind = 0 ∧ r' = { r with narrow := false }) ∨
    (cmd = .axiWrite r ∧ kind = 1 ∧ r' = { r with narrow := false }) ∨ (cmd = .axiAtomic r ∧ kind = 2 ∧ r' = r) ∨
    (cmd = .narrowSectorRequest false r ∧ kind = 0 ∧ r' = { r with narrow := true }) ∨
    (cmd = .narrowSectorRequest true r ∧ kind = 1 ∧ r' = { r with narrow := true })

/-- Every host access command is the arrival of its access, whose burst is the operand's. -/
theorem Brings.exec_eq {cmd : Instr} {kind : Nat} {r r' : AxiReq} (h : Brings cmd kind r r') (s : State) :
    exec cmd s = onPort r (axiArrive s kind r') ∧ axiBroken r' = axiBroken r := by
  rcases h with ⟨rfl, rfl, rfl⟩ | ⟨rfl, rfl, rfl⟩ | ⟨rfl, rfl, rfl⟩ | ⟨rfl, rfl, rfl⟩ | ⟨rfl, rfl, rfl⟩ <;>
    exact ⟨rfl, rfl⟩

theorem Brings.gives_arrive {cmd : Instr} {kind : Nat} {r r' : AxiReq} (h : Brings cmd kind r r') {s t : State}
    {P : State → Prop} (hb : axiBroken r = false) (ht : axiArrive s kind r' = t) (hP : P t) : Gives cmd s P :=
  ⟨t, by rw [(h.exec_eq s).1, onPort, hb, ht]; rfl, hP⟩

theorem Brings.gives_atOnce {cmd : Instr} {kind : Nat} {r r' : AxiReq} (h : Brings cmd kind r r') {s t : State}
    {P : State → Prop} (ha : AtOnce s r') (ht : doAxi s kind r' = t) (hP : P t) : Gives cmd s P :=
  h.gives_arrive ((h.exec_eq s).2 ▸ ha.1) ((axiArrive_atOnce kind ha).trans ht) hP

/-- Settles O45: each command is the arrival of its access, which its port refuses, holds or performs, one lemma for each
outcome. -/
theorem hostPortsPerformRefuseOrHoldAccesses : Obligations.HostPortsPerformRefuseOrHoldAccesses := by
  intro s r r' cmd kind h
  replace h : Brings cmd kind r r' := h
  refine ⟨fun hb => ?broken, fun hb hx => ?absent, fun hb hx hp => ?powerFail, fun hb hx hp hw => ?held,
    fun ha hk hu => ?unsupported, fun ha hk hu h3 => ?reserved, fun ha hk hu h0 => ?atomicDram,
    fun ha hk hn hl => ?readLocal, fun ha hk hn hr => ?readRemote,
    fun ha hk hn hl hs hok ho hlen hdata hstrb => ?write, fun ha hk hn hl hs hok hend hlen hal hop => ?atomic⟩
  case broken => rw [(h.exec_eq s).1, onPort, if_pos hb]
  case absent => exact h.gives_arrive hb (axiArrive_absent kind hx) rfl
  case powerFail => exact h.gives_arrive hb (axiArrive_powerFail kind hx hp) (onlyResponds_respond rfl ..)
  case held => exact h.gives_arrive hb (axiArrive_held kind hx hp hw) rfl
  case unsupported =>
    exact h.gives_atOnce ha (doAxi_refused hk (portRefusal_unsupported s false hu)) (onlyResponds_respond_bump ..)
  case reserved =>
    obtain ⟨u, hu', hsome⟩ := portRefusal_reservedSpace s false hu h3
    exact h.gives_atOnce ha (doAxi_refused hk hsome) (onlyResponds_respond hu' ..)
  case atomicDram =>
    subst hk
    exact h.gives_atOnce ha (doAxiAtomic_dram hu h0) (onlyResponds_respond_bump ..)
  case readLocal =>
    subst hk
    refine h.gives_atOnce ha (doAxiRead_local hn hl) ?_
    dsimp only
    split <;> exact ⟨rfl, respOf_respond ..⟩
  case readRemote =>
    subst hk
    exact h.gives_atOnce ha (doAxiRead_remote hn hr) rfl
  case write =>
    subst hk
    exact h.gives_atOnce ha (doAxiWrite_wholeScratchBurst hn hl hs hok ho hlen hdata hstrb)
      ⟨respOf_respond .., scratchWrite_whole_byte s ho hdata _⟩
  case atomic =>
    subst hk
    exact h.gives_atOnce ha (doAxiAtomic_scratch hn hl hs hok hend hlen hal hop) ⟨rfl, respOf_respond ..⟩

/-! ### A concrete access -/

/-- The state after reset with its ports open (R377). -/
def openedReset : State := { State.reset with boot := { State.reset.boot with opened := true } }

/-- 64 bytes of 1 to the first burst of scratch. -/
def onesBurst : AxiReq := ⟨0, false, baddrLocal 1 0, 64, List.replicate 64 1, [], [], 0, false, 0, false⟩

theorem atOnce_onesBurst : AtOnce openedReset onesBurst := ⟨by decide, by decide, rfl, by decide⟩

/-- The write clause of O45 applies: the burst is answered OKAY and its first byte reads 1. -/
theorem axiWrite_onesBurst : Gives (.axiWrite onesBurst) openedReset (fun t =>
    respOf t false 0 = some ⟨okay, [], []⟩ ∧ mapGet zeroAt t.mem.scratch 0 = 1) := by
  obtain ⟨-, -, -, -, -, -, -, -, -, hwrite, -⟩ := hostPortsPerformRefuseOrHoldAccesses openedReset onesBurst onesBurst
    (.axiWrite onesBurst) 1 (.inr (.inl ⟨rfl, rfl, rfl⟩))
  obtain ⟨t, he, hresp, hbytes⟩ := hwrite atOnce_onesBurst rfl (by decide) (by decide) (by decide) (by decide) (by decide)
    rfl (by decide) rfl
  exact ⟨t, he, hresp, (hbytes 0).trans (by decide)⟩

end Sys2Proof.Spec

/-!
PROOF. What every step keeps (O3), the Turn count (O4) and its latches (O12).
-/
namespace Sys2Proof.Spec

open Sys2Proof Sys2Proof.Machine

/-! ### What a step can do -/

/-- A step on an empty queue only advances the cycle; any other runs the front command on the queue's rest. -/
theorem step_next {s t : State} (h : step s = .next t) :
    (s.pending = [] ∧ t = { s with time := { s.time with cycle := min (s.time.cycle + 1) 2047 } }) ∨
      ∃ c rest, s.pending = c :: rest ∧ exec c { s with pending := rest } = .next t := by
  unfold step at h
  split at h
  next c rest hp => exact .inr ⟨c, rest, hp, h⟩
  next hp =>
    cases h
    exact .inl ⟨hp, rfl⟩

/-! ### The clock a command is compared with -/

theorem clockOf_turn_lt (c : Instr) {s : State} (h : s.time.turn < 2 ^ 48) : (clockOf c s).time.turn < 2 ^ 48 := by
  unfold clockOf
  split
  next => exact Nat.two_pow_pos 48
  next => exact Nat.mod_lt _ (Nat.two_pow_pos 48)
  next => exact h
  next => exact h

/-- Commands other than TURN_BOUNDARY and RESET leave the Turn count. -/
theorem clockOf_turn (c : Instr) (s : State) :
    (clockOf c s).time.turn = s.time.turn ∨ (∃ i, c = .turnBoundary i) ∨ ∃ n, c = .reset n := by
  unfold clockOf
  split
  next n => exact .inr (.inr ⟨n, rfl⟩)
  next i => exact .inr (.inl ⟨i, rfl⟩)
  next => exact .inl rfl
  next => exact .inl rfl

/-- Commands other than the requester's own TURN_NOW_LO_READ and RESET leave its latch (R31). -/
theorem clockOf_latch (c : Instr) (s : State) (req : Nat) :
    mapGet natZeroAt (clockOf c s).time.hiLatch req = mapGet natZeroAt s.time.hiLatch req ∨ c = .turnNowLoRead req ∨
      ∃ n, c = .reset n := by
  unfold clockOf
  split
  next n => exact .inr (.inr ⟨n, rfl⟩)
  next => exact .inl rfl
  next r =>
    by_cases hr : req = r
    · exact .inr (.inl (hr ▸ rfl))
    · exact .inl ((mapGet_mapSet ..).trans (if_neg hr))
  next => exact .inl rfl

/-- After a step the Turn count and its latches are as before or those of the front command. -/
theorem step_clock {s t : State} (h : step s = .next t) :
    (t.time.turn = s.time.turn ∧ t.time.hiLatch = s.time.hiLatch) ∨
      ∃ c, s.pending.head? = some c ∧ t.time.turn = (clockOf c s).time.turn ∧
        t.time.hiLatch = (clockOf c s).time.hiLatch := by
  rcases step_next h with ⟨-, rfl⟩ | ⟨c, rest, hp, he⟩
  · exact .inl ⟨rfl, rfl⟩
  · have hk := exec_kept c _ t he
    have hclock : (clockOf c { s with pending := rest }).time = (clockOf c s).time := by
      unfold clockOf
      split <;> rfl
    exact .inr ⟨c, by rw [hp, List.head?_cons], hclock ▸ hk.turn, hclock ▸ hk.latch⟩

/-! ### The form every step keeps (O3) -/

theorem exec_inv {c : Instr} {s t : State} (h : exec c s = .next t) (hs : Inv s) : Inv t := by
  obtain ⟨-, -, hmem, hregs, hturn, -, hshape⟩ := exec_keeps h
  obtain ⟨smem, sregs, sshape, sturn⟩ := hs
  exact ⟨hmem smem, hregs sregs, hshape sshape, hturn ▸ clockOf_turn_lt c sturn⟩

/-- Settles O3: a cycle on the empty queue touches the cycle alone, and every command keeps the form (`exec_keeps`). -/
theorem everyStepTakesOneCommandAndKeepsTheForm : Obligations.EveryStepTakesOneCommandAndKeepsTheForm := by
  intro s t h
  rcases step_next h with ⟨hp, rfl⟩ | ⟨c, rest, hp, he⟩
  · exact ⟨hp.trans (congrArg List.tail hp).symm, rfl, id⟩
  · obtain ⟨hchip, hpend, -⟩ := exec_keeps he
    exact ⟨hpend.trans (congrArg List.tail hp).symm, hchip, exec_inv (s := { s with pending := rest }) he⟩

theorem inv_reset : Inv State.reset := ⟨by decide, by decide, by decide, by decide⟩

/-- O3 applies to the first step after reset. -/
theorem step_reset_inv : ∃ t, step State.reset = .next t ∧ Inv t :=
  ⟨_, rfl, (everyStepTakesOneCommandAndKeepsTheForm _ _ rfl).2.2 inv_reset⟩

/-! ### The Turn count (O4) -/

/-- Settles O4: the Turn count after a command is that of `clockOf`. -/
theorem onlyTheTurnBoundaryAdvancesTheTurn : Obligations.OnlyTheTurnBoundaryAdvancesTheTurn := by
  refine ⟨fun s i => ⟨_, rfl, ?boundary⟩, fun s n => ⟨_, rfl, ?reset⟩, fun s t h => ?step⟩
  case boundary => exact (exec_kept (.turnBoundary i) s _ rfl).turn
  case reset => exact (exec_kept (.reset n) s _ rfl).turn
  case step =>
    rcases step_clock h with ⟨hturn, -⟩ | ⟨c, hc, hturn, -⟩
    · exact .inl hturn
    · rw [hturn, hc]
      simpa only [Option.some.injEq] using clockOf_turn c s

/-! ### The latches of TURN_NOW_HI (O12) -/

theorem readReg_turnNowHi (s : State) (req : Nat) :
    readReg s req oTurnNowHi = mapGet natZeroAt s.time.hiLatch req := if_pos rfl

/-- A read of TURN_NOW_LO latches the high bits for its requester and no other (R31). -/
theorem readReg_turnNowRead (s : State) (req other : Nat) : readReg (turnNowRead s req) other oTurnNowHi =
    if other = req then s.time.turn / 2 ^ 32 % 2 ^ 16 else readReg s other oTurnNowHi := by
  rw [readReg_turnNowHi, readReg_turnNowHi]
  exact mapGet_mapSet ..

/-- Settles O12: the latches after a command are those of `clockOf`. -/
theorem turnNowLatchesPerRequester : Obligations.TurnNowLatchesPerRequester := by
  refine ⟨fun s req => ⟨_, rfl, rfl, rfl, ?own, fun other ho => ?others⟩, fun s n req => ⟨_, rfl, ?reset⟩,
    fun s t req h => ?step⟩
  case own => rw [readReg_turnNowRead, if_pos rfl]
  case others => rw [readReg_turnNowRead, if_neg ho]
  case reset =>
    have hlatch := (exec_kept (.reset n) s _ rfl).latch
    exact (readReg_turnNowHi ..).trans (by rw [hlatch]; rfl)
  case step =>
    rw [readReg_turnNowHi, readReg_turnNowHi]
    rcases step_clock h with ⟨-, hlatch⟩ | ⟨c, hc, -, hlatch⟩
    · exact .inl (by rw [hlatch])
    · rw [hlatch, hc]
      simpa only [Option.some.injEq] using clockOf_latch c s req

end Sys2Proof.Spec

/-!
PROOF. The power manager's answer (O14).
-/
namespace Sys2Proof.Spec

open Sys2Proof Sys2Proof.Machine

/-- The cluster of a request after its acknowledgement (R19, R406): released, at the voltage reported and, unless the
request was refused, at the point asked for; a refused point is no longer wanted. -/
def settledCluster (s : State) (r : PmReq) (refused : Bool) (volt : Nat) (x : Cluster) : Cluster :=
  { x with
    held := false
    late := x.late + (s.time.turn - r.since)
    volt := volt % 2 ^ 12
    point := if refused then x.point else r.point
    want := if refused && r.kind == 0 then x.point else x.want
    stepDown := if refused && r.kind == 0 then 0 else x.stepDown }

/-- Of the clock bundles an acknowledgement changes the request and its cluster; events of a voltage spread touch none. -/
theorem pmAck_clk {s : State} {r : PmReq} (h : s.clk.pmReq = some r) (refused : Bool) (volt : Nat) :
    (pmAck s refused volt).clk = { s.clk with
      pmReq := none
      clusters := modAt s.clk.clusters r.cluster (settledCluster s r refused volt) } := by
  unfold pmAck
  rw [h]
  dsimp only
  rw [(EventOnly.foldl _ (fun _ _ => event_only ..) _ _).clk]
  split <;> rfl

theorem clusterAt_pmAck {s : State} {r : PmReq} (h : s.clk.pmReq = some r) (hr : r.cluster < s.clk.clusters.length)
    (refused : Bool) (volt c : Nat) : clusterAt (pmAck s refused volt) c =
      if c = r.cluster then settledCluster s r refused volt (clusterAt s r.cluster) else clusterAt s c := by
  rw [clusterAt, pmAck_clk h]
  exact getD_modAt _ _ _ _ _ hr

/-- After 4096 Turns without an acknowledgement the event is all that happens (R406). -/
theorem pmTimeout_due {s : State} {r : PmReq} (h : s.clk.pmReq = some r) (hd : r.since + 4096 ≤ s.time.turn) :
    pmTimeout s = event s 0xC (clusterUnit r.cluster) 0 0 0 := by
  rw [pmTimeout, h]
  exact if_pos hd

/-- Settles O14: the clock bundles after an acknowledgement are those of `pmAck_clk`, and a time-out is one event. -/
theorem thePowerManagersAnswerSettlesTheRequest : Obligations.ThePowerManagersAnswerSettlesTheRequest := by
  intro s r hinv hreq hlt
  obtain ⟨-, -, hshape, -⟩ := hinv
  refine ⟨fun refused volt => ⟨_, rfl, ?ack⟩, fun hd => ⟨_, rfl, ?timeout⟩⟩
  case ack =>
    have hclk := pmAck_clk hreq refused volt
    have hat := clusterAt_pmAck hreq (cluster_lt hshape hlt) refused volt
    have hown := (hat r.cluster).trans (if_pos rfl)
    exact ⟨by rw [hclk], by rw [hclk], by rw [hown]; rfl, by rw [hown]; rfl, by rw [hown]; rfl,
      fun c hc => (hat c).trans (if_neg hc)⟩
  case timeout =>
    rw [pmTimeout_due hreq hd]
    exact ⟨rfl, (event_only ..).clk⟩

/-- The state after reset at Turn 4096, a point asked for at Turn 0 still unanswered. -/
def askingReset : State :=
  { State.reset with
    time := { TimeSt.reset with turn := 4096 }
    clk := { ClockSt.reset with pmReq := some ⟨2, 5, 0, 0⟩ } }

theorem inv_askingReset : Inv askingReset := ⟨by decide, by decide, by decide, by decide⟩

/-- Both clauses of O14 apply: the answer puts the point in force, its absence is due. -/
theorem pmAck_askingReset :
    Gives (.pmAck false 700) askingReset (fun t => t.clk.pmReq = none ∧ (clusterAt t 2).point = 5) ∧
      Gives .pmAckTimeout askingReset (fun t => t.clk.pmReq = some ⟨2, 5, 0, 0⟩) := by
  obtain ⟨hack, htimeout⟩ :=
    thePowerManagersAnswerSettlesTheRequest askingReset ⟨2, 5, 0, 0⟩ inv_askingReset rfl (by decide)
  obtain ⟨t, he, hnone, -, -, -, hpoint, -⟩ := hack false 700
  obtain ⟨u, hu, -, hclk⟩ := htimeout (by decide)
  exact ⟨⟨t, he, hnone, hpoint⟩, ⟨u, hu, congrArg ClockSt.pmReq hclk⟩⟩

end Sys2Proof.Spec

/-!
PROOF. The Wheel boundary (O18).
-/
namespace Sys2Proof.Spec

open Sys2Proof Sys2Proof.Machine

/-- A resource whose counts do not add up (R391, R392). -/
def LedgerFails (s : State) : Prop := ∃ x ∈ ledgerAll, (ledgerOf s x.1 x.2).ok = false

theorem find_ledger_isSome (s : State) :
    (ledgerAll.find? (fun x => !(ledgerOf s x.1 x.2).ok)).isSome = true ↔ LedgerFails s := by
  simp only [List.find?_isSome, Bool.not_eq_true', LedgerFails]

/-- Once a failure is latched the check changes nothing (R392). -/
theorem ledgerWheel_latched {s : State} (h : s.gov.ledgerErr = true) : ledgerWheel s = s := by
  unfold ledgerWheel
  split
  next => exact if_pos h
  next => rfl

/-- The check latches an error exactly where one was latched or a resource fails (R392). -/
theorem ledgerErr_ledgerWheel (s : State) :
    (ledgerWheel s).gov.ledgerErr = true ↔ s.gov.ledgerErr = true ∨ LedgerFails s := by
  rw [← find_ledger_isSome]
  unfold ledgerWheel
  split
  next c i hf =>
    refine iff_of_true ?_ (.inr (by simp [hf]))
    split
    next hl => exact hl
    next => rfl
  next hf => simp [hf]

theorem wheelBoundary_notDue {s : State} (i : WheelIn) (h : s.time.turn % 512 ≠ 0) : wheelBoundary s i = s := by
  rw [wheelBoundary, if_pos (by simp [h])]

/-- What precedes the check at a Wheel boundary: temperatures, memory and, in Sepia mode, the link status (R22, R237,
R366). -/
def wheelWork (s : State) (i : WheelIn) : State :=
  let u := memWheel (tempAsk (thermalWheel s) [9, 10, 11, 12, 13]) i
  if u.fh.sepia then sendLinkStatus u else u

theorem wheelBoundary_due {s : State} (i : WheelIn) (h : s.time.turn % 512 = 0) (hr : s.boot.running = true) :
    wheelBoundary s i = ledgerWheel (wheelWork s i) := by
  rw [wheelBoundary, if_neg (by simp [h, hr])]
  rfl

/-- Settles O18: at a Wheel boundary the check follows the Wheel's work, at any other Turn nothing is done. -/
theorem theWheelBoundaryChecksEveryResource : Obligations.TheWheelBoundaryChecksEveryResource := by
  intro s i
  refine ⟨fun hd hr => ⟨_, rfl, ?due⟩, fun hn => ⟨_, rfl, wheelBoundary_notDue i hn⟩⟩
  case due =>
    rw [wheelBoundary_due i hd hr]
    exact ⟨rfl, ledgerErr_ledgerWheel _, ledgerWheel_latched⟩

/-- A block in operation after reset with one link credit more than is configured. -/
def surplusReset : State :=
  { State.reset with
    boot := { BootSt.reset with running := true }
    gl := { GenleSt.reset with links := modAt GenleSt.reset.links 0 (fun k => { k with cred := [1], cfg := [0] }) } }

/-- The Wheel clause of O18 applies at Turn 0, and latches the credit no one configured. -/
theorem wheelBoundary_surplusReset :
    Gives (.wheelBoundary ⟨[], 0⟩) surplusReset (fun t => t.gov.ledgerErr = true) := by
  obtain ⟨t, he, -, hiff, -⟩ := (theWheelBoundaryChecksEveryResource surplusReset ⟨[], 0⟩).1 rfl rfl
  exact ⟨t, he, hiff.2 (.inr ⟨(0, 0), by decide, by decide⟩)⟩

end Sys2Proof.Spec

/-!
PROOF. Events of one Quern (O22).
-/
namespace Sys2Proof.Spec

open Sys2Proof Sys2Proof.Machine

/-! ### Updates of one Quern -/

/-- An update of Quern q changes that Quern alone, as the update says. -/
theorem onlyQuern_qnMod {s : State} {q : Nat} (h : q < s.qn.q.length) (f : Quern → Quern) :
    OnlyQuern s (qnMod s q f) q ∧ qnAt (qnMod s q f) q = f (qnAt s q) :=
  ⟨⟨rfl, fun p hp => (qnAt_qnMod s q p f h).trans (if_neg hp)⟩, (qnAt_qnMod s q q f h).trans (if_pos rfl)⟩

/-- Two updates of the same Quern are one. -/
theorem qnMod_qnMod (s : State) (q : Nat) (f g : Quern → Quern) :
    qnMod (qnMod s q f) q g = qnMod s q (fun n => g (f n)) := by
  simp only [qnMod, modAt, List.modify_modify_eq]
  rfl

theorem qnAt_congr {s t : State} (h : t.qn = s.qn) (p : Nat) : qnAt t p = qnAt s p := by
  rw [qnAt, h]
  rfl

@[simp] theorem askGrade_qn (s : State) (u g : Nat) : (askGrade s u g).qn = s.qn := by
  unfold askGrade
  extract_lets
  split <;> rfl

/-! ### Failure, overrun and transfer -/

/-- A failed Quern takes no further part; the event and the grade touch no Quern (R342). -/
theorem qnAt_quernFail {s : State} {q : Nat} (h : q < s.qn.q.length) (cls p : Nat) :
    qnAt (quernFail s q cls) p = if p = q then { qnAt s q with lost := true, blocked := true } else qnAt s p := by
  have hqn := (askGrade_qn _ (unitQuern q) 3).trans
    (event_only (qnMod s q (fun n => { n with lost := true, blocked := true })) cls (unitQuern q)
      (qnAt s q).ctx.pc 0 0).qn
  rw [quernFail, qnAt_congr hqn, qnAt_qnMod _ _ _ _ h]

theorem noteOverrun_short (s : State) (q : Nat) {cycles : Nat} (h : cycles ≤ 512) :
    noteOverrun s q cycles = qnMod s q (fun n => { n with lastOver := cycles }) := if_pos h

/-- A short overrun is noted, and a save that waited for its end begins (R27, R28). -/
theorem overrunDone_short {s : State} {q cycles : Nat} (hq : q < s.qn.q.length) (he : quernExists s q = true)
    (hs : (qnAt s q).state ≠ 1) (hc : cycles ≤ 512) :
    OnlyQuern s (overrunDone s q cycles) q ∧ qnAt (overrunDone s q cycles) q = { qnAt s q with
      lastOver := cycles
      state := if (qnAt s q).saving.isSome then 3 else (qnAt s q).state } := by
  have hnoted := onlyQuern_qnMod hq (fun n => { n with lastOver := cycles })
  rw [overrunDone, if_neg (by simp [he, hs]), noteOverrun_short s q hc]
  dsimp only
  rw [hnoted.2]
  dsimp only
  split
  next hb =>
    obtain ⟨hsave, -⟩ := (Bool.and_eq_true ..).mp hb
    rw [qnMod_qnMod, if_pos hsave]
    exact onlyQuern_qnMod hq _
  next hb =>
    refine ⟨hnoted.1, hnoted.2.trans ?_⟩
    split
    next hsave =>
      have hthree : (qnAt s q).state = 3 := by simpa [hsave] using hb
      rw [← hthree]
    next => rfl

/-- A transfer without bytes left and with nothing outstanding frees its tag (R139). -/
theorem xferDone_complete {s : State} {q tag : Nat} {x : Xfer}
    (hx : (qnAt s q).xfers.find? (fun x => x.tag == tag) = some x) (hb : x.bytes = 0) (ho : s.port.outst = []) :
    xferDone s q tag = qnMod s q (fun n => { n with xfers := n.xfers.filter (fun x => x.tag != tag) }) := by
  rw [xferDone, hx]
  simp [hb, ho]

/-- Settles O22: each event is an update of the one Quern, a failure with its event and grade besides. -/
theorem quernEventsChangeTheirQuern : Obligations.QuernEventsChangeTheirQuern := by
  intro s q hinv hq
  obtain ⟨-, -, hshape, -⟩ := hinv
  have hlt : q < s.qn.q.length := quern_lt hshape hq
  refine ⟨⟨_, rfl, onlyQuern_qnMod hlt _⟩, fun he hrun hlost => ⟨_, rfl, ?hang⟩,
    fun cycles he hrun hc => ⟨_, rfl, overrunDone_short hlt he hrun hc⟩, fun tag x hx hb ho => ⟨_, rfl, ?done⟩⟩
  case hang =>
    rw [if_pos (by simp [he, hrun, hlost])]
    exact ⟨rfl, (qnAt_quernFail hlt 0x6 q).trans (if_pos rfl), fun p hp => (qnAt_quernFail hlt 0x6 p).trans (if_neg hp)⟩
  case done =>
    rw [xferDone_complete hx hb ho]
    exact onlyQuern_qnMod hlt _

/-! ### Concrete events -/

/-- The state after reset with Quern 0 in a work item and its transfer of tag 3 moved. -/
def runningQuernReset : State :=
  { State.reset with qn := { QuernsSt.reset with
      q := modAt QuernsSt.reset.q 0 (fun n => { n with state := 1, xfers := [⟨3, true, 0, 0, 0, [], [], 0, 64⟩] }) } }

theorem inv_runningQuernReset : Inv runningQuernReset := ⟨by decide, by decide, by decide, by decide⟩

/-- The clauses of O22 apply: Quern 0 fails or frees its tag, and Quern 1 notes its overrun. -/
theorem quernEvents_runningQuernReset :
    Gives (.quernHang 0) runningQuernReset (fun t => (qnAt t 0).lost = true) ∧
      Gives (.quernTransferDone 0 3) runningQuernReset (fun t => (qnAt t 0).xfers = []) ∧
      Gives (.overrunEnd 1 512) runningQuernReset (fun t => (qnAt t 1).lastOver = 512) := by
  obtain ⟨-, hang, -, done⟩ := quernEventsChangeTheirQuern runningQuernReset 0 inv_runningQuernReset (by decide)
  obtain ⟨-, -, overrun, -⟩ := quernEventsChangeTheirQuern runningQuernReset 1 inv_runningQuernReset (by decide)
  obtain ⟨t, ht, -, hlost, -⟩ := hang (by decide) (by decide) (by decide)
  obtain ⟨u, hu, -, hfreed⟩ := done 3 ⟨3, true, 0, 0, 0, [], [], 0, 64⟩ (by decide) rfl rfl
  obtain ⟨v, hv, -, hnoted⟩ := overrun 512 (by decide) (by decide) (by decide)
  exact ⟨⟨t, ht, congrArg Quern.lost hlost⟩, ⟨u, hu, (congrArg Quern.xfers hfreed).trans (by decide)⟩,
    ⟨v, hv, congrArg Quern.lastOver hnoted⟩⟩

end Sys2Proof.Spec

/-!
PROOF. Reductions across lanes (O33).
-/
namespace Sys2Proof.Spec

open Sys2Proof Sys2Proof.Machine

/-! ### Issuing and completing an instruction -/

/-- A legal instruction of a running Quern runs its body (R128). -/
theorem issue_of_issues {s : State} {q op : Nat} {f : QFields} (h : Issues s q op f) (body : State → State) :
    issue s q op f body = body s := by
  obtain ⟨hruns, hlegal⟩ := h
  rw [issue, if_pos hruns, if_pos hlegal]

theorem gives_of_issues {cmd : Instr} {s : State} {q op : Nat} {f : QFields} {body : State → State} {P : State → Prop}
    (hexec : exec cmd s = .next (issue s q op f body)) (h : Issues s q op f) (hP : P (body s)) : Gives cmd s P :=
  ⟨body s, hexec.trans (congrArg _ (issue_of_issues h body)), hP⟩

/-- An instruction that writes no floating value only sets its Quern's context. -/
theorem quernSets_completePlain {s : State} {q : Nat} (h : q < s.qn.q.length) (g : QCtx → QCtx) :
    QuernSets s (completePlain s q g) q (nextPc (g (ctxOf s q))) :=
  onlyQuern_qnMod h _

theorem ctxOf_qnMod_of_ctx {s : State} {q : Nat} (h : q < s.qn.q.length) {g : Quern → Quern}
    (hg : (g (qnAt s q)).ctx = ctxOf s q) : ctxOf (qnMod s q g) q = ctxOf s q := by
  rw [ctxOf, qnAt_qnMod _ _ _ _ h, if_pos rfl, hg]

theorem sReg_ctxMod_nextPc {s : State} {q : Nat} (h : q < s.qn.q.length) (r : Nat) :
    sReg (ctxOf (ctxMod s q nextPc) q) r = sReg (ctxOf s q) r := by
  rw [ctxOf_ctxMod _ _ _ h]
  rfl

/-- Completion, with the first-NaN record and its trap or without, leaves the scalar registers (R117). -/
theorem sReg_complete {s : State} {q : Nat} (h : q < s.qn.q.length) (op : Nat) (f : QFields) (nan : Option Nat)
    (src : Bool) (r : Nat) : sReg (ctxOf (complete s q op f nan src) q) r = sReg (ctxOf s q) r := by
  cases nan with
  | none => exact sReg_ctxMod_nextPc h r
  | some i =>
    unfold complete
    dsimp only
    split
    next =>
      split
      next => rw [trapQ, ctxOf_qnMod_of_ctx (by rwa [qnMod_length]) rfl, ctxOf_qnMod_of_ctx h rfl]
      next => rw [sReg_ctxMod_nextPc (by rwa [qnMod_length]), ctxOf_qnMod_of_ctx h rfl]
    next => exact sReg_ctxMod_nextPc h r

/-- A result written to s[D] reads back after completion. -/
theorem sReg_complete_setS {s : State} {q : Nat} (h : q < s.qn.q.length) (op d v : Nat) (fl : Flags) (f : QFields)
    (nan : Option Nat) (src : Bool) :
    sReg (ctxOf (complete (ctxMod s q (fun c => raiseFlags (setS c d v) fl)) q op f nan src) q) d = v % 2 ^ 64 := by
  rw [sReg_complete (by rwa [ctxMod, qnMod_length]), ctxOf_ctxMod _ _ _ h]
  exact (sReg_setS ..).trans (if_pos rfl)

/-! ### The order of R57 -/

/-- An aligned significand is the value over the common exponent. -/
theorem signedMant_aligned (n : Bool) (m : Nat) {d e : Int} (h : e ≤ d) :
    ((signedMant n (m * 2 ^ (d - e).toNat) : Int) : ℚ) * 2 ^ e = ratOf n m d := by
  have hpow : (2 : ℚ) ^ (d - e).toNat * 2 ^ e = 2 ^ d := by
    rw [← zpow_natCast, Int.toNat_of_nonneg (by omega), ← zpow_add₀ two_ne_zero, sub_add_cancel]
  cases n <;> simp [signedMant, ratOf, mul_assoc, hpow]

/-- The order of finite values compares them as rationals. -/
theorem cmpFV_fin (n k : Bool) (m l : Nat) (d e : Int) : cmpFV (.fin n m d) (.fin k l e) =
    if ratOf n m d < ratOf k l e then -1 else if ratOf n m d = ratOf k l e then 0 else 1 := by
  rw [← signedMant_aligned n m (min_le_left d e), ← signedMant_aligned k l (min_le_right d e)]
  have hpos : (0 : ℚ) < 2 ^ min d e := zpow_pos two_pos _
  simp only [mul_lt_mul_iff_left₀ hpos, mul_left_inj' hpos.ne', Int.cast_lt, Int.cast_inj, cmpFV, sub_neg,
    sub_eq_zero]

theorem ltZ_fin (n k : Bool) (m l : Nat) (d e : Int) : ltZ (.fin n m d) (.fin k l e) = true ↔
    ratOf n m d < ratOf k l e ∨ ratOf n m d = ratOf k l e ∧ n = true ∧ k = false := by
  rw [ltZ, cmpFV_fin]
  split_ifs with hlt heq
  · simp [hlt]
  · simp [heq, FV.neg?]
  · simp [hlt, heq]

/-- The place of a number in the order of R57: the infinities outermost, a finite value by its value, -0 below +0. -/
def orderKey : FV → WithBot (WithTop (ℚ ×ₗ Bool))
  | .inf true => ⊥
  | .fin n m e => ((toLex (ratOf n m e, !n) : ℚ ×ₗ Bool) : WithTop (ℚ ×ₗ Bool))
  | _ => ⊤

/-- Among numbers the order of R57 is that of their places. -/
theorem ltZ_iff_orderKey {a b : FV} (ha : a.isNan = false) (hb : b.isNan = false) :
    ltZ a b = true ↔ orderKey a < orderKey b := by
  cases a with
  | nan => cases ha
  | inf n =>
    cases b with
    | nan => cases hb
    | inf k => cases n <;> cases k <;> decide
    | fin k l e => cases n <;> simp [ltZ, cmpFV, orderKey, FV.neg?]
  | fin n m d =>
    cases b with
    | nan => cases hb
    | inf k => cases k <;> simp [ltZ, cmpFV, orderKey, FV.neg?, ← WithBot.coe_top]
    | fin k l e =>
      rw [ltZ_fin]
      simp [orderKey, Prod.Lex.toLex_lt_toLex, Bool.lt_iff]

/-! ### The index of the extreme (R58) -/

/-- x takes the place of the extreme v: it is above it for a maximum, below it for a minimum. -/
def beats (isMax : Bool) (x v : FV) : Bool := if isMax then ltZ v x else ltZ x v

theorem beats_iff {isMax : Bool} {x v : FV} (hx : x.isNan = false) (hv : v.isNan = false) :
    beats isMax x v = true ↔ if isMax then orderKey v < orderKey x else orderKey x < orderKey v := by
  cases isMax
  · exact ltZ_iff_orderKey hx hv
  · exact ltZ_iff_orderKey hv hx

theorem not_beats_iff {isMax : Bool} {x v : FV} (hx : x.isNan = false) (hv : v.isNan = false) :
    beats isMax x v = false ↔ if isMax then orderKey x ≤ orderKey v else orderKey v ≤ orderKey x := by
  rw [← Bool.not_eq_true, beats_iff hx hv]
  cases isMax <;> exact not_lt

theorem not_beats_self {isMax : Bool} {v : FV} (hv : v.isNan = false) : beats isMax v v = false := by
  rw [not_beats_iff hv hv]
  cases isMax <;> exact le_rfl

theorem not_beats_of_beats {isMax : Bool} {x v : FV} (hx : x.isNan = false) (hv : v.isNan = false)
    (h : beats isMax x v = true) : beats isMax v x = false := by
  rw [beats_iff hx hv] at h
  rw [not_beats_iff hv hx]
  cases isMax <;> exact le_of_lt h

/-- What beats the extreme beats every number that does not beat it. -/
theorem beats_of_beats_of_not_beats {isMax : Bool} {x v w : FV} (hx : x.isNan = false) (hv : v.isNan = false)
    (hw : w.isNan = false) (h : beats isMax x v = true) (k : beats isMax w v = false) : beats isMax x w = true := by
  rw [beats_iff hx hv] at h
  rw [not_beats_iff hw hv] at k
  rw [beats_iff hx hw]
  cases isMax
  · exact lt_of_lt_of_le h k
  · exact lt_of_le_of_lt k h

/-- The value v at index i is the first extreme of the list: none beats it, and it beats each before it. -/
def FirstExtreme (isMax : Bool) (vs : List FV) (i : Nat) (v : FV) : Prop :=
  vs[i]? = some v ∧ ∀ j w, vs[j]? = some w → beats isMax w v = false ∧ (j < i → beats isMax v w = true)

theorem FirstExtreme.noNan {isMax : Bool} {vs : List FV} {i : Nat} {v : FV} (h : FirstExtreme isMax vs i v)
    (hn : ∀ v ∈ vs, v.isNan = false) : v.isNan = false :=
  hn v (List.mem_of_getElem? h.1)

theorem getElem?_append_singleton_eq_some {α : Type} {xs : List α} {x w : α} {j : Nat} :
    (xs ++ [x])[j]? = some w ↔ xs[j]? = some w ∨ j = xs.length ∧ w = x := by
  rcases lt_trichotomy j xs.length with h | rfl | h
  · simp [List.getElem?_append_left h, h.ne]
  · simp [eq_comm]
  · simp [h.ne', h.le, h]

/-- A value that does not beat the first extreme leaves it. -/
theorem FirstExtreme.append_of_not_beats {isMax : Bool} {xs : List FV} {i : Nat} {v x : FV}
    (h : FirstExtreme isMax xs i v) (k : beats isMax x v = false) : FirstExtreme isMax (xs ++ [x]) i v := by
  obtain ⟨hat, hall⟩ := h
  refine ⟨getElem?_append_singleton_eq_some.2 (.inl hat), fun j w hw => ?_⟩
  rcases getElem?_append_singleton_eq_some.1 hw with hold | ⟨rfl, rfl⟩
  · exact hall j w hold
  · obtain ⟨hlt, -⟩ := List.getElem?_eq_some_iff.1 hat
    exact ⟨k, fun hi => absurd hi (by omega)⟩

/-- A value that beats the first extreme is the first extreme after it. -/
theorem FirstExtreme.append_of_beats {isMax : Bool} {xs : List FV} {i : Nat} {v x : FV}
    (h : FirstExtreme isMax xs i v) (hn : ∀ v ∈ xs, v.isNan = false) (hx : x.isNan = false)
    (k : beats isMax x v = true) : FirstExtreme isMax (xs ++ [x]) xs.length x := by
  have hv := h.noNan hn
  obtain ⟨-, hall⟩ := h
  refine ⟨getElem?_append_singleton_eq_some.2 (.inr ⟨rfl, rfl⟩), fun j w hw => ?_⟩
  rcases getElem?_append_singleton_eq_some.1 hw with hold | ⟨rfl, rfl⟩
  · have hwn := hn w (List.mem_of_getElem? hold)
    have hbeat := beats_of_beats_of_not_beats hx hv hwn k (hall j w hold).1
    exact ⟨not_beats_of_beats hx hwn hbeat, fun _ => hbeat⟩
  · exact ⟨not_beats_self hx, fun hi => absurd hi (lt_irrefl _)⟩

/-- One step of the scan for the extreme: the value with its index, or the extreme so far. -/
def keepExtreme (isMax : Bool) (best : Option (FV × Nat)) (x : FV × Nat) : Option (FV × Nat) :=
  match best with
  | none => some x
  | some b => if beats isMax x.1 b.1 then some x else some b

/-- Without a NaN the index is that of the scan. -/
theorem argMaxMin_of_noNan {isMax : Bool} {vs : List FV} (h : ∀ v ∈ vs, v.isNan = false) :
    argMaxMin isMax vs = (vs.zipIdx.foldl (keepExtreme isMax) none).elim 0 Prod.snd := by
  rw [argMaxMin, List.findIdx?_eq_none_iff.2 h]
  dsimp only
  congr 2
  funext best x
  cases best <;> rfl

/-- With a NaN the index is that of the first. -/
theorem argMaxMin_of_nan {isMax : Bool} {vs : List FV} {i : Nat} (h : vs.findIdx? FV.isNan = some i) :
    argMaxMin isMax vs = i := by
  rw [argMaxMin, h]

/-- The scan of numbers ends at their first extreme. -/
theorem scan_firstExtreme (isMax : Bool) (vs : List FV) (hne : vs ≠ []) (hn : ∀ v ∈ vs, v.isNan = false) :
    ∃ v i, vs.zipIdx.foldl (keepExtreme isMax) none = some (v, i) ∧ FirstExtreme isMax vs i v := by
  induction vs using List.reverseRecOn with
  | nil => exact absurd rfl hne
  | append_singleton xs x ih =>
    obtain ⟨hxs, hx⟩ : (∀ v ∈ xs, v.isNan = false) ∧ x.isNan = false := by simpa [or_imp, forall_and] using hn
    rw [List.zipIdx_append, List.foldl_append]
    by_cases hnil : xs = []
    · subst hnil
      refine ⟨x, 0, rfl, rfl, fun j w hw => ?_⟩
      obtain ⟨rfl, rfl⟩ : j = 0 ∧ w = x := by simpa using getElem?_append_singleton_eq_some.1 hw
      exact ⟨not_beats_self hx, fun hi => absurd hi (lt_irrefl _)⟩
    · obtain ⟨v, i, hscan, hext⟩ := ih hnil hxs
      rw [hscan]
      by_cases hb : beats isMax x v = true
      · exact ⟨x, xs.length, by simp [keepExtreme, hb], hext.append_of_beats hxs hx hb⟩
      · exact ⟨v, i, by simp [keepExtreme, hb], hext.append_of_not_beats (by simpa using hb)⟩

theorem argMaxMin_firstExtreme (isMax : Bool) {vs : List FV} (hne : vs ≠ []) (hn : ∀ v ∈ vs, v.isNan = false) :
    ∃ v, FirstExtreme isMax vs (argMaxMin isMax vs) v := by
  obtain ⟨v, i, hscan, hext⟩ := scan_firstExtreme isMax vs hne hn
  rw [argMaxMin_of_noNan hn, hscan]
  exact ⟨v, hext⟩

/-! ### The instructions -/

/-- Settles O33: each form runs the fold its clause names, the index is that of the scan's first extreme, and s[D] reads
back after completion. -/
theorem reductionsFoldTheActiveLanesInOrder : Obligations.ReductionsFoldTheActiveLanesInOrder := by
  intro s q f c xs
  have sets {g : QCtx → QCtx} (hruns : quernRuns s q = true) := quernSets_completePlain (quernRuns_lt hruns) g
  exact ⟨fun h => gives_of_issues rfl h rfl, fun h => gives_of_issues rfl h rfl, fun h => gives_of_issues rfl h rfl,
    fun h => gives_of_issues rfl h rfl, fun h => gives_of_issues rfl h (sets h.1), fun h => gives_of_issues rfl h (sets h.1),
    fun isMax vs hne => ⟨fun i hi => argMaxMin_of_nan hi, fun hn => argMaxMin_firstExtreme isMax hne hn⟩,
    ltZ_fin, fun y op hruns => sReg_complete_setS (quernRuns_lt hruns) ..⟩

/-! ### Concrete reductions -/

theorem Reduces.sReg_eq {s t : State} {q op : Nat} {f : QFields} {y : FV × Flags} (h : Reduces s t q op f y)
    (hruns : quernRuns s q = true) : sReg (ctxOf t q) f.d = elemCode f.fi y.1 % 2 ^ 64 := by
  rw [h]
  exact sReg_complete_setS (quernRuns_lt hruns) ..

theorem QuernSets.sReg_eq {s t : State} {q d v : Nat} {c : QCtx} (h : QuernSets s t q (nextPc (setS c d v))) :
    sReg (ctxOf t q) d = v % 2 ^ 64 := by
  rw [ctxOf, h.2]
  exact (sReg_setS ..).trans (if_pos rfl)

theorem Gives.imp {cmd : Instr} {s : State} {P Q : State → Prop} (h : Gives cmd s P) (k : ∀ t, P t → Q t) :
    Gives cmd s Q := by
  obtain ⟨t, he, ht⟩ := h
  exact ⟨t, he, k t ht⟩

/-- The examples of R58: (-0, +0, +0, 3, 3) and (1, NaN, 7, NaN). -/
theorem argMaxMin_examples :
    argMaxMin true [.fin true 0 0, .fin false 0 0, .fin false 0 0, .fin false 3 0, .fin false 3 0] = 3 ∧
      argMaxMin false [.fin true 0 0, .fin false 0 0, .fin false 0 0, .fin false 3 0, .fin false 3 0] = 0 ∧
      argMaxMin true [.fin false 1 0, fvNaN, .fin false 7 0, fvNaN] = 1 := by decide

/-- A context with -0 in lane 0 of v0, 3 in lanes 5 and 9 and +0 in the others; p1 makes lanes 5 and 9 active. -/
def reducedCtx : QCtx :=
  { QCtx.reset with v := [(0, 0x80000000), (5, 0x40400000), (9, 0x40400000)], p := [(1, 0x220)] }

/-- The state after reset with Quern 0 in a work item in that context. -/
def reducingReset : State :=
  { State.reset with qn := { QuernsSt.reset with q := modAt QuernsSt.reset.q 0 (fun n =>
      { n with state := 1, item := some ⟨0, 0, 0, 0, false, 0, 0, 0, 0, 0, false⟩, ctx := reducedCtx }) } }

/-- A reduction of v0 in binary32 into s3 over the lanes of a predicate register. -/
def reduceFields (pred : Nat) : QFields := ⟨3, 0, 0, 0, 1, 0, 0, false, pred, 0⟩

theorem activeVals_reducingReset :
    activeVals (ctxOf reducingReset 0) 1 0 1 = [.fin false 0xC00000 (-22), .fin false 0xC00000 (-22)] := by decide

theorem sum_reducingReset : elemCode 1 (foldLanes (fpAdd (vfmt 1) (rmq reducingReset 0 (reduceFields 1)))
    (activeVals (ctxOf reducingReset 0) 1 0 1)).1 % 2 ^ 64 = 0x40C00000 := by
  rw [activeVals_reducingReset]
  decide

theorem sumOfSquares_reducingReset : elemCode 1 (foldLanes (fun a x => fpFma (vfmt 1)
    (rmq reducingReset 0 (reduceFields 1)) x x a) (activeVals (ctxOf reducingReset 0) 1 0 1)).1 % 2 ^ 64 = 0x41900000 := by
  rw [activeVals_reducingReset]
  decide

/-- The forms of O33 apply: over lanes 5 and 9 the sum is 6 and that of squares 18; of all lanes the first maximum is in
lane 5 and the minimum in lane 0. The word is as legal for VRMAX and VRMIN. -/
theorem reductions_reducingReset :
    Gives (.vrsum 0 (reduceFields 1)) reducingReset (fun t => sReg (ctxOf t 0) 3 = 0x40C00000) ∧
      Gives (.vrssq 0 (reduceFields 1)) reducingReset (fun t => sReg (ctxOf t 0) 3 = 0x41900000) ∧
      Issues reducingReset 0 0x82 (reduceFields 0) ∧ Issues reducingReset 0 0x83 (reduceFields 0) ∧
      Gives (.vrargmax 0 (reduceFields 0)) reducingReset (fun t => sReg (ctxOf t 0) 3 = 5) ∧
      Gives (.vrargmin 0 (reduceFields 0)) reducingReset (fun t => sReg (ctxOf t 0) 3 = 0) := by
  have hruns : quernRuns reducingReset 0 = true := by decide
  obtain ⟨vrsum, vrssq, -⟩ := reductionsFoldTheActiveLanesInOrder reducingReset 0 (reduceFields 1)
  obtain ⟨-, -, -, -, vrargmax, vrargmin, -⟩ := reductionsFoldTheActiveLanesInOrder reducingReset 0 (reduceFields 0)
  exact ⟨(vrsum ⟨hruns, by decide⟩).imp fun _ h => (h.sReg_eq hruns).trans sum_reducingReset,
    (vrssq ⟨hruns, by decide⟩).imp fun _ h => (h.sReg_eq hruns).trans sumOfSquares_reducingReset,
    ⟨hruns, by decide⟩, ⟨hruns, by decide⟩,
    (vrargmax ⟨hruns, by decide⟩).imp fun _ h => h.sReg_eq.trans (by decide),
    (vrargmin ⟨hruns, by decide⟩).imp fun _ h => h.sReg_eq.trans (by decide)⟩

end Sys2Proof.Spec

/-!
PROOF. Accumulator sets (O43).
-/
namespace Sys2Proof.Spec

open Sys2Proof Sys2Proof.Machine

/-! ### Traps and completion as updates of one Quern -/

theorem quernTraps_trapQ {s : State} {q : Nat} (h : q < s.qn.q.length) (code : Nat) : QuernTraps s (trapQ s q code) q code :=
  onlyQuern_qnMod h _

/-- Completion is one update of the Quern, whose context is left at the trap or moved to the next instruction. -/
theorem complete_eq_qnMod (s : State) (q op : Nat) (f : QFields) (nan : Option Nat) (src : Bool) :
    ∃ g, complete s q op f nan src = qnMod s q g ∧ ∀ n, (g n).ctx = n.ctx ∨ (g n).ctx = nextPc n.ctx := by
  unfold complete
  cases nan with
  | none => exact ⟨_, rfl, fun _ => .inr rfl⟩
  | some i =>
    dsimp only
    split
    next =>
      split
      next => exact ⟨_, qnMod_qnMod .., fun _ => .inl rfl⟩
      next => exact ⟨_, qnMod_qnMod .., fun _ => .inr rfl⟩
    next => exact ⟨_, rfl, fun _ => .inr rfl⟩

@[simp] theorem setOf_nextPc (c : QCtx) (d : Nat) : setOf (nextPc c) d = setOf c d := rfl

@[simp] theorem setOf_raiseFlags (c : QCtx) (fl : Flags) (d : Nat) : setOf (raiseFlags c fl) d = setOf c d := rfl

@[simp] theorem setOf_putSet (c : QCtx) (d : Nat) (x : Option Chain) : setOf (putSet c d x) d = x := by
  by_cases hd : d = 0 <;> simp [Machine.setOf, putSet, hd]

/-- Completion opens and frees no accumulator set. -/
theorem setOf_complete {s : State} {q : Nat} (h : q < s.qn.q.length) (op : Nat) (f : QFields) (nan : Option Nat)
    (src : Bool) (d : Nat) : setOf (ctxOf (complete s q op f nan src) q) d = setOf (ctxOf s q) d := by
  obtain ⟨g, he, hg⟩ := complete_eq_qnMod s q op f nan src
  have hctx : ctxOf (qnMod s q g) q = (g (qnAt s q)).ctx := congrArg Quern.ctx (onlyQuern_qnMod h g).2
  rw [he, hctx]
  rcases hg (qnAt s q) with hkeep | hnext
  · rw [hkeep, ctxOf]
  · rw [hnext, setOf_nextPc, ctxOf]

/-- What an instruction writes to a set before it completes is what the set holds. -/
theorem setOf_complete_putSet {s : State} {q : Nat} (h : q < s.qn.q.length) (op d : Nat) (x : Option Chain) (fl : Flags)
    (f : QFields) (nan : Option Nat) (src : Bool) :
    setOf (ctxOf (complete (ctxMod s q (fun c => raiseFlags (putSet c d x) fl)) q op f nan src) q) d = x := by
  rw [setOf_complete (by rwa [ctxMod, qnMod_length]), ctxOf_ctxMod _ _ _ h, setOf_raiseFlags, setOf_putSet]

/-! ### What a drain touches -/

/-- `QuernSide`, with as many Querns as before: what the parts of a drain keep. -/
def DrainSide (s t : State) (q : Nat) : Prop := QuernSide s t q ∧ t.qn.q.length = s.qn.q.length

theorem DrainSide.trans {s t u : State} {q : Nat} (a : DrainSide s t q) (b : DrainSide t u q) : DrainSide s u q := by
  obtain ⟨⟨ht, hother⟩, hlen⟩ := a
  obtain ⟨⟨hu, hother'⟩, hlen'⟩ := b
  refine ⟨⟨?_, fun p hp => (hother' p hp).trans (hother p hp)⟩, hlen'.trans hlen⟩
  rw [ht] at hu
  exact hu

theorem DrainSide.lt {s t : State} {q : Nat} (a : DrainSide s t q) (h : q < s.qn.q.length) : q < t.qn.q.length :=
  h.trans_eq a.2.symm

theorem drainSide_of_storeOnly {s t : State} {q : Nat} (h : StoreOnly s t q) : DrainSide s t q := by
  obtain ⟨ht, hother, hlen, -⟩ := h
  refine ⟨⟨?_, hother⟩, hlen⟩
  rw [ht]

theorem drainSide_qnMod {s : State} {q : Nat} (h : q < s.qn.q.length) (f : Quern → Quern) : DrainSide s (qnMod s q f) q :=
  ⟨⟨rfl, (onlyQuern_qnMod h f).1.2⟩, qnMod_length ..⟩

theorem drainSide_complete {s : State} {q : Nat} (h : q < s.qn.q.length) (op : Nat) (f : QFields) (nan : Option Nat)
    (src : Bool) : DrainSide s (complete s q op f nan src) q := by
  obtain ⟨g, he, -⟩ := complete_eq_qnMod s q op f nan src
  rw [he]
  exact drainSide_qnMod h g

theorem drainSide_countUnder (s : State) (q n : Nat) : DrainSide s (countUnder s q n) q := by
  unfold countUnder
  split <;> exact ⟨⟨rfl, fun _ _ => rfl⟩, rfl⟩

/-- The words a stochastic rounding draws advance the Sail positions alone (R147). -/
theorem drainSide_tileWords (s : State) (q : Nat) (sr : Bool) (n : Nat) : DrainSide s (tileWords s q sr n).2 q := by
  cases sr <;> exact ⟨⟨rfl, fun _ _ => rfl⟩, rfl⟩

theorem storeOnly_lt {s t : State} {q : Nat} (a : StoreOnly s t q) (h : q < s.qn.q.length) : q < t.qn.q.length := by
  obtain ⟨-, -, hlen, -⟩ := a
  exact h.trans_eq hlen.symm

theorem storeOnly_foldl {α : Type} {q : Nat} (f : State → α → State)
    (hf : ∀ s a, q < s.qn.q.length → StoreOnly s (f s a) q) (l : List α) {s : State} (h : q < s.qn.q.length) :
    StoreOnly s (l.foldl f s) q := by
  induction l generalizing s with
  | nil => exact StoreOnly.rfl
  | cons a l ih =>
    have hstep := hf s a h
    exact hstep.trans (ih (storeOnly_lt hstep h))

theorem storeWrites_storeOnly {α : Type} {s : State} {q : Nat} (h : q < s.qn.q.length) (o : α → Nat)
    (bs : α → List Byte) (l : List α) : StoreOnly s (l.foldl (fun s x => storeWrite s q (o x) (bs x) []) s) q :=
  storeOnly_foldl _ (fun _ _ hs => (storeWrite_only _ _ _ _ _ hs).1) l h

theorem storeMasked_storeOnly {s : State} {q : Nat} (h : q < s.qn.q.length) (o : Nat) (bytes : List Byte)
    (mask : List Bool) : StoreOnly s (storeMasked s q o bytes mask) q := by
  refine storeOnly_foldl _ (fun s x hs => ?_) _ h
  dsimp only
  split
  next => exact StoreOnly.rfl
  next => exact (storeWrite_only _ _ _ _ _ hs).1

theorem putTile_storeOnly {s : State} {q : Nat} (h : q < s.qn.q.length) (o fmt bsize : Nat) (bdir : Bool)
    (rows cols : Nat) (codes scales : List Nat) : StoreOnly s (putTile s q o fmt bsize bdir rows cols codes scales) q := by
  have hcodes (bs : List Byte) (ms : List Bool) := storeMasked_storeOnly h o bs ms
  unfold putTile
  dsimp only
  split
  next => exact hcodes ..
  next => exact (hcodes ..).trans (storeMasked_storeOnly (storeOnly_lt (hcodes ..) h) ..)

/-- A drain writes its outputs, frees its set with the flags raised, and completes (R71, R141). -/
theorem drainOut_eq_complete {s : State} {q : Nat} (h : q < s.qn.q.length) (f : QFields) (ch : Chain) :
    ∃ t fl nan src, DrainSide s t q ∧ drainOut s q f ch
      = complete (ctxMod t q (fun c => raiseFlags (putSet c f.a none) fl)) q 0x33 f nan src := by
  unfold drainOut
  extract_lets c o epi bsize bdir eo cells srcs tBad d eps w
  split
  next ws drew hdrew =>
    have hdraw := drainSide_tileWords s q (decide (f.rnd = 2)) srcs.length
    rw [hdrew] at hdraw
    extract_lets out tiled reduced counted fl
    have htile : StoreOnly drew tiled q := putTile_storeOnly (hdraw.lt h) ..
    have hepi : StoreOnly tiled reduced q := storeWrites_storeOnly (storeOnly_lt htile (hdraw.lt h)) _ _ eps
    exact ⟨counted, fl, _, _,
      (hdraw.trans (drainSide_of_storeOnly (htile.trans hepi))).trans (drainSide_countUnder ..), rfl⟩

theorem drainOut_frees {s : State} {q : Nat} (h : q < s.qn.q.length) (f : QFields) (ch : Chain) :
    setOf (ctxOf (drainOut s q f ch) q) f.a = none ∧ QuernSide s (drainOut s q f ch) q := by
  obtain ⟨t, fl, nan, src, hside, he⟩ := drainOut_eq_complete h f ch
  have ht : q < t.qn.q.length := hside.lt h
  have hfreed := drainSide_qnMod ht (fun n => { n with ctx := raiseFlags (putSet n.ctx f.a none) fl })
  rw [he]
  exact ⟨setOf_complete_putSet ht .., ((hside.trans hfreed).trans (drainSide_complete (hfreed.lt ht) ..)).1⟩

/-! ### The cases of each instruction -/

theorem doMcfg_free {s : State} {q : Nat} {f : QFields} (h : setFree (ctxOf s q) f.d = true) :
    doMcfg s q f = completePlain s q (fun c =>
      if f.d = 0 then { c with cfg0 := sReg c f.a } else { c with cfg1 := sReg c f.a }) := by
  simp [doMcfg, h]

theorem doMcfg_inUse {s : State} {q : Nat} {f : QFields} (h : setFree (ctxOf s q) f.d = false) :
    doMcfg s q f = trapQ s q 1 := by
  simp [doMcfg, h]

/-- The tile a register holds, none for an empty one. -/
def tileReg (s : State) (q r : Nat) : Option Tile := mapGet (fun _ => none) (ctxOf s q).t r

theorem doMmaOpen_refused {s : State} {q : Nat} {f : QFields}
    (h : tileReg s q f.a = none ∨ tileReg s q f.b = none ∨ setFree (ctxOf s q) f.d = false) :
    doMmaOpen s q f = trapQ s q 1 := by
  unfold doMmaOpen
  dsimp only
  split
  next a b ha hb =>
    have hset : setFree (ctxOf s q) f.d = false := by simpa [tileReg, ha, hb] using h
    split
    next => rfl
    next => rw [if_pos (by simp [hset])]
  next => rfl

theorem doMma_closed {s : State} {q : Nat} {f : QFields} (h : setOf (ctxOf s q) f.d = none) :
    doMma s q f = trapQ s q 1 := by
  unfold doMma
  dsimp only
  split
  next hch => simp [h] at hch
  next => rfl

theorem doDrn_closed {s : State} {q : Nat} {f : QFields} (h : setOf (ctxOf s q) f.a = none) :
    doDrn s q f = trapQ s q 1 := by
  simp [doDrn, h]

theorem withStore_free {s : State} {q o n : Nat} (h : StoreFree s q o n) (body : State → State) :
    withStore s q o n false body = body s := by
  obtain ⟨halign, hrange, hbusy⟩ := h
  simp [withStore, halign, hrange, hbusy]

/-- The configuration word pending for the set an instruction names. -/
def pendingCfg (s : State) (q : Nat) (f : QFields) : Nat := if f.d = 0 then (ctxOf s q).cfg0 else (ctxOf s q).cfg1

/-- MMA.OPEN accepts its operands: a permitted pair of tiles, a free set, a configuration for their class, tiles that reach
MMA_K, and accumulators from the C tile or cleared (R65, R68, R140). -/
structure Opens (s : State) (q : Nat) (f : QFields) (a b : Tile) (cls : Nat) (acc : List Nat) (f0 : Flags) : Prop where
  tileA : tileReg s q f.a = some a
  tileB : tileReg s q f.b = some b
  pair : pairClass a b = some cls
  free : setFree (ctxOf s q) f.d = true
  cfg : cfgOk s (pendingCfg s q f) cls f.d (ctxOf s q).a1.isNone = true
  cols : f.md % 64 + 1 ≤ a.cols
  rows : f.md % 64 + 1 ≤ b.rows
  tileC : f.c ≠ 0x3F → (tileReg s q f.c).isSome = true
  acc : openAcc (chainKind (pendingCfg s q f) cls) (if f.c = 0x3F then none else tileReg s q f.c) = some (acc, f0)

/-- The chain MMA.OPEN starts in its set, before its own products (R63). -/
def openedChain (cfg cls : Nat) (a b : Tile) (acc : List Nat) : Chain :=
  ⟨chainKind cfg cls, cls, cfg, 0, 0, false, a.rows, b.cols, a.tscale, b.tscale, false, 0, acc, List.replicate 4096 true⟩

theorem doMmaOpen_opens {s : State} {q : Nat} {f : QFields} {a b : Tile} {cls : Nat} {acc : List Nat} {f0 : Flags}
    (h : Opens s q f a b cls acc f0) :
    doMmaOpen s q f = runMma (ctxMod s q (fun c => if f.d = 0 then { c with cfg0 := 0 } else { c with cfg1 := 0 })) q 0x31 f
      (openedChain (pendingCfg s q f) cls a b acc) a b (f.md % 64 + 1) f0 := by
  obtain ⟨ha, hb, hpair, hfree, hcfg, hcols, hrows, hc, hacc⟩ := h
  have haccepted : ¬ (!setFree (ctxOf s q) f.d || !cfgOk s (pendingCfg s q f) cls f.d (ctxOf s q).a1.isNone
      || decide (a.cols < f.md % 64 + 1) || decide (b.rows < f.md % 64 + 1)
      || (f.c != 0x3F && (tileReg s q f.c).isNone)) = true := by
    simpa [hfree, hcfg, or_iff_not_imp_left, and_assoc, Option.ne_none_iff_isSome] using ⟨hcols, hrows, hc⟩
  unfold tileReg at *
  unfold pendingCfg at *
  simp only [doMmaOpen, ha, hb, hpair, if_neg haccepted, hacc, openedChain]

/-- MMA accepts its operands: the class and shape of the open chain, tiles that reach MMA_K, binary32 under limbs, and no
more products than an FW96 chain may hold (R63, R65, R78). -/
structure Accumulates (s : State) (q : Nat) (f : QFields) (a b : Tile) (ch : Chain) : Prop where
  tileA : tileReg s q f.a = some a
  tileB : tileReg s q f.b = some b
  set : setOf (ctxOf s q) f.d = some ch
  pair : pairClass a b = some ch.cls
  cols : f.md % 64 + 1 ≤ a.cols
  rows : f.md % 64 + 1 ≤ b.rows
  shapeA : a.rows = ch.rows
  shapeB : b.cols = ch.cols
  limbs : cfgLimb ch.cfg ≠ 0 → a.fmt = 1 ∧ b.fmt = 1
  products : ch.kind = .fw96 → ch.products + fwCount ch.cfg (f.md % 64 + 1) ≤ 65536

theorem doMma_accumulates {s : State} {q : Nat} {f : QFields} {a b : Tile} {ch : Chain} (h : Accumulates s q f a b ch) :
    doMma s q f = runMma s q 0x32 f ch a b (f.md % 64 + 1) 0 := by
  obtain ⟨ha, hb, hset, hpair, hcols, hrows, hshapeA, hshapeB, hlimbs, hproducts⟩ := h
  have haccepted : ¬ (pairClass a b != some ch.cls || decide (a.cols < f.md % 64 + 1) || decide (b.rows < f.md % 64 + 1)
      || a.rows != ch.rows || b.cols != ch.cols || (cfgLimb ch.cfg != 0 && (a.fmt != 1 || b.fmt != 1))
      || (ch.kind == .fw96 && decide (65536 < ch.products + fwCount ch.cfg (f.md % 64 + 1)))) = true := by
    simpa [hpair, hshapeA, hshapeB, or_iff_not_imp_left, and_assoc] using ⟨hcols, hrows, hlimbs, hproducts⟩
  unfold tileReg at *
  simp only [doMma, ha, hb, hset, if_neg haccepted]

/-- Bytes the epilogue of a drain writes (R83). -/
def epilogueSpan (f : QFields) : Nat := if f.md % 8 = 0 then 0 else if f.md % 8 = 4 then 256 else 512

/-- A drain may write: its set is open, its output format fits, and its output and epilogue ranges may be used (R79, R141,
R148). -/
structure MayDrain (s : State) (q : Nat) (f : QFields) (ch : Chain) : Prop where
  set : setOf (ctxOf s q) f.a = some ch
  fmt : f.fo = 0xD → ch.kind = .fw96
  out : StoreFree s q (sReg (ctxOf s q) f.b) (tileSpan f.fo (fieldOf f.md 6 4) (bitOf f.md 7) (isShort f.fo))
  epilogue : epilogueSpan f ≠ 0 → storeRangeOk (sReg (ctxOf s q) f.c) (epilogueSpan f) = true ∧
    storeBusy s q (sReg (ctxOf s q) f.c) (epilogueSpan f) = false

/-- An FW96 chain with a ceiling overflow drains nothing: it traps, or under QCR.DRT_SOFT sets f0.CO and goes on (R79,
R114). -/
theorem doDrn_mayDrain {s : State} {q : Nat} {f : QFields} {ch : Chain} (h : MayDrain s q f ch) :
    doDrn s q f = if ch.kind = .fw96 ∧ ch.co = true then
        (if bitOf (ctxOf s q).qcr.toNat 6 then completePlain s q (fun c => raiseFlags c flCO) else trapQ s q 5)
      else drainOut s q f ch := by
  obtain ⟨hset, hfmt, hout, hepi⟩ := h
  have hfits : ¬ (decide (f.fo = 0xD) && !(ch.kind == .fw96)) = true := by simpa using hfmt
  have hrange : ¬ (decide (epilogueSpan f ≠ 0) && !storeRangeOk (sReg (ctxOf s q) f.c) (epilogueSpan f)) = true := by
    simpa using fun hn => (hepi hn).1
  have hidle : ¬ (decide (epilogueSpan f ≠ 0) && storeBusy s q (sReg (ctxOf s q) f.c) (epilogueSpan f)) = true := by
    simpa using fun hn => (hepi hn).2
  have hoverflow : (ch.kind == .fw96 && ch.co) = true ↔ ch.kind = .fw96 ∧ ch.co = true := by simp
  unfold epilogueSpan at *
  simp only [doDrn, hset, if_neg hfits, withStore_free hout, if_neg hrange, if_neg hidle, hoverflow]

/-! ### The instructions -/

/-- Settles O43: each instruction takes the case its operands select, a trap or the chain's next state, and a drain leaves
its set free. -/
theorem accumulatorSetsOpenAccumulateAndDrain : Obligations.AccumulatorSetsOpenAccumulateAndDrain := by
  intro s q f _ c tile k
  have trapsIf {cmd : Instr} {op : Nat} {body : State → State} {code : Nat}
      (hexec : exec cmd s = .next (issue s q op f body)) (h : Issues s q op f) (hbody : body s = trapQ s q code) :
      Gives cmd s (fun t => QuernTraps s t q code) :=
    gives_of_issues hexec h (hbody ▸ quernTraps_trapQ (quernRuns_lt h.1) code)
  refine ⟨fun h hfree => gives_of_issues rfl h ?mcfg, fun h hused => trapsIf rfl h (doMcfg_inUse hused),
    fun h hrefused => trapsIf rfl h (doMmaOpen_refused hrefused),
    fun h a b cls acc f0 ha hb hpair hfree hcfg hcols hrows hc hacc =>
      gives_of_issues rfl h (doMmaOpen_opens ⟨ha, hb, hpair, hfree, hcfg, hcols, hrows, hc, hacc⟩),
    fun h hclosed => trapsIf rfl h (doMma_closed hclosed),
    fun h a b ch ha hb hset hpair hcols hrows hshapeA hshapeB hlimbs hproducts =>
      gives_of_issues rfl h (doMma_accumulates ⟨ha, hb, hset, hpair, hcols, hrows, hshapeA, hshapeB, hlimbs, hproducts⟩),
    fun h hclosed => trapsIf rfl h (doDrn_closed hclosed),
    fun h ch hset hfmt hout hepi => ?drn⟩
  case mcfg =>
    rw [doMcfg_free hfree]
    exact quernSets_completePlain (quernRuns_lt h.1) _
  case drn =>
    have hdrn := doDrn_mayDrain ⟨hset, hfmt, hout, hepi⟩
    refine ⟨fun hco => ?drains, fun hfw hco hunmasked => trapsIf rfl h ?traps, fun hfw hco hmasked =>
      gives_of_issues rfl h ?passes⟩
    case drains =>
      have hno : ¬ (ch.kind = .fw96 ∧ ch.co = true) := fun ⟨hfw, ht⟩ => by simp [hco hfw] at ht
      rw [if_neg hno] at hdrn
      exact gives_of_issues rfl h ⟨hdrn, hdrn ▸ drainOut_frees (quernRuns_lt h.1) f ch⟩
    case traps => rw [hdrn, if_pos ⟨hfw, hco⟩, if_neg (by simp [c, hunmasked])]
    case passes =>
      rw [hdrn, if_pos ⟨hfw, hco⟩, if_pos hmasked]
      exact quernSets_completePlain (quernRuns_lt h.1) _

/-! ### Concrete accumulator sets -/

/-- An MMA leaves in its set the chain its products made. -/
theorem setOf_runMma {s : State} {q : Nat} (hshape : shapeWf s = true) (hq : q < 36) (op : Nat) (f : QFields) (ch : Chain)
    (a b : Tile) (k : Nat) (f0 : Flags) :
    setOf (ctxOf (runMma s q op f ch a b k f0) q) f.d = some (mmaInto s ch a b k).1 := by
  have hlt : q < (mmaInto s ch a b k).2.2.2.qn.q.length := quern_lt ((mmaInto_kept s ch a b k (Kept.refl s)).shape hshape) hq
  unfold runMma
  dsimp only
  split
  next => exact setOf_complete_putSet hlt ..
  next => exact setOf_complete_putSet (s := bumpBy ..) hlt ..

/-- A tile of QI8 codes whose one valid element is 3. -/
def threeTile : Tile := ⟨9, [3], 1, 1, 0, false, none, none⟩

/-- An open integer chain of one output with total 5. -/
def fiveChain : Chain := ⟨.int, 4, 0, 0, 0, false, 1, 1, none, none, false, 1, [5], []⟩

/-- An open FW96 chain with a ceiling overflow. -/
def overflownChain : Chain := ⟨.fw96, 0, 2 ^ 20, 0, 0, true, 1, 1, none, none, false, 1, [], []⟩

/-- A context with the tile in t0 and t1, a configuration word of SPILL 7 in s3, the integer chain on a1 and a given a0. -/
def chainCtx (a0 : Option Chain) : QCtx :=
  { QCtx.reset with
      s := [(3, 7)], t := [(0, some threeTile), (1, some threeTile)], a0 := a0, a1 := some fiveChain }

/-- The state after reset with Quern 0 in a work item in that context. -/
def chainReset (a0 : Option Chain) : State :=
  { State.reset with qn := { QuernsSt.reset with q := modAt QuernsSt.reset.q 0 (fun n =>
      { n with state := 1, item := some ⟨0, 0, 0, 0, false, 0, 0, 0, 0, 0, false⟩, ctx := chainCtx a0 }) } }

theorem inv_chainReset (a0 : Option Chain) : Inv (chainReset a0) := ⟨rfl, rfl, rfl, Nat.two_pow_pos 48⟩

theorem quernRuns_chainReset (a0 : Option Chain) : quernRuns (chainReset a0) 0 = true := rfl

/-- The fields of a matrix instruction over D, A, B and C with an output format. -/
def chainFields (d a b c fo : Nat) : QFields := ⟨d, a, b, c, 0, fo, 0, false, 0, 0⟩

theorem mmaInto_fiveChain : (mmaInto (chainReset none) fiveChain threeTile threeTile 1).1.acc = [14] := by decide

/-- The free a0 takes the configuration, and a1, which is in use, refuses it. -/
theorem mcfg_chainReset :
    Gives (.mcfg 0 (chainFields 0 3 0 0 0)) (chainReset none) (fun t => (ctxOf t 0).cfg0 = 7) ∧
      Gives (.mcfg 0 (chainFields 1 3 0 0 0)) (chainReset none) (fun t => (qnAt t 0).trap = 1) := by
  have sets (f : QFields) := accumulatorSetsOpenAccumulateAndDrain (chainReset none) 0 f (inv_chainReset none)
  obtain ⟨takes, -⟩ := sets (chainFields 0 3 0 0 0)
  obtain ⟨-, refuses, -⟩ := sets (chainFields 1 3 0 0 0)
  refine ⟨(takes ⟨quernRuns_chainReset none, by decide⟩ (by decide)).imp fun t h => ?_,
    (refuses ⟨quernRuns_chainReset none, by decide⟩ (by decide)).imp fun t h => ?_⟩
  · rw [ctxOf, h.2]
    decide
  · rw [h.2]

/-- A cleared integer chain opens on the free a0. -/
theorem mmaOpen_chainReset :
    Gives (.mmaOpen 0 (chainFields 0 0 1 0x3F 0)) (chainReset none) (fun t => (setOf (ctxOf t 0) 0).isSome = true) := by
  obtain ⟨-, -, -, opens, -⟩ :=
    accumulatorSetsOpenAccumulateAndDrain (chainReset none) 0 (chainFields 0 0 1 0x3F 0) (inv_chainReset none)
  have opened := opens ⟨quernRuns_chainReset none, by decide⟩ threeTile threeTile 4 _ _ rfl rfl rfl rfl rfl (by decide)
    (by decide) (by decide) rfl
  refine opened.imp fun t h => ?_
  rw [h]
  exact Option.isSome_of_eq_some (setOf_runMma rfl (by decide) ..)

/-- The chain of total 5 adds 3 times 3. -/
theorem mma_chainReset :
    Gives (.mma 0 (chainFields 1 0 1 0 0)) (chainReset none) (fun t => (setOf (ctxOf t 0) 1).map Chain.acc = some [14]) := by
  obtain ⟨-, -, -, -, -, adds, -⟩ :=
    accumulatorSetsOpenAccumulateAndDrain (chainReset none) 0 (chainFields 1 0 1 0 0) (inv_chainReset none)
  have added := adds ⟨quernRuns_chainReset none, by decide⟩ threeTile threeTile fiveChain rfl rfl rfl rfl (by decide)
    (by decide) rfl rfl (by decide) (by decide)
  have hset : setOf (ctxOf (runMma (chainReset none) 0 0x32 (chainFields 1 0 1 0 0) fiveChain threeTile threeTile 1 0) 0) 1
      = some (mmaInto (chainReset none) fiveChain threeTile threeTile 1).1 := setOf_runMma rfl (by decide) ..
  refine added.imp fun t h => ?_
  rw [h]
  exact (congrArg (Option.map Chain.acc) hset).trans (congrArg some mmaInto_fiveChain)

/-- The integer chain drains to int32 and leaves a1 free; the overflown FW96 chain on a0 traps. -/
theorem drn_chainReset :
    Gives (.drn 0 (chainFields 0 1 0 0 0xB)) (chainReset none) (fun t => setOf (ctxOf t 0) 1 = none) ∧
      Gives (.drn 0 (chainFields 0 0 0 0 0xD)) (chainReset (some overflownChain)) (fun t => (qnAt t 0).trap = 5) := by
  obtain ⟨-, -, -, -, -, -, -, int⟩ :=
    accumulatorSetsOpenAccumulateAndDrain (chainReset none) 0 (chainFields 0 1 0 0 0xB) (inv_chainReset none)
  obtain ⟨-, -, -, -, -, -, -, wide⟩ := accumulatorSetsOpenAccumulateAndDrain (chainReset (some overflownChain)) 0
    (chainFields 0 0 0 0 0xD) (inv_chainReset _)
  obtain ⟨drains, -⟩ := int ⟨quernRuns_chainReset none, by decide⟩ fiveChain rfl (by decide)
    ⟨by decide, by decide, by decide⟩ (by decide)
  obtain ⟨-, refused, -⟩ := wide ⟨quernRuns_chainReset _, by decide⟩ overflownChain rfl (by decide)
    ⟨by decide, by decide, by decide⟩ (by decide)
  exact ⟨(drains (by decide)).imp fun t ⟨_, hfreed, _⟩ => hfreed,
    (refused rfl rfl (by decide)).imp fun t h => by rw [h.2]⟩

end Sys2Proof.Spec

/-!
PROOF. Registers and the completion of Quern instructions (O24 to O26).
-/
namespace Sys2Proof.Spec

open Sys2Proof Sys2Proof.Machine

/-! ### Registers read back (O24) -/

/-- A vector write reaches no register outside its operand: one register, or a pair (R107, R130). -/
theorem vLane_putLanes_outside (c : QCtx) {fmt d r i : Nat} {xs : List (Option Nat)} (hlen : xs.length = 64) (hi : i < 64)
    (hr : r ≠ d) (hpair : isPair fmt = true → r ≠ d + 1) : vLane (putLanes c fmt d xs) r i = vLane c r i := by
  rw [vLane_putLanes c fmt d xs hlen r i hi, if_neg hr, if_neg hr]
  split
  next hp => exact if_neg (hpair hp)
  next => rfl

/-- A written lane of a format of at most 32 bits holds the value with zeros above it (R107). -/
theorem vLane_putLanes_narrow (c : QCtx) {fmt d i v : Nat} {xs : List (Option Nat)} (hok : okFmt fmt = true)
    (hlen : xs.length = 64) (hn : isPair fmt = false) (hi : i < 64) (hv : xs.getD i none = some v) :
    vLane (putLanes c fmt d xs) d i = v % 2 ^ fmtBits fmt := by
  have hfit : v % 2 ^ fmtBits fmt < 2 ^ 32 :=
    (Nat.mod_lt _ (Nat.two_pow_pos _)).trans_le (Nat.pow_le_pow_right (by decide) (fmtBits_le hn hok))
  rw [vLane_putLanes c fmt d xs hlen d i hi, if_neg (by simp [hn]), if_pos rfl, hv]
  exact Nat.mod_eq_of_lt hfit

/-- A vector write leaves the scalar and predicate registers. -/
theorem sReg_pReg_putLanes (c : QCtx) (fmt d : Nat) (xs : List (Option Nat)) (j : Nat) :
    sReg (putLanes c fmt d xs) j = sReg c j ∧ pReg (putLanes c fmt d xs) j = pReg c j := by
  rw [putLanes_regs]
  exact ⟨rfl, rfl⟩

/-- Settles O24: each kind of register reads back by the law of its store. -/
theorem registerWritesReadBack : Obligations.RegisterWritesReadBack :=
  ⟨sReg_setS, pReg_setP, fun c fmt d xs hok hlen =>
    ⟨lanesOf_putLanes c fmt d xs hok hlen,
      fun _ _ hr hpair hi => vLane_putLanes_outside c hlen hi hr hpair,
      fun hn _ _ hi hv => vLane_putLanes_narrow c hok hlen hn hi hv,
      sReg_pReg_putLanes c fmt d xs⟩⟩

/-! ### The first-NaN test (O25) -/

/-- FNAN capture is on and nothing is captured yet (R117). -/
def FnanArmed (s : State) (q : Nat) : Prop := (ctxOf s q).qcr.toNat / 16 % 2 = 1 ∧ (qnAt s q).fnanValid = false

/-- The first-NaN record of an instruction whose destination element i is NaN (R117). -/
def fnanRecorded (s : State) (q op : Nat) (f : QFields) (src : Bool) (i : Nat) (n : Quern) : Quern :=
  { n with
    fnanValid := true, fnanOrigin := !src, fnanInsn := quernWord op f
    fnanItem := (qnAt s q).item.elim 0 (fun i => i.id), fnanIndex := i, fnanPc := n.ctx.pc
    fnanTurn := s.time.turn % 2 ^ 32 }

/-- Without a NaN to record the program address advances and nothing else happens. -/
theorem complete_unrecorded {s : State} {q : Nat} {nan : Option Nat} (h : nan = none ∨ ¬ FnanArmed s q) (op : Nat)
    (f : QFields) (src : Bool) : complete s q op f nan src = ctxMod s q nextPc := by
  cases nan with
  | none => rfl
  | some i =>
    have hoff : ¬ FnanArmed s q := h.resolve_left (Option.some_ne_none i)
    exact if_neg (by simpa [FnanArmed, ctxOf] using hoff)

/-- With capture armed the NaN is recorded, and QCR[5] chooses between the trap and the next instruction. -/
theorem complete_recorded {s : State} {q : Nat} (h : FnanArmed s q) (op : Nat) (f : QFields) (i : Nat) (src : Bool) :
    complete s q op f (some i) src = if (ctxOf s q).qcr.toNat / 32 % 2 = 1
      then trapQ (qnMod s q (fnanRecorded s q op f src i)) q 6
      else ctxMod (qnMod s q (fnanRecorded s q op f src i)) q nextPc :=
  if_pos (by simpa [FnanArmed, ctxOf] using h)

/-- Settles O25: by whether there is a NaN to record, then by QCR[5]. -/
theorem theFirstNanIsRecorded : Obligations.TheFirstNanIsRecorded := by
  intro s q op f nan src hruns
  have hlt : q < s.qn.q.length := quernRuns_lt hruns
  refine ⟨fun h => ?unrecorded, fun i hi harmed => ?recorded⟩
  case unrecorded =>
    rw [complete_unrecorded h]
    exact onlyQuern_qnMod hlt _
  case recorded =>
    subst hi
    rw [complete_recorded harmed]
    split
    next =>
      rw [trapQ, qnMod_qnMod]
      obtain ⟨honly, hq⟩ := onlyQuern_qnMod hlt (fun n =>
        { fnanRecorded s q op f src i n with state := 2, trap := 6, trapPc := (fnanRecorded s q op f src i n).ctx.pc })
      exact ⟨honly, _, rfl, hq⟩
    next =>
      rw [ctxMod, qnMod_qnMod]
      obtain ⟨honly, hq⟩ := onlyQuern_qnMod hlt (fun n =>
        { fnanRecorded s q op f src i n with ctx := nextPc (fnanRecorded s q op f src i n).ctx })
      exact ⟨honly, _, rfl, hq⟩

/-! ### Scalar instructions (O26) -/

/-- The low bits that QCRW keeps are those of the whole register (R114). -/
theorem qcr_fields_low (w : Nat) : w % 2 ^ 32 % 8 = w % 8 ∧ fieldOf (w % 2 ^ 32) 6 4 = fieldOf w 6 4 := by
  refine ⟨Nat.mod_mod_of_dvd w (by decide), ?_⟩
  simp only [fieldOf, Nat.shiftRight_eq_div_pow]
  omega

/-- An instruction whose body writes no floating value sets its Quern's context to the next instruction's. -/
theorem gives_completePlain {cmd : Instr} {s : State} {q op : Nat} {f : QFields} {g : QCtx → QCtx} {c : QCtx}
    (hexec : exec cmd s = .next (issue s q op f (fun s => completePlain s q g))) (hc : nextPc (g (ctxOf s q)) = c)
    (h : Issues s q op f) : Gives cmd s (fun t => QuernSets s t q c) :=
  hc ▸ gives_of_issues hexec h (quernSets_completePlain (quernRuns_lt h.1) g)

/-- A legal rounding code takes its place in QCR with the three bits above it (R114). -/
theorem gives_qcrw {s : State} {q : Nat} {f : QFields} (h : Issues s q 0x0A f) (hc : sReg (ctxOf s q) f.a % 8 < 5) :
    Gives (.qcrw q f) s (fun t => QuernSets s t q (nextPc { ctxOf s q with
      qcr := BitVec.ofNat 32 (sReg (ctxOf s q) f.a % 8 + fieldOf (sReg (ctxOf s q) f.a) 6 4 * 16) })) := by
  obtain ⟨hcode, hfield⟩ := qcr_fields_low (sReg (ctxOf s q) f.a)
  refine gives_of_issues rfl h ?_
  rw [doQcrw, hcode, hfield, if_neg (Nat.not_le.2 hc)]
  exact quernSets_completePlain (quernRuns_lt h.1) _

/-- A reserved rounding code traps (R114). -/
theorem gives_qcrw_reserved {s : State} {q : Nat} {f : QFields} (h : Issues s q 0x0A f)
    (hc : 5 ≤ sReg (ctxOf s q) f.a % 8) : Gives (.qcrw q f) s (fun t => QuernTraps s t q 1) := by
  obtain ⟨hcode, -⟩ := qcr_fields_low (sReg (ctxOf s q) f.a)
  refine gives_of_issues rfl h ?_
  rw [doQcrw, hcode, if_pos hc]
  exact quernTraps_trapQ (quernRuns_lt h.1) 1

/-- Settles O26: every form but QCRW is a plain completion. -/
theorem scalarInstructionsChangeOneRegister : Obligations.ScalarInstructionsChangeOneRegister := fun _ _ _ =>
  ⟨gives_completePlain (g := id) rfl rfl, gives_qcrw, gives_qcrw_reserved, gives_completePlain rfl rfl,
    gives_completePlain rfl rfl, gives_completePlain rfl rfl, gives_completePlain rfl rfl, gives_completePlain rfl rfl,
    gives_completePlain rfl rfl⟩

/-! ### Concrete registers and captures -/

/-- 2^40 in every lane of the pair v3, v4 reads back whole and leaves v5. -/
theorem pairWrite_resetCtx :
    (lanesOf (putLanes QCtx.reset 0 3 (List.replicate 64 (some (2 ^ 40)))) 0 3).getD 7 0 = 2 ^ 40 ∧
      vLane (putLanes QCtx.reset 0 3 (List.replicate 64 (some (2 ^ 40)))) 5 7 = vLane QCtx.reset 5 7 := by
  obtain ⟨-, -, lanes⟩ := registerWritesReadBack
  obtain ⟨back, outside, -⟩ := lanes QCtx.reset 0 3 (List.replicate 64 (some (2 ^ 40))) (by decide) (by decide)
  exact ⟨back 7 (by decide), outside 5 7 (by decide) (fun _ => by decide) (by decide)⟩

/-- A byte-format write of 0x1FF to lane 7 of v3 keeps the low 8 bits, with zeros above. -/
theorem narrowWrite_resetCtx :
    vLane (putLanes QCtx.reset 9 3 (List.replicate 64 (some 0x1FF))) 3 7 = 0xFF := by
  obtain ⟨-, -, lanes⟩ := registerWritesReadBack
  obtain ⟨-, -, narrow, -⟩ := lanes QCtx.reset 9 3 (List.replicate 64 (some 0x1FF)) (by decide) (by decide)
  exact narrow (by decide) 7 0x1FF (by decide) (by decide)

/-- A context with 5 in s1 and 3 in s2, and a given QCR. -/
def scalarCtx (qcr : BitVec 32) : QCtx := { QCtx.reset with s := [(1, 5), (2, 3)], qcr := qcr }

/-- The state after reset with Quern 0 in a work item in that context. -/
def scalarReset (qcr : BitVec 32) : State :=
  { State.reset with qn := { QuernsSt.reset with q := modAt QuernsSt.reset.q 0 (fun n =>
      { n with state := 1, item := some ⟨0, 0, 0, 0, false, 0, 0, 0, 0, 0, false⟩, ctx := scalarCtx qcr }) } }

theorem quernRuns_scalarReset (qcr : BitVec 32) : quernRuns (scalarReset qcr) 0 = true := rfl

/-- The fields of a scalar instruction over s[D], s[A] and s[B]. -/
def scalarFields (d a b : Nat) : QFields := ⟨d, a, b, 0, 0, 0, 0, false, 0, 0⟩

/-- A NaN in element 4 is captured: with QCR[5] clear the work item goes on, with it set trap 0x6 halts it; with capture
off nothing is recorded. -/
theorem firstNan_scalarReset (f : QFields) :
    (qnAt (complete (scalarReset 0x10) 0 0x40 f (some 4) false) 0).fnanIndex = 4 ∧
      (ctxOf (complete (scalarReset 0x10) 0 0x40 f (some 4) false) 0).pc = 8 ∧
      (qnAt (complete (scalarReset 0x30) 0 0x40 f (some 4) false) 0).trap = 6 ∧
      (qnAt (complete (scalarReset 0) 0 0x40 f (some 4) false) 0).fnanValid = false := by
  have tests (qcr : BitVec 32) :=
    theFirstNanIsRecorded (scalarReset qcr) 0 0x40 f (some 4) false (quernRuns_scalarReset qcr)
  obtain ⟨-, goesOn⟩ := tests 0x10
  obtain ⟨-, halts⟩ := tests 0x30
  obtain ⟨off, -⟩ := tests 0
  obtain ⟨-, n, hn, hrecord⟩ := goesOn 4 rfl ⟨by decide, rfl⟩
  obtain ⟨-, m, -, htrap⟩ := halts 4 rfl ⟨by decide, rfl⟩
  obtain ⟨-, hoff⟩ := off (.inr fun h => absurd h.1 (by decide))
  rw [if_neg (by decide)] at hrecord
  rw [if_pos (by decide)] at htrap
  rw [ctxOf, hrecord, htrap, hoff, hn]
  exact ⟨rfl, rfl, rfl, rfl⟩

/-- The forms of O26 apply: s3 takes 5 + 3, and as a rounding code s2 is taken while s1 is reserved. -/
theorem scalar_scalarReset :
    Gives (.salu 0 (scalarFields 3 1 2)) (scalarReset 0) (fun t => sReg (ctxOf t 0) 3 = 8) ∧
      Gives (.qcrw 0 (scalarFields 0 2 0)) (scalarReset 0) (fun t => (ctxOf t 0).qcr = 3) ∧
      Gives (.qcrw 0 (scalarFields 0 1 0)) (scalarReset 0) (fun t => (qnAt t 0).trap = 1) := by
  have forms (f : QFields) := scalarInstructionsChangeOneRegister (scalarReset 0) 0 f
  obtain ⟨-, -, -, -, -, -, -, -, salu⟩ := forms (scalarFields 3 1 2)
  obtain ⟨-, takes, -⟩ := forms (scalarFields 0 2 0)
  obtain ⟨-, -, reserved, -⟩ := forms (scalarFields 0 1 0)
  have hruns := quernRuns_scalarReset 0
  exact ⟨(salu ⟨hruns, by decide⟩).imp fun _ h => h.sReg_eq.trans (by decide),
    (takes ⟨hruns, by decide⟩ (by decide)).imp fun _ h => by rw [ctxOf, h.2]; rfl,
    (reserved ⟨hruns, by decide⟩ (by decide)).imp fun _ h => by rw [h.2]⟩

end Sys2Proof.Spec

/-!
PROOF. The end, the discard and the resumption of a work item (O19, O20, O28).
-/
namespace Sys2Proof.Spec

open Sys2Proof Sys2Proof.Machine

/-! ### Registers of the Querns -/

theorem quernExists_lt {s : State} {q : Nat} (h : quernExists s q = true) : q < 36 := by
  have hq : q < 4 * (vnt s).clusters := of_decide_eq_true h
  have hclusters : (vnt s).clusters ≤ 9 := by
    unfold vnt variantOf
    split <;> decide
  omega

theorem oneReg_bump (s : State) (off : Nat) : OneReg s (bump s off) off (min (regGet s off + 1) 0xFFFFFFFF) :=
  ⟨rfl, (regGet_bump s off off).trans (if_pos rfl), fun o ho => (regGet_bump s off o).trans (if_neg ho)⟩

theorem regGet_regOr (s : State) (off m o : Nat) :
    regGet (regOr s off m) o = if o = off then (regGet s off ||| m) % 2 ^ 32 else regGet s o :=
  regGet_regSet ..

/-! ### A Quern with no work item -/

/-- What a Quern without a work item is depends on its grade, its failure and QUERN_MAP alone (R126, R355). -/
theorem restState_congr {s t : State} {q : Nat} (hfh : t.fh = s.fh) (hlost : (qnAt t q).lost = (qnAt s q).lost)
    (hmap : ∀ n, n < 32 → mapOf t n = mapOf s n) : restState t q = restState s q := by
  have hserved : servedBy t q = servedBy s q :=
    List.find?_congr fun n hn => by rw [hmap n (List.mem_range.1 hn)]
  rw [restState, restState, hserved, hlost, gradeOf, gradeOf, gradedOf, gradedOf, hfh]

/-- Putting a Quern to rest is one update: its record is cleared and its state becomes that of rest. -/
theorem qnMod_rest {s : State} {q : Nat} (h : q < s.qn.q.length) (f : Quern → Quern) (hf : ∀ n, (f n).lost = n.lost) :
    qnMod (qnMod s q f) q (fun n => { n with state := restState (qnMod s q f) q })
      = qnMod s q (fun n => { f n with state := restState s q }) := by
  have hlost : (qnAt (qnMod s q f) q).lost = (qnAt s q).lost := by rw [(onlyQuern_qnMod h f).2, hf]
  rw [restState_congr (s := s) (t := qnMod s q f) rfl hlost fun _ _ => rfl, qnMod_qnMod]

/-! ### Flags kept in QN_FLAGS (R113) -/

/-- Both ends of a work item begin so: f0 is ORed into QN_FLAGS and the cached Sail states are released (R113, R307). -/
def flagsKept (s : State) (q : Nat) : State :=
  sailEnd (regOr s (oQnFlags + 0x40 * q) (ctxOf s q).f0.toNat) (logicalOf s q)

theorem regGet_flagsKept (s : State) (q o : Nat) : regGet (flagsKept s q) o = if o = oQnFlags + 0x40 * q
    then (regGet s (oQnFlags + 0x40 * q) ||| (ctxOf s q).f0.toNat) % 2 ^ 32 else regGet s o :=
  regGet_regOr s (oQnFlags + 0x40 * q) (ctxOf s q).f0.toNat o

/-- QN_FLAGS is no word of QUERN_MAP, so the map stays. -/
theorem mapOf_flagsKept (s : State) (q : Nat) {n : Nat} (hn : n < 32) : mapOf (flagsKept s q) n = mapOf s n := by
  have hoff : oQuernMap + 4 * (n / 4) ≠ oQnFlags + 0x40 * q := by
    simp only [oQuernMap, oQnFlags]
    omega
  rw [mapOf, mapOf, regGet_flagsKept, if_neg hoff]

/-! ### RESUME (O19) -/

/-- Settles O19: by the Quern's state, then by the trap that halted it. -/
theorem resumeContinuesOnlyTrapsFiveAndSix : Obligations.ResumeContinuesOnlyTrapsFiveAndSix := by
  intro s q hinv hex
  obtain ⟨-, -, hshape, -⟩ := hinv
  have hlt : q < s.qn.q.length := quern_lt hshape (quernExists_lt hex)
  have hexec : exec (.qnResume q) s = .next (resumeQ s q) := congrArg Host.Outcome.next (if_pos hex)
  refine ⟨fun hhalt htrap => ⟨_, hexec, ?continues⟩, fun hhalt h5 h6 => ⟨_, hexec, ?rejected⟩,
    fun hrun => ⟨_, hexec, if_pos hrun⟩⟩
  case continues =>
    rw [resumeQ, if_neg (not_not_intro hhalt), if_pos (by simpa using htrap)]
    exact onlyQuern_qnMod hlt _
  case rejected =>
    rw [resumeQ, if_neg (not_not_intro hhalt), if_neg (by simp [h5, h6])]
    exact oneReg_bump s _

/-! ### DISCARD (O20) -/

/-- Marking the open step faulted leaves everything but the step, and of it the state and the number (R118). -/
theorem markFault_only (s : State) : markFault s = { s with step := (markFault s).step } ∧
    (markFault s).step.flt = (s.step.flt || stepOpenState s) ∧ (markFault s).step.state = s.step.state ∧
    (markFault s).step.s = s.step.s := by
  unfold markFault markWith
  split
  next hopen => simp [hopen]
  next hclosed => simp [hclosed]

theorem markFault_qn (s : State) : (markFault s).qn = s.qn := by
  rw [(markFault_only s).1]

/-- The record of a Quern whose halted work item is discarded, in a state of rest. -/
def discarded (rest : Nat) (n : Quern) : Quern :=
  { n with state := rest, trap := 0, item := none, xfers := [], token := none, waitw := none, blocked := false }

/-- The flags kept and the suspension of a halted work item ended (R113, R297). -/
def suspensionEnded (s : State) (q : Nat) : State := (qnAt s q).token.elim (flagsKept s q) (dropToken (flagsKept s q))

/-- Ending the suspension reaches the Sluice alone (R297). -/
theorem suspensionEnded_only (s : State) (q : Nat) :
    suspensionEnded s q = { flagsKept s q with sl := (suspensionEnded s q).sl } := by
  unfold suspensionEnded
  cases (qnAt s q).token <;> rfl

theorem suspensionEnded_querns (s : State) (q : Nat) : (suspensionEnded s q).qn.q = s.qn.q := by
  rw [suspensionEnded_only]
  rfl

theorem lt_suspensionEnded {s : State} {q : Nat} (h : q < s.qn.q.length) : q < (suspensionEnded s q).qn.q.length := by
  rwa [suspensionEnded_querns]

theorem qnAt_suspensionEnded (s : State) (q p : Nat) : qnAt (suspensionEnded s q) p = qnAt s p := by
  rw [qnAt, suspensionEnded_querns, qnAt]

theorem restState_suspensionEnded (s : State) (q : Nat) : restState (suspensionEnded s q) q = restState s q := by
  rw [suspensionEnded_only]
  exact restState_congr rfl rfl fun _ hn => mapOf_flagsKept s q hn

/-- DISCARD is: the flags kept, the suspension ended, the Quern put to rest, the step marked (R113, R118). -/
theorem discardQ_halted {s : State} {q : Nat} (hlt : q < s.qn.q.length) (h : (qnAt s q).state = 2) :
    discardQ s q = markFault (qnMod (suspensionEnded s q) q (discarded (restState s q))) := by
  have hparts : discardQ s q = markFault (qnMod (qnMod (suspensionEnded s q) q (discarded 0)) q
      (fun n => { n with state := restState (qnMod (suspensionEnded s q) q (discarded 0)) q })) := by
    rw [discardQ, if_neg (not_not_intro h), suspensionEnded]
    cases (qnAt s q).token <;> rfl
  rw [hparts, qnMod_rest (lt_suspensionEnded hlt) (discarded 0) fun _ => rfl, restState_suspensionEnded]
  rfl

/-- DISCARD writes registers, Querns, the Sluice and the step alone. -/
theorem discardQ_frame {s : State} {q : Nat} (hlt : q < s.qn.q.length) (h : (qnAt s q).state = 2) :
    discardQ s q = { s with
      regs := (discardQ s q).regs, qn := (discardQ s q).qn, sl := (discardQ s q).sl, step := (discardQ s q).step } := by
  rw [discardQ_halted hlt h, (markFault_only _).1, suspensionEnded_only]
  rfl

theorem regGet_discardQ {s : State} {q : Nat} (hlt : q < s.qn.q.length) (h : (qnAt s q).state = 2)
    (o : Nat) : regGet (discardQ s q) o = regGet (flagsKept s q) o := by
  rw [discardQ_halted hlt h, (markFault_only _).1, suspensionEnded_only]
  rfl

theorem qnAt_discardQ {s : State} {q : Nat} (hlt : q < s.qn.q.length) (h : (qnAt s q).state = 2)
    (p : Nat) : qnAt (discardQ s q) p = if p = q then discarded (restState s q) (qnAt s q) else qnAt s p := by
  rw [discardQ_halted hlt h, qnAt_congr (markFault_qn _), qnAt_qnMod _ _ _ _ (lt_suspensionEnded hlt),
    qnAt_suspensionEnded, qnAt_suspensionEnded]

theorem discardQ_step {s : State} {q : Nat} (hlt : q < s.qn.q.length) (h : (qnAt s q).state = 2) :
    (discardQ s q).step.flt = (s.step.flt || stepOpenState s) ∧ (discardQ s q).step.state = s.step.state ∧
      (discardQ s q).step.s = s.step.s := by
  obtain ⟨-, hmarked⟩ := markFault_only (qnMod (suspensionEnded s q) q (discarded (restState s q)))
  rw [← discardQ_halted hlt h, suspensionEnded_only] at hmarked
  exact hmarked

/-- Settles O20: the parts of DISCARD, read one after the other. -/
theorem discardEndsTheHaltedWorkItem : Obligations.DiscardEndsTheHaltedWorkItem := by
  intro s q hinv hex hhalt
  obtain ⟨-, -, hshape, -⟩ := hinv
  have hlt : q < s.qn.q.length := quern_lt hshape (quernExists_lt hex)
  have hframe := discardQ_frame hlt hhalt
  have hreg (o : Nat) := (regGet_discardQ hlt hhalt o).trans (regGet_flagsKept s q o)
  have hself := (qnAt_discardQ hlt hhalt q).trans (if_pos rfl)
  obtain ⟨hflt, hstate, hstep⟩ := discardQ_step hlt hhalt
  refine ⟨_, congrArg Host.Outcome.next (if_pos hex), ?_⟩
  dsimp only
  rw [hself]
  exact ⟨(hreg _).trans (if_pos rfl), fun o ho => (hreg o).trans (if_neg ho), rfl, rfl, rfl, rfl, rfl, rfl,
    fun p hp => (qnAt_discardQ hlt hhalt p).trans (if_neg hp), hflt, hstate, hstep, by rw [hframe], hframe⟩

/-! ### ENDI and ENDS (O28) -/

/-- The end of a sequence writes the step's work and the publication alone (R150, R153, R218). -/
theorem sequenceDone_only (s : State) (i : Item) :
    sequenceDone s i = { s with work := (sequenceDone s i).work, pub := (sequenceDone s i).pub } := by
  unfold sequenceDone
  dsimp only
  split
  next => rfl
  next =>
    split
    next => rfl
    next =>
      split
      next => rfl
      next => split <;> rfl

/-- The state in which a work item has ended, but for its Quern: after ENDS its sequence is done. -/
def sequenceEnded (s : State) (q : Nat) (last : Bool) : State :=
  if last then (qnAt s q).item.elim (flagsKept s q) (sequenceDone (flagsKept s q)) else flagsKept s q

theorem sequenceEnded_only (s : State) (q : Nat) (last : Bool) : sequenceEnded s q last =
    { flagsKept s q with work := (sequenceEnded s q last).work, pub := (sequenceEnded s q last).pub } := by
  cases last with
  | false => rfl
  | true =>
    unfold sequenceEnded
    cases (qnAt s q).item with
    | none => rfl
    | some i => exact sequenceDone_only (flagsKept s q) i

/-- The record of a Quern whose work item has ended. -/
def itemEnded (last : Bool) (n : Quern) : Quern := { n with state := 0, item := if last then none else n.item }

theorem endItem_eq (s : State) (q : Nat) (last : Bool) :
    endItem s q last = qnMod (sequenceEnded s q last) q (itemEnded last) := by
  cases last with
  | false => rfl
  | true =>
    unfold endItem sequenceEnded
    dsimp only
    cases (qnAt s q).item <;> rfl

theorem endItem_frame (s : State) (q : Nat) (last : Bool) : endItem s q last = { s with
    regs := (endItem s q last).regs, qn := (endItem s q last).qn
    work := (endItem s q last).work, pub := (endItem s q last).pub } := by
  rw [endItem_eq, sequenceEnded_only]
  rfl

theorem regGet_endItem (s : State) (q : Nat) (last : Bool) (o : Nat) :
    regGet (endItem s q last) o = regGet (flagsKept s q) o := by
  rw [endItem_eq, sequenceEnded_only]
  rfl

theorem qnAt_endItem {s : State} {q : Nat} (h : q < s.qn.q.length) (last : Bool) (p : Nat) :
    qnAt (endItem s q last) p = if p = q then itemEnded last (qnAt s q) else qnAt s p := by
  have hqn : (sequenceEnded s q last).qn.q = s.qn.q := by
    rw [sequenceEnded_only]
    rfl
  have hself (p : Nat) : qnAt (sequenceEnded s q last) p = qnAt s p := by rw [qnAt, hqn, qnAt]
  rw [endItem_eq, qnAt_qnMod _ _ _ _ (hqn ▸ h), hself, hself]

/-- An ending instruction outside every loop body, with no set open and no transfer outstanding, ends the work item. -/
theorem doEnd_ends {s : State} {q : Nat} (hloops : (ctxOf s q).loops = []) (h0 : (ctxOf s q).a0 = none)
    (h1 : (ctxOf s q).a1 = none) (hx : (qnAt s q).xfers = []) (last : Bool) :
    doEnd s q last = endItem (ctxMod s q nextPc) q last := by
  rw [ctxOf] at hloops h0 h1
  simp [doEnd, hloops, h0, h1, hx]

theorem doEnd_waits {s : State} {q : Nat} (hloops : (ctxOf s q).loops = []) (h0 : (ctxOf s q).a0 = none)
    (h1 : (ctxOf s q).a1 = none) (hx : (qnAt s q).xfers ≠ []) (last : Bool) : doEnd s q last = s := by
  rw [ctxOf] at hloops h0 h1
  simp [doEnd, hloops, h0, h1, hx]

theorem doEnd_insideLoop {s : State} {q : Nat} (hloops : (ctxOf s q).loops ≠ []) (last : Bool) :
    doEnd s q last = trapQ s q 1 := by
  rw [ctxOf] at hloops
  simp [doEnd, hloops]

theorem doEnd_setOpen {s : State} {q : Nat} (hloops : (ctxOf s q).loops = [])
    (h : (ctxOf s q).a0.isSome = true ∨ (ctxOf s q).a1.isSome = true) : doEnd s q true = trapQ s q 1 := by
  rw [ctxOf] at hloops h
  simp [doEnd, hloops, h]

/-- The last sequence of a shard done: a refresh is made, or its unit is updated (R150, R153). -/
theorem sequenceDone_last {s : State} {i : Item} (hcur : itemCurrent s i = true) (hfin : itemFin s i ≤ i.next)
    (hreplay : i.replay = false) :
    (i.refresh = true → (sequenceDone s i).work.refreshed = s.work.refreshed ++ [i.entry]) ∧
      (i.refresh = false → ∀ u ∈ (sequenceDone s i).work.units, u.entry = i.entry → u.updated = true) := by
  unfold sequenceDone
  dsimp only
  rw [if_neg (by simp [hcur]), if_neg (Nat.not_lt.2 hfin), if_neg (by simp [hreplay])]
  refine ⟨fun hr => by rw [if_pos hr]; rfl, fun hr => ?_⟩
  rw [if_neg (by simp [hr])]
  intro u hu hentry
  obtain ⟨w, -, rfl⟩ := List.mem_map.1 hu
  by_cases hw : w.entry = i.entry
  · rw [if_pos hw]
  · rw [if_neg hw] at hentry
    exact absurd hentry hw

/-- What the ending of a work item does to the state its instruction was issued in (R113, R132). -/
theorem endItem_nextPc_effects {s : State} {q : Nat} (h : q < s.qn.q.length) (last : Bool) :
    let t := endItem (ctxMod s q nextPc) q last
    regGet t (oQnFlags + 0x40 * q) = (regGet s (oQnFlags + 0x40 * q) ||| (ctxOf s q).f0.toNat) % 2 ^ 32 ∧
      (∀ o, o ≠ oQnFlags + 0x40 * q → regGet t o = regGet s o) ∧
      qnAt t q = itemEnded last { qnAt s q with ctx := nextPc (ctxOf s q) } ∧
      (∀ p, p ≠ q → qnAt t p = qnAt s p) ∧
      t = { s with regs := t.regs, qn := t.qn, work := t.work, pub := t.pub } := by
  intro t
  have hframe : t = _ := endItem_frame (ctxMod s q nextPc) q last
  have hquern (p : Nat) : qnAt t p =
      if p = q then itemEnded last (qnAt (ctxMod s q nextPc) q) else qnAt (ctxMod s q nextPc) p :=
    qnAt_endItem (by rwa [ctxMod, qnMod_length]) last p
  have hreg (o : Nat) : regGet t o = if o = oQnFlags + 0x40 * q
      then (regGet s (oQnFlags + 0x40 * q) ||| (ctxOf s q).f0.toNat) % 2 ^ 32 else regGet s o := by
    refine (regGet_endItem ..).trans ((regGet_flagsKept ..).trans ?_)
    rw [ctxOf_ctxMod _ _ _ h]
    rfl
  refine ⟨(hreg _).trans (if_pos rfl), fun o ho => (hreg o).trans (if_neg ho), ?_, fun p hp => ?_, hframe⟩
  · rw [hquern, if_pos rfl, qnAt_ctxMod _ _ _ _ h, if_pos rfl]
  · rw [hquern, if_neg hp, qnAt_ctxMod _ _ _ _ h, if_neg hp]

/-- Settles O28: by whether a loop or a set is open and a transfer outstanding, ENDI and ENDS together. -/
theorem theEndOfAWorkItemKeepsItsFlags : Obligations.TheEndOfAWorkItemKeepsItsFlags := by
  intro s q f
  refine ⟨fun c op hrow hissues => ?both, fun hissues hloops hopen => ?setOpen,
    fun i hi hissues hloops h0 h1 hx hcur hfin hreplay => ?sequence⟩
  case both =>
    have hlt : q < s.qn.q.length := quernRuns_lt hissues.1
    have hexec : exec c s = .next (issue s q op f (fun s => doEnd s q (decide (op = 0x03)))) := by
      rcases hrow with ⟨rfl, rfl⟩ | ⟨rfl, rfl⟩ <;> rfl
    refine ⟨fun hloops => gives_of_issues hexec hissues ?_, fun hloops h0 h1 hx => gives_of_issues hexec hissues ?_,
      fun hloops h0 h1 hx => gives_of_issues hexec hissues ?_⟩
    · rw [doEnd_insideLoop hloops]
      exact quernTraps_trapQ hlt 1
    · exact doEnd_waits hloops h0 h1 hx _
    · rw [doEnd_ends hloops h0 h1 hx]
      obtain ⟨hflags, hregs, hself, hothers, hframe⟩ := endItem_nextPc_effects hlt (decide (op = 0x03))
      refine ⟨hflags, hregs, hself.trans ?_, hothers, by rw [hframe], hframe, fun hendi => ?_⟩
      · simp only [itemEnded, decide_eq_true_eq]
      · subst hendi
        exact ⟨rfl, rfl⟩
  case setOpen =>
    refine gives_of_issues rfl hissues ?_
    rw [doEnd_setOpen hloops hopen]
    exact quernTraps_trapQ (quernRuns_lt hissues.1) 1
  case sequence =>
    have hitem : (qnAt (ctxMod s q nextPc) q).item = some i := by
      rw [qnAt_ctxMod _ _ _ _ (quernRuns_lt hissues.1), if_pos rfl, hi]
    have hdone := sequenceDone_last (s := flagsKept (ctxMod s q nextPc) q) hcur hfin hreplay
    refine gives_of_issues rfl hissues ?_
    rw [doEnd_ends hloops h0 h1 hx, endItem_eq, sequenceEnded, if_pos rfl, hitem]
    exact hdone

/-! ### Concrete work items -/

/-- A work item of entry 0, an update or a refresh of the open attempt. -/
def firstItem (refresh : Bool) : Item := ⟨0, 0, 0, 0, refresh, 0, 0, 0, 0, 0, false⟩

/-- The state after reset with step 0 open and Quern 0 in that work item, in a given state and trap, with f0 = 3. -/
def itemReset (state trap : Nat) (refresh : Bool) : State :=
  { State.reset with
      step := { State.reset.step with state := 1 }
      qn := { QuernsSt.reset with q := modAt QuernsSt.reset.q 0 (fun n =>
        { n with state := state, trap := trap, item := some (firstItem refresh), ctx := { QCtx.reset with f0 := 3 } }) } }

theorem inv_itemReset (state trap : Nat) (refresh : Bool) : Inv (itemReset state trap refresh) :=
  ⟨rfl, rfl, rfl, Nat.two_pow_pos 48⟩

/-- RESUME continues after trap 0x5, is rejected after trap 0x4 and does nothing on a running Quern. -/
theorem resume_itemReset :
    Gives (.qnResume 0) (itemReset 2 5 false) (fun t => (ctxOf t 0).pc = 8) ∧
      Gives (.qnResume 0) (itemReset 2 4 false) (fun t => regGet t oQnCmdRej = 1) ∧
      Gives (.qnResume 0) (itemReset 1 0 false) (· = itemReset 1 0 false) := by
  have resumes (state trap : Nat) := resumeContinuesOnlyTrapsFiveAndSix (itemReset state trap false) 0 (inv_itemReset ..) rfl
  obtain ⟨continues, -⟩ := resumes 2 5
  obtain ⟨-, rejected, -⟩ := resumes 2 4
  obtain ⟨-, -, runs⟩ := resumes 1 0
  refine ⟨(continues rfl (.inl rfl)).imp fun t ⟨_, h⟩ => ?_,
    (rejected rfl (by decide) (by decide)).imp fun t ⟨_, h, _⟩ => h.trans (by decide), runs (by decide)⟩
  rw [ctxOf, h]
  rfl

/-- DISCARD of the halted work item leaves its flags in QN_FLAGS and the open step faulted. -/
theorem discard_itemReset : Gives (.qnDiscard 0) (itemReset 2 4 false) (fun t =>
    regGet t oQnFlags = 3 ∧ (qnAt t 0).item = none ∧ t.step.flt = true) :=
  (discardEndsTheHaltedWorkItem (itemReset 2 4 false) 0 (inv_itemReset ..) rfl rfl).imp
    fun _ ⟨hflags, _, hitem, _, _, _, _, _, _, hflt, _⟩ => ⟨hflags.trans (by decide), hitem, hflt⟩

/-- The fields of ENDI and ENDS. -/
def endFields : QFields := ⟨0, 0, 0, 0, 0, 0, 0, false, 0, 0⟩

/-- ENDI keeps the work item, ENDS ends it, and the refresh it was is made. -/
theorem end_itemReset :
    Gives (.endi 0 endFields) (itemReset 1 0 true) (fun t =>
      regGet t oQnFlags = 3 ∧ (qnAt t 0).item = some (firstItem true)) ∧
      Gives (.ends 0 endFields) (itemReset 1 0 true) (fun t => regGet t oQnFlags = 3 ∧ (qnAt t 0).item = none) ∧
      Gives (.ends 0 endFields) (itemReset 1 0 true) (fun t => t.work.refreshed = [0]) := by
  obtain ⟨ends, -, sequence⟩ := theEndOfAWorkItemKeepsItsFlags (itemReset 1 0 true) 0 endFields
  obtain ⟨-, -, endi⟩ := ends (.endi 0 endFields) 0x02 (.inl ⟨rfl, rfl⟩) ⟨rfl, by decide⟩
  obtain ⟨-, -, ends⟩ := ends (.ends 0 endFields) 0x03 (.inr ⟨rfl, rfl⟩) ⟨rfl, by decide⟩
  refine ⟨(endi rfl rfl rfl rfl).imp fun _ ⟨hflags, _, hquern, _⟩ => ⟨hflags.trans (by decide), by rw [hquern]; rfl⟩,
    (ends rfl rfl rfl rfl).imp fun _ ⟨hflags, _, hquern, _⟩ => ⟨hflags.trans (by decide), by rw [hquern]; rfl⟩,
    (sequence (firstItem true) rfl ⟨rfl, by decide⟩ rfl rfl rfl rfl (by decide) (by decide) rfl).imp
      fun _ ⟨hrefresh, _⟩ => hrefresh rfl⟩

end Sys2Proof.Spec

/-!
PROOF. The save and the restore of a Quern's context (O21).
-/
namespace Sys2Proof.Spec

open Sys2Proof Sys2Proof.Machine

/-! ### The end of a save (R119, R120) -/

/-- Logical index a Quern's context is saved under: its work item's, or the one the Quern serves. -/
def saveIndex (s : State) (q : Nat) : Nat := (qnAt s q).item.elim ((servedBy s q).getD 0xFF) (fun i => i.logical)

/-- What the save of a Quern's context into an area keeps. -/
def savedOf (s : State) (q area : Nat) : Saved where
  logical := saveIndex s q
  area := area
  used := false
  ctx := ctxOf s q
  item := (qnAt s q).item
  state := if (qnAt s q).trap = 0 then 0 else 2
  trap := (qnAt s q).trap
  trapPc := (qnAt s q).trapPc
  live := storeBytes s q 0 ((qnAt s q).item.elim 0 (fun i => i.live))
  sail := sailOf s (saveIndex s q)
  waitw := (qnAt s q).waitw
  xfers := (qnAt s q).xfers
  token := (qnAt s q).token

/-- The state with the saved context in the place of any other of its index. -/
def contextKept (s : State) (q area : Nat) : State :=
  { s with qn := { s.qn with
      saved := s.qn.saved.filter (fun x => x.logical != saveIndex s q) ++ [savedOf s q area] } }

/-- The record of a Quern whose context is saved, in a state of rest. -/
def freed (rest : Nat) (n : Quern) : Quern := { discarded rest n with saving := none }

/-- The end of a save is: the context kept, the Quern put to rest (R119, R120). -/
theorem saveDone_saving {s : State} {q area : Nat} (hlt : q < s.qn.q.length) (ha : (qnAt s q).saving = some area)
    (h : (qnAt s q).state = 3) : saveDone s q = qnMod (contextKept s q area) q (freed (restState s q)) := by
  have hparts : saveDone s q = qnMod (qnMod (contextKept s q area) q (freed 0)) q
      (fun n => { n with state := restState (qnMod (contextKept s q area) q (freed 0)) q }) := by
    unfold saveDone
    dsimp only
    rw [ha]
    exact if_neg (not_not_intro h)
  have hrest : restState (contextKept s q area) q = restState s q := restState_congr rfl rfl fun _ _ => rfl
  rw [hparts, qnMod_rest (s := contextKept s q area) hlt (freed 0) fun _ => rfl, hrest]
  rfl

/-! ### The end of a restore (R121, R123) -/

/-- The record of a Quern that takes over a saved context. -/
def resumedFrom (v : Saved) (n : Quern) : Quern :=
  { n with
    ctx := v.ctx, item := v.item, state := v.state, trap := v.trap, trapPc := v.trapPc, waitw := v.waitw
    waitReady := false, xfers := v.xfers, token := v.token, blocked := false, restoring := none }

/-- The state in which a saved context is a Quern's again and marked as used, its store apart. -/
def contextBack (s : State) (q lg : Nat) (v : Saved) : State :=
  qnMod (sailMod { s with qn := { s.qn with
      saved := s.qn.saved.map (fun x => if x.logical = lg then { x with used := true } else x) } } lg (fun _ => v.sail))
    q (resumedFrom v)

/-- The saved context with the live bytes of its store. -/
def storeBack (s : State) (q lg : Nat) (v : Saved) : State :=
  if v.live.isEmpty then contextBack s q lg v else storeWrite (contextBack s q lg v) q 0 v.live []

theorem restoreDone_saved {s : State} {q lg : Nat} {v : Saved} (hr : (qnAt s q).restoring = some lg)
    (h : (qnAt s q).state = 4) (hv : s.qn.saved.find? (fun x => x.logical == lg && !x.used) = some v) :
    restoreDone s q = if v.trap = 3 && v.token.isNone then retryQ (storeBack s q lg v) q else storeBack s q lg v := by
  unfold restoreDone
  dsimp only
  rw [hr]
  refine (if_neg (not_not_intro h)).trans ?_
  rw [hv]
  rfl

/-- With no saved context the Quern is idle before the sequence's first work item (R123). -/
theorem restoreDone_unsaved {s : State} {q lg : Nat} (hr : (qnAt s q).restoring = some lg) (h : (qnAt s q).state = 4)
    (hv : s.qn.saved.find? (fun x => x.logical == lg && !x.used) = none) :
    restoreDone s q = qnMod s q (fun n =>
      { discarded 0 n with ctx := QCtx.reset, restoring := none }) := by
  unfold restoreDone
  dsimp only
  rw [hr]
  refine (if_neg (not_not_intro h)).trans ?_
  rw [hv]
  rfl

theorem contextBack_length (s : State) (q lg : Nat) (v : Saved) : (contextBack s q lg v).qn.q.length = s.qn.q.length :=
  qnMod_length ..

theorem qnAt_contextBack {s : State} {q : Nat} (hlt : q < s.qn.q.length) (lg : Nat) (v : Saved) (p : Nat) :
    qnAt (contextBack s q lg v) p = if p = q then resumedFrom v (qnAt s q) else qnAt s p :=
  qnAt_qnMod _ q p _ hlt

theorem sailOf_contextBack {s : State} {lg : Nat} (hlg : lg < s.qn.sails.length) (q : Nat) (v : Saved) :
    sailOf (contextBack s q lg v) lg = v.sail := by
  simp [contextBack, sailOf, sailMod, modAt, List.getD, hlg]

/-- The store takes back its live bytes, and nothing but the store is touched by that (R121). -/
theorem storeBack_only {s : State} {q : Nat} (hlt : q < s.qn.q.length) (lg : Nat) (v : Saved) :
    StoreOnly (contextBack s q lg v) (storeBack s q lg v) q ∧
      storeBytes (storeBack s q lg v) q 0 v.live.length = v.live := by
  have hlt' : q < (contextBack s q lg v).qn.q.length := by rwa [contextBack_length]
  unfold storeBack
  split
  next hempty =>
    rw [List.isEmpty_iff.1 hempty]
    exact ⟨StoreOnly.rfl, rfl⟩
  next =>
    obtain ⟨honly, hstore⟩ := storeWrite_only (contextBack s q lg v) q 0 v.live [] hlt'
    refine ⟨honly, ?_⟩
    rw [storeBytes, hstore]
    exact mapRead_mapWrite ..

/-- Settles O21: the save as an update of the Quern beside the kept record, the restore as the record given back with
its store, and the restore without a record. -/
theorem contextsAreSavedAndRestoredWhole : Obligations.ContextsAreSavedAndRestoredWhole := by
  refine ⟨fun s q area hinv hq ha h => ?saves, fun s q lg v hinv hq hr h hv => ?restores,
    fun s q lg hinv hq hr h hv => ?starts⟩
  all_goals
    obtain ⟨-, -, hshape, -⟩ := hinv
    have hlt : q < s.qn.q.length := quern_lt hshape hq
  case saves =>
    refine ⟨_, rfl, ?_⟩
    rw [saveDone_saving hlt ha h]
    obtain ⟨⟨-, hothers⟩, hself⟩ := onlyQuern_qnMod (s := contextKept s q area) hlt (freed (restState s q))
    exact ⟨rfl, by rw [hself]; rfl, by rw [hself]; rfl, by rw [hself]; rfl, hothers, rfl⟩
  case restores =>
    obtain ⟨⟨hframe, hothers, -, hself⟩, hlive⟩ := storeBack_only hlt lg v
    refine ⟨_, rfl, storeBack s q lg v, restoreDone_saved hr h hv, ?_, hlive, fun p hp => ?_, fun hlg => ?_, ?_⟩
    · rw [qnAt_contextBack hlt, if_pos rfl] at hself
      exact hself
    · rw [hothers p hp, qnAt_contextBack hlt, if_neg hp]
    · have hsails : lg < s.qn.sails.length := (shape_of hshape).2.1 ▸ hlg
      rw [sailOf, hframe]
      exact sailOf_contextBack hsails q v
    · rw [hframe]
      rfl
  case starts =>
    refine ⟨_, rfl, ?_⟩
    rw [restoreDone_unsaved hr h hv]
    obtain ⟨honly, hself⟩ := onlyQuern_qnMod hlt (fun n => { discarded 0 n with ctx := QCtx.reset, restoring := none })
    exact ⟨honly, by rw [hself]; rfl, by rw [hself]; rfl, by rw [hself], by rw [hself]⟩

/-! ### Concrete saves and restores -/

/-- A context whose next instruction is the second. -/
def secondCtx : QCtx := { QCtx.reset with pc := 8 }

/-- The save of that context between work items, with three live bytes of the store. -/
def secondSaved : Saved := ⟨0, 5, secondCtx, none, 0, 0, 0, [1, 2, 3], SailPos.reset, none, [], none, false⟩

/-- The state after reset with Quern 0 being saved to area 5 in that context. -/
def savingReset : State :=
  { State.reset with qn := { QuernsSt.reset with
      q := modAt QuernsSt.reset.q 0 (fun n => { n with state := 3, saving := some 5, ctx := secondCtx }) } }

/-- The state after reset with Quern 0 being given logical index 0's context, and the contexts saved before. -/
def restoringReset (saved : List Saved) : State :=
  { State.reset with qn := { QuernsSt.reset with
      q := modAt QuernsSt.reset.q 0 (fun n => { n with state := 4, restoring := some 0 }), saved := saved } }

theorem inv_savingReset : Inv savingReset := ⟨by decide, by decide, by decide, by decide⟩

theorem inv_restoringReset (saved : List Saved) : Inv (restoringReset saved) := ⟨rfl, rfl, rfl, Nat.two_pow_pos 48⟩

/-- The clauses of O21 apply: the save keeps the context, the restore gives it back with the live bytes, and without a
save the Quern starts anew. -/
theorem contexts_savedAndRestored :
    Gives (.contextSaveDone 0) savingReset (fun t => t.qn.saved.map Saved.ctx = [secondCtx]) ∧
      Gives (.contextRestoreDone 0) (restoringReset [secondSaved]) (fun t =>
        ctxOf t 0 = secondCtx ∧ storeBytes t 0 0 3 = [1, 2, 3]) ∧
      Gives (.contextRestoreDone 0) (restoringReset []) (fun t => ctxOf t 0 = QCtx.reset ∧ (qnAt t 0).state = 0) := by
  obtain ⟨saves, restores, starts⟩ := contextsAreSavedAndRestoredWhole
  refine ⟨(saves savingReset 0 5 inv_savingReset (by decide) rfl rfl).imp fun t ⟨hsaved, _⟩ => ?_,
    (restores (restoringReset [secondSaved]) 0 0 secondSaved (inv_restoringReset _) (by decide) rfl rfl rfl).imp
      fun t ⟨u, ht, hquern, hlive, _⟩ => ?_,
    (starts (restoringReset []) 0 0 (inv_restoringReset _) (by decide) rfl rfl rfl).imp
      fun t ⟨_, _, hstate, hctx, _⟩ => ⟨hctx, hstate⟩⟩
  · rw [hsaved]
    rfl
  · subst ht
    exact ⟨congrArg Quern.ctx hquern, hlive⟩

end Sys2Proof.Spec

/-!
PROOF. The instruction word of the Querns and its legality (O23, O36).
-/
namespace Sys2Proof.Spec

open Sys2Proof Sys2Proof.Machine

/-! ### The 64-bit instruction word (O36) -/

theorem fieldsFit_iff (f : QFields) : f.wf = true ↔
    f.d < 64 ∧ f.a < 64 ∧ f.b < 64 ∧ f.c < 64 ∧ f.fi < 16 ∧ f.fo < 16 ∧ f.rnd < 4 ∧ f.pred < 8 ∧ f.md < 2 ^ 18 := by
  simp [QFields.wf, and_assoc]

/-- The word of fields written out, SAT as its bit: the form in which its digits are read (R127). -/
theorem quernWord_eq (op : Nat) (f : QFields) : quernWord op f =
    op * 2 ^ 56 + f.d * 2 ^ 50 + f.a * 2 ^ 44 + f.b * 2 ^ 38 + f.c * 2 ^ 32 + f.fi * 2 ^ 28 + f.fo * 2 ^ 24
      + f.rnd * 2 ^ 22 + b2n f.sat * 2 ^ 21 + f.pred * 2 ^ 18 + f.md := by
  cases hsat : f.sat <;> simp [quernWord, b2n, hsat]

theorem b2n_lt (b : Bool) : b2n b < 2 := by
  cases b <;> decide

theorem decide_b2n (b : Bool) : decide (b2n b = 1) = b := by
  cases b <;> decide

/-- SAT is the word's bit 21 (R127). -/
theorem satBit_quernWord (op : Nat) {f : QFields} (h : f.wf = true) : quernWord op f / 2 ^ 21 % 2 = b2n f.sat := by
  obtain ⟨-, -, -, -, -, -, -, hpred, hmd⟩ := (fieldsFit_iff f).1 h
  have hsat := b2n_lt f.sat
  rw [quernWord_eq]
  omega

theorem quernWord_lt {op : Nat} {f : QFields} (hop : op < 256) (h : f.wf = true) : quernWord op f < 2 ^ 64 := by
  obtain ⟨hd, ha, hb, hc, hfi, hfo, hrnd, hpred, hmd⟩ := (fieldsFit_iff f).1 h
  have hsat := b2n_lt f.sat
  rw [quernWord_eq]
  omega

theorem quernOp_quernWord {op : Nat} {f : QFields} (hop : op < 256) (h : f.wf = true) :
    quernOp (quernWord op f) = op := by
  obtain ⟨hd, ha, hb, hc, hfi, hfo, hrnd, hpred, hmd⟩ := (fieldsFit_iff f).1 h
  have hsat := b2n_lt f.sat
  rw [quernOp, quernWord_eq]
  omega

theorem quernFields_quernWord (op : Nat) {f : QFields} (h : f.wf = true) : quernFields (quernWord op f) = f := by
  have hbit : decide (quernWord op f / 2 ^ 21 % 2 = 1) = f.sat := by rw [satBit_quernWord op h, decide_b2n]
  obtain ⟨hd, ha, hb, hc, hfi, hfo, hrnd, hpred, hmd⟩ := (fieldsFit_iff f).1 h
  have hsat := b2n_lt f.sat
  have hword := quernWord_eq op f
  rw [quernFields, hbit]
  generalize quernWord op f = w at hword
  cases f
  dsimp only at *
  congr 1 <;> omega

/-- Settles O36: the word is the sum of its fields at their places, and each field is a digit of it. -/
theorem quernWordsDecodeToTheirFields : Obligations.QuernWordsDecodeToTheirFields :=
  fun op _ hop h => ⟨quernOp_quernWord hop h, quernFields_quernWord op h, quernWord_lt hop h⟩

/-- The widest word: every field at its greatest value reads back, and the word is all ones. -/
theorem quernWord_allOnes :
    let f : QFields := ⟨63, 63, 63, 63, 15, 15, 3, true, 7, 2 ^ 18 - 1⟩
    quernFields (quernWord 255 f) = f ∧ quernWord 255 f = 2 ^ 64 - 1 := by
  intro f
  obtain ⟨-, hfields, -⟩ := quernWordsDecodeToTheirFields 255 f (by decide) (by decide)
  exact ⟨hfields, by decide⟩

/-! ### Illegal words (O23) -/

/-- Every Quern instruction is issued under its operation code. -/
theorem exec_quernCmd {c : Instr} {q op : Nat} {f : QFields} (h : quernCmd c = some (q, op, f)) (s : State) :
    ∃ body, exec c s = .next (issue s q op f body) := by
  cases c <;> cases h <;> exact ⟨_, rfl⟩

theorem issue_of_illegal {s : State} {q op : Nat} {f : QFields} (hruns : quernRuns s q = true)
    (hbad : quernLegal op f = false) (body : State → State) : issue s q op f body = trapQ s q 1 := by
  rw [issue, if_pos hruns, if_neg (by simp [hbad])]

theorem issue_of_notRunning {s : State} {q : Nat} (hruns : quernRuns s q = false) (op : Nat) (f : QFields)
    (body : State → State) : issue s q op f body = s := by
  rw [issue, if_neg (by simp [hruns])]

/-- Settles O23: the issue of an instruction looks at the Quern and the word before it runs anything. -/
theorem illegalQuernWordsTrapAndDoNothingElse : Obligations.IllegalQuernWordsTrapAndDoNothingElse := by
  intro c s q op f hcmd
  obtain ⟨body, hexec⟩ := exec_quernCmd hcmd s
  refine ⟨fun hruns hbad => ⟨_, hexec, ?traps⟩, fun hruns => ⟨_, hexec, issue_of_notRunning hruns op f body⟩⟩
  case traps =>
    rw [issue_of_illegal hruns hbad]
    exact quernTraps_trapQ (quernRuns_lt hruns) 1

/-- NOP with a register number traps on the Quern that runs, and does nothing on one that does not. -/
theorem illegalNop_traps :
    Gives (.nop 0 (reduceFields 1)) reducingReset (fun t => (qnAt t 0).trap = 1) ∧
      Gives (.nop 1 (reduceFields 1)) reducingReset (· = reducingReset) := by
  have issued (q : Nat) := illegalQuernWordsTrapAndDoNothingElse (.nop q (reduceFields 1)) reducingReset q 1 _ rfl
  obtain ⟨traps, -⟩ := issued 0
  obtain ⟨-, stays⟩ := issued 1
  exact ⟨(traps (by decide) (by decide)).imp fun t h => by rw [h.2], stays (by decide)⟩

end Sys2Proof.Spec

/-!
PROOF. Branches, loops, fences and waits of the Querns (O27, O37).
-/
namespace Sys2Proof.Spec

open Sys2Proof Sys2Proof.Machine

/-! ### An instruction by what its body makes of the state -/

theorem quernSets_ctxMod {s : State} {q : Nat} (h : q < s.qn.q.length) (g : QCtx → QCtx) :
    QuernSets s (ctxMod s q g) q (g (ctxOf s q)) :=
  onlyQuern_qnMod h _

/-- The state an instruction's body makes has the property asked for. -/
theorem gives_of_body_eq {cmd : Instr} {s t : State} {q op : Nat} {f : QFields} {body : State → State} {P : State → Prop}
    (hexec : exec cmd s = .next (issue s q op f body)) (h : Issues s q op f) (hbody : body s = t) (hP : P t) :
    Gives cmd s P :=
  gives_of_issues hexec h (hbody ▸ hP)

/-- An instruction whose body updates its Quern's context gives that context. -/
theorem gives_ctxMod {cmd : Instr} {s : State} {q op : Nat} {f : QFields} {body : State → State} {g : QCtx → QCtx}
    {c : QCtx} (hexec : exec cmd s = .next (issue s q op f body)) (h : Issues s q op f)
    (hbody : body s = ctxMod s q g) (hc : g (ctxOf s q) = c) : Gives cmd s (fun t => QuernSets s t q c) :=
  gives_of_body_eq hexec h hbody (hc ▸ quernSets_ctxMod (quernRuns_lt h.1) g)

/-- An instruction whose body takes a trap gives that trap. -/
theorem gives_trapQ {cmd : Instr} {s : State} {q op : Nat} {f : QFields} {body : State → State} {code : Nat}
    (hexec : exec cmd s = .next (issue s q op f body)) (h : Issues s q op f) (hbody : body s = trapQ s q code) :
    Gives cmd s (fun t => QuernTraps s t q code) :=
  gives_of_body_eq hexec h hbody (quernTraps_trapQ (quernRuns_lt h.1) code)

/-! ### Branches (R133) -/

theorem branch_inside {s : State} {q off : Nat} (h : branchOk (ctxOf s q) ((ctxOf s q).pc + 8 * off) = true) :
    branch s q off = ctxMod s q (fun c => goPc c (c.pc + 8 * off)) :=
  if_pos h

theorem branch_outside {s : State} {q off : Nat} (h : branchOk (ctxOf s q) ((ctxOf s q).pc + 8 * off) = false) :
    branch s q off = trapQ s q 1 :=
  if_neg (by simp [h])

/-! ### Loops (R133) -/

/-- The body of a loop of `len` instructions at the next address ends inside the innermost open body. -/
def loopFits (c : QCtx) (len : Nat) : Bool :=
  c.loops.head?.all (fun l => decide (c.pc + 8 + 8 * len ≤ l.start + 8 * l.len))

theorem loopFits_iff (c : QCtx) (len : Nat) :
    loopFits c len = true ↔ ∀ l ∈ c.loops.head?, c.pc + 8 + 8 * len ≤ l.start + 8 * l.len := by
  simp [loopFits, Option.all_eq_true]

/-- LOOP by its cases: a body that leaves the outer one or a fifth loop traps, zero passes skip the body, else it opens. -/
theorem doLoop_eq (s : State) (q len n : Nat) : doLoop s q len n =
    if !loopFits (ctxOf s q) len || decide (4 ≤ (ctxOf s q).loops.length) then trapQ s q 1
    else if n = 0 then ctxMod s q (fun c => goPc c ((ctxOf s q).pc + 8 + 8 * len))
    else ctxMod s q (fun c => { c with
      pc := (ctxOf s q).pc + 8, loops := ⟨n - 1, (ctxOf s q).pc + 8, len⟩ :: c.loops }) := by
  unfold doLoop loopFits
  dsimp only
  cases (ctxOf s q).loops <;> rfl

theorem doLoop_fifth {s : State} {q : Nat} (h : 4 ≤ (ctxOf s q).loops.length) (len n : Nat) :
    doLoop s q len n = trapQ s q 1 := by
  rw [doLoop_eq, if_pos (by simp [h])]

theorem doLoop_fits {s : State} {q len : Nat} (hfits : loopFits (ctxOf s q) len = true)
    (hdeep : (ctxOf s q).loops.length < 4) (n : Nat) : doLoop s q len n =
      if n = 0 then ctxMod s q (fun c => goPc c ((ctxOf s q).pc + 8 + 8 * len))
      else ctxMod s q (fun c => { c with
        pc := (ctxOf s q).pc + 8, loops := ⟨n - 1, (ctxOf s q).pc + 8, len⟩ :: c.loops }) := by
  rw [doLoop_eq, if_neg (by simp [hfits, hdeep])]

/-- At the last instruction of no open body the program address goes on. -/
theorem loopEnds_inside {pc : Nat} {l : LoopSt} (h : pc ≠ l.start + 8 * l.len) (rest : List LoopSt) :
    loopEnds pc (l :: rest) = (pc, l :: rest) :=
  if_neg h

/-- At the end of a body with passes left the next pass starts. -/
theorem loopEnds_again {pc : Nat} {l : LoopSt} (h : pc = l.start + 8 * l.len) (hleft : 0 < l.left) (rest : List LoopSt) :
    loopEnds pc (l :: rest) = (l.start, { l with left := l.left - 1 } :: rest) := by
  rw [loopEnds, if_pos h, if_pos hleft]

/-- At the end of the last pass the loop is closed, and its end tested against the body around it. -/
theorem loopEnds_last {pc : Nat} {l : LoopSt} (h : pc = l.start + 8 * l.len) (hleft : l.left = 0) (rest : List LoopSt) :
    loopEnds pc (l :: rest) = loopEnds pc rest := by
  rw [loopEnds, if_pos h, if_neg (by omega)]

theorem goPc_eq {c : QCtx} {pc pc' : Nat} {loops : List LoopSt} (h : loopEnds pc c.loops = (pc', loops)) :
    goPc c pc = { c with pc := pc', loops := loops } := by
  rw [goPc, h]

/-- The end of an instruction inside an open loop (R133). -/
theorem nextPc_inLoop {c : QCtx} {l : LoopSt} {rest : List LoopSt} (h : c.loops = l :: rest) :
    (c.pc + 8 ≠ l.start + 8 * l.len → nextPc c = { c with pc := c.pc + 8 }) ∧
    (c.pc + 8 = l.start + 8 * l.len → 0 < l.left →
      nextPc c = { c with pc := l.start, loops := { l with left := l.left - 1 } :: rest }) ∧
    (c.pc + 8 = l.start + 8 * l.len → l.left = 0 → rest = [] → nextPc c = { c with pc := c.pc + 8, loops := [] }) := by
  refine ⟨fun hin => ?_, fun hend hleft => ?_, fun hend hleft hrest => ?_⟩
  · rw [nextPc, goPc_eq (h ▸ loopEnds_inside hin rest)]
  · rw [nextPc, goPc_eq (h ▸ loopEnds_again hend hleft rest)]
  · subst hrest
    rw [nextPc, goPc_eq (h ▸ loopEnds_last hend hleft [])]

/-- Settles O27: each form by the branch of its body, and the end of a body by `loopEnds`. -/
theorem branchesAndLoopsFollowTheirBodies : Obligations.BranchesAndLoopsFollowTheirBodies := by
  refine ⟨fun s q f => ?forms, fun c l rest h => nextPc_inLoop h⟩
  case forms =>
    intro c
    refine ⟨fun h hin => gives_ctxMod rfl h (branch_inside hin) rfl, fun h hout => gives_trapQ rfl h (branch_outside hout),
      fun h hin => ?brc, fun h hout => gives_trapQ rfl h (if_neg (Bool.eq_false_iff.1 hout)),
      fun h hnone hzero => ?skips, fun h hdeep hfits hn => ?opens, fun h hdeep => ?fifth⟩
    case brc =>
      by_cases hholds : brcHolds (f.md / 2 ^ 15) (sReg c f.a) (sReg c f.b) = true
      · rw [if_pos hholds]
        exact gives_ctxMod rfl h ((if_pos hin).trans ((if_pos hholds).trans (branch_inside hin))) rfl
      · rw [if_neg hholds]
        exact gives_ctxMod rfl h ((if_pos hin).trans (if_neg hholds)) rfl
    case skips =>
      have hfits : loopFits c f.md = true := by simp [loopFits, hnone]
      refine gives_ctxMod rfl h ((doLoop_fits hfits (by simp [c, hnone]) _).trans (if_pos hzero)) ?_
      exact goPc_eq (hnone ▸ rfl)
    case opens => exact gives_ctxMod rfl h ((doLoop_fits ((loopFits_iff ..).2 hfits) hdeep _).trans (if_neg hn)) rfl
    case fifth => exact gives_trapQ rfl h (doLoop_fifth hdeep ..)

/-! ### Fences and waits (R139, R148) -/

/-- Settles O37: each form passes or leaves the state by the test of its body. -/
theorem fencesAndWaitsHoldUntilTransfersEnd : Obligations.FencesAndWaitsHoldUntilTransfersEnd := by
  refine fun s q f => ⟨fun h hpass => gives_ctxMod rfl h (if_neg ?fencePasses) rfl,
    fun h hblock hout => gives_of_issues rfl h (if_pos ?fenceWaits),
    fun h hfree => gives_ctxMod rfl h (if_neg ?waitPasses) rfl, fun h hbusy => gives_of_issues rfl h (if_pos ?waitWaits)⟩
  case fencePasses => simpa using hpass
  case fenceWaits => simp [hblock, hout]
  case waitPasses => simpa using hfree
  case waitWaits => simpa using hbusy

/-! ### Concrete branches, loops and fences -/

/-- The state after reset with Quern 0 at its first instruction in given open loops, 3 in s1 and given transfers. -/
def loopReset (loops : List LoopSt) (xfers : List Xfer) : State :=
  { State.reset with qn := { QuernsSt.reset with q := modAt QuernsSt.reset.q 0 (fun n =>
      { n with
        state := 1, item := some ⟨0, 0, 0, 0, false, 0, 0, 0, 0, 0, false⟩, xfers := xfers
        ctx := { QCtx.reset with s := [(1, 3)], loops := loops } }) } }

theorem quernRuns_loopReset (loops : List LoopSt) (xfers : List Xfer) : quernRuns (loopReset loops xfers) 0 = true := rfl

theorem ctxOf_loopReset (loops : List LoopSt) (xfers : List Xfer) :
    ctxOf (loopReset loops xfers) 0 = { QCtx.reset with s := [(1, 3)], loops := loops } := rfl

/-- The fields of a control instruction with a source A and a modifier. -/
def controlFields (a md : Nat) : QFields := ⟨0, a, 0, 0, 0, 0, 0, false, 0, md⟩

theorem QuernSets.ctxOf_eq {s t : State} {q : Nat} {c : QCtx} (h : QuernSets s t q c) : ctxOf t q = c := by
  rw [ctxOf, h.2]

/-- In a body of 4 instructions BR by 3 is taken and by 4 traps; BRC on equal registers is taken, on unequal ones falls
through. -/
theorem branches_loopReset :
    let s := loopReset [⟨1, 0, 4⟩] []
    Gives (.br 0 (controlFields 0 3)) s (fun t => (ctxOf t 0).pc = 24) ∧
      Gives (.br 0 (controlFields 0 4)) s (fun t => (qnAt t 0).trap = 1) ∧
      Gives (.brc 0 (controlFields 0 2)) s (fun t => (ctxOf t 0).pc = 16) ∧
      Gives (.brc 0 (controlFields 1 2)) s (fun t => (ctxOf t 0).pc = 8) ∧
      Gives (.brc 0 (controlFields 1 5)) s (fun t => (qnAt t 0).trap = 1) := by
  intro s
  have hruns := quernRuns_loopReset [⟨1, 0, 4⟩] []
  have forms (f : QFields) := branchesAndLoopsFollowTheirBodies.1 s 0 f
  obtain ⟨reach, -⟩ := forms (controlFields 0 3)
  obtain ⟨-, leave, -⟩ := forms (controlFields 0 4)
  obtain ⟨-, -, taken, -⟩ := forms (controlFields 0 2)
  obtain ⟨-, -, falls, -⟩ := forms (controlFields 1 2)
  obtain ⟨-, -, -, outside, -⟩ := forms (controlFields 1 5)
  exact ⟨(reach ⟨hruns, by decide⟩ (by decide)).imp fun t h => by rw [h.ctxOf_eq]; decide,
    (leave ⟨hruns, by decide⟩ (by decide)).imp fun t h => by rw [h.2],
    (taken ⟨hruns, by decide⟩ (by decide)).imp fun t h => by rw [h.ctxOf_eq]; decide,
    (falls ⟨hruns, by decide⟩ (by decide)).imp fun t h => by rw [h.ctxOf_eq]; decide,
    (outside ⟨hruns, by decide⟩ (by decide)).imp fun t h => by rw [h.2]⟩

/-- A loop of two instructions opens for 3 passes, is skipped for none, and traps as the fifth. -/
theorem loops_loopReset :
    Gives (.loop 0 (controlFields 1 2)) (loopReset [] []) (fun t => (ctxOf t 0).loops = [⟨2, 8, 2⟩]) ∧
      Gives (.loop 0 (controlFields 0 2)) (loopReset [] []) (fun t => (ctxOf t 0).pc = 24) ∧
      Gives (.loop 0 (controlFields 1 2)) (loopReset (List.replicate 4 ⟨1, 0, 4⟩) []) (fun t => (qnAt t 0).trap = 1) := by
  have hruns (loops : List LoopSt) := quernRuns_loopReset loops []
  have forms (loops : List LoopSt) (f : QFields) := branchesAndLoopsFollowTheirBodies.1 (loopReset loops []) 0 f
  obtain ⟨-, -, -, -, -, opens, -⟩ := forms [] (controlFields 1 2)
  obtain ⟨-, -, -, -, skips, -⟩ := forms [] (controlFields 0 2)
  obtain ⟨-, -, -, -, -, -, fifth⟩ := forms (List.replicate 4 ⟨1, 0, 4⟩) (controlFields 1 2)
  exact ⟨(opens ⟨hruns _, by decide⟩ (by decide) (by decide) (by decide)).imp fun t h => by rw [h.ctxOf_eq]; decide,
    (skips ⟨hruns _, by decide⟩ rfl (by decide)).imp fun t h => by rw [h.ctxOf_eq]; decide,
    (fifth ⟨hruns _, by decide⟩ (by decide)).imp fun t h => by rw [h.2]⟩

/-- The last instruction of a body goes back to its first with a pass left, and leaves the loop with none. -/
theorem nextPc_bodyEnd :
    nextPc { QCtx.reset with pc := 24, loops := [⟨1, 8, 3⟩] } = { QCtx.reset with pc := 8, loops := [⟨0, 8, 3⟩] } ∧
      nextPc { QCtx.reset with pc := 24, loops := [⟨0, 8, 3⟩] } = { QCtx.reset with pc := 32 } := by
  have ends (l : LoopSt) := branchesAndLoopsFollowTheirBodies.2 { QCtx.reset with pc := 24, loops := [l] } l [] rfl
  obtain ⟨-, again, -⟩ := ends ⟨1, 8, 3⟩
  obtain ⟨-, -, last⟩ := ends ⟨0, 8, 3⟩
  exact ⟨again rfl (by decide), last rfl rfl rfl⟩

/-- With the transfer of tag 3 outstanding MWAIT on that tag stays and on tag 2 passes; MFENCE passes. -/
theorem waits_loopReset :
    let s := loopReset [] [⟨3, true, 0, 0, 64, [], [], 0, 64⟩]
    Gives (.mwait 0 (controlFields 0 8)) s (· = s) ∧
      Gives (.mwait 0 (controlFields 0 4)) s (fun t => (ctxOf t 0).pc = 8) ∧
      Gives (.mfence 0 (controlFields 0 2)) s (fun t => (ctxOf t 0).pc = 8) := by
  intro s
  have hruns := quernRuns_loopReset [] [⟨3, true, 0, 0, 64, [], [], 0, 64⟩]
  have forms (f : QFields) := fencesAndWaitsHoldUntilTransfersEnd s 0 f
  obtain ⟨-, -, -, holds⟩ := forms (controlFields 0 8)
  obtain ⟨-, -, passes, -⟩ := forms (controlFields 0 4)
  obtain ⟨fence, -⟩ := forms (controlFields 0 2)
  exact ⟨holds ⟨hruns, by decide⟩ (by decide),
    (passes ⟨hruns, by decide⟩ (by decide)).imp fun t h => by rw [h.ctxOf_eq]; decide,
    (fence ⟨hruns, by decide⟩ (fun _ => by decide)).imp fun t h => by rw [h.ctxOf_eq]; decide⟩

end Sys2Proof.Spec

/-!
PROOF. Lane-wise vector instructions (O29, O30).
-/
namespace Sys2Proof.Spec

open Sys2Proof Sys2Proof.Machine

/-! ### Lists over the 64 lanes -/

theorem lanesOf_length (c : QCtx) (fmt r : Nat) : (lanesOf c fmt r).length = 64 := by
  unfold lanesOf
  split <;> simp [vLanes_length]

/-- A list of 64 is the list of its entries. -/
theorem eq_map_getD {α : Type} {l : List α} (h : l.length = 64) (d : α) : l = (List.range 64).map (fun i => l.getD i d) := by
  apply List.ext_getElem (by simp [h])
  intro i hi hi'
  simp [List.getD, hi]

theorem lanesOf_eq_map (s : State) (q fmt r : Nat) :
    lanesOf (ctxOf s q) fmt r = (List.range 64).map (laneOf s q fmt r) :=
  eq_map_getD (lanesOf_length ..) 0

theorem activeLanes_eq_map (s : State) (q pred : Nat) :
    activeLanes (ctxOf s q) pred = (List.range 64).map (laneOn s q pred) := rfl

theorem vLanes_eq_map (c : QCtx) (r : Nat) : vLanes c r = (List.range 64).map (vLane c r) := by
  apply List.ext_getElem?
  intro i
  rw [vLanes_getElem?]
  by_cases hi : i < 64 <;> simp [hi]

/-- Over the lanes an entry and its index are two functions of the index. -/
theorem zipIdx_map_range {α : Type} (a : Nat → α) (n : Nat) :
    ((List.range n).map a).zipIdx = (List.range n).map (fun i => (a i, i)) := by
  apply List.ext_getElem (by simp)
  intro i hi hi'
  simp

theorem getD_map_range {α : Type} (a : Nat → α) (d : α) {i n : Nat} (h : i < n) : ((List.range n).map a).getD i d = a i := by
  simp [List.getD, h]

/-! ### Registers after completion -/

/-- What does not look at the program address is after completion as it was before. -/
theorem complete_reads {α : Type} {g : QCtx → α} (hg : ∀ c, g (nextPc c) = g c) {s : State} {q : Nat}
    (h : q < s.qn.q.length) (op : Nat) (f : QFields) (nan : Option Nat) (src : Bool) :
    g (ctxOf (complete s q op f nan src) q) = g (ctxOf s q) := by
  obtain ⟨m, he, hm⟩ := complete_eq_qnMod s q op f nan src
  have hctx : ctxOf (qnMod s q m) q = (m (qnAt s q)).ctx := congrArg Quern.ctx (onlyQuern_qnMod h m).2
  rw [he, hctx]
  rcases hm (qnAt s q) with hkeep | hnext
  · rw [hkeep, ctxOf]
  · rw [hnext, hg, ctxOf]

/-- What an instruction writes before it completes is what reads back. -/
theorem complete_ctxMod_reads {α : Type} {g : QCtx → α} (hg : ∀ c, g (nextPc c) = g c) {s : State} {q : Nat}
    (h : q < s.qn.q.length) (m : QCtx → QCtx) (op : Nat) (f : QFields) (nan : Option Nat) (src : Bool) :
    g (ctxOf (complete (ctxMod s q m) q op f nan src) q) = g (m (ctxOf s q)) := by
  rw [complete_reads hg (by rwa [ctxMod, qnMod_length]), ctxOf_ctxMod _ _ _ h]

/-! ### The common shape of lane-wise instructions -/

/-- The results of `fn` written to the active lanes of v[D] with their flags, and the first-NaN test (R117, R130). -/
def laneCompletion (s : State) (q op : Nat) (f : QFields) (fi fo : Nat) (srcs : List Nat) (fn : Nat → Nat × Flags) : State :=
  complete (ctxMod s q (fun c => raiseFlags (putLanes c fo f.d (laneOuts s q f fn)) (laneFlags s q f fn))) q op f
    ((laneOuts s q f fn).findIdx? (fun x => x.elim false (nanCode fo))) (srcNan s q f fi srcs)

theorem laneOuts_length (s : State) (q : Nat) (f : QFields) (fn : Nat → Nat × Flags) : (laneOuts s q f fn).length = 64 := by
  simp [laneOuts]

theorem laneOuts_getD {s : State} {q : Nat} {f : QFields} {fn : Nat → Nat × Flags} {i : Nat} (h : i < 64) :
    (laneOuts s q f fn).getD i none = if laneOn s q f.pred i then some (fn i).1 else none :=
  getD_map_range _ none h

/-- Read lane by lane, such an instruction changes the active lanes of v[D] alone. -/
theorem laneWise_laneCompletion {s : State} {q : Nat} (h : q < s.qn.q.length) {fo : Nat} (hok : okFmt fo = true) (op : Nat)
    (f : QFields) (fi : Nat) (srcs : List Nat) (fn : Nat → Nat × Flags) :
    LaneWise s (laneCompletion s q op f fi fo srcs fn) q op f fi fo srcs fn := by
  have reads {α : Type} {g : QCtx → α} (hg : ∀ c, g (nextPc c) = g c) (hraise : ∀ c fl, g (raiseFlags c fl) = g c) :
      g (ctxOf (laneCompletion s q op f fi fo srcs fn) q) = g (putLanes (ctxOf s q) fo f.d (laneOuts s q f fn)) :=
    (complete_ctxMod_reads hg h _ op f _ _).trans (hraise ..)
  refine ⟨rfl, fun i hi => ?written, fun r i hr hpair hi => ?outside, fun j => ?registers⟩
  case written =>
    have hlane := reads (g := fun c => (lanesOf c fo f.d).getD i 0) (fun _ => rfl) (fun _ _ => rfl)
    rw [laneOf, hlane, lanesOf_putLanes _ _ _ _ hok (laneOuts_length ..) i hi, laneOuts_getD hi]
    split <;> rfl
  case outside =>
    rw [reads (g := fun c => vLane c r i) (fun _ => rfl) (fun _ _ => rfl)]
    exact vLane_putLanes_outside _ (laneOuts_length ..) hi hr hpair
  case registers =>
    rw [reads (g := fun c => sReg c j) (fun _ => rfl) (fun _ _ => rfl),
      reads (g := fun c => pReg c j) (fun _ => rfl) (fun _ _ => rfl)]
    exact sReg_pReg_putLanes ..

/-- An active NaN among the source operands, lane by lane. -/
theorem anyNan_eq (s : State) (q : Nat) (f : QFields) (fi : Nat) (srcs : List Nat) :
    anyNan fi (activeLanes (ctxOf s q) f.pred) (srcs.map (lanesOf (ctxOf s q) fi)) = srcNan s q f fi srcs := by
  unfold anyNan srcNan
  rw [List.any_map]
  congr 1
  funext r
  rw [Function.comp, lanesOf_eq_map, activeLanes_eq_map, List.zip_map', List.any_map]
  rfl

/-- The results of `fn` on the active lanes, none on the others, before they are parted into values and flags. -/
def laneResults {α : Type} (s : State) (q : Nat) (f : QFields) (fn : Nat → α) : List (Option α) :=
  (List.range 64).map (fun i => if laneOn s q f.pred i then some (fn i) else none)

/-- Parting the results gives the lanes' values. -/
theorem laneResults_map {α β : Type} (s : State) (q : Nat) (f : QFields) (fn : Nat → α) (v : α → β) :
    (laneResults s q f fn).map (fun x => x.map v) = laneResults s q f (fun i => v (fn i)) := by
  simp only [laneResults, List.map_map]
  refine List.map_congr_left fun i _ => ?_
  dsimp only [Function.comp]
  split <;> rfl

theorem laneOuts_eq (s : State) (q : Nat) (f : QFields) (fn : Nat → Nat × Flags) :
    laneOuts s q f fn = laneResults s q f (fun i => (fn i).1) := rfl

/-- Parting the results gives the lanes' flags. -/
theorem laneResults_flags {α : Type} (s : State) (q : Nat) (f : QFields) (fn : Nat → α) (fl : α → Flags) :
    flagsOr ((laneResults s q f fn).map (fun x => x.elim 0 fl))
      = flagsOr ((List.range 64).map (fun i => if laneOn s q f.pred i then fl (fn i) else 0)) := by
  simp only [laneResults, List.map_map]
  congr 1
  refine List.map_congr_left fun i _ => ?_
  dsimp only [Function.comp]
  split <;> rfl

/-- The model's loop over the lanes is that shape. -/
theorem lanewise_eq (s : State) (q op : Nat) (f : QFields) (fi fo : Nat) (srcs : List Nat) (fn : List Nat → Nat × Flags) :
    lanewise s q op f fi fo srcs fn
      = laneCompletion s q op f fi fo srcs (fun i => fn (srcs.map (fun r => laneOf s q fi r i))) := by
  have hlanes : (activeLanes (ctxOf s q) f.pred).zipIdx.map (fun (on, i) =>
      if on then some (fn ((srcs.map (lanesOf (ctxOf s q) fi)).map (fun (l : List Nat) => l.getD i 0))) else none)
      = laneResults s q f (fun i => fn (srcs.map (fun r => laneOf s q fi r i))) := by
    rw [activeLanes_eq_map, zipIdx_map_range, List.map_map]
    simp only [List.map_map]
    rfl
  unfold lanewise laneCompletion
  dsimp only
  rw [anyNan_eq, hlanes, laneResults_map, laneResults_flags, laneOuts_eq, laneFlags]

theorem vec2_eq (s : State) (q op : Nat) (f : QFields) (g : RM → FV → FV → FV × Flags) :
    vec2 q op f g s = laneCompletion s q op f f.fi f.fi [f.a, f.b] (fun i =>
      valLane f (g (rmq s q f) (valOf s q f f.a i) (valOf s q f f.b i))) := by
  rw [vec2, vecVal, lanewise_eq]
  rfl

theorem vec1_eq (s : State) (q op : Nat) (f : QFields) (g : RM → FV → FV × Flags) :
    vec1 q op f g s = laneCompletion s q op f f.fi f.fi [f.a] (fun i => valLane f (g (rmq s q f) (valOf s q f f.a i))) := by
  rw [vec1, vecVal, lanewise_eq]
  rfl

theorem vec3_eq (s : State) (q op : Nat) (f : QFields) (g : RM → FV → FV → FV → FV × Flags) :
    vecVal q op f [f.a, f.b, f.c] (fun xs =>
        g (rmOf (ctxOf s q) f.rnd) (xs.getD 0 fvNaN) (xs.getD 1 fvNaN) (xs.getD 2 fvNaN)) s
      = laneCompletion s q op f f.fi f.fi [f.a, f.b, f.c] (fun i =>
        valLane f (g (rmq s q f) (valOf s q f f.a i) (valOf s q f f.b i) (valOf s q f f.c i))) := by
  rw [vecVal, lanewise_eq]
  rfl

/-- A lane-wise instruction whose word is legal for its output format. -/
theorem gives_laneWise {cmd : Instr} {s : State} {q op : Nat} {f : QFields} {fi fo : Nat} {srcs : List Nat}
    {fn : Nat → Nat × Flags} {body : State → State} (hexec : exec cmd s = .next (issue s q op f body))
    (hbody : body s = laneCompletion s q op f fi fo srcs fn) (hok : quernLegal op f = true → okFmt fo = true)
    (h : Issues s q op f) : Gives cmd s (fun t => LaneWise s t q op f fi fo srcs fn) :=
  gives_of_issues hexec h (hbody ▸ laneWise_laneCompletion (quernRuns_lt h.1) (hok h.2) op f fi srcs fn)

/-! ### Output formats of legal words -/

theorem okFmt_of_legalVec {f : QFields} {n m : Nat} (h : legalVec f n m = true) : okFmt f.fi = true := by
  have hfi : f.fi ≤ 2 := by simp_all [legalVec, okVecFi]
  exact decide_eq_true (by omega)

theorem okFmt_of_legalSpecial {f : QFields} {dyn : Bool} (h : legalSpecial f dyn = true) : okFmt f.fi = true := by
  have hfi : f.fi ≤ 1 := by simp_all [legalSpecial]
  exact decide_eq_true (by omega)

theorem okFmt_of_legalVscalb {f : QFields} (h : quernLegal 0x4E f = true) : okFmt f.fi = true := by
  have hfi : f.fi ≤ 2 := by simp_all [quernLegal, okVecFi]
  exact decide_eq_true (by omega)

/-! ### Arithmetic (O29) -/

/-- VSCALB takes its exponents from the words of v[B] (R142). -/
theorem execVscalb_eq (s : State) (q : Nat) (f : QFields) : exec (.vscalb q f) s = .next (issue s q 0x4E f (fun s =>
    laneCompletion s q 0x4E f f.fi f.fi [f.a] (fun i =>
      valLane f (fpScaleB (vfmt f.fi) (rmq s q f) (valOf s q f f.a i) (signed 32 (vLane (ctxOf s q) f.b i)))))) := by
  have hlanes (s : State) :
      ((activeLanes (ctxOf s q) f.pred).zip ((lanesOf (ctxOf s q) f.fi f.a).zip (vLanes (ctxOf s q) f.b))).map
        (fun (on, x, n) =>
          if on then some (fpScaleB (vfmt f.fi) (rmOf (ctxOf s q) f.rnd) (elemFV f.fi x) (signed 32 n)) else none)
      = laneResults s q f (fun i =>
        fpScaleB (vfmt f.fi) (rmq s q f) (valOf s q f f.a i) (signed 32 (vLane (ctxOf s q) f.b i))) := by
    rw [activeLanes_eq_map, lanesOf_eq_map, vLanes_eq_map, List.zip_map', List.zip_map', List.map_map]
    rfl
  refine congrArg Host.Outcome.next (congrArg (issue s q 0x4E f) (funext fun s => ?_))
  have hnan := anyNan_eq s q f f.fi [f.a]
  dsimp only
  rw [hlanes, laneResults_map, laneResults_flags]
  exact congrArg _ hnan

/-- Settles O29: each form is the common shape over the lanes of its sources. -/
theorem vectorArithmeticWritesExactlyTheActiveLanes : Obligations.VectorArithmeticWritesExactlyTheActiveLanes :=
  fun s q f =>
  ⟨gives_laneWise rfl (vec2_eq ..) okFmt_of_legalVec, gives_laneWise rfl (vec2_eq ..) okFmt_of_legalVec,
    gives_laneWise rfl (vec2_eq ..) okFmt_of_legalVec, gives_laneWise rfl (vec3_eq ..) okFmt_of_legalVec,
    gives_laneWise rfl (vec2_eq ..) okFmt_of_legalVec, gives_laneWise rfl (vec2_eq ..) okFmt_of_legalVec,
    gives_laneWise rfl (vec1_eq ..) okFmt_of_legalVec, gives_laneWise (execVscalb_eq s q f) rfl okFmt_of_legalVscalb,
    gives_laneWise rfl (vec1_eq ..) okFmt_of_legalSpecial, gives_laneWise rfl (vec1_eq ..) okFmt_of_legalSpecial,
    gives_laneWise rfl (vec1_eq ..) okFmt_of_legalSpecial, gives_laneWise rfl (vec1_eq ..) okFmt_of_legalSpecial,
    gives_laneWise rfl (vec1_eq ..) okFmt_of_legalSpecial⟩

/-! ### Selection and integer operations (O30) -/

theorem okFmt_of_legalVsel {f : QFields} (h : quernLegal 0x53 f = true) : okFmt f.fi = true := by
  simp_all [quernLegal]

theorem okFmt_of_legalVmov {f : QFields} (h : quernLegal 0x55 f = true) : okFmt f.fi = true := by
  simp_all [quernLegal]

/-- Lanes that raise no flag. -/
theorem laneFlags_zero (s : State) (q : Nat) (f : QFields) (fn : Nat → Nat) : laneFlags s q f (fun i => (fn i, 0)) = 0 := by
  simp only [laneFlags, ite_self]
  decide

theorem raiseFlags_zero (c : QCtx) : raiseFlags c 0 = c := by
  simp [raiseFlags]

/-- VSEL picks each lane of v[A] or v[B] by the predicate in C (R142). -/
theorem execVsel_eq (s : State) (q : Nat) (f : QFields) : exec (.vsel q f) s = .next (issue s q 0x53 f (fun s =>
    laneCompletion s q 0x53 f f.fi f.fi [f.a, f.b] (fun i =>
      (if laneOn s q f.c i then laneOf s q f.fi f.a i else laneOf s q f.fi f.b i, 0)))) := by
  have hlanes (s : State) : ((activeLanes (ctxOf s q) f.pred).zip ((activeLanes (ctxOf s q) f.c).zip
        ((lanesOf (ctxOf s q) f.fi f.a).zip (lanesOf (ctxOf s q) f.fi f.b)))).map
      (fun (on, p, x, y) => if on then some (if p then x else y) else none)
      = laneOuts s q f (fun i => (if laneOn s q f.c i then laneOf s q f.fi f.a i else laneOf s q f.fi f.b i, 0)) := by
    rw [activeLanes_eq_map, activeLanes_eq_map, lanesOf_eq_map, lanesOf_eq_map, List.zip_map', List.zip_map', List.zip_map',
      List.map_map]
    rfl
  refine congrArg Host.Outcome.next (congrArg (issue s q 0x53 f) (funext fun s => ?_))
  have hnan := anyNan_eq s q f f.fi [f.a, f.b]
  rw [laneCompletion, laneFlags_zero]
  simp only [raiseFlags_zero]
  rw [hlanes]
  exact congrArg _ hnan

/-- Settles O30: each form is the common shape over the lanes of its sources. -/
theorem vectorSelectionWritesExactlyTheActiveLanes : Obligations.VectorSelectionWritesExactlyTheActiveLanes :=
  fun s q f =>
  ⟨gives_laneWise rfl (vec2_eq ..) okFmt_of_legalVec, gives_laneWise rfl (vec2_eq ..) okFmt_of_legalVec,
    gives_laneWise rfl (vec2_eq ..) okFmt_of_legalVec, gives_laneWise rfl (vec2_eq ..) okFmt_of_legalVec,
    gives_laneWise rfl (lanewise_eq ..) okFmt_of_legalVec, gives_laneWise rfl (lanewise_eq ..) okFmt_of_legalVec,
    gives_laneWise rfl (lanewise_eq ..) okFmt_of_legalVec, gives_laneWise rfl (lanewise_eq ..) (fun _ => rfl),
    gives_laneWise rfl (lanewise_eq ..) okFmt_of_legalVec, gives_laneWise rfl (lanewise_eq ..) (fun _ => rfl),
    gives_laneWise (execVsel_eq s q f) rfl okFmt_of_legalVsel, gives_laneWise rfl (lanewise_eq ..) okFmt_of_legalVmov,
    gives_laneWise rfl (lanewise_eq ..) (fun _ => rfl)⟩

/-! ### Concrete lanes -/

/-- A binary32 operation on v0 and v[b] into v2 over the lanes of p1, which holds lanes 5 and 9. -/
def laneFields (b c fo : Nat) : QFields := ⟨2, 0, b, c, 1, fo, 0, false, 1, 0⟩

theorem LaneWise.written {s t : State} {q op : Nat} {f : QFields} {fi fo : Nat} {srcs : List Nat} {fn : Nat → Nat × Flags}
    (h : LaneWise s t q op f fi fo srcs fn) {i : Nat} (hi : i < 64) :
    laneOf t q fo f.d i = if laneOn s q f.pred i then (fn i).1 % 2 ^ fmtBits fo else laneOf s q fo f.d i := by
  obtain ⟨-, hwritten, -⟩ := h
  exact hwritten i hi

/-- VADD doubles the 3 of lane 5 and leaves lane 0; VSCALB by the zeros of v1 keeps it. -/
theorem arithmetic_reducingReset :
    Gives (.vadd 0 (laneFields 0 0 1)) reducingReset (fun t => laneOf t 0 1 2 5 = 0x40C00000 ∧ laneOf t 0 1 2 0 = 0) ∧
      Gives (.vscalb 0 (laneFields 1 0 1)) reducingReset (fun t => laneOf t 0 1 2 5 = 0x40400000) := by
  have hruns : quernRuns reducingReset 0 = true := by decide
  have forms (f : QFields) := vectorArithmeticWritesExactlyTheActiveLanes reducingReset 0 f
  obtain ⟨vadd, -⟩ := forms (laneFields 0 0 1)
  obtain ⟨-, -, -, -, -, -, -, vscalb, -⟩ := forms (laneFields 1 0 1)
  exact ⟨(vadd ⟨hruns, by decide⟩).imp fun t h =>
      ⟨(h.written (by decide)).trans (by decide), (h.written (by decide)).trans (by decide)⟩,
    (vscalb ⟨hruns, by decide⟩).imp fun t h => (h.written (by decide)).trans (by decide)⟩

/-- VNEG turns the 3 of lane 9 into -3 and leaves lane 0; VSEL by p1 takes v0 in lane 9. -/
theorem selection_reducingReset :
    Gives (.vneg 0 (laneFields 0 0 1)) reducingReset (fun t => laneOf t 0 1 2 9 = 0xC0400000 ∧ laneOf t 0 1 2 0 = 0) ∧
      Gives (.vsel 0 (laneFields 0 1 0)) reducingReset (fun t => laneOf t 0 1 2 9 = 0x40400000) := by
  have hruns : quernRuns reducingReset 0 = true := by decide
  have forms (f : QFields) := vectorSelectionWritesExactlyTheActiveLanes reducingReset 0 f
  obtain ⟨-, -, -, -, -, vneg, -⟩ := forms (laneFields 0 0 1)
  obtain ⟨-, -, -, -, -, -, -, -, -, -, vsel, -⟩ := forms (laneFields 0 1 0)
  exact ⟨(vneg ⟨hruns, by decide⟩).imp fun t h =>
      ⟨(h.written (by decide)).trans (by decide), (h.written (by decide)).trans (by decide)⟩,
    (vsel ⟨hruns, by decide⟩).imp fun t h => (h.written (by decide)).trans (by decide)⟩

end Sys2Proof.Spec

/-!
PROOF. Moves between register files, conversions, fixed-window totals and random draws (O31, O32, O34, O35).
-/
namespace Sys2Proof.Spec

open Sys2Proof Sys2Proof.Machine

/-! ### Predicate bits -/

theorem bitsFrom_lt (g : Nat → Bool) (n : Nat) : bitsFrom g n < 2 ^ n := by
  induction n with
  | zero => exact Nat.one_pos
  | succ n ih =>
    rw [bitsFrom, Nat.pow_succ]
    split <;> omega

theorem testBit_bitsFrom (g : Nat → Bool) (n i : Nat) : (bitsFrom g n).testBit i = (decide (i < n) && g i) := by
  induction n with
  | zero => simp [bitsFrom]
  | succ n ih =>
    have hlt := bitsFrom_lt g n
    rw [bitsFrom]
    split
    next hg =>
      rw [Nat.add_comm]
      rcases lt_trichotomy i n with h | rfl | h
      · rw [Nat.testBit_two_pow_add_gt h, ih]
        simp [h, h.le]
      · rw [Nat.testBit_two_pow_add_eq, ih]
        simp [hg]
      · rw [Nat.testBit_lt_two_pow]
        · simp; omega
        · calc 2 ^ n + bitsFrom g n < 2 ^ (n + 1) := by omega
            _ ≤ 2 ^ i := Nat.pow_le_pow_right (by decide) h
    next hg =>
      rw [Nat.add_zero, ih]
      by_cases h : i = n
      · subst h; simp [hg]
      · congr 1
        apply decide_eq_decide.2
        omega

theorem bitOf_putPred (c : QCtx) {d : Nat} (hd : d ≠ 0) (bits : List (Option Bool)) {i : Nat} (hi : i < 64) :
    bitOf (pReg (putPred c d bits) d) i = (bits.getD i none).getD (bitOf (pReg c d) i) := by
  rw [putPred, pReg_setP, if_neg hd, if_pos rfl, Nat.mod_eq_of_lt (bitsFrom_lt ..), bitOf_eq_testBit, testBit_bitsFrom]
  simp [hi]

/-! ### Cross-file moves (O31) -/

theorem zipIdx_activeLanes {α : Type} (s : State) (q : Nat) (f : QFields) (g : Nat → α) :
    (activeLanes (ctxOf s q) f.pred).zipIdx.map (fun (on, i) => if on then some (g i) else none) = laneResults s q f g := by
  rw [activeLanes_eq_map, zipIdx_map_range, List.map_map]
  rfl

theorem map_activeLanes {α : Type} (s : State) (q : Nat) (f : QFields) (x : α) :
    (activeLanes (ctxOf s q) f.pred).map (fun on => if on then some x else none) = laneResults s q f (fun _ => x) := by
  rw [activeLanes_eq_map, List.map_map]
  rfl

/-- The result of the comparison in lane i, and its flags (R142). -/
def cmpLane (s : State) (q : Nat) (f : QFields) (i : Nat) : Bool × Flags :=
  fpCompare (f.md % 8) (bitOf f.md 3) (valOf s q f f.a i) (valOf s q f f.b i)

/-- The context VCMP leaves but for the program address: the active lanes' predicate bits and flags. -/
def comparedCtx (s : State) (q : Nat) (f : QFields) : QCtx :=
  raiseFlags (putPred (ctxOf s q) f.d (laneResults s q f (fun i => (cmpLane s q f i).1)))
    (flagsOr ((List.range 64).map (fun i => if laneOn s q f.pred i then (cmpLane s q f i).2 else 0)))

theorem gives_vcmp {s : State} {q : Nat} {f : QFields} (h : Issues s q 0x51 f) :
    Gives (.vcmp q f) s (fun t => QuernSets s t q (nextPc (comparedCtx s q f))) := by
  have hlanes :
      ((activeLanes (ctxOf s q) f.pred).zip ((lanesOf (ctxOf s q) f.fi f.a).zip (lanesOf (ctxOf s q) f.fi f.b))).map
      (fun (on, a, b) => if on then some (fpCompare (f.md % 8) (bitOf f.md 3) (elemFV f.fi a) (elemFV f.fi b)) else none)
      = laneResults s q f (cmpLane s q f) := by
    rw [activeLanes_eq_map, lanesOf_eq_map, lanesOf_eq_map, List.zip_map', List.zip_map', List.map_map]
    rfl
  refine gives_of_issues rfl h ?_
  dsimp only
  rw [hlanes, laneResults_map, laneResults_flags]
  exact quernSets_completePlain (quernRuns_lt h.1) _

theorem bitOf_comparedCtx {s : State} {q : Nat} {f : QFields} (hd : f.d ≠ 0) {i : Nat} (hi : i < 64) :
    bitOf (pReg (comparedCtx s q f) f.d) i
      = if laneOn s q f.pred i then (cmpLane s q f i).1 else bitOf (pReg (ctxOf s q) f.d) i := by
  have hbit := bitOf_putPred (ctxOf s q) hd (laneResults s q f (fun i => (cmpLane s q f i).1)) hi
  rw [laneResults, getD_map_range _ none hi] at hbit
  refine hbit.trans ?_
  split <;> rfl

/-- VBCAST writes the value of the scalar to every active lane (R142). -/
theorem gives_vbcast {s : State} {q : Nat} {f : QFields} (h : Issues s q 0x56 f) :
    let x := sReg (ctxOf s q) f.a % 2 ^ fmtBits f.fi
    let outs := laneResults s q f (fun _ => x)
    Gives (.vbcast q f) s (fun t => t = complete (ctxMod s q (fun c => putLanes c f.fi f.d outs)) q 0x56 f
        (outs.findIdx? (fun y => y.elim false (nanCode f.fi))) (nanCode f.fi x) ∧
      ∀ i, i < 64 → laneOf t q f.fi f.d i = if laneOn s q f.pred i then x else laneOf s q f.fi f.d i) := by
  intro x outs
  have hok : okFmt f.fi = true := by
    obtain ⟨-, hlegal⟩ := h
    simp_all [quernLegal]
  refine gives_of_body_eq rfl h ?_ ⟨rfl, fun i hi => ?_⟩
  · dsimp only
    rw [map_activeLanes]
  · have hlane := complete_ctxMod_reads (g := fun c => (lanesOf c f.fi f.d).getD i 0) (fun _ => rfl) (quernRuns_lt h.1)
      (fun c => putLanes c f.fi f.d outs) 0x56 f (outs.findIdx? (fun y => y.elim false (nanCode f.fi))) (nanCode f.fi x)
    rw [laneOf, hlane, lanesOf_putLanes _ _ _ _ hok (by simp [outs, laneResults]) i hi,
      show outs.getD i none = _ from getD_map_range _ none hi]
    split
    next => exact Nat.mod_mod ..
    next => rfl

/-- VEXT of an active lane writes it to s[D] (R142). -/
theorem gives_vext_active {s : State} {q : Nat} {f : QFields} (h : Issues s q 0x57 f) (hon : laneOn s q f.pred f.md = true) :
    let x := laneOf s q f.fi f.a f.md
    Gives (.vext q f) s (fun t =>
      t = complete (ctxMod s q (fun c => setS c f.d x)) q 0x57 f (if nanCode f.fi x then some 0 else none) true ∧
      sReg (ctxOf t q) f.d = x % 2 ^ 64) := by
  intro x
  refine gives_of_body_eq rfl h (if_pos hon) ⟨rfl, ?_⟩
  have hread := complete_ctxMod_reads (g := fun c => sReg c f.d) (fun _ => rfl) (quernRuns_lt h.1) (fun c => setS c f.d x)
  exact (hread ..).trans ((sReg_setS ..).trans (if_pos rfl))

/-- Settles O31: each form by its body over the lanes; a written bit, lane or scalar reads back. -/
theorem crossFileMovesFollowThePredicate : Obligations.CrossFileMovesFollowThePredicate := by
  intro s q f c cmp
  refine ⟨fun h => (gives_vcmp h).imp fun t ht => ⟨ht, fun hd i hi => ?bits⟩,
    gives_completePlain rfl ?lane, gives_completePlain rfl rfl, gives_completePlain rfl rfl, gives_vbcast, gives_vext_active,
    fun h hoff => gives_ctxMod rfl h (if_neg (by simpa [laneOn] using hoff)) rfl⟩
  case bits =>
    rw [ht.ctxOf_eq]
    exact bitOf_comparedCtx hd hi
  case lane => exact congrArg (fun l => nextPc (putLanes c 0xB f.d l)) (zipIdx_activeLanes s q f id)

/-! ### Conversions (O32) -/

/-- CVT and CVT.ODD in the words `drawn` gives, whose state the draw leaves. -/
theorem doCvt_eq (s : State) (q op : Nat) (f : QFields) (sel : QCtx → RndSel) :
    let c := ctxOf s q
    let act := activeLanes c f.pred
    let src := lanesOf c f.fi f.a
    let d := drawn s q (decide (f.rnd = 2)) act
    let lanes := (act.zip (src.zip d.1)).map (fun (on, x, w) =>
      if !on then none else if f.fi = f.fo && op = 0x70 then some (x, (0 : Flags))
      else some (convTo f.fo f.sat (sel c) (srcOf (elemFV f.fi x)) w))
    let outs := lanes.map (fun x => x.map (fun y => y.1))
    doCvt q op f sel s = complete (ctxMod d.2 q (fun c => raiseFlags (putLanes c f.fo f.d outs)
      (flagsOr (lanes.map (fun x => x.elim 0 (fun y => y.2)))))) q op f
      (outs.findIdx? (fun x => x.elim false (nanCode f.fo))) (anyNan f.fi act [src]) := by
  intro c act src d
  have hdraw : (if f.rnd = 2 then drawActive s (logicalOf s q) 0 act else (act.map (fun _ => 0), s)) = d := by
    simp only [d, drawn, decide_eq_true_eq]
  unfold doCvt
  dsimp only
  rw [hdraw]

/-- Settles O32: the bodies as the statement writes them, the drawn words apart. -/
theorem conversionsWriteTheirFormats : Obligations.ConversionsWriteTheirFormats := by
  intro s q f c act src
  refine ⟨fun cmd op sel hcmd h => ?cvt, fun h => gives_of_issues rfl h rfl,
    fun h => gives_of_issues rfl h ?cvtw⟩
  case cvtw =>
    unfold doCvtw
    dsimp only
    rw [List.map_map]
    rfl
  case cvt =>
    rcases hcmd with ⟨rfl, rfl, rfl⟩ | ⟨rfl, rfl, rfl⟩
    · exact gives_of_issues rfl h (doCvt_eq s q 0x70 f (fun c => selOf c f.rnd))
    · exact gives_of_issues rfl h (doCvt_eq s q 0x71 f (fun _ => .attr .odd))

/-! ### Fixed-window totals (O34) -/

/-- The two's-complement value of a code is the code, modulo the range. -/
theorem signed_emod (n a : Nat) : signed n a % (2 ^ n : Nat) = (a : Int) % (2 ^ n : Nat) := by
  unfold signed
  dsimp only
  split
  · push_cast
    exact Int.emod_emod_of_dvd _ dvd_rfl
  · rw [Int.sub_emod_right]
    push_cast
    exact Int.emod_emod_of_dvd _ dvd_rfl

/-- Addition of totals is addition of their codes, modulo the range (R145). -/
theorem twosCode_signed_add (n a b : Nat) : twosCode n (signed n a + signed n b) = (a + b) % 2 ^ n := by
  rw [twosCode, Int.add_emod, signed_emod, signed_emod, ← Int.add_emod]
  exact_mod_cast Int.toNat_natCast ((a + b) % 2 ^ n)

/-- Settles O34: each form is a plain completion by its body. -/
theorem fixedWindowInstructionsKeepTheirTotals : Obligations.FixedWindowInstructionsKeepTheirTotals := fun _ _ _ =>
  ⟨gives_completePlain rfl rfl, gives_completePlain rfl rfl, gives_completePlain rfl rfl, gives_completePlain rfl rfl,
    gives_completePlain rfl rfl, gives_completePlain rfl rfl, fun n a b _ _ _ => twosCode_signed_add n a b⟩

/-! ### Random draws (O35) -/

/-- `t` is `s` but for counters and Sail positions. -/
def SailOnly (s t : State) : Prop := t = { s with regs := t.regs, qn := { s.qn with sails := t.qn.sails } }

theorem SailOnly.trans {s t u : State} (a : SailOnly s t) (b : SailOnly t u) : SailOnly s u := by
  unfold SailOnly at *
  rw [b, a]

theorem sailOnly_sailLoad (s : State) (n stream : Nat) : SailOnly s (sailLoad s n stream) := by
  unfold sailLoad
  split <;> rfl

theorem SailOnly.querns {s t : State} (h : SailOnly s t) : t.qn.q = s.qn.q := by
  rw [h]

theorem SailOnly.ctxOf_eq {s t : State} (h : SailOnly s t) (q : Nat) : ctxOf t q = ctxOf s q := by
  rw [ctxOf, qnAt, h.querns]
  rfl

/-- One step of a draw: an active lane takes its word, another none (R147). -/
def drawStep (n stream : Nat) (a : List Nat × State) (x : Bool × Nat) : List Nat × State :=
  if x.1 then ((drawLane a.2 n x.2 stream 1).1.headD 0 :: a.1, (drawLane a.2 n x.2 stream 1).2) else (0 :: a.1, a.2)

theorem drawActive_eq (s : State) (n stream : Nat) (act : List Bool) : drawActive s n stream act =
    ((act.zipIdx.foldl (drawStep n stream) ([], sailLoad s n stream)).1.reverse,
      (act.zipIdx.foldl (drawStep n stream) ([], sailLoad s n stream)).2) := rfl

/-- Every lane adds one word, and the draws move Sail positions alone. -/
theorem foldl_drawStep (n stream : Nat) (l : List (Bool × Nat)) (a : List Nat × State) :
    SailOnly a.2 (l.foldl (drawStep n stream) a).2 ∧ (l.foldl (drawStep n stream) a).1.length = a.1.length + l.length := by
  induction l generalizing a with
  | nil => exact ⟨rfl, rfl⟩
  | cons x l ih =>
    obtain ⟨hside, hlen⟩ := ih (drawStep n stream a x)
    have hstep : SailOnly a.2 (drawStep n stream a x).2 ∧ (drawStep n stream a x).1.length = a.1.length + 1 := by
      unfold drawStep
      split <;> exact ⟨rfl, rfl⟩
    obtain ⟨hside1, hlen1⟩ := hstep
    refine ⟨hside1.trans hside, ?_⟩
    rw [List.foldl_cons, hlen, hlen1, List.length_cons]
    omega

theorem sailOnly_drawActive (s : State) (n stream : Nat) (act : List Bool) : SailOnly s (drawActive s n stream act).2 := by
  rw [drawActive_eq]
  exact (sailOnly_sailLoad s n stream).trans (foldl_drawStep ..).1

theorem drawActive_length (s : State) (n stream : Nat) (act : List Bool) :
    (drawActive s n stream act).1.length = act.length := by
  rw [drawActive_eq, List.length_reverse, (foldl_drawStep ..).2, List.length_zipIdx]
  exact Nat.zero_add _

/-- A draw sets the context from the words drawn, in the state they leave. -/
theorem gives_doDraw {cmd : Instr} {s : State} {q op : Nat} {f : QFields} {fn : List Bool → List Nat → QCtx → QCtx}
    (hexec : exec cmd s = .next (issue s q op f (doDraw q f fn))) (h : Issues s q op f) :
    let act := activeLanes (ctxOf s q) f.pred
    let d := drawActive s (logicalOf s q) f.md act
    Gives cmd s (fun t => QuernSets d.2 t q (nextPc (fn act d.1 (ctxOf s q)))) := by
  intro act d
  have hside : SailOnly s d.2 := sailOnly_drawActive ..
  have hlt : q < d.2.qn.q.length := by
    rw [hside.querns]
    exact quernRuns_lt h.1
  refine gives_of_issues hexec h ?_
  rw [← hside.ctxOf_eq q]
  exact quernSets_completePlain hlt (fn act d.1)

/-- Settles O35: the three forms are draws, which move counters and Sail positions alone. -/
theorem randomDrawsTakeOneWordPerActiveLane : Obligations.RandomDrawsTakeOneWordPerActiveLane := by
  intro s q f act d
  have hlen : act.length = 64 := by simp [act, activeLanes]
  have rbits := gives_doDraw (cmd := .rbits q f) (s := s) (op := 0xA0) (f := f) rfl
  have runi := gives_doDraw (cmd := .runi q f) (s := s) (op := 0xA1) (f := f) rfl
  have rbern := gives_doDraw (cmd := .rbern q f) (s := s) (op := 0xA2) (f := f) rfl
  exact ⟨rbits, runi, rbern, sailOnly_drawActive .., (drawActive_length ..).trans hlen⟩

/-! ### Concrete moves, conversions, totals and draws -/

/-- A form over the lanes of p1, from registers a and b into d, with its formats and modifier. -/
def moveFields (d a b fi fo md : Nat) : QFields := ⟨d, a, b, 0, fi, fo, 0, false, 1, md⟩

theorem quernRuns_reducingReset : quernRuns reducingReset 0 = true := by decide

/-- VCMP by "less" of v1 with v0 holds in lane 5, where 0 < 3; VEXT takes lane 5 to s4, and passes on lane 6, which is not
active; VBCAST gives the active lane 5 the zero of s0. -/
theorem moves_reducingReset :
    Gives (.vcmp 0 (moveFields 2 1 0 1 0 2)) reducingReset (fun t => bitOf (pReg (ctxOf t 0) 2) 5 = true) ∧
      Gives (.vext 0 (moveFields 4 0 0 1 0 5)) reducingReset (fun t => sReg (ctxOf t 0) 4 = 0x40400000) ∧
      Gives (.vext 0 (moveFields 4 0 0 1 0 6)) reducingReset (fun t => (ctxOf t 0).pc = 8) ∧
      Gives (.vbcast 0 (moveFields 0 0 0 1 0 0)) reducingReset (fun t => laneOf t 0 1 0 5 = 0) := by
  have forms (f : QFields) := crossFileMovesFollowThePredicate reducingReset 0 f
  obtain ⟨vcmp, -⟩ := forms (moveFields 2 1 0 1 0 2)
  obtain ⟨-, -, -, -, -, takes, -⟩ := forms (moveFields 4 0 0 1 0 5)
  obtain ⟨-, -, -, -, -, -, passes⟩ := forms (moveFields 4 0 0 1 0 6)
  obtain ⟨-, -, -, -, vbcast, -⟩ := forms (moveFields 0 0 0 1 0 0)
  have hruns := quernRuns_reducingReset
  exact ⟨(vcmp ⟨hruns, by decide⟩).imp fun t ⟨_, hbits⟩ => (hbits (by decide) 5 (by decide)).trans (by decide),
    (takes ⟨hruns, by decide⟩ (by decide)).imp fun t ⟨_, hread⟩ => hread.trans (by decide),
    (passes ⟨hruns, by decide⟩ (by decide)).imp fun t h => by rw [h.ctxOf_eq]; decide,
    (vbcast ⟨hruns, by decide⟩).imp fun t ⟨_, hlane⟩ => (hlane 5 (by decide)).trans (by decide)⟩

/-- CVT of 3 from binary32 to FO 0xB, an integer, gives 3 in lane 5; words of CVT.ODD, CVTB and CVTW are as legal. -/
theorem conversions_reducingReset :
    Gives (.cvt 0 (moveFields 2 0 0 1 0xB 0)) reducingReset (fun t => laneOf t 0 0xB 2 5 = 3) ∧
      Issues reducingReset 0 0x71 { moveFields 2 0 0 1 2 0 with rnd := 1 } ∧
      Issues reducingReset 0 0x72 { moveFields 2 0 0 1 5 0 with pred := 0 } ∧
      Issues reducingReset 0 0x73 { moveFields 2 0 0 5 1 0 with pred := 0 } := by
  have hruns := quernRuns_reducingReset
  obtain ⟨cvt, -⟩ := conversionsWriteTheirFormats reducingReset 0 (moveFields 2 0 0 1 0xB 0)
  refine ⟨(cvt _ 0x70 _ (.inl ⟨rfl, rfl, rfl⟩) ⟨hruns, by decide⟩).imp fun t h => ?_, ⟨hruns, by decide⟩,
    ⟨hruns, by decide⟩, ⟨hruns, by decide⟩⟩
  rw [h]
  refine (complete_ctxMod_reads (g := fun c => (lanesOf c 0xB 2).getD 5 0) (fun _ => rfl) (by decide) _ 0x70 ..).trans ?_
  decide

/-- FWADD adds the words of v0 to themselves in lane 5; RBITS draws and goes on. -/
theorem totals_reducingReset :
    Gives (.fwadd 0 (moveFields 4 0 0 0 0 0)) reducingReset (fun t => vLane (ctxOf t 0) 4 5 = 0x80800000) ∧
      Gives (.rbits 0 (moveFields 4 0 0 0 0 1)) reducingReset (fun t => (ctxOf t 0).pc = 8) := by
  have hruns := quernRuns_reducingReset
  obtain ⟨-, fwadd, -⟩ := fixedWindowInstructionsKeepTheirTotals reducingReset 0 (moveFields 4 0 0 0 0 0)
  obtain ⟨rbits, -⟩ := randomDrawsTakeOneWordPerActiveLane reducingReset 0 (moveFields 4 0 0 0 0 1)
  exact ⟨(fwadd ⟨hruns, by decide⟩).imp fun t h => by rw [h.ctxOf_eq]; decide,
    (rbits ⟨hruns, by decide⟩).imp fun t h => by rw [h.ctxOf_eq]; rfl⟩

end Sys2Proof.Spec

/-!
PROOF. Waiting words and atomics of the Querns (O38, O39).
-/
namespace Sys2Proof.Spec

open Sys2Proof Sys2Proof.Machine

/-! ### A translated access -/

theorem quernRuns_lt36 {s : State} {q : Nat} (h : quernRuns s q = true) : q < 36 := by
  simp only [quernRuns, Bool.and_eq_true, decide_eq_true_eq] at h
  obtain ⟨⟨⟨hq, -⟩, -⟩, -⟩ := h
  exact hq

/-- A translation leaves the numbers of units. -/
theorem shapeWf_trans {s : State} (hinv : Inv s) (q va : Nat) (write : Bool) : shapeWf (trans s q va write).2 = true := by
  obtain ⟨-, -, hshape, -⟩ := hinv
  exact (sluice_kept s _ va write (Kept.refl s)).shape hshape

/-- A suspended work item is halted by trap 0x3 and holds the resume token (R115, R297). -/
theorem suspendQ_quern {s : State} {q : Nat} (h : q < s.qn.q.length) (va : Nat) (write : Bool) (ty lv : Nat) :
    qnAt (suspendQ s q va write ty lv) q =
      { qnAt s q with state := 2, trap := 3, trapPc := (ctxOf s q).pc, token := some s.sl.nextToken } := by
  exact (congrArg (fun t => qnAt t q) (qnMod_qnMod ..)).trans (onlyQuern_qnMod (s := (raiseFault s _ ty lv _).2) h _).2

/-! ### WAITW (O38) -/

/-- WAITW once its address is translated to `a`. -/
def waitwAt (u : State) (q a value : Nat) (eq : Bool) : State :=
  if !scratchWord u a 8 then trapQ u q 1
  else if isRemote u a then
    sendVc4 (qnMod u q (fun n => { n with blocked := true })) 0x38 (baddrOf a).chip (a / 64 * 64) 64 [] 0
      (.quernWaitw q a value eq)
  else
    let r := scratchRead u ((baddrOf a).off / 64)
    if r.1.poison then trapQ (consumePoison r.2 q a false) q 2
    else finishWaitw r.2 q a (leAt r.1.data ((baddrOf a).off % 64) 8) value eq

theorem doWaitw_insideLoop {s : State} {q : Nat} (h : (ctxOf s q).loops ≠ []) (va value : Nat) (eq : Bool) :
    doWaitw s q va value eq = trapQ s q 1 :=
  if_pos (by simpa [ctxOf] using h)

theorem doWaitw_waits {s : State} {q : Nat} (h : (ctxOf s q).loops = []) (hx : (qnAt s q).xfers ≠ []) (va value : Nat)
    (eq : Bool) : doWaitw s q va value eq = s := by
  rw [ctxOf] at h
  rw [doWaitw, if_neg (by simp [h]), if_pos (by simp [hx])]

/-- Outside every loop and with nothing outstanding the address is translated. -/
theorem doWaitw_translates {s : State} {q : Nat} (h : (ctxOf s q).loops = []) (hx : (qnAt s q).xfers = []) (va value : Nat)
    (eq : Bool) : doWaitw s q va value eq = match (trans s q va false).1 with
      | .fault ty lv => suspendQ (trans s q va false).2 q va false ty lv
      | .ok a => waitwAt (trans s q va false).2 q a value eq := by
  rw [ctxOf] at h
  rw [doWaitw, if_neg (by simp [h]), if_neg (by simp [hx])]
  rfl

theorem doWaitw_fault {s : State} {q va ty lv : Nat} (h : (ctxOf s q).loops = []) (hx : (qnAt s q).xfers = [])
    (hfault : (trans s q va false).1 = .fault ty lv) (value : Nat) (eq : Bool) :
    doWaitw s q va value eq = suspendQ (trans s q va false).2 q va false ty lv := by
  rw [doWaitw_translates h hx, hfault]

theorem doWaitw_ok {s : State} {q va a : Nat} (h : (ctxOf s q).loops = []) (hx : (qnAt s q).xfers = [])
    (hok : (trans s q va false).1 = .ok a) (value : Nat) (eq : Bool) :
    doWaitw s q va value eq = waitwAt (trans s q va false).2 q a value eq := by
  rw [doWaitw_translates h hx, hok]

theorem waitwAt_noScratch {u : State} {a : Nat} (h : scratchWord u a 8 = false) (q value : Nat) (eq : Bool) :
    waitwAt u q a value eq = trapQ u q 1 :=
  if_pos (by simp [h])

theorem waitwAt_remote {u : State} {a : Nat} (h : scratchWord u a 8 = true) (hr : isRemote u a = true) (q value : Nat)
    (eq : Bool) : waitwAt u q a value eq = sendVc4 (qnMod u q (fun n => { n with blocked := true })) 0x38 (baddrOf a).chip
      (a / 64 * 64) 64 [] 0 (.quernWaitw q a value eq) := by
  rw [waitwAt, if_neg (by simp [h]), if_pos hr]

theorem waitwAt_local {u : State} {a : Nat} (h : scratchWord u a 8 = true) (hr : isRemote u a = false) (q value : Nat)
    (eq : Bool) : waitwAt u q a value eq =
      let r := scratchRead u ((baddrOf a).off / 64)
      if r.1.poison then trapQ (consumePoison r.2 q a false) q 2
      else finishWaitw r.2 q a (leAt r.1.data ((baddrOf a).off % 64) 8) value eq := by
  rw [waitwAt, if_neg (by simp [h]), if_neg (by simp [hr])]

/-- A word that meets the condition makes WAITW a NOP (R134). -/
theorem finishWaitw_holds {s : State} {word value : Nat} {eq : Bool} (h : waitHolds eq word value = true) (q a : Nat) :
    finishWaitw s q a word value eq = ctxMod s q nextPc :=
  if_pos h

/-- A word that does not ends the work item, with what it waits for kept (R134). -/
theorem finishWaitw_ends {s : State} {q word value : Nat} {eq : Bool} (hlt : q < s.qn.q.length)
    (h : waitHolds eq word value = false) (a : Nat) :
    qnAt (finishWaitw s q a word value eq) q = { qnAt s q with state := 0, waitw := some (a, value, eq) } ∧
      ∀ p, p ≠ q → qnAt (finishWaitw s q a word value eq) p = qnAt s p := by
  have hquern (p : Nat) := qnAt_endItem hlt false p
  have hlt' : q < (endItem s q false).qn.q.length := by
    rw [endItem_eq, qnMod_length, sequenceEnded_only]
    exact hlt
  obtain ⟨⟨-, hothers⟩, hself⟩ := onlyQuern_qnMod hlt' (fun n => { n with waitw := some (a, value, eq) })
  rw [finishWaitw, if_neg (by simp [h])]
  refine ⟨hself.trans ?_, fun p hp => (hothers p hp).trans ((hquern p).trans (if_neg hp))⟩
  rw [hquern, if_pos rfl]
  rfl

/-- A scratch read leaves the numbers of units. -/
theorem shapeWf_scratchRead {s : State} (h : shapeWf s = true) (b : Nat) : shapeWf (scratchRead s b).2 = true :=
  (scratchRead_kept s b (Kept.refl s)).shape h

/-- Settles O38: by the loop and the transfers, then by what the translation finds. -/
theorem waitwEndsTheItemUntilItsWordHolds : Obligations.WaitwEndsTheItemUntilItsWordHolds := by
  intro s q f hinv h c eq u
  have hq : q < 36 := quernRuns_lt36 h.1
  have hu : shapeWf u = true := shapeWf_trans hinv q (sReg c f.a) false
  have hlt : q < u.qn.q.length := quern_lt hu hq
  refine ⟨fun hloops => gives_trapQ rfl h (doWaitw_insideLoop hloops ..), fun hloops hx => gives_of_issues rfl h ?waits,
    fun hloops hx => ⟨fun ty lv hfault => ?fault, fun a hok => ?found⟩⟩
  case waits => exact doWaitw_waits hloops hx ..
  case fault =>
    refine gives_of_body_eq rfl h (doWaitw_fault hloops hx hfault ..) ⟨rfl, ?_⟩
    rw [suspendQ_quern hlt]
    exact ⟨rfl, rfl, rfl⟩
  case found =>
    have hat (value : Nat) (eq : Bool) := doWaitw_ok hloops hx hok value eq
    refine ⟨fun hno => gives_of_body_eq rfl h ((hat ..).trans (waitwAt_noScratch hno ..)) (quernTraps_trapQ hlt 1),
      fun hyes hremote => gives_of_issues rfl h ((hat ..).trans (waitwAt_remote hyes hremote ..)), fun hyes hlocal => ?_⟩
    intro r word
    have hr : q < r.2.qn.q.length := quern_lt (shapeWf_scratchRead hu _) hq
    have hbody := (hat (sReg c f.b) eq).trans (waitwAt_local hyes hlocal q (sReg c f.b) eq)
    refine ⟨fun hp => gives_of_issues rfl h (hbody.trans (if_pos hp)), fun hp hholds => ?_, fun hp hfails => ?_⟩
    · have hpass := hbody.trans ((if_neg (Bool.eq_false_iff.1 hp)).trans (finishWaitw_holds hholds q a))
      exact gives_of_body_eq rfl h hpass (quernSets_ctxMod hr nextPc)
    · have hend := hbody.trans (if_neg (Bool.eq_false_iff.1 hp))
      exact gives_of_body_eq rfl h hend (finishWaitw_ends hr hfails a)

/-! ### ATOM (O39) -/

/-- The operand size of ATOM, and an operand of that size (R135). -/
def atomSize (f : QFields) : Nat := if bitOf f.md 4 then 8 else 4
def atomArg (s : State) (q : Nat) (f : QFields) (r : Nat) : Nat := sReg (ctxOf s q) r % 2 ^ (8 * atomSize f)

/-- ATOM of two operands once its address is translated to `a`. -/
def atomAt (u : State) (q : Nat) (f : QFields) (a x cmp : Nat) : State :=
  if !scratchWord u a (atomSize f) then trapQ u q 1
  else if isRemote u a then
    sendVc4 (qnMod u q (fun n => { n with blocked := true })) 0x3B (baddrOf a).chip a
      (f.md % 16 + (if atomSize f = 8 then 16 else 0)) (leBytes (atomSize f) x ++ leBytes (atomSize f) cmp) 0
      (.quernAtom q f.d (atomSize f))
  else
    let r := atomicAt u (baddrOf a).off (atomSize f) (f.md % 16) x cmp
    if r.2.1 then trapQ (consumePoison r.2.2 q a false) q 2 else completePlain r.2.2 q (fun c => setS c f.d r.1)

/-- The translation of ATOM's address: for writing, but for the pure read 0xA (R135). -/
def atomTrans (s : State) (q : Nat) (f : QFields) : SlOut × State :=
  trans s q (sReg (ctxOf s q) f.a) (decide (f.md % 16 ≠ 0xA))

section
variable {s : State} {q : Nat} {f : QFields}

theorem doAtom_misaligned (h : sReg (ctxOf s q) f.a % atomSize f ≠ 0) : doAtom s q f = trapQ s q 1 :=
  if_pos h

/-- An aligned address is translated. -/
theorem doAtom_translates (h : sReg (ctxOf s q) f.a % atomSize f = 0) : doAtom s q f = match (atomTrans s q f).1 with
    | .fault ty lv => suspendQ (atomTrans s q f).2 q (sReg (ctxOf s q) f.a) (decide (f.md % 16 ≠ 0xA)) ty lv
    | .ok a => atomAt (atomTrans s q f).2 q f a (atomArg s q f f.b) (atomArg s q f f.c) :=
  if_neg (not_not_intro h)

theorem doAtom_fault {ty lv : Nat} (h : sReg (ctxOf s q) f.a % atomSize f = 0)
    (hfault : (atomTrans s q f).1 = .fault ty lv) : doAtom s q f =
      suspendQ (atomTrans s q f).2 q (sReg (ctxOf s q) f.a) (decide (f.md % 16 ≠ 0xA)) ty lv := by
  rw [doAtom_translates h, hfault]

theorem doAtom_ok {a : Nat} (h : sReg (ctxOf s q) f.a % atomSize f = 0) (hok : (atomTrans s q f).1 = .ok a) :
    doAtom s q f = atomAt (atomTrans s q f).2 q f a (atomArg s q f f.b) (atomArg s q f f.c) := by
  rw [doAtom_translates h, hok]

end

section
variable {u : State} {f : QFields} {a : Nat}

theorem atomAt_noScratch (h : scratchWord u a (atomSize f) = false) (q x cmp : Nat) : atomAt u q f a x cmp = trapQ u q 1 :=
  if_pos (by simp [h])

theorem atomAt_remote (h : scratchWord u a (atomSize f) = true) (hr : isRemote u a = true) (q x cmp : Nat) :
    atomAt u q f a x cmp = sendVc4 (qnMod u q (fun n => { n with blocked := true })) 0x3B (baddrOf a).chip a
      (f.md % 16 + (if atomSize f = 8 then 16 else 0)) (leBytes (atomSize f) x ++ leBytes (atomSize f) cmp) 0
      (.quernAtom q f.d (atomSize f)) := by
  rw [atomAt, if_neg (by simp [h]), if_pos hr]

theorem atomAt_local (h : scratchWord u a (atomSize f) = true) (hr : isRemote u a = false) (q x cmp : Nat) :
    atomAt u q f a x cmp =
      let r := atomicAt u (baddrOf a).off (atomSize f) (f.md % 16) x cmp
      if r.2.1 then trapQ (consumePoison r.2.2 q a false) q 2 else completePlain r.2.2 q (fun c => setS c f.d r.1) := by
  rw [atomAt, if_neg (by simp [h]), if_neg (by simp [hr])]

end

/-- The body of ATOM: at SYSTEM scope it waits for the Quern's writes to other chips (R148). -/
def fencedAtom (q : Nat) (f : QFields) (s : State) : State :=
  if f.md / 32 = 2 && writesOut s q then s else doAtom s q f

/-- Settles O39: by the alignment, then by what the translation finds. -/
theorem atomReturnsThePreviousValue : Obligations.AtomReturnsThePreviousValue := by
  intro s q f hinv h hfence c size w x cmp u
  have hq : q < 36 := quernRuns_lt36 h.1
  have hu : shapeWf u = true := shapeWf_trans hinv q (sReg c f.a) w
  have hexec : exec (.atom q f) s = .next (issue s q 0x09 f (fencedAtom q f)) := rfl
  have hpass : fencedAtom q f s = doAtom s q f := if_neg (by simpa using hfence)
  refine ⟨fun hmis => gives_trapQ hexec h (hpass.trans (doAtom_misaligned hmis)),
    fun halign => ⟨fun ty lv hfault => gives_of_issues hexec h (hpass.trans (doAtom_fault halign hfault)),
      fun a hok => ?found⟩⟩
  case found =>
    have hat := hpass.trans (doAtom_ok halign hok)
    refine ⟨fun hno => gives_of_body_eq hexec h (hat.trans (atomAt_noScratch hno ..)) (quernTraps_trapQ (quern_lt hu hq) 1),
      fun hyes hremote => gives_of_issues hexec h (hat.trans (atomAt_remote hyes hremote ..)), fun hyes hlocal => ?_⟩
    intro r
    have hr : q < r.2.2.qn.q.length := quern_lt ((atomicAt_kept u _ size _ x cmp (Kept.refl u)).shape hu) hq
    have hbody := hat.trans (atomAt_local hyes hlocal q x cmp)
    exact ⟨fun hp => gives_of_issues hexec h (hbody.trans (if_pos hp)),
      fun hp => gives_of_body_eq hexec h (hbody.trans (if_neg (Bool.eq_false_iff.1 hp))) (quernSets_completePlain hr _)⟩

/-! ### A concrete word -/

/-- The state after reset with 7 in a word of scratch and Quern 0 in a work item of the Governor's context, its address in
s1 and 7 in s2. -/
def wordReset : State :=
  { State.reset with
    mem := { State.reset.mem with scratch := [(64, 7)] }
    qn := { QuernsSt.reset with q := modAt QuernsSt.reset.q 0 (fun n =>
      { n with
        state := 1, item := some ⟨0, 0, 63, 0, false, 0, 0, 0, 0, 0, false⟩
        ctx := { QCtx.reset with s := [(1, 2 ^ 47 + 64), (2, 7)] } }) } }

theorem inv_wordReset : Inv wordReset := ⟨by decide, by decide, by decide, by decide⟩

/-- The fields of an access to the word at s[a]. -/
def wordFields (d a b md : Nat) : QFields := ⟨d, a, b, 0, 0, 0, 0, false, 0, md⟩

/-- WAITW for a word equal to 7 passes, for one equal to the address ends the item, and at no scratch word traps. -/
theorem waitw_wordReset :
    Gives (.waitw 0 (wordFields 0 1 2 1)) wordReset (fun t => (ctxOf t 0).pc = 8) ∧
      Gives (.waitw 0 (wordFields 0 1 1 1)) wordReset
        (fun t => (qnAt t 0).waitw = some (2 ^ 47 + 64, 2 ^ 47 + 64, true)) ∧
      Gives (.waitw 0 (wordFields 0 2 1 1)) wordReset (fun t => (qnAt t 0).trap = 1) := by
  have hruns : quernRuns wordReset 0 = true := by decide
  have forms (f : QFields) (h : Issues wordReset 0 0x07 f) :=
    waitwEndsTheItemUntilItsWordHolds wordReset 0 f inv_wordReset h
  obtain ⟨-, -, access⟩ := forms (wordFields 0 1 2 1) ⟨hruns, by decide⟩
  obtain ⟨-, found⟩ := access rfl rfl
  obtain ⟨-, -, here⟩ := found (2 ^ 47 + 64) (by decide)
  obtain ⟨-, passes, -⟩ := here (by decide) (by decide)
  obtain ⟨-, -, access'⟩ := forms (wordFields 0 1 1 1) ⟨hruns, by decide⟩
  obtain ⟨-, found'⟩ := access' rfl rfl
  obtain ⟨-, -, here'⟩ := found' (2 ^ 47 + 64) (by decide)
  obtain ⟨-, -, ends⟩ := here' (by decide) (by decide)
  obtain ⟨-, -, access''⟩ := forms (wordFields 0 2 1 1) ⟨hruns, by decide⟩
  obtain ⟨-, found''⟩ := access'' rfl rfl
  obtain ⟨traps, -⟩ := found'' 7 (by decide)
  exact ⟨(passes (by decide) (by decide)).imp fun t h => by rw [h.ctxOf_eq]; decide,
    (ends (by decide) (by decide)).imp fun t ⟨h, _⟩ => by rw [h]; decide,
    (traps (by decide)).imp fun t h => by rw [h.2]⟩

/-- ATOM adds 7 to the word and gives s3 the 7 that stood there; at an address that is no multiple of 8 it traps. -/
theorem atom_wordReset :
    Gives (.atom 0 (wordFields 3 1 2 48)) wordReset (fun t => sReg (ctxOf t 0) 3 = 7) ∧
      Gives (.atom 0 (wordFields 3 2 2 48)) wordReset (fun t => (qnAt t 0).trap = 1) := by
  have hruns : quernRuns wordReset 0 = true := by decide
  have forms (f : QFields) (h : Issues wordReset 0 0x09 f) :=
    atomReturnsThePreviousValue wordReset 0 f inv_wordReset h
  obtain ⟨-, access⟩ := forms (wordFields 3 1 2 48) ⟨hruns, by decide⟩ (by decide)
  obtain ⟨-, found⟩ := access (by decide)
  obtain ⟨-, -, here⟩ := found (2 ^ 47 + 64) (by decide)
  obtain ⟨-, adds⟩ := here (by decide) (by decide)
  obtain ⟨traps, -⟩ := forms (wordFields 3 2 2 48) ⟨hruns, by decide⟩ (by decide)
  exact ⟨(adds (by decide)).imp fun t h => h.sReg_eq.trans (by decide),
    (traps (by decide)).imp fun t h => by rw [h.2]⟩

end Sys2Proof.Spec

/-!
PROOF. Loads and transfers of the Querns (O40, O42).
-/
namespace Sys2Proof.Spec

open Sys2Proof Sys2Proof.Machine

/-! ### The protection of a clean range (R110) -/

/-- A burst without errors decodes as it is. -/
theorem hopDecode_clean {s : State} {space b : Nat} (h : errOf s space b = []) (u op : Nat) :
    hopDecode s u space b op = (false, s) := by
  rw [hopDecode, h]
  rfl

/-- One burst of the check before a read: its decode and its mark. -/
def checkBurst (q : Nat) (a : List Bool × State) (x : Nat × Nat × Nat) : List Bool × State :=
  let d := hopDecode a.2 (unitQuern q) (2 + q) (x.1 / 64) x.1
  let s := if d.1 then qnMod d.2 q (fun m => { m with storePoison := mapSet offAt m.storePoison (x.1 / 64) true }) else d.2
  (a.1 ++ [mapGet offAt (qnAt s q).storePoison (x.1 / 64)], s)

theorem storeCheck_eq (s : State) (q o n : Nat) : storeCheck s q o n = (burstSpan o n).foldl (checkBurst q) ([], s) := rfl

theorem foldl_checkBurst_clean {s : State} {q : Nat} (l : List (Nat × Nat × Nat)) (marks : List Bool)
    (h : ∀ x ∈ l, errOf s (2 + q) (x.1 / 64) = [] ∧ mapGet offAt (qnAt s q).storePoison (x.1 / 64) = false) :
    l.foldl (checkBurst q) (marks, s) = (marks ++ l.map (fun _ => false), s) := by
  induction l generalizing marks with
  | nil => simp
  | cons x l ih =>
    obtain ⟨⟨herr, hmark⟩, hrest⟩ := List.forall_mem_cons.1 h
    have hburst : checkBurst q (marks, s) x = (marks ++ [false], s) := by
      simp [checkBurst, hopDecode_clean herr, hmark]
    rw [List.foldl_cons, hburst, ih _ hrest]
    simp

/-- The check of a clean range finds no mark and changes nothing. -/
theorem storeCheck_clean {s : State} {q o n : Nat} (h : StoreClean s q o n) :
    storeCheck s q o n = ((burstSpan o n).map (fun _ => false), s) := by
  rw [storeCheck_eq, foldl_checkBurst_clean _ _ h, List.nil_append]

/-! ### What a load or store does before its body (R110, R148) -/

section
variable {s : State} {q o n : Nat} {body : State → State}

theorem withStore_misaligned (h : o % 64 ≠ 0) (reads : Bool) : withStore s q o n reads body = trapQ s q 1 :=
  if_pos h

theorem withStore_outside (h : o % 64 = 0) (hr : storeRangeOk o n = false) (reads : Bool) :
    withStore s q o n reads body = trapQ s q 4 := by
  rw [withStore, if_neg (not_not_intro h), if_pos (by simp [hr])]

theorem withStore_busy (h : o % 64 = 0) (hr : storeRangeOk o n = true) (hb : storeBusy s q o n = true) (reads : Bool) :
    withStore s q o n reads body = s := by
  rw [withStore, if_neg (not_not_intro h), if_neg (by simp [hr]), if_pos hb]

/-- A read of a free range: its check, and what the first mark decides. -/
theorem withStore_reads (h : StoreFree s q o n) : withStore s q o n true body =
    ((storeCheck s q o n).1.findIdx? id).elim (body (storeCheck s q o n).2)
      (fun i => trapPoison (storeCheck s q o n).2 q (o / 64 + i)) := by
  obtain ⟨halign, hrange, hfree⟩ := h
  rw [withStore, if_neg (not_not_intro halign), if_neg (by simp [hrange]), if_neg (by simp [hfree]), if_pos rfl]
  dsimp only
  cases (storeCheck s q o n).1.findIdx? id <;> rfl

theorem withStore_poisoned (h : StoreFree s q o n) {i : Nat} (hi : (storeCheck s q o n).1.findIdx? id = some i) :
    withStore s q o n true body = trapPoison (storeCheck s q o n).2 q (o / 64 + i) := by
  rw [withStore_reads h, hi]
  rfl

theorem withStore_clean (h : StoreFree s q o n) (hc : StoreClean s q o n) : withStore s q o n true body = body s := by
  have hnone : ((burstSpan o n).map (fun _ => false)).findIdx? id = none := by simp
  rw [withStore_reads h, storeCheck_clean hc, hnone]
  rfl

/-- An instruction that first checks its store range stops as the range says. -/
theorem storeStops_withStore {cmd : Instr} {op : Nat} {f : QFields} {reads : Bool} {issued : State → State}
    (hexec : exec cmd s = .next (issue s q op f issued)) (h : Issues s q op f)
    (hbody : issued s = withStore s q o n reads body) : StoreStops cmd s q o n :=
  ⟨fun hmis => gives_trapQ hexec h (hbody.trans (withStore_misaligned hmis reads)),
    fun halign hout => gives_trapQ hexec h (hbody.trans (withStore_outside halign hout reads)),
    fun halign hin hbusy => gives_of_issues hexec h (hbody.trans (withStore_busy halign hin hbusy reads))⟩

end

/-! ### Loads (O40) -/

/-- The store range TLD reads (R136). -/
def tldBytes (f : QFields) : Nat := tileSpan f.fi (fieldOf f.md 14 12) (bitOf f.md 15) (bitOf f.md 16)

/-- TLD from a checked range, in the context it was issued in. -/
def tldFrom (c : QCtx) (q : Nat) (f : QFields) (u : State) : State :=
  let tile := tileOf f (sReg c f.b) (storeBytes u q (sReg c f.a) (tldBytes f))
  complete (ctxMod u q (fun c => { c with t := mapSet (fun _ => none) c.t f.d (some tile) })) q 0x20 f
    (nanIndex tile.cols (tile.valid.1.map (fun x => x.v.isNan))) true

theorem doTld_eq (s : State) (q : Nat) (f : QFields) :
    doTld s q f = withStore s q (sReg (ctxOf s q) f.a) (tldBytes f) true (tldFrom (ctxOf s q) q f) := rfl

/-- A tile loaded is what its register holds; the other tile registers stay (R136). -/
theorem tileReg_tldFrom {u : State} {q : Nat} (h : q < u.qn.q.length) (c : QCtx) (f : QFields) (r : Nat) :
    tileReg (tldFrom c q f u) q r = if r = f.d
      then some (tileOf f (sReg c f.b) (storeBytes u q (sReg c f.a) (tldBytes f))) else tileReg u q r :=
  (complete_ctxMod_reads (g := fun c => mapGet (fun _ => none) c.t r) (fun _ => rfl) h ..).trans (mapGet_mapSet ..)

/-- VLD from a checked range, in the context it was issued in. -/
def vldFrom (c : QCtx) (q : Nat) (f : QFields) (u : State) : State :=
  let es := unpackElems (fmtBits f.fi) 64 (storeBytes u q (vecAddr (sReg c f.a) f.md) (vecBytes f.fi))
  let xs := (es.zip (activeLanes c f.pred)).map (fun (x, on) => if on then some x else none)
  complete (ctxMod u q (fun c => putLanes c f.fi f.d xs)) q 0x22 f
    (xs.findIdx? (fun x => x.elim false (fun v => (elemFV f.fi v).isNan))) true

theorem doVld_eq (s : State) (q : Nat) (f : QFields) : doVld s q f =
    withStore s q (vecAddr (sReg (ctxOf s q) f.a) f.md) (vecBytes f.fi) true (vldFrom (ctxOf s q) q f) := rfl

/-- Settles O40: both loads are a checked read; a tile loaded reads back from its register. -/
theorem loadsReadTheStoreWhole : Obligations.LoadsReadTheStoreWhole := by
  intro s q f hinv c
  refine ⟨fun cmd op o n hcmd h => ?checks, fun h => ?tld, fun h => ?vld⟩
  case checks =>
    have checked {body : State → State} {load : State → State} (hexec : exec cmd s = .next (issue s q op f load))
        (hload : load s = withStore s q o n true body) : StoreStops cmd s q o n ∧
        (StoreFree s q o n → ∀ i, (storeCheck s q o n).1.findIdx? id = some i →
          Gives cmd s (fun t => t = trapPoison (storeCheck s q o n).2 q (o / 64 + i))) :=
      ⟨storeStops_withStore hexec h hload,
        fun hfree i hi => gives_of_issues hexec h (hload.trans (withStore_poisoned hfree hi))⟩
    rcases hcmd with ⟨rfl, rfl, rfl, rfl⟩ | ⟨rfl, rfl, rfl, rfl⟩
    · exact checked rfl (doTld_eq s q f)
    · exact checked rfl (doVld_eq s q f)
  case tld =>
    intro o n tile hfree hclean
    have hread := tileReg_tldFrom (quernRuns_lt h.1) c f
    exact gives_of_body_eq rfl h ((doTld_eq s q f).trans (withStore_clean hfree hclean))
      ⟨rfl, (hread f.d).trans (if_pos rfl), fun r hr => (hread r).trans (if_neg hr)⟩
  case vld =>
    intro o es xs hfree hclean
    exact gives_of_issues rfl h ((doVld_eq s q f).trans (withStore_clean hfree hclean))

/-! ### Transfers (O42) -/

/-- A transfer R139 permits: multiples of 64, not empty, at most 128 KiB. -/
def XferFits (va o n : Nat) : Prop := va % 64 = 0 ∧ o % 64 = 0 ∧ n % 64 = 0 ∧ n ≠ 0 ∧ n ≤ 0x20000

/-- The store range of a transfer is used by another, or its tag is (R139, R148). -/
def xferMustWait (s : State) (q : Nat) (f : QFields) : Bool :=
  (qnAt s q).xfers.any (fun x => x.tag == f.md % 8) || storeBusy s q (sReg (ctxOf s q) f.b) (sReg (ctxOf s q) f.c)

/-- A permitted transfer from its record on: its bursts in order, and the next instruction once each has moved (R139). -/
def startXfer (s : State) (q : Nat) (f : QFields) (get : Bool) : State :=
  let c := ctxOf s q
  let va := sReg c f.a
  let o := sReg c f.b
  let n := sReg c f.c
  let m := if get then ([], s) else storeCheck s q o n
  let x : Xfer := ⟨f.md % 8, get, va, o, n, if get then [] else storeBytes m.2 q o n, m.1, o, n⟩
  let r := runXfer q (f.md % 8) (n / 64) (qnMod m.2 q (fun k => { k with xfers := k.xfers ++ [x] }))
  if r.1 then ctxMod r.2 q nextPc else r.2

section
variable {s : State} {q : Nat} {f : QFields}

theorem doXfer_refused (h : ¬ XferFits (sReg (ctxOf s q) f.a) (sReg (ctxOf s q) f.b) (sReg (ctxOf s q) f.c)) (get : Bool) :
    doXfer s q f get = trapQ s q 1 := by
  refine if_pos ?_
  simp only [Bool.or_eq_true, decide_eq_true_eq]
  simp only [XferFits] at h
  omega

theorem doXfer_fits (h : XferFits (sReg (ctxOf s q) f.a) (sReg (ctxOf s q) f.b) (sReg (ctxOf s q) f.c)) (get : Bool) :
    doXfer s q f get = if !storeRangeOk (sReg (ctxOf s q) f.b) (sReg (ctxOf s q) f.c) then trapQ s q 4
      else if xferMustWait s q f then s else startXfer s q f get := by
  refine if_neg ?_
  obtain ⟨hva, ho, hn, hpos, hmax⟩ := h
  simp [hva, ho, hn, hpos, hmax]

theorem doXfer_outside (h : XferFits (sReg (ctxOf s q) f.a) (sReg (ctxOf s q) f.b) (sReg (ctxOf s q) f.c))
    (hr : storeRangeOk (sReg (ctxOf s q) f.b) (sReg (ctxOf s q) f.c) = false) (get : Bool) :
    doXfer s q f get = trapQ s q 4 := by
  rw [doXfer_fits h, if_pos (by simp [hr])]

theorem doXfer_inside (h : XferFits (sReg (ctxOf s q) f.a) (sReg (ctxOf s q) f.b) (sReg (ctxOf s q) f.c))
    (hr : storeRangeOk (sReg (ctxOf s q) f.b) (sReg (ctxOf s q) f.c) = true) (get : Bool) :
    doXfer s q f get = if xferMustWait s q f then s else startXfer s q f get := by
  rw [doXfer_fits h, if_neg (by simp [hr])]

end

/-- Settles O42: by the operands, the range and the wait; both directions are one body. -/
theorem transfersMoveBurstByBurst : Obligations.TransfersMoveBurstByBurst := by
  intro s q f cmd get op hinv hcmd h c va o n tag fits
  have hexec : exec cmd s = .next (issue s q op f (fun s => doXfer s q f get)) := by
    rcases hcmd with ⟨rfl, rfl, rfl⟩ | ⟨rfl, rfl, rfl⟩ <;> rfl
  refine ⟨fun hbad => gives_trapQ hexec h (doXfer_refused hbad get),
    fun hfits hout => gives_trapQ hexec h (doXfer_outside hfits hout get),
    fun hfits hin hwait => gives_of_issues hexec h ((doXfer_inside hfits hin get).trans (if_pos ?waits)),
    fun hfits hin htag hidle => gives_of_issues hexec h ((doXfer_inside hfits hin get).trans (if_neg ?starts))⟩
  case waits => simpa [xferMustWait] using hwait
  case starts => simpa [xferMustWait, hidle] using ⟨htag, hidle⟩

/-! ### A concrete store -/

/-- The state after reset with 7 in a word of scratch and Quern 0 in a work item of the Governor's context, 3 at the start
of its store, the word's address in s1 and 64 in s2. -/
def storeReset : State :=
  { State.reset with
    mem := { State.reset.mem with scratch := [(64, 7)] }
    qn := { QuernsSt.reset with q := modAt QuernsSt.reset.q 0 (fun n =>
      { n with
        state := 1, item := some ⟨0, 0, 63, 0, false, 0, 0, 0, 0, 0, false⟩, store := [(0, 3)]
        ctx := { QCtx.reset with s := [(1, 2 ^ 47 + 64), (2, 64)] } }) } }

theorem inv_storeReset : Inv storeReset := ⟨by decide, by decide, by decide, by decide⟩

theorem quernRuns_storeReset : quernRuns storeReset 0 = true := by decide

/-- A load from the address in s[a] in bytes of QI8. -/
def loadFields (a : Nat) : QFields := ⟨2, a, 0, 0, 9, 0, 0, false, 0, 0⟩

theorem storeFree_storeReset : StoreFree storeReset 0 0 64 ∧ StoreFree storeReset 0 0 4096 :=
  ⟨⟨by decide, by decide, by decide⟩, ⟨by decide, by decide, by decide⟩⟩

theorem storeClean_storeReset (o n : Nat) : StoreClean storeReset 0 o n := fun _ _ => ⟨rfl, rfl⟩

/-- VLD gives lane 0 of v2 the 3, TLD fills t2, and a load at the word's address is outside the store. -/
theorem loads_storeReset :
    Gives (.vld 0 (loadFields 0)) storeReset (fun t => vLane (ctxOf t 0) 2 0 = 3) ∧
      Gives (.tld 0 (loadFields 0)) storeReset (fun t => (tileReg t 0 2).isSome = true) ∧
      Gives (.vld 0 (loadFields 1)) storeReset (fun t => (qnAt t 0).trap = 4) := by
  have hruns := quernRuns_storeReset
  obtain ⟨hfree, hfree'⟩ := storeFree_storeReset
  obtain ⟨-, tld, vld⟩ := loadsReadTheStoreWhole storeReset 0 (loadFields 0) inv_storeReset
  obtain ⟨checks, -⟩ := loadsReadTheStoreWhole storeReset 0 (loadFields 1) inv_storeReset
  obtain ⟨⟨-, outside, -⟩, -⟩ := checks (.vld 0 (loadFields 1)) 0x22 _ _ (.inr ⟨rfl, rfl, rfl, rfl⟩) ⟨hruns, by decide⟩
  refine ⟨(vld ⟨hruns, by decide⟩ hfree (storeClean_storeReset _ _)).imp fun t h => ?_,
    (tld ⟨hruns, by decide⟩ hfree' (storeClean_storeReset _ _)).imp fun t ⟨_, h, _⟩ => Option.isSome_of_eq_some h,
    (outside (by decide) (by decide)).imp fun t h => by rw [h.2]⟩
  rw [h]
  refine (complete_ctxMod_reads (g := fun c => vLane c 2 0) (fun _ => rfl) (by decide) _ 0x22 ..).trans ?_
  decide

/-- A transfer of s[c] bytes between s[a] and the start of the store under tag 3. -/
def xferFields (a c : Nat) : QFields := ⟨0, a, 0, c, 0, 0, 0, false, 0, 3⟩

/-- MGET brings the 7 of the word to the store; an empty transfer traps. -/
theorem transfers_storeReset :
    Gives (.mget 0 (xferFields 1 2)) storeReset (fun t => storeBytes t 0 0 1 = [7]) ∧
      Gives (.mput 0 (xferFields 1 0)) storeReset (fun t => (qnAt t 0).trap = 1) := by
  have hruns := quernRuns_storeReset
  obtain ⟨-, -, -, moves⟩ := transfersMoveBurstByBurst storeReset 0 (xferFields 1 2) (.mget 0 (xferFields 1 2)) true 0x24
    inv_storeReset (.inl ⟨rfl, rfl, rfl⟩) ⟨hruns, by decide⟩
  obtain ⟨refused, -⟩ := transfersMoveBurstByBurst storeReset 0 (xferFields 1 0) (.mput 0 (xferFields 1 0)) false 0x25
    inv_storeReset (.inr ⟨rfl, rfl, rfl⟩) ⟨hruns, by decide⟩
  refine ⟨(moves (by decide) (by decide) (by decide) (by decide)).imp fun t h => ?_,
    (refused (by decide)).imp fun t h => by rw [h.2]⟩
  rw [h]
  decide

end Sys2Proof.Spec

/-!
PROOF. Copies, publication, replay and digests (O56).
-/
namespace Sys2Proof.Spec

open Sys2Proof Sys2Proof.Machine

/-! ### Exports (R184 to R187) -/

theorem exportStart_busy {s : State} (h : s.copy.expBusy = true) :
    exportStart s = { s with copy := { s.copy with expErr := true, expCode := 1 } } :=
  if_pos h

theorem exportStart_reserved {s : State} (hfree : s.copy.expBusy = false) (hformat : 2 ≤ regGet s oPsExpCtl % 4) :
    exportStart s = { s with copy := { s.copy with expErr := true, expCode := 2 } } :=
  (if_neg (Bool.eq_false_iff.1 hfree)).trans (if_pos hformat)

/-- An accepted START takes the step, the destination, the format and the table in force. -/
theorem exportStart_accepted {s : State} (hfree : s.copy.expBusy = false) (hformat : regGet s oPsExpCtl % 4 < 2) :
    let t := exportStart s
    t = { s with copy := t.copy } ∧ t.copy.expBusy = true ∧ t.copy.expErr = false ∧ t.copy.expCode = 0 ∧
      t.copy.expRecords = 0 ∧ t.copy.expStep = stepNext s ∧ t.copy.expFormat = regGet s oPsExpCtl % 4 ∧
      t.copy.expDest = regGet s oPsExpDestLo + regGet s oPsExpDestHi * 2 ^ 32 ∧
      t.copy.expTt = (if stepHolds s then s.work.tt else liveTable s) ∧
      t.copy.ckptBusy = s.copy.ckptBusy ∧ t.copy.digDue = s.copy.digDue := by
  intro t
  have ht : t = _ := (if_neg (Bool.eq_false_iff.1 hfree)).trans (if_neg (Nat.not_le.2 hformat))
  rw [ht]
  exact ⟨rfl, rfl, rfl, rfl, rfl, rfl, rfl, rfl, rfl, rfl, rfl⟩

theorem exportDone_nothingLeft {s : State} (h : s.copy.expTodo = []) :
    exportDone s = { s with copy := { s.copy with expBusy := false } } := by
  simp [exportDone, h]

/-! ### Checkpoints (R215 to R217) -/

/-- With every record copied, what is left of a checkpoint is its completion record. -/
theorem checkpointDone_allCopied {s : State} (h : s.copy.ckptTodo = []) :
    checkpointDone s =
      if !s.copy.ckptBusy then s
      else if !buddyUp s then ckptStop s
      else
        let count := (ownRanges s s.copy.ckptTt (fun _ => true)).length
        let u := ckptPut s s.copy.ckptOff (2 ^ 17 - 1) (plain (completion (s.copy.ckptW - 1) count))
        { u with copy := { u.copy with ckptBusy := false, ckptStep := (s.copy.ckptW - 1) % 2 ^ 24 } } := by
  unfold checkpointDone
  rw [h]
  rfl

/-- The event of R217 leaves the copies as the stop left them. -/
theorem ckptStop_copy (s : State) :
    (ckptStop s).copy = { s.copy with ckptBusy := false, ckptFail := true, ckptTodo := [] } := by
  rw [ckptStop, event_only]

/-! ### Units that wait for a copy (R184, R217) -/

/-- A unit no copy holds has no record to be copied first. -/
theorem waitEnd_unheld {s : State} {i : Nat} (h : copyHolds s i = false) : waitEnd s i = ckptWaitEnd s i := by
  have skips (f : State → State) (l : List Nat) :
      l.foldl (fun s _ => if copyHolds s i then f s else s) s = s := by
    induction l with
    | nil => rfl
    | cons _ l ih => rwa [List.foldl_cons, if_neg (by simp [h])]
  unfold waitEnd
  simp only [skips]

theorem ckptWaitEnd_unheld {s : State} {i : Nat} (h : copyHolds s i = false) :
    ckptWaitEnd s i = match unitAt s i with
      | some u => if u.ckptWait then runUpdate s i u.redo else s
      | none => s := by
  unfold ckptWaitEnd
  cases unitAt s i with
  | none => rfl
  | some u => simp [h]

/-! ### Replay (R218) -/

/-- Outside GRIND and DECIDE a replay is one of the committed step. -/
theorem replay_committed {s : State} (h2 : s.step.state ≠ 2) (h3 : s.step.state ≠ 3) (i : Nat) :
    replay s i = if replayable s i then replayCommitted s i else s := by
  simp [replay, h2, h3]

/-- In GRIND and DECIDE a final unit is replayed in the open step. -/
theorem replay_final {s : State} {i : Nat} {u : FwUnit} (hopen : s.step.state = 2 ∨ s.step.state = 3)
    (hu : unitAt s i = some u) (hfinal : u.final = true) : replay s i = replayOpen s i u := by
  simp [replay, hopen, hu, hfinal]

/-- A custom unit's update falls due again, its refresh with it. -/
theorem replayOpen_custom {s : State} {i : Nat} {u : FwUnit} (hfinal : u.final = true) (hupdated : u.updated = true)
    (hcustom : (sampled s i).custom = true) :
    replayOpen s i u = { s with work := { s.work with
      units := s.work.units.map (fun u => if u.entry = i then { u with updated := false, judged := false } else u)
      refreshed := s.work.refreshed.filter (fun j => j != i) } } := by
  simp [replayOpen, hfinal, hupdated, hcustom, unitMod]

/-! ### Publication (R209 to R213) -/

theorem publishRange_held {s : State}
    (h : s.pub.susp.isSome = true ∨ s.pub.preempt = true ∨ s.fh.sepia = true ∨ s.gov.pfActive = true) :
    publishRange s = s := by
  unfold publishRange
  split
  · rfl
  · exact if_pos (by simpa [or_assoc] using h)

/-- A range that nothing holds back is formed, sent and noted. -/
theorem publishRange_next {s : State} {r : PubRange} {rest : List PubRange} (h : s.pub.todo = r :: rest)
    (hsusp : s.pub.susp = none) (hpreempt : s.pub.preempt = false) (hsepia : s.fh.sepia = false)
    (hpower : s.gov.pfActive = false) :
    publishRange s =
      let e := tentOf (s.pub.tt.getD r.entry [])
      let u := { s with pub := { s.pub with todo := rest, tensor := e.id } }
      let v := if e.short = 0xF then u else convertShort u e r.s s.pub.seed
      let w := noteGot ((pubParts e (r.s + 1)).foldl (fun s x => sendPart s e r.s s.pub.attempt x) v)
        r.s r.entry (3 * 2 ^ 48) (pubTotal e)
      pubReady (if r.republish then bump w oTrRepubCnt else w) := by
  unfold publishRange
  rw [h]
  exact if_neg (by simp [hsusp, hpreempt, hsepia, hpower])

/-- The publication is over: nothing to send, everything acknowledged, every layer ready. -/
def PublicationOver (s : State) : Prop :=
  s.pub.todo = [] ∧ pubUnacked s = false ∧
    ∀ l ∈ (s.pub.tt.map (fun b => (tentOf b).layer)).eraseDups, l ∈ s.pub.readyLayers

/-- The test of PUBLISH_DONE says that nothing is being published or the publication is not over. -/
theorem publishDone_stays_iff (s : State) :
    (!s.pub.busy || !s.pub.todo.isEmpty || pubUnacked s ||
      !(s.pub.tt.map (fun b => (tentOf b).layer)).eraseDups.all (fun l => s.pub.readyLayers.contains l)) = true ↔
    s.pub.busy = false ∨ ¬ PublicationOver s := by
  have hready : PublicationOver s ↔ s.pub.todo.isEmpty = true ∧ pubUnacked s = false ∧
      (s.pub.tt.map (fun b => (tentOf b).layer)).eraseDups.all (fun l => s.pub.readyLayers.contains l) = true := by
    simp only [PublicationOver, List.isEmpty_iff, List.all_eq_true, List.contains_iff_mem]
  simp only [hready, Bool.or_eq_true, Bool.not_eq_true', not_and_or, Bool.not_eq_true, Bool.not_eq_false, or_assoc]

theorem publishDone_stays {s : State} (h : s.pub.busy = false ∨ ¬ PublicationOver s) : publishDone s = s :=
  if_pos ((publishDone_stays_iff s).2 h)

theorem publishDone_over {s : State} (hbusy : s.pub.busy = true) (h : PublicationOver s) :
    publishDone s = { s with
      pub := { s.pub with busy := false }, work := { s.work with tPub := none }
      step := { s.step with move := if s.step.state = 6 then some 7 else s.step.move } } := by
  have hends := mt (publishDone_stays_iff s).1 (by simp [hbusy, h])
  refine (if_neg hends).trans ?_
  dsimp only
  split <;> rfl

theorem trRepub_idle {s : State} {w : Nat} (h : bitOf w 31 = false) : trRepub s w = s :=
  if_pos (by simp [h])

/-- With GO the ranges named are queued again, or the error is noted. -/
theorem trRepub_go {s : State} {w : Nat} (h : bitOf w 31 = true) :
    trRepub s w =
      let is := ownRanges s s.pub.tt (fun t => t.id == w % 2 ^ 20)
      if repubOk s && !is.isEmpty then republish s is else { s with pub := { s.pub with err := true } } :=
  if_neg (by simp [h])

/-! ### Digests (R219) -/

/-- A digest formed for the first time is kept, sent to the peer owners and compared. -/
theorem digestCompute_first {s : State} {i : Nat} (hdue : s.copy.digDue = [i])
    (hnew : ∀ x ∈ (shardDigest s i).2.copy.digOwn, x.1 ≠ i) :
    digestCompute s =
      let d := shardDigest s i
      digestJudge (sendDigest (setOwnDigest d.2 i d.1) i d.1 0) i := by
  have hfirst : ¬ (shardDigest s i).2.copy.digOwn.any (fun x => x.1 == i) = true := by
    simpa only [List.any_eq_true, beq_iff_eq, not_exists, not_and] using hnew
  unfold digestCompute
  rw [hdue, List.foldl_cons, List.foldl_nil]
  exact if_neg hfirst

/-! ### The commands -/

/-- Settles O56: each command by the case of its body. -/
theorem copiesPublicationsAndReplaysProceed : Obligations.CopiesPublicationsAndReplaysProceed := by
  refine ⟨fun s => ⟨fun h => ⟨_, rfl, exportStart_busy h⟩, fun hfree h => ⟨_, rfl, exportStart_reserved hfree h⟩,
      fun hfree h => ⟨_, rfl, exportStart_accepted hfree h⟩, fun h => ⟨_, rfl, exportDone_nothingLeft h⟩,
      fun h hidle => ⟨_, rfl, ?ckptIdle⟩, fun h hbusy hlost => ⟨_, rfl, ?ckptFails⟩,
      fun h hbusy hup => ⟨_, rfl, ?ckptEnds⟩⟩,
    fun s i => ⟨fun h => ⟨_, rfl, (waitEnd_unheld h).trans (ckptWaitEnd_unheld h)⟩,
      fun h h2 h3 => ⟨_, rfl, (replay_committed h2 h3 i).trans (if_pos h)⟩,
      fun h h2 h3 => ⟨_, rfl, (replay_committed h2 h3 i).trans (if_neg (Bool.eq_false_iff.1 h))⟩,
      fun u hopen hu hfinal hupdated hcustom => ⟨_, rfl, ?replayed⟩⟩,
    fun s => ⟨fun h => ⟨_, rfl, ?nothing⟩, fun r rest h => ⟨fun hheld => ⟨_, rfl, publishRange_held hheld⟩,
      fun hsusp hpreempt hsepia hpower => ⟨_, rfl, publishRange_next h hsusp hpreempt hsepia hpower⟩⟩⟩,
    fun s => ⟨fun hbusy h => ⟨_, rfl, publishDone_over hbusy h⟩, fun h => ⟨_, rfl, publishDone_stays h⟩⟩,
    fun s w => ⟨fun h => ⟨_, rfl, trRepub_idle h⟩, fun h hok hsome => ⟨_, rfl, (trRepub_go h).trans (if_pos ?queued)⟩,
      fun h hnot => ⟨_, rfl, (trRepub_go h).trans (if_neg ?refused)⟩⟩,
    fun s => ⟨fun h => ⟨_, rfl, ?noDigest⟩, fun i hdue hnew => ⟨_, rfl, digestCompute_first hdue hnew⟩⟩⟩
  case ckptIdle => simp [checkpointDone_allCopied h, hidle]
  case ckptFails =>
    have hstop : checkpointDone s = ckptStop s := by simp [checkpointDone_allCopied h, hbusy, hlost]
    rw [hstop]
    exact ⟨rfl, ckptStop_copy s⟩
  case ckptEnds => simp [checkpointDone_allCopied h, hbusy, hup]
  case replayed =>
    rw [replay_final hopen hu hfinal, replayOpen_custom hfinal hupdated hcustom]
    refine ⟨rfl, fun v hv hi => ?_⟩
    obtain ⟨w, -, rfl⟩ := List.mem_map.1 hv
    by_cases hw : w.entry = i
    · rw [if_pos hw]
    · rw [if_neg hw] at hi
      exact absurd hi hw
  case nothing => rw [publishRange, h]
  case queued => simpa [hok] using hsome
  case refused => simpa [or_iff_not_imp_left] using hnot
  case noDigest => rw [digestCompute, h, List.foldl_nil]

/-! ### A concrete committed step -/

/-- The table entry of an empty shard of tensor 0 with a custom recipe and no short copy, owned by chip 0. -/
def customEntry : List Byte :=
  List.replicate 0x22 0 ++ [0x40] ++ List.replicate 0x15 0 ++ [0xF] ++ List.replicate 7 0

/-- Step 0 is committed and step 1 next; its one range is to be published, its checkpoint has no record left, and its
digest is due. -/
def committedReset : State :=
  { regSet State.reset oStepNextLo 1 with
    pub := { PubSt.reset with busy := true, tt := [customEntry], todo := [⟨0, 0, false⟩] }
    copy := { CopySt.reset with ckptBusy := true, ckptW := 2, digDue := [0] } }

/-- Step 0 in GRIND with its one unit final, its update taken as done and as waiting for a copy. -/
def finalReset : State :=
  { State.reset with
    step := { StepSt.reset with state := 2 }
    work := { WorkSt.reset with
      tt := [customEntry], units := [{ unitNew 0 with final := true, updated := true, ckptWait := true }] } }

/-- START is accepted, a second START is refused; the checkpoint completes, and fails with its buddy out of reach. -/
theorem copies_committedReset :
    Gives .exportStart committedReset (fun t => t.copy.expBusy = true ∧ t.copy.expStep = 1) ∧
      Gives .exportStart (exportStart committedReset) (fun t => t.copy.expCode = 1) ∧
      Gives .checkpointDone committedReset (fun t => t.copy.ckptBusy = false ∧ t.copy.ckptStep = 1) ∧
      Gives .checkpointDone (regSet committedReset oCkptBuddy 1) (fun t => t.copy.ckptFail = true) := by
  obtain ⟨copies, -⟩ := copiesPublicationsAndReplaysProceed
  obtain ⟨-, -, starts, -, -, -, completes⟩ := copies committedReset
  obtain ⟨busy, -⟩ := copies (exportStart committedReset)
  obtain ⟨-, -, -, -, -, fails, -⟩ := copies (regSet committedReset oCkptBuddy 1)
  refine ⟨(starts (by decide) (by decide)).imp fun t h => ?_, (busy (by decide)).imp fun t h => by rw [h],
    (completes (by decide) (by decide) (by decide)).imp fun t h => by rw [h]; exact ⟨rfl, rfl⟩,
    (fails (by decide) (by decide) (by decide)).imp fun t h => by rw [h.2]⟩
  obtain ⟨-, hbusy, -, -, -, hstep, -⟩ := h
  exact ⟨hbusy, hstep.trans (by decide)⟩

/-- The waiting update goes on and a custom unit's update falls due again; the unit of the committed step waits for its
replay. -/
theorem replays_finalReset :
    Gives (.ckptWaitEnd 0) finalReset (fun t => t.work.units.map (fun u => u.ckptWait) = [false]) ∧
      Gives (.replay 0) finalReset (fun t => ∀ v ∈ t.work.units, v.entry = 0 → v.updated = false) ∧
      Gives (.replay 0) committedReset (fun t => t.pub.replay = [0]) := by
  obtain ⟨-, replays, -⟩ := copiesPublicationsAndReplaysProceed
  obtain ⟨waits, -, -, custom⟩ := replays finalReset 0
  obtain ⟨-, committed, -⟩ := replays committedReset 0
  exact ⟨(waits (by decide)).imp fun t h => by rw [h]; decide,
    (custom _ (.inl rfl) rfl rfl rfl (by decide)).imp fun t h => h.2,
    (committed (by decide) (by decide) (by decide)).imp fun t h => by rw [h]; decide⟩

/-- The range is published and its layer is ready, which ends the publication; TR_REPUB queues the range again; the
digest without peers to compare with is done. -/
theorem publication_committedReset :
    Gives .publishRange committedReset (fun t => t.pub.todo = [] ∧ t.pub.readyLayers = [0]) ∧
      Gives .publishDone (publishRange committedReset) (fun t => t.pub.busy = false) ∧
      Gives (.trRepub (2 ^ 31)) committedReset (fun t => t.pub.todo = [⟨0, 0, false⟩, ⟨0, 0, true⟩]) ∧
      Gives .digestCompute committedReset (fun t => t.copy.digDue = []) := by
  obtain ⟨-, -, ranges, ends, again, digests⟩ := copiesPublicationsAndReplaysProceed
  obtain ⟨-, sends⟩ := (ranges committedReset).2 _ _ rfl
  obtain ⟨-, queues, -⟩ := again committedReset (2 ^ 31)
  refine ⟨(sends (by decide) (by decide) (by decide) (by decide)).imp fun t h => by rw [h]; decide,
    ((ends _).1 (by decide) (by decide)).imp fun t h => by rw [h],
    (queues (by decide) (by decide) (by decide)).imp fun t h => by rw [h]; decide,
    ((digests committedReset).2 0 rfl (by decide)).imp fun t h => by rw [h]; decide⟩

end Sys2Proof.Spec

/-!
PROOF. The time-outs of the step (O58).
-/
namespace Sys2Proof.Spec

open Sys2Proof Sys2Proof.Machine

/-! ### When a time-out is due (R193) -/

theorem passed_some_iff (s : State) (t0 n : Nat) : passed s (some t0) n = true ↔ t0 + n ≤ s.time.turn := decide_eq_true_iff

theorem passed_none (s : State) (n : Nat) : passed s none n = false := rfl

/-! ### At the decision root (R193, R207) -/

theorem openTimeout_early {s : State}
    (h : isRoot s = false ∨ passed s s.work.tOpen (regGet s oStepTmo % 2 ^ 16) = false) : openTimeout s = s :=
  if_pos (by simpa using h)

theorem openTimeout_due {s : State} {r : RootRec} {rest : List RootRec} (hroot : isRoot s = true)
    (hdue : passed s s.work.tOpen (regGet s oStepTmo % 2 ^ 16) = true) (hrecs : s.root.openRecs = rest ++ [r])
    (hopen : decidedIn s.root.decided r.2.step r.2.attempt 0 = false) :
    openTimeout s =
      let rs := recsFor s.root.openRecs r.2.step r.2.attempt
      decideAbort { s with work := { s.work with tOpen := none } } r.2.step r.2.attempt 4
        (lowest ((trainingSet s).filter (fun c => !rs.any (fun x => x.1 == c)))) := by
  have hlast : s.root.openRecs.getLast? = some r := by rw [hrecs, List.getLast?_concat]
  refine (if_neg (by simpa [hroot] using hdue)).trans ?_
  rw [hlast]
  exact if_neg (Bool.eq_false_iff.1 hopen)

theorem settleTimeout_early {s : State} (h : isRoot s = false ∨ passed s s.work.tSettle (settleTmo s) = false) :
    settleTimeout s = s :=
  if_pos (by simpa using h)

theorem settleTimeout_due {s : State} {r : RootRec} {rest : List RootRec} (hroot : isRoot s = true)
    (hdue : passed s s.work.tSettle (settleTmo s) = true) (hrecs : s.root.groupRecs = rest ++ [r])
    (hopen : decidedIn s.root.decided r.2.step r.2.attempt (decRound r.2) = false) :
    settleTimeout s =
      let rs := groupRecsFor s r.2.step r.2.attempt (decRound r.2)
      decideAbort { s with work := { s.work with tSettle := none } } r.2.step r.2.attempt 4
        (lowest (((List.range (replicas s + 1)).map (normRootOf s)).filter (fun c => !rs.any (fun x => x.1 == c)))) := by
  have hlast : s.root.groupRecs.getLast? = some r := by rw [hrecs, List.getLast?_concat]
  refine (if_neg (by simpa [hroot] using hdue)).trans ?_
  rw [hlast]
  exact if_neg (Bool.eq_false_iff.1 hopen)

/-! ### At every chip (R193, R200, R201, R207) -/

/-- The time-out of GRIND is due: GRIND runs, the time-out is not disabled and its time has passed. -/
def GrindDue (s : State) : Prop :=
  let n := regGet s oStepTmoGrind % 2 ^ 16
  s.step.state = 2 ∧ n ≠ 0 ∧ passed s s.work.tGrind (512 * n) = true

/-- The test of GRIND_TIMEOUT says that it is not due. -/
theorem not_grindDue_iff (s : State) : ¬ GrindDue s ↔
    (decide (s.step.state ≠ 2) || decide (regGet s oStepTmoGrind % 2 ^ 16 = 0) ||
      !passed s s.work.tGrind (512 * (regGet s oStepTmoGrind % 2 ^ 16))) = true := by
  simp only [GrindDue, not_and_or, Bool.or_eq_true, decide_eq_true_eq, Bool.not_eq_true', Bool.not_eq_true, not_not, ne_eq,
    or_assoc]

theorem grindTimeout_early {s : State} (h : ¬ GrindDue s) : grindTimeout s = s := if_pos ((not_grindDue_iff s).1 h)

theorem grindTimeout_due {s : State} (h : GrindDue s) :
    grindTimeout s = sendEarly (markWith { s with work := { s.work with tGrind := none } } 4 false false) :=
  if_neg (mt (not_grindDue_iff s).2 (not_not.2 h))

theorem decisionWaitTimeout_early {s : State}
    (h : stepOpenState s = false ∨ passed s s.work.tDecision (4 * settleTmo s) = false) : decisionWaitTimeout s = s :=
  if_pos (by simpa using h)

theorem decisionWaitTimeout_due {s : State} (hopen : stepOpenState s = true)
    (hdue : passed s s.work.tDecision (4 * settleTmo s) = true) :
    decisionWaitTimeout s = sendTo { s with work := { s.work with tDecision := some s.time.turn } } (standbyChip s)
      (msgOf s 0x07 0 (s.step.round * 2 ^ 8) []) :=
  if_neg (by simp [hopen, hdue])

theorem standbyAckTimeout_due {s : State} (h : ∃ d ∈ s.root.waiting, d.since + settleTmo s ≤ s.time.turn) :
    standbyAckTimeout s = loseStandby s :=
  if_pos (by simpa using h)

theorem standbyAckTimeout_early {s : State} (h : ∀ d ∈ s.root.waiting, s.time.turn < d.since + settleTmo s) :
    standbyAckTimeout s = s :=
  if_neg (by simpa using h)

theorem pubTimeout_due {s : State} (hbusy : s.pub.busy = true)
    (hdue : passed s s.work.tPub (fieldOf (regGet s oStepTmoGrind) 31 16) = true) :
    pubTimeout s = { s with pub := { s.pub with late := true }, work := { s.work with tPub := none } } :=
  if_pos (by simp [hbusy, hdue])

theorem pubTimeout_early {s : State}
    (h : s.pub.busy = false ∨ passed s s.work.tPub (fieldOf (regGet s oStepTmoGrind) 31 16) = false) : pubTimeout s = s :=
  if_neg (by simpa [or_iff_not_imp_left] using h)

/-! ### The commands -/

/-- Settles O58: each time-out by whether it is due. -/
theorem stepTimeoutsActAtTheirTime : Obligations.StepTimeoutsActAtTheirTime := fun s =>
  ⟨fun h => ⟨_, rfl, openTimeout_early h⟩,
    fun _ _ hroot hdue hrecs hopen => ⟨_, rfl, openTimeout_due hroot hdue hrecs hopen⟩,
    fun h => ⟨_, rfl, settleTimeout_early h⟩,
    fun _ _ hroot hdue hrecs hopen => ⟨_, rfl, settleTimeout_due hroot hdue hrecs hopen⟩,
    ⟨fun h => ⟨_, rfl, grindTimeout_due h⟩, fun h => ⟨_, rfl, grindTimeout_early h⟩⟩,
    fun hopen hdue => ⟨_, rfl, decisionWaitTimeout_due hopen hdue⟩, fun h => ⟨_, rfl, decisionWaitTimeout_early h⟩,
    fun h => ⟨_, rfl, standbyAckTimeout_due h⟩, fun h => ⟨_, rfl, standbyAckTimeout_early h⟩,
    fun hbusy hdue => ⟨_, rfl, pubTimeout_due hbusy hdue⟩, fun h => ⟨_, rfl, pubTimeout_early h⟩,
    fun t0 n => ⟨passed_some_iff s t0 n, passed_none s n⟩⟩

/-! ### A concrete overdue step -/

/-- Step 0 in GRIND at a decision root of two chips, every time-out overdue: only this chip's OPEN record is in, chip 1's
group record stands for an unknown replica group, and a decision waits for the standby root. -/
def overdueReset : State :=
  { regSet State.reset oStepTmoGrind 1 with
    time := { State.reset.time with turn := 2 ^ 20 }
    boot := { State.reset.boot with topoChips := 2 }
    step := { StepSt.reset with state := 2 }
    pub := { PubSt.reset with busy := true }
    work := { WorkSt.reset with
      tOpen := some 0, tSettle := some 0, tGrind := some 0, tDecision := some 0, tPub := some 0 }
    root := { RootSt.reset with
      openRecs := [(0, msgOf State.reset 0x01 0 0 [])]
      groupRecs := [(1, { msgOf State.reset 0x04 0 (2 ^ 8) [] with src := 1 })]
      waiting := [⟨decMsg State.reset 0 0 1 0 0 0 [], none, 0⟩] } }

/-- The decision root decides ABORT with reason TIMEOUT, at the OPEN records because of chip 1 and at the group records
because of the own norm root, chip 0. -/
theorem rootTimeouts_overdueReset :
    Gives .openTimeout overdueReset (fun t =>
        t.root.decided.map (fun d => (decCode d, decReason d, decCause d)) = [(5, 4, 1)]) ∧
      Gives .settleTimeout overdueReset (fun t =>
        t.root.decided.map (fun d => (decCode d, decReason d, decCause d)) = [(5, 4, 0)]) := by
  obtain ⟨-, opens, -, settles, -⟩ := stepTimeoutsActAtTheirTime overdueReset
  exact ⟨(opens _ [] (by decide) (by decide) rfl (by decide)).imp fun t h => by rw [h]; decide,
    (settles _ [] (by decide) (by decide) rfl (by decide)).imp fun t h => by rw [h]; decide⟩

/-- The chip sends its early-abort notice and its query, loses the standby root and marks the publication late; after
reset none of the time-outs has an effect. -/
theorem chipTimeouts_overdueReset :
    Gives .grindTimeout overdueReset (fun t => t.step.earlySent = true ∧ t.step.markReason = 4) ∧
      Gives .decisionWaitTimeout overdueReset (fun t =>
        t.work.tDecision = some (2 ^ 20) ∧ t.gl.self.map (fun m => m.kind) = [0x07]) ∧
      Gives .standbyAckTimeout overdueReset (fun t => t.root.standbyLost = true ∧ t.root.waiting = []) ∧
      Gives .pubTimeout overdueReset (fun t => t.pub.late = true) ∧
      Gives .grindTimeout State.reset (· = State.reset) ∧ Gives .standbyAckTimeout State.reset (· = State.reset) := by
  obtain ⟨-, -, -, -, grind, waits, -, loses, -, late, -⟩ := stepTimeoutsActAtTheirTime overdueReset
  obtain ⟨-, -, -, -, early, -, -, -, keeps, -⟩ := stepTimeoutsActAtTheirTime State.reset
  exact ⟨(grind.1 (by decide)).imp fun t h => by rw [h]; decide,
    (waits (by decide) (by decide)).imp fun t h => by rw [h]; decide,
    (loses ⟨_, List.mem_singleton_self _, by decide⟩).imp fun t h => by rw [h]; decide,
    (late (by decide) (by decide)).imp fun t h => by rw [h], early.2 (by decide), keeps (by decide)⟩

end Sys2Proof.Spec

/-!
PROOF. Messages of the step (O59).
-/
namespace Sys2Proof.Spec

open Sys2Proof Sys2Proof.Machine

/-! ### Taking a message (R324) -/

theorem freeSlots_only (s : State) (slots : Option (Nat × Nat × Bool × Nat)) :
    freeSlots s slots = { s with gl := (freeSlots s slots).gl } := by
  cases slots <;> rfl

/-- Taking a message changes nothing outside the links. -/
theorem consumeMsg_only (s : State) (m : Msg) : consumeMsg s m = { s with gl := (consumeMsg s m).gl } := by
  unfold consumeMsg
  cases s.gl.rx.find? (fun r => r.m == m) with
  | none => rfl
  | some r =>
    dsimp only
    split
    · rfl
    · rw [freeSlots_only]

@[simp] theorem isCurrent_consumeMsg (s : State) (m m' : Msg) : isCurrent (consumeMsg s m) m' = isCurrent s m' := by
  rw [consumeMsg_only]
  rfl

@[simp] theorem isCommitted_consumeMsg (s : State) (m m' : Msg) : isCommitted (consumeMsg s m) m' = isCommitted s m' := by
  rw [consumeMsg_only]
  rfl

/-! ### Messages of a step (R191) -/

/-- The message is of another kind, or not the oldest of its pool. -/
def NotTaken (s : State) (m : Msg) (kind : Nat) : Prop := m.kind ≠ kind ∨ msgReady s m = false

theorem notTaken_iff (s : State) (m : Msg) (kind : Nat) :
    (decide (m.kind ≠ kind) || !msgReady s m) = true ↔ NotTaken s m kind := by
  simp [NotTaken]

theorem Ready.taken {s : State} {m : Msg} {kind : Nat} (h : Ready s m kind) : ¬ NotTaken s m kind := by
  obtain ⟨hkind, hready⟩ := h
  simp [NotTaken, hkind, hready]

theorem withStep_notTaken {s : State} {m : Msg} {kind : Nat} (h : NotTaken s m kind) (body : State → State) :
    withStep s m kind body = s :=
  if_pos ((notTaken_iff ..).2 h)

theorem withStep_taken {s : State} {m : Msg} {kind : Nat} (h : Ready s m kind) (body : State → State) :
    withStep s m kind body =
      let u := consumeMsg s m
      if isCurrent u m then body u else if isCommitted u m then u else staleMsg u :=
  if_neg (mt (notTaken_iff ..).1 h.taken)

/-- A counted message: nothing but the counter of stale messages moves. -/
def CountsStale (u t : State) : Prop := OneReg u t oStaleMsgCnt (min (regGet u oStaleMsgCnt + 1) 0xFFFFFFFF)

theorem countsStale_staleMsg (u : State) : CountsStale u (staleMsg u) := oneReg_bump u oStaleMsgCnt

/-- What a command that applies a message of a step does, by the message's step. -/
theorem gives_withStep {cmd : Instr} {s : State} {m : Msg} {kind : Nat} {body : State → State}
    (hexec : exec cmd s = .next (withStep s m kind body)) (h : Ready s m kind) :
    let u := consumeMsg s m
    (isCurrent u m = true → Gives cmd s (fun t => t = body u)) ∧
      (isCurrent u m = false → isCommitted u m = true → Gives cmd s (· = u)) ∧
      (isCurrent u m = false → isCommitted u m = false → Gives cmd s (CountsStale u)) := by
  rw [withStep_taken h] at hexec
  refine ⟨fun hc => ⟨_, hexec, if_pos hc⟩, fun hc hk => ⟨_, hexec, ?_⟩, fun hc hk => ⟨_, hexec, ?_⟩⟩
  · simp only [hc, hk, Bool.false_eq_true, if_false, if_true]
  · simp only [hc, hk, Bool.false_eq_true, if_false]
    exact countsStale_staleMsg _

theorem exec_stepRow (s : State) (m : Msg) : ∀ x ∈ stepRow m, exec x.1 s = .next (withStep s m x.2.1 x.2.2) :=
  List.forall_iff_forall_mem.1 ⟨rfl, rfl, rfl, rfl, rfl, rfl⟩

/-! ### Messages applied whatever their step (R200, R332) -/

theorem withAny_notTaken {s : State} {m : Msg} {kind : Nat} (h : NotTaken s m kind) (body : State → State) :
    withAny s m kind body = s :=
  if_pos ((notTaken_iff ..).2 h)

theorem withAny_taken {s : State} {m : Msg} {kind : Nat} (h : Ready s m kind) (body : State → State) :
    withAny s m kind body = body (consumeMsg s m) :=
  if_neg (mt (notTaken_iff ..).1 h.taken)

theorem exec_anyRow (s : State) (m : Msg) : ∀ x ∈ anyRow m, exec x.1 s = .next (withAny s m x.2.1 x.2.2) :=
  List.forall_iff_forall_mem.1 ⟨rfl, rfl, rfl, rfl⟩

/-! ### Messages of a shard (R191, R332, R333) -/

theorem withRole_notReady {s : State} {m : Msg} (h : msgReady s m = false) (ok : Bool) (body : State → Nat → State) :
    withRole s m ok body = s :=
  if_pos (by simp [h])

/-- A message of a known step goes by the role check, any other is counted. -/
theorem roleTakes_withRole {s : State} {m : Msg} (h : msgReady s m = true) (ok : Bool) (body : State → Nat → State) :
    RoleTakes (consumeMsg s m) (withRole s m ok body) m ok body := by
  rw [withRole, if_neg (by simp [h])]
  refine ⟨fun hok => ?_, fun hok i hrole => ?_, fun hok c hrole => ?_, fun hok hrole => ?_⟩
  · rw [hok]
    exact countsStale_staleMsg _
  all_goals simp only [hok, hrole, Bool.not_true, Bool.false_eq_true, if_false]
  exact oneReg_bump _ _

/-- Only what the body makes of the taken state matters. -/
theorem RoleTakes.congr {u t : State} {m : Msg} {ok : Bool} {body body' : State → Nat → State}
    (h : RoleTakes u t m ok body) (heq : ∀ i, body u i = body' u i) : RoleTakes u t m ok body' := by
  obtain ⟨stale, applied, forwarded, dropped⟩ := h
  exact ⟨stale, fun hok i hrole => (applied hok i hrole).trans (heq i), forwarded, dropped⟩

theorem withShard_notTaken {s : State} {m : Msg} {kind : Nat} (h : NotTaken s m kind) (body : State → Nat → State) :
    withShard s m kind body = s := by
  unfold withShard
  split
  · rfl
  · next hkind => exact withRole_notReady (h.resolve_left hkind) ..

/-- In the open step the message acts at its shard's holder. -/
theorem roleTakes_withShard {s : State} {m : Msg} {kind : Nat} (h : Ready s m kind)
    (hcur : isCurrent (consumeMsg s m) m = true) (hopen : stepOpenState (consumeMsg s m) = true)
    (body : State → Nat → State) : RoleTakes (consumeMsg s m) (withShard s m kind body) m true body := by
  obtain ⟨hkind, hready⟩ := h
  have hok : (isCurrent s m || isCommitted s m) = true := by
    rw [isCurrent_consumeMsg] at hcur
    rw [hcur, Bool.true_or]
  rw [withShard, if_neg (not_not.2 hkind), hok]
  exact (roleTakes_withRole hready true _).congr fun i => if_pos (by rw [hcur, hopen]; rfl)

theorem countsStale_withShard {s : State} {m : Msg} {kind : Nat} (h : Ready s m kind)
    (hcur : isCurrent (consumeMsg s m) m = false) (hcom : isCommitted (consumeMsg s m) m = false)
    (body : State → Nat → State) : CountsStale (consumeMsg s m) (withShard s m kind body) := by
  obtain ⟨hkind, hready⟩ := h
  have hok : (isCurrent s m || isCommitted s m) = false := by
    rw [isCurrent_consumeMsg] at hcur
    rw [isCommitted_consumeMsg] at hcom
    rw [hcur, hcom, Bool.or_false]
  rw [withShard, if_neg (not_not.2 hkind), hok]
  exact (roleTakes_withRole hready false _).1 rfl

theorem exec_shardRow (s : State) (m : Msg) : ∀ x ∈ shardRow m, exec x.1 s = .next (withShard s m x.2.1 x.2.2) :=
  List.forall_iff_forall_mem.1 ⟨rfl, rfl, rfl, rfl, rfl⟩

theorem exec_copyRow (s : State) (m : Msg) : ∀ x ∈ copyRow m, exec x.1 s =
    .next (if m.kind ≠ x.2.1 then s else withRole s m (isCurrent s m || isCommitted s m) x.2.2) :=
  List.forall_iff_forall_mem.1 ⟨rfl, rfl⟩

/-- A copy's message of another kind, or not the oldest of its pool, stays. -/
theorem copyMsg_notTaken {s : State} {m : Msg} {kind : Nat} (h : NotTaken s m kind) (ok : Bool)
    (body : State → Nat → State) : (if m.kind ≠ kind then s else withRole s m ok body) = s := by
  split
  · rfl
  · next hkind => exact withRole_notReady (h.resolve_left hkind) ..

/-! ### Decisions (R192, R200) -/

theorem withDecision_otherCode {s : State} {m : Msg} {code : Nat} (h : decCode m ≠ code) (body : State → State) :
    withDecision s m code body = s :=
  if_pos h

/-- The standby root's copy is stored and acknowledged. -/
theorem withDecision_copy {s : State} {m : Msg} {code : Nat} (h : decCode m = code) (hready : Ready s m 2)
    (hcopy : bitOf m.addr 0 = true) (body : State → State) : withDecision s m code body = takeCopy (consumeMsg s m) m := by
  obtain ⟨hkind, hfront⟩ := hready
  exact (if_neg (not_not.2 h)).trans (if_pos (by simp [hkind, hfront, hcopy]))

/-- Any other decision is a message of its step. -/
theorem withDecision_own {s : State} {m : Msg} {code : Nat} (h : decCode m = code) (hown : bitOf m.addr 0 = false)
    (body : State → State) : withDecision s m code body = withStep s m 2 body :=
  (if_neg (not_not.2 h)).trans (if_neg (by simp [hown]))

theorem exec_decisionRow (s : State) (m : Msg) :
    ∀ x ∈ decisionRow m, exec x.1 s = .next (withDecision s m x.2.1 x.2.2) :=
  List.forall_iff_forall_mem.1 ⟨rfl, rfl, rfl, rfl, rfl⟩

/-- ABORT alone keeps its place against another transition. -/
theorem setMove_eq {v : State} (h : v.step.move ≠ some 5) (mv : Nat) :
    setMove v mv = { v with step := { v.step with move := some mv }, work := { v.work with tDecision := none } } :=
  if_neg h

theorem takeGo_opening {v : State} (hmove : v.step.move = none) (h : v.step.state = 1) :
    takeGo v = { v with
      boot := { v.boot with discDone := true }, step := { v.step with move := some 2 }
      work := { v.work with tDecision := none } } := by
  rw [takeGo, if_pos h, setMove_eq]
  simp [hmove]

theorem takeCommit_roundB {v : State} (hmove : v.step.move = none) (h : v.step.state = 3) (hround : v.step.round = 2) :
    takeCommit v = { v with step := { v.step with move := some 4 }, work := { v.work with tDecision := none } } := by
  rw [takeCommit, if_pos (by simp [h, hround]), setMove_eq]
  simp [hmove]

theorem takeAbort_open {v : State} (hmove : v.step.move = none) (h : stepOpenState v = true) (m : Msg) :
    takeAbort v m = { v with
      step := { v.step with abortReason := decReason m, abortChip := decCause m, move := some 5 }
      work := { v.work with tDecision := none } } := by
  rw [takeAbort, if_pos h, setMove_eq]
  simp [hmove]

/-- Without the norm root's sums, CONTINUE waits for them. -/
theorem takeContinue_sumsMissing {v : State} (hmove : v.step.move = none) (h : v.step.state = 3)
    (hround : v.step.round = 1) (hsums : v.step.sumsA = false) :
    takeContinue v = { v with step := { v.step with move := some 6 } } :=
  (if_pos (by simp [h, hround, hmove])).trans (if_neg (Bool.eq_false_iff.1 hsums))

/-! ### The commands -/

/-- Settles O59: each row by what its message is to the step, the decisions by what they set. -/
theorem stepMessagesApplyToTheirStep : Obligations.StepMessagesApplyToTheirStep := by
  intro s m
  refine ⟨fun cmd kind body hrow => ?ofStep, fun cmd kind body hrow => ?any, fun cmd kind body hrow => ?shard,
    fun cmd kind body hrow => ?copy, fun cmd code body hrow => ?decision,
    fun v hmove => ⟨takeGo_opening hmove, takeCommit_roundB hmove, fun h => takeAbort_open hmove h m,
      takeContinue_sumsMissing hmove⟩⟩
  case ofStep =>
    have hexec := exec_stepRow s m _ hrow
    exact ⟨fun h => ⟨_, hexec, withStep_notTaken h body⟩, fun hkind hready => gives_withStep hexec ⟨hkind, hready⟩⟩
  case any =>
    have hexec := exec_anyRow s m _ hrow
    exact ⟨fun h => ⟨_, hexec, withAny_notTaken h body⟩,
      fun hkind hready => ⟨_, hexec, withAny_taken ⟨hkind, hready⟩ body⟩⟩
  case shard =>
    have hexec := exec_shardRow s m _ hrow
    exact ⟨fun h => ⟨_, hexec, withShard_notTaken h body⟩,
      fun hkind hready hcur hopen => ⟨_, hexec, roleTakes_withShard ⟨hkind, hready⟩ hcur hopen body⟩,
      fun hkind hready hcur hcom => ⟨_, hexec, countsStale_withShard ⟨hkind, hready⟩ hcur hcom body⟩⟩
  case copy =>
    have hexec := exec_copyRow s m _ hrow
    refine ⟨fun h => ⟨_, hexec, copyMsg_notTaken h _ body⟩, fun hkind hready => ⟨_, hexec, ?_⟩⟩
    rw [if_neg (not_not.2 hkind)]
    exact roleTakes_withRole hready _ body
  case decision =>
    have hexec := exec_decisionRow s m _ hrow
    refine ⟨fun h => ⟨_, hexec, withDecision_otherCode h body⟩,
      fun h hkind hready hcopy => ⟨_, hexec, withDecision_copy h ⟨hkind, hready⟩ hcopy body⟩,
      fun h hkind hready hown => ?_⟩
    rw [withDecision_own h hown] at hexec
    obtain ⟨current, -, stale⟩ := gives_withStep hexec ⟨hkind, hready⟩
    exact ⟨current, stale⟩

/-! ### Concrete messages -/

/-- The table entry of tensor 0 with the one element 0, owned by chip 0. -/
def oneElementEntry : List Byte := List.replicate 0x1A 0 ++ [1] ++ List.replicate 0x25 0

/-- Step 0 in OPEN at a chip that holds the shard, with one message of this chip to be applied. -/
def receiving (m : Msg) : State :=
  { State.reset with
    step := { StepSt.reset with state := 1 }
    work := { WorkSt.reset with tt := [oneElementEntry] }
    gl := { GenleSt.reset with self := [m] } }

/-- A GO for step 0, and the same as a copy for the standby root. -/
def goMsg : Msg := decMsg State.reset 0 0 1 0 0 0 []
def goCopy : Msg := standbyCopy ⟨goMsg, none, 0⟩

/-- A message of this chip of a kind, step and role epoch, for the one shard where its kind names one. -/
def ownMsg (kind step epoch : Nat) : Msg := { msgOf State.reset kind 0 0 [] with step := step, roleEpoch := epoch }

/-- GO sets the move to GRIND, its copy is kept and acknowledged, and a notice of an early abort makes the root decide
ABORT. -/
theorem decisions_receiving :
    Gives (.msgDecisionGo goMsg) (receiving goMsg) (fun t => t.step.move = some 2 ∧ t.gl.self = []) ∧
      Gives (.msgDecisionGo goCopy) (receiving goCopy) (fun t =>
        t.step.move = none ∧ t.root.standbyDecided = [goMsg] ∧ t.gl.self.map (fun m => m.kind) = [0x06]) ∧
      Gives (.msgEarlyAbort (ownMsg 0x05 0 0)) (receiving (ownMsg 0x05 0 0)) (fun t => t.root.decided.map decCode = [5]) := by
  obtain ⟨-, -, -, -, goes, -⟩ := stepMessagesApplyToTheirStep (receiving goMsg) goMsg
  obtain ⟨-, -, own⟩ := goes _ _ _ List.mem_cons_self
  obtain ⟨-, -, -, -, copies, -⟩ := stepMessagesApplyToTheirStep (receiving goCopy) goCopy
  obtain ⟨-, copy, -⟩ := copies _ _ _ List.mem_cons_self
  obtain ⟨notices, -⟩ := stepMessagesApplyToTheirStep (receiving (ownMsg 0x05 0 0)) (ownMsg 0x05 0 0)
  obtain ⟨-, notice⟩ := notices _ _ _ (.tail _ (.tail _ (.tail _ (.head _))))
  exact ⟨((own (by decide) rfl (by decide) (by decide)).1 (by decide)).imp fun t h => by rw [h]; decide,
    (copy (by decide) rfl (by decide) (by decide)).imp fun t h => by rw [h]; decide,
    ((notice rfl (by decide)).1 (by decide)).imp fun t h => by rw [h]; decide⟩

/-- A notice of admission acts at its shard; of another role epoch it is dropped and counted, of another step it is
counted as stale. -/
theorem admissions_receiving :
    Gives (.msgAdmit (ownMsg 0x0A 0 0)) (receiving (ownMsg 0x0A 0 0)) (fun t => t.work.admits = [0]) ∧
      Gives (.msgAdmit (ownMsg 0x0A 0 1)) (receiving (ownMsg 0x0A 0 1)) (fun t => regGet t oGlRoleDropCnt = 1) ∧
      Gives (.msgAdmit (ownMsg 0x0A 5 0)) (receiving (ownMsg 0x0A 5 0)) (fun t => regGet t oStaleMsgCnt = 1) := by
  obtain ⟨-, -, admits, -⟩ := stepMessagesApplyToTheirStep (receiving (ownMsg 0x0A 0 0)) (ownMsg 0x0A 0 0)
  obtain ⟨-, -, others, -⟩ := stepMessagesApplyToTheirStep (receiving (ownMsg 0x0A 0 1)) (ownMsg 0x0A 0 1)
  obtain ⟨-, -, olds, -⟩ := stepMessagesApplyToTheirStep (receiving (ownMsg 0x0A 5 0)) (ownMsg 0x0A 5 0)
  obtain ⟨-, acts, -⟩ := admits _ _ _ List.mem_cons_self
  obtain ⟨-, drops, -⟩ := others _ _ _ List.mem_cons_self
  obtain ⟨-, -, stale⟩ := olds _ _ _ List.mem_cons_self
  refine ⟨(acts rfl (by decide) (by decide) (by decide)).imp fun t h => ?_,
    (drops rfl (by decide) (by decide) (by decide)).imp fun t h => ?_,
    (stale rfl (by decide) (by decide) (by decide)).imp fun t h => ?_⟩
  · obtain ⟨-, applied, -⟩ := h
    rw [applied rfl 0 (by decide)]
    decide
  · obtain ⟨-, -, -, dropped⟩ := h
    exact (dropped rfl (by decide)).2.1
  · exact h.2.1

/-- A shard's digest of a peer is kept; a query that the standby root cannot answer is taken without effect. -/
theorem digestsAndQueries_receiving :
    Gives (.msgDigest (ownMsg 0x0D 0 0)) (receiving (ownMsg 0x0D 0 0)) (fun t => t.copy.digPeer = [(0, 0, 0)]) ∧
      Gives (.msgQuery (ownMsg 0x07 0 0)) (receiving (ownMsg 0x07 0 0)) (fun t => t.root = RootSt.reset ∧ t.gl.self = []) := by
  obtain ⟨-, -, -, digests, -⟩ := stepMessagesApplyToTheirStep (receiving (ownMsg 0x0D 0 0)) (ownMsg 0x0D 0 0)
  obtain ⟨-, digest⟩ := digests _ _ _ (.tail _ (.head _))
  obtain ⟨-, queries, -⟩ := stepMessagesApplyToTheirStep (receiving (ownMsg 0x07 0 0)) (ownMsg 0x07 0 0)
  obtain ⟨-, query⟩ := queries _ _ _ (.tail _ (.head _))
  refine ⟨(digest rfl (by decide)).imp fun t h => ?_, (query rfl (by decide)).imp fun t h => by rw [h]; decide⟩
  obtain ⟨-, applied, -⟩ := h
  rw [applied (by decide) 0 (by decide)]
  decide

end Sys2Proof.Spec

/-!
PROOF. Remote accesses (O60).
-/
namespace Sys2Proof.Spec

open Sys2Proof Sys2Proof.Machine

/-! ### At the home (R264, R270) -/

/-- A request of kind `kind` for `len` bytes is taken: it is the oldest of its pool and its home holds none of its bytes
back. -/
def HomeTakes (s : State) (m : Msg) (kind len : Nat) : Prop :=
  Ready s m kind ∧ rangeHeld s (baddrOf m.addr).space (baddrOf m.addr).off len = false

theorem withHome_stays {s : State} {m : Msg} {kind len : Nat}
    (h : m.kind ≠ kind ∨ msgReady s m = false ∨ rangeHeld s (baddrOf m.addr).space (baddrOf m.addr).off len = true)
    (body : State → State) : withHome s m kind len body = s :=
  if_pos (by simpa [or_assoc] using h)

theorem withHome_takes {s : State} {m : Msg} {kind len : Nat} (h : HomeTakes s m kind len) (body : State → State) :
    withHome s m kind len body = body (consumeMsg s m) := by
  obtain ⟨⟨hkind, hready⟩, hheld⟩ := h
  exact if_neg (by simp [hkind, hready, hheld])

/-- An address in no memory is answered DECERR. -/
theorem homeRead_reservedSpace (s : State) {m : Msg} (h : 2 ≤ (baddrOf m.addr).space) :
    homeRead s m = vc4Answer s m 0x3C decerr 0 [] :=
  if_pos h

theorem homeWrite_reservedSpace (s : State) {m : Msg} (h : 2 ≤ (baddrOf m.addr).space) (strb : List Bool) :
    homeWrite s m strb = vc4Answer s m 0x3C decerr 0 [] :=
  if_pos h

theorem homeAtomic_reservedSpace (s : State) {m : Msg} (h : 2 ≤ (baddrOf m.addr).space) :
    homeAtomic s m = vc4Answer s m 0x3C decerr 0 [] := by
  have hspace : (baddrOf m.addr).space ≠ 1 := by omega
  exact if_pos (by simp [hspace])

theorem homeRead_memory (s : State) {m : Msg} (h : (baddrOf m.addr).space < 2) :
    homeRead s m =
      let d := rangeRead s (baddrOf m.addr).space (baddrOf m.addr).off m.aux 2 false
      if d.1.ok then vc4Answer d.2 m 0x3C okay (poisonBits d.1.poison) d.1.data else vc4Answer d.2 m 0x3C decerr 0 [] :=
  if_neg (Nat.not_le.2 h)

/-- A write of one whole burst is acknowledged, or answered SLVERR when its memory refuses it. -/
theorem homeWrite_wholeBurst (s : State) {m : Msg} (h : (baddrOf m.addr).space < 2) (hdata : m.data.length = 64)
    (halign : (baddrOf m.addr).off % 64 = 0) (hmem : memOk s (baddrOf m.addr).space (baddrOf m.addr).off = true)
    (strb : List Bool) :
    homeWrite s m strb =
      let w := burstWrite s (baddrOf m.addr).space (baddrOf m.addr).off m.data strb (bitOf m.poison 0) 2 false
      if w.1 then vc4Answer w.2 m 0x3D 0 0 [] else vc4Answer w.2 m 0x3C slverr 0 [] := by
  have hall : m.data.take 64 = m.data := List.take_of_length_le hdata.le
  rw [homeWrite, if_neg (Nat.not_le.2 h), hdata, burstSpan_wholeBurst halign]
  simp only [List.zipIdx_cons, List.zipIdx_nil, List.foldl_cons, List.foldl_nil, hmem, Nat.mul_zero, List.drop_zero, hall,
    placeIn_whole hdata, Bool.not_true, Bool.false_eq_true, if_false]
  generalize burstWrite s (baddrOf m.addr).space (baddrOf m.addr).off m.data strb (bitOf m.poison 0) 2 false = w
  obtain ⟨written, t⟩ := w
  cases written <;> simp [okay, slverr]

theorem homeAtomic_scratch (s : State) {m : Msg} (h : (baddrOf m.addr).space = 1)
    (halign : (baddrOf m.addr).off % (if bitOf m.aux 4 then 8 else 4) = 0)
    (hok : scratchOk s ((baddrOf m.addr).off / 64 * 64) 64 = true) :
    homeAtomic s m =
      let n := if bitOf m.aux 4 then 8 else 4
      let a := atomicAt s (baddrOf m.addr).off n (m.aux % 16) (leAt m.data 0 n) (leAt m.data n n)
      vc4Answer a.2.2 m 0x3C okay (b2n a.2.1) (leBytes n a.1) :=
  if_neg (by simp [h, halign, hok])

/-- The rows of requests, with their kind, the bytes they reach and their service at the home. -/
def homeRow (m : Msg) : List (Instr × Nat × Nat × (State → State)) :=
  [(.msgVc4Rd m, 0x38, m.aux, fun s => homeRead s m),
    (.msgVc4Wr m, 0x39, m.data.length, fun s => homeWrite s m (strobes 0 64)),
    (.msgVc4Wrs m, 0x3A, 64, fun s => homeWrite s m ((List.range 64).map (fun i => bitOf m.aux i))),
    (.msgVc4Atom m, 0x3B, 64, fun s => homeAtomic s m)]

theorem exec_homeRow (s : State) (m : Msg) :
    ∀ x ∈ homeRow m, exec x.1 s = .next (withHome s m x.2.1 x.2.2.1 x.2.2.2) :=
  List.forall_iff_forall_mem.1 ⟨rfl, rfl, rfl, rfl⟩

theorem homeRow_reservedSpace (s : State) {m : Msg} (h : 2 ≤ (baddrOf m.addr).space) :
    ∀ x ∈ homeRow m, x.2.2.2 s = vc4Answer s m 0x3C decerr 0 [] :=
  List.forall_iff_forall_mem.1 ⟨homeRead_reservedSpace s h, homeWrite_reservedSpace s h _, homeWrite_reservedSpace s h _,
    homeAtomic_reservedSpace s h⟩

/-- Every row of a request has its service. -/
theorem exists_homeRow {m : Msg} {cmd : Instr} {kind len : Nat}
    (h : (cmd, kind, len) ∈ [(Instr.msgVc4Rd m, 0x38, m.aux), (.msgVc4Wr m, 0x39, m.data.length), (.msgVc4Wrs m, 0x3A, 64),
      (.msgVc4Atom m, 0x3B, 64)]) : ∃ body, (cmd, kind, len, body) ∈ homeRow m := by
  have hmap : (cmd, kind, len) ∈ (homeRow m).map (fun x => (x.1, x.2.1, x.2.2.1)) := h
  obtain ⟨⟨_, _, _, body⟩, hrow, heq⟩ := List.mem_map.1 hmap
  cases heq
  exact ⟨body, hrow⟩

/-! ### At the requester (R270, R271) -/

theorem takeAnswer_notTaken {s : State} {m : Msg} {kind : Nat} (h : NotTaken s m kind) (code : Nat) :
    takeAnswer s m kind code = s :=
  if_pos ((notTaken_iff ..).2 h)

/-- An answer to no outstanding request is taken without effect. -/
theorem takeAnswer_unasked {s : State} {m : Msg} {kind : Nat} (h : Ready s m kind)
    (hnone : (consumeMsg s m).port.outst.find? (fun o => o.tag == m.tag) = none) (code : Nat) :
    takeAnswer s m kind code = consumeMsg s m := by
  refine (if_neg (mt (notTaken_iff ..).1 h.taken)).trans ?_
  dsimp only
  rw [hnone]

/-- An answer ends its request, goes to whoever asked and lets the requests held for its route go. -/
theorem takeAnswer_asked {s : State} {m : Msg} {kind : Nat} {o : Outst} (h : Ready s m kind)
    (hsome : (consumeMsg s m).port.outst.find? (fun o => o.tag == m.tag) = some o) (code : Nat) :
    takeAnswer s m kind code =
      let u := consumeMsg s m
      let v := { u with port := { u.port with outst := u.port.outst.filter (fun x => x.tag != m.tag) } }
      releaseRoute (giveAnswer v o code m.poison m.data) o.chip := by
  refine (if_neg (mt (notTaken_iff ..).1 h.taken)).trans ?_
  dsimp only
  rw [hsome]

theorem exec_answerRow (s : State) (m : Msg) :
    ∀ x ∈ [(Instr.msgVc4Resp m, 0x3C, m.aux % 4), (.msgVc4Wack m, 0x3D, okay)],
      exec x.1 s = .next (takeAnswer s m x.2.1 x.2.2) :=
  List.forall_iff_forall_mem.1 ⟨rfl, rfl⟩

/-- A host read is answered with its bytes of the bursts. -/
theorem respOf_giveAnswer_host (v : State) {o : Outst} {r : AxiReq} {off : Nat} (hsink : o.sink = .host r off)
    (hkind : o.kind ≠ 0x3B) (poison : Nat) (data : List Byte) :
    respOf (giveAnswer v o okay poison data) r.narrow r.port = some ⟨okay, (data.drop off).take r.len,
      (List.range ((off + r.len - 1) / 64 + 1)).map (fun i => bitOf poison i)⟩ := by
  have hread : (o.kind == 0x3B) = false := beq_false_of_ne hkind
  have hgive : giveAnswer v o okay poison data = respond v r okay ((data.drop off).take r.len)
      ((List.range ((off + r.len - 1) / 64 + 1)).map (fun i => bitOf poison i)) := by
    simp [giveAnswer, hsink, hostAnswer, hread]
  rw [hgive, respOf_respond]

/-- Writes were answered when they were sent: a good acknowledgement changes nothing more. -/
theorem giveAnswer_hostWrite (v : State) {o : Outst} {r : AxiReq} (hsink : o.sink = .hostWrite r) (poison : Nat)
    (data : List Byte) : giveAnswer v o okay poison data = v := by
  simp [giveAnswer, hsink]

theorem giveAnswer_quernWrite (v : State) {o : Outst} {q tag : Nat} (hsink : o.sink = .quernWrite q tag) (poison : Nat)
    (data : List Byte) : giveAnswer v o okay poison data = v := by
  simp [giveAnswer, hsink]

/-! ### The commands -/

/-- Settles O60: requests by what their home does, answers by whether they were asked for, bulk data whole. -/
theorem remoteAccessesAreServedAndAnswered : Obligations.RemoteAccessesAreServedAndAnswered := by
  intro s m
  refine ⟨fun cmd kind len hrow => ?requests, fun hkind hready hheld hspace => ⟨_, rfl, ?read⟩,
    fun hkind hready hheld hspace hdata halign hmem => ⟨_, rfl, ?write⟩,
    fun hkind hready hheld hspace hdata halign hmem => ⟨_, rfl, ?strobes⟩,
    fun hkind hready hheld hspace halign hok => ⟨_, rfl, ?atomic⟩, fun cmd kind code hrow => ?answers,
    fun v o data poison => ⟨fun r off hsink hkind => respOf_giveAnswer_host v hsink hkind poison data,
      fun r hsink => giveAnswer_hostWrite v hsink poison data,
      fun q tag hsink => giveAnswer_quernWrite v hsink poison data⟩,
    fun hkind hready hheld => ⟨_, rfl, if_neg (by simp [hkind, hready, hheld])⟩,
    fun h => ⟨_, rfl, if_pos (by simpa [or_assoc] using h)⟩⟩
  case requests =>
    obtain ⟨body, hhome⟩ := exists_homeRow hrow
    have hexec := exec_homeRow s m _ hhome
    refine ⟨fun h => ⟨_, hexec, withHome_stays h body⟩, fun hkind hready hheld hspace => ⟨_, hexec, ?_⟩⟩
    exact (withHome_takes ⟨⟨hkind, hready⟩, hheld⟩ body).trans (homeRow_reservedSpace _ hspace _ hhome)
  case read => exact (withHome_takes ⟨⟨hkind, hready⟩, hheld⟩ _).trans (homeRead_memory _ hspace)
  case write =>
    exact (withHome_takes ⟨⟨hkind, hready⟩, hheld⟩ _).trans (homeWrite_wholeBurst _ hspace hdata halign hmem _)
  case strobes =>
    exact (withHome_takes ⟨⟨hkind, hready⟩, hheld⟩ _).trans (homeWrite_wholeBurst _ hspace hdata halign hmem _)
  case atomic => exact (withHome_takes ⟨⟨hkind, hready⟩, hheld⟩ _).trans (homeAtomic_scratch _ hspace halign hok)
  case answers =>
    have hexec := exec_answerRow s m _ hrow
    exact ⟨fun h => ⟨_, hexec, takeAnswer_notTaken h code⟩,
      fun hkind hready => ⟨fun hnone => ⟨_, hexec, takeAnswer_unasked ⟨hkind, hready⟩ hnone code⟩,
        fun _ hsome => ⟨_, hexec, takeAnswer_asked ⟨hkind, hready⟩ hsome code⟩⟩⟩

/-! ### Concrete accesses -/

/-- The state after reset with one message of this chip to be applied and one host read outstanding under tag 7. -/
def accessed (m : Msg) : State :=
  { State.reset with
    gl := { GenleSt.reset with self := [m] }
    port := { PortSt.reset with outst := [⟨7, 0, 0x38, 0, .host onesBurst 0⟩] } }

/-- A remote access message of this chip under tag 7. -/
def vc4Msg (kind addr aux : Nat) (data : List Byte) : Msg := { msgOf State.reset kind addr aux data with tag := 7 }

def readMsg : Msg := vc4Msg 0x38 (baddrLocal 1 0) 64 []
def reservedMsg : Msg := vc4Msg 0x38 (baddrLocal 3 0) 64 []
def writeMsg : Msg := vc4Msg 0x39 (baddrLocal 1 0) 0 (List.replicate 64 1)
def atomicMsg : Msg := vc4Msg 0x3B (baddrLocal 1 0) 0 (List.replicate 64 1)
def respMsg : Msg := vc4Msg 0x3C 0 okay (List.replicate 64 1)
def bulkMsg : Msg := vc4Msg 0x40 0 0 (List.replicate 64 1)

/-- A read of scratch is answered with data, one of the reserved space with DECERR. -/
theorem reads_accessed :
    Gives (.msgVc4Rd readMsg) (accessed readMsg) (fun t =>
        t.gl.self = [vc4Msg 0x3C (baddrLocal 1 0) okay (List.replicate 64 0)]) ∧
      Gives (.msgVc4Rd reservedMsg) (accessed reservedMsg) (fun t =>
        t.gl.self = [vc4Msg 0x3C (baddrLocal 3 0) decerr []]) := by
  obtain ⟨-, reads, -⟩ := remoteAccessesAreServedAndAnswered (accessed readMsg) readMsg
  obtain ⟨requests, -⟩ := remoteAccessesAreServedAndAnswered (accessed reservedMsg) reservedMsg
  obtain ⟨-, refuses⟩ := requests _ _ _ List.mem_cons_self
  exact ⟨(reads rfl (by decide) (by decide) (by decide)).imp fun t h => by rw [h]; decide,
    (refuses rfl (by decide) (by decide) (by decide)).imp fun t h => by rw [h]; decide⟩

/-- A write of ones is acknowledged; an addition of 0x01010101 returns the old value 0; both reach scratch. -/
theorem writes_accessed :
    Gives (.msgVc4Wr writeMsg) (accessed writeMsg) (fun t =>
        mapGet zeroAt t.mem.scratch 63 = 1 ∧ t.gl.self = [vc4Msg 0x3D (baddrLocal 1 0) 0 []]) ∧
      Gives (.msgVc4Atom atomicMsg) (accessed atomicMsg) (fun t =>
        mapGet zeroAt t.mem.scratch 3 = 1 ∧ t.gl.self = [vc4Msg 0x3C (baddrLocal 1 0) okay [0, 0, 0, 0]]) := by
  obtain ⟨-, -, writes, -⟩ := remoteAccessesAreServedAndAnswered (accessed writeMsg) writeMsg
  obtain ⟨-, -, -, -, atomics, -⟩ := remoteAccessesAreServedAndAnswered (accessed atomicMsg) atomicMsg
  exact ⟨(writes rfl (by decide) (by decide) (by decide) rfl (by decide) (by decide)).imp fun t h => by rw [h]; decide,
    (atomics rfl (by decide) (by decide) (by decide) (by decide) (by decide)).imp fun t h => by rw [h]; decide⟩

/-- The answer under tag 7 ends the host's read with its bytes. -/
theorem answer_accessed :
    Gives (.msgVc4Resp respMsg) (accessed respMsg) (fun t =>
      t.port.outst = [] ∧ respOf t false 0 = some ⟨okay, List.replicate 64 1, [false]⟩) := by
  obtain ⟨-, -, -, -, -, answers, -⟩ := remoteAccessesAreServedAndAnswered (accessed respMsg) respMsg
  obtain ⟨-, answer⟩ := answers _ _ _ List.mem_cons_self
  obtain ⟨-, asked⟩ := answer rfl (by decide)
  exact (asked _ rfl).imp fun t h => by rw [h]; decide

/-- Bulk data of a burst is written to DRAM. -/
theorem bulk_accessed : Gives (.msgBulk bulkMsg) (accessed bulkMsg) (fun t =>
    t.gl.self = [] ∧ (burstRead t 0 0 2 false).1.data = List.replicate 64 1) := by
  obtain ⟨-, -, -, -, -, -, -, bulk, -⟩ := remoteAccessesAreServedAndAnswered (accessed bulkMsg) bulkMsg
  exact (bulk rfl (by decide) (by decide)).imp fun t h => by rw [h]; decide

end Sys2Proof.Spec

/-!
PROOF. The memory's bring-up (O11).
-/
namespace Sys2Proof.Spec

open Sys2Proof Sys2Proof.Machine

/-! ### The three commands (R221, R222, R377) -/

/-- The map-outs a DFI initialisation leaves: of each stack and each group the channels graded Umber and those that
failed. -/
theorem dfiDone_mapOut {s : State} (hr : s.boot.running = true) (hd : s.boot.dfiDone = false) (d : DfiIn) :
    (dfiDone s d).boot.dfiDone = true ∧ (dfiDone s d).nor.rows = [] ∧
      (dfiDone s d).mem.hrMapOut = (List.range 8).map (fun k =>
        umberMask s (unitHr (32 * k)) 32 ||| fieldOf d.hrFailed (32 * k + 31) (32 * k)) ∧
      (dfiDone s d).mem.mpMapOut = (List.range 8).map (fun g =>
        umberMask s (unitMp (16 * g)) 16 ||| fieldOf d.mpFailed (16 * g + 15) (16 * g)) := by
  rw [dfiDone, if_neg (by simp [hr, hd])]
  exact ⟨rfl, rfl, rfl, rfl⟩

theorem fillDone_due {s : State} (hd : s.boot.dfiDone = true) (hf : s.boot.fillDone = false) :
    fillDone s = { s with
      mem := { s.mem with dram := [], dramPoison := [], errs := s.mem.errs.filter (fun e => e.space != 0) }
      boot := { s.boot with fillDone := true } } := by
  rw [fillDone, if_neg (by simp [hd, hf])]

theorem portsOpen_ready {s : State} (ho : s.boot.opened = false) (hf : s.boot.fillDone = true)
    (ht : trainingOver s = true) (hg : s.boot.groupDone = true) :
    portsOpen s = releaseWaiting { s with boot := { s.boot with opened := true, openTurn := s.time.turn } } := by
  rw [portsOpen, if_neg (by simp [ho, hf, ht, hg])]

theorem portsOpen_unfilled {s : State} (hf : s.boot.fillDone = false) : portsOpen s = s := by
  rw [portsOpen, if_pos (by simp [hf])]

/-- Settles O11: each command does its work once what comes before it is over. -/
theorem memoryIsBroughtUpBeforeThePortsOpen : Obligations.MemoryIsBroughtUpBeforeThePortsOpen := by
  refine ⟨fun s d hr hd => ⟨_, rfl, dfiDone_mapOut hr hd d⟩, fun s hd hf => ⟨_, rfl, ?fill⟩,
    fun s ho hf ht hg => ⟨_, rfl, portsOpen_ready ho hf ht hg⟩, fun s hf => ⟨_, rfl, portsOpen_unfilled hf⟩⟩
  case fill =>
    rw [fillDone_due hd hf]
    exact ⟨rfl, rfl, rfl, rfl⟩

/-! ### A concrete start-up -/

/-- The running block before its memory is initialised: Headrace channel 33 is Umber, DRAM is not clear, a row waits for
hard repair, and the image names no link. -/
def startingReset : State :=
  { State.reset with
    boot := { BootSt.reset with running := true, groupDone := true }
    mem := { MemSt.reset with dram := [(5, 1)], dramPoison := [(0, true)] }
    nor := { NorSt.reset with rows := [(false, 0, 7)] }
    fh := { HealthSt.reset with units := [{ gradedNew (unitHr 33) with grade := 3 }] } }

/-- Headrace channel 2 and Millpond channel 16 fail their initialisation. -/
def twoFailed : DfiIn := ⟨2 ^ 2, 0, List.replicate 8 64, 2 ^ 16, 0, 0, 0⟩

/-- The bring-up of the block: both failed channels and the Umber one are mapped out, the fill clears DRAM, and the ports
open after it but not before. -/
theorem bringUp_startingReset :
    Gives (.dfiInitialisationDone twoFailed) startingReset (fun t =>
        t.mem.hrMapOut = [4, 2, 0, 0, 0, 0, 0, 0] ∧ t.mem.mpMapOut = [0, 1, 0, 0, 0, 0, 0, 0] ∧ t.nor.rows = []) ∧
      Gives .memoryFillDone { startingReset with boot := { startingReset.boot with dfiDone := true } } (fun t =>
        t.mem.dram = [] ∧ t.mem.dramPoison = []) ∧
      Gives .portsOpen { startingReset with boot := { startingReset.boot with fillDone := true } } (fun t =>
        t.boot.opened = true) ∧
      Gives .portsOpen startingReset (· = startingReset) := by
  obtain ⟨initialises, fills, opens, waits⟩ := memoryIsBroughtUpBeforeThePortsOpen
  obtain ⟨t, ht, -, hrows, hhr, hmp⟩ := initialises startingReset twoFailed rfl rfl
  obtain ⟨u, hu, hdram, hpoison, -⟩ :=
    fills { startingReset with boot := { startingReset.boot with dfiDone := true } } rfl rfl
  exact ⟨⟨t, ht, hhr.trans (by decide), hmp.trans (by decide), hrows⟩, ⟨u, hu, hdram, hpoison⟩,
    (opens _ rfl rfl (by decide) rfl).imp fun t h => by rw [h]; rfl, waits _ rfl⟩

end Sys2Proof.Spec

/-!
PROOF. Memory events (O44).
-/
namespace Sys2Proof.Spec

open Sys2Proof Sys2Proof.Machine

/-! ### Registers and waiting accesses -/

/-- A bit of the register that was just cleared reads 0. -/
theorem bitOf_regClr (s : State) (off : Nat) {b : Nat} (h : b < 32) :
    bitOf (regGet (regClr s off (2 ^ b)) off) b = false := by
  have clear : (2 ^ 32 - 1 - 2 ^ b).testBit b = false := by
    rw [Nat.sub_sub, Nat.add_comm 1, Nat.testBit_two_pow_sub_succ (Nat.pow_lt_pow_right (by decide) h),
      Nat.testBit_two_pow_self]
    simp
  rw [regClr, regGet_regSet, if_pos rfl, bitOf_eq_testBit, Nat.testBit_mod_two_pow, Nat.testBit_and, clear, Bool.and_false,
    Bool.and_false]

theorem regGet_regClr_other (s : State) {off o : Nat} (m : Nat) (h : o ≠ off) :
    regGet (regClr s off m) o = regGet s o :=
  (regGet_regSet ..).trans (if_neg h)

/-- With no access waiting there is nothing to try again. -/
theorem releaseWaiting_none {s : State} (h : s.port.waiting = []) : releaseWaiting s = s := by
  rw [releaseWaiting, h, List.foldl_nil, ← h]

/-! ### Requests for a grade (R354) -/

/-- `t` differs from `s` only in the grades asked for. -/
def OnlyAsks (s t : State) : Prop := t = { s with fh := { s.fh with gradeNext := t.fh.gradeNext } }

theorem OnlyAsks.refl (s : State) : OnlyAsks s s := Eq.refl s

theorem OnlyAsks.trans {s t u : State} (h : OnlyAsks s t) (k : OnlyAsks t u) : OnlyAsks s u := by
  unfold OnlyAsks at *
  rw [k, h]

theorem OnlyAsks.regGet {s t : State} (h : OnlyAsks s t) (o : Nat) : regGet t o = regGet s o := by
  rw [h]
  rfl

theorem OnlyAsks.mem {s t : State} (h : OnlyAsks s t) : t.mem = s.mem := by rw [h]

theorem OnlyAsks.gradeOf {s t : State} (h : OnlyAsks s t) (u : Nat) : gradeOf t u = gradeOf s u := by
  rw [h]
  rfl

/-- The highest grade a unit has or is asked to have. -/
def gradeDue (s : State) (u : Nat) : Nat :=
  max (gradeOf s u) ((s.fh.gradeNext.find? (fun p => p.1 == u)).elim 0 (fun p => p.2))

theorem askGrade_held {s : State} {u g : Nat} (h : g ≤ gradeDue s u) : askGrade s u g = s := if_pos h

theorem askGrade_raised {s : State} {u g : Nat} (h : gradeDue s u < g) : askGrade s u g =
    { s with fh := { s.fh with gradeNext := s.fh.gradeNext.filter (fun p => p.1 != u) ++ [(u, g)] } } :=
  if_neg (Nat.not_le.2 h)

theorem gradeDue_unasked {s : State} {u : Nat} (h : s.fh.gradeNext.find? (fun p => p.1 == u) = none) :
    gradeDue s u = gradeOf s u := by
  simp [gradeDue, h]

theorem onlyAsks_askGrade (s : State) (u g : Nat) : OnlyAsks s (askGrade s u g) := by
  rcases Nat.lt_or_ge (gradeDue s u) g with h | h
  · rw [askGrade_raised h]
    rfl
  · rw [askGrade_held h]
    exact OnlyAsks.refl s

/-- A unit below a grade is asked to have it, unless it already was to have that or more. -/
theorem askGrade_asks {s : State} {u g : Nat} (h : gradeOf s u < g) :
    (u, g) ∈ (askGrade s u g).fh.gradeNext ∨ ∃ p ∈ s.fh.gradeNext, p.1 = u ∧ g ≤ p.2 := by
  rcases Nat.lt_or_ge (gradeDue s u) g with hlt | hge
  · rw [askGrade_raised hlt]
    exact .inl (by simp)
  · have hasked : g ≤ (s.fh.gradeNext.find? (fun p => p.1 == u)).elim 0 (fun p => p.2) :=
      (le_max_iff.1 hge).resolve_left (Nat.not_le.2 h)
    cases hf : s.fh.gradeNext.find? (fun p => p.1 == u) with
    | none => rw [hf, Option.elim_none] at hasked; omega
    | some p =>
      rw [hf] at hasked
      exact .inr ⟨p, List.mem_of_find?_eq_some hf, by simpa using List.find?_some hf, hasked⟩

/-- A request for the same grade stays. -/
theorem askGrade_keeps {s : State} {u g : Nat} (v : Nat) (h : (u, g) ∈ s.fh.gradeNext) :
    (u, g) ∈ (askGrade s v g).fh.gradeNext := by
  rcases Nat.lt_or_ge (gradeDue s v) g with hlt | hge
  · rw [askGrade_raised hlt]
    by_cases huv : u = v
    · exact List.mem_append_right _ (by simp [huv])
    · exact List.mem_append_left _ (List.mem_filter.2 ⟨h, by simpa using huv⟩)
  · rwa [askGrade_held hge]

/-- No request but the new one is added. -/
theorem mem_gradeNext_of_askGrade {s : State} {v g : Nat} {p : Nat × Nat} (h : p ∈ (askGrade s v g).fh.gradeNext) :
    p ∈ s.fh.gradeNext ∨ p = (v, g) := by
  rcases Nat.lt_or_ge (gradeDue s v) g with hlt | hge
  · rw [askGrade_raised hlt] at h
    exact (List.mem_append.1 h).imp List.mem_of_mem_filter List.mem_singleton.1
  · exact .inl (by rwa [askGrade_held hge] at h)

/-- Ask for a grade of each unit of a list. -/
def askAll (s : State) (us : List Nat) (g : Nat) : State := us.foldl (fun s u => askGrade s u g) s

theorem onlyAsks_askAll (s : State) (us : List Nat) (g : Nat) : OnlyAsks s (askAll s us g) := by
  induction us generalizing s with
  | nil => exact OnlyAsks.refl s
  | cons u us ih => exact (onlyAsks_askGrade s u g).trans (ih _)

theorem askAll_keeps {s : State} {u g : Nat} (us : List Nat) (h : (u, g) ∈ s.fh.gradeNext) :
    (u, g) ∈ (askAll s us g).fh.gradeNext := by
  induction us generalizing s with
  | nil => exact h
  | cons v us ih => exact ih (askGrade_keeps v h)

theorem askAll_asks {s : State} {us : List Nat} {u g : Nat} (hu : u ∈ us) (h : gradeOf s u < g) :
    (u, g) ∈ (askAll s us g).fh.gradeNext ∨ ∃ p ∈ s.fh.gradeNext, p.1 = u ∧ g ≤ p.2 := by
  induction us generalizing s with
  | nil => cases hu
  | cons v us ih =>
    rcases List.mem_cons.1 hu with rfl | hmem
    · exact (askGrade_asks h).imp_left (askAll_keeps us)
    · rcases ih hmem (((onlyAsks_askGrade s v g).gradeOf u).trans_lt h) with hnew | ⟨p, hp, hpu, hpg⟩
      · exact .inl hnew
      · rcases mem_gradeNext_of_askGrade hp with hold | rfl
        · exact .inr ⟨p, hold, hpu, hpg⟩
        · exact .inl (askAll_keeps us (hpu ▸ hp))

/-! ### The PHY (R223, R228) -/

theorem gives_phyFatalError (s : State) (mp : Bool) (c : Nat) :
    Gives (.phyFatalError mp c) s (fun t => t =
      if unitExists s (if mp then unitMp c else unitHr c) then askGrade s (if mp then unitMp c else unitHr c) 3 else s) :=
  ⟨_, rfl, rfl⟩

/-- A PHY update request stands among the waiting ones, once. -/
theorem gives_phyUpdateRequest (s : State) (mp : Bool) (port : Nat) : Gives (.phyUpdateRequest mp port) s (fun t =>
    t = { s with mem := { s.mem with phyUpd := t.mem.phyUpd } } ∧ (mp, port) ∈ t.mem.phyUpd ∧
      ∀ x, x ≠ (mp, port) → (x ∈ t.mem.phyUpd ↔ x ∈ s.mem.phyUpd)) := by
  refine ⟨_, rfl, ?_⟩
  split
  next h => exact ⟨rfl, by simpa using h, fun _ _ => Iff.rfl⟩
  next => exact ⟨rfl, by simp, fun x hx => by simp [hx]⟩

/-! ### Soft repair (R235, R236) -/

/-- The rewritten state with the repaired row listed, for the next resets too, and counted. -/
def rowRepaired (v : State) (key : Bool × Nat × Nat) (rest : List (Bool × Nat × Nat)) : State :=
  bump { v with
    mem := { v.mem with pprRows := rest, repaired := v.mem.repaired ++ [key] }
    nor := { v.nor with rows := v.nor.rows ++ [key] } } oSpprCnt

/-- The rewritten state with the row listed as one that could not be repaired. -/
def rowUnrepaired (v : State) (key : Bool × Nat × Nat) (rest : List (Bool × Nat × Nat)) : State :=
  { v with mem := { v.mem with pprRows := rest, unrepaired := v.mem.unrepaired ++ [key] } }

theorem softPprDone_repaired {s : State} {key : Bool × Nat × Nat} {rest : List (Bool × Nat × Nat)}
    (h : s.mem.pprRows = key :: rest) :
    softPprDone s true = releaseWaiting (rowRepaired (rewriteRow s key) key rest) := by
  rw [softPprDone, h]
  rfl

theorem softPprDone_failed {s : State} {key : Bool × Nat × Nat} {rest : List (Bool × Nat × Nat)}
    (h : s.mem.pprRows = key :: rest) :
    softPprDone s false = releaseWaiting (rowUnrepaired (rewriteRow s key) key rest) := by
  rw [softPprDone, h]
  rfl

/-! ### Granule conversion (R251, R252) -/

/-- An emptied way has no line. -/
theorem emptyWay_lines (s : State) (w : Nat) : ∀ x ∈ (emptyWay s w).2.hop.lines, x.1 / 2 ^ 20 ≠ w := by
  intro x hx
  simpa using (List.mem_filter.1 hx).2

theorem zeroGranule_byte (s : State) {g a : Nat} (h : a / 2 ^ 28 = g) :
    mapGet zeroAt (zeroGranule s g).mem.scratch a = 0 := by
  have inside : ¬ (a < g * 2 ^ 28 ∨ g * 2 ^ 28 + 2 ^ 28 ≤ a) := by omega
  exact (mapGet_mapErase ..).trans (if_neg inside)

theorem zeroGranule_mark (s : State) {g b : Nat} (h : b / 2 ^ 22 = g) :
    mapGet offAt (zeroGranule s g).mem.scratchPoison b = false := by
  have inside : ¬ (b < g * 2 ^ 28 / 64 ∨ g * 2 ^ 28 / 64 + 2 ^ 22 ≤ b) := by omega
  exact (mapGet_mapErase ..).trans (if_neg inside)

/-- The state a conversion leaves before what waited is tried again: the way emptied, its write-backs counted, the
granule no longer under conversion and zeroed. -/
def converted (s : State) (g : Nat) : State :=
  let u := bumpBy (emptyWay s g).2 oHopConvWbCnt (emptyWay s g).1
  zeroGranule { u with hop := { u.hop with convert := u.hop.convert.filter (fun c => c.1 != g) } } g

theorem convertDone_converting {s : State} {g : Nat} (h : (s.hop.convert.any (fun c => c.1 == g)) = true) :
    convertDone s g = releaseWaiting (converted s g) := by
  rw [convertDone, if_neg (by simp [h])]
  rfl

theorem converted_convert (s : State) (g : Nat) : ∀ c ∈ (converted s g).hop.convert, c.1 ≠ g := by
  intro c hc
  simpa using (List.mem_filter.1 hc).2

theorem converted_lines (s : State) (g : Nat) : ∀ x ∈ (converted s g).hop.lines, x.1 / 2 ^ 20 ≠ g :=
  emptyWay_lines s g

/-! ### Retraining (R388) -/

/-- The channels of group g that failed. -/
def failedChannels (failed g : Nat) : List Nat :=
  ((List.range 16).filter (bitOf failed)).map (fun c => unitMp (16 * g + c))

theorem mem_failedChannels {failed c : Nat} (g : Nat) (hc : c < 16) (hf : bitOf failed c = true) :
    unitMp (16 * g + c) ∈ failedChannels failed g :=
  List.mem_map_of_mem (List.mem_filter.2 ⟨List.mem_range.2 hc, hf⟩)

theorem askAll_failedChannels (s : State) (failed g grade : Nat) : askAll s (failedChannels failed g) grade =
    ((List.range 16).filter (bitOf failed)).foldl (fun s c => askGrade s (unitMp (16 * g + c)) grade) s :=
  List.foldl_map ..

/-- The state a retraining of group g leaves before what waited is tried again. -/
def retrained (s : State) (failed g : Nat) : State :=
  let u := askAll s (failedChannels failed g) 3
  regClr { u with mem := { u.mem with retrain := none } } oGovMpRetrain (2 ^ 8)

theorem retrainDone_retraining {s : State} {g : Nat} (h : s.mem.retrain = some g) (failed : Nat) :
    retrainDone s failed = releaseWaiting (retrained s failed g) := by
  rw [retrainDone, h, retrained, askAll_failedChannels]
  rfl

theorem retrainDone_idle {s : State} (h : s.mem.retrain = none) (failed : Nat) : retrainDone s failed = s := by
  rw [retrainDone, h]

theorem retrained_mem (s : State) (failed g : Nat) : (retrained s failed g).mem = { s.mem with retrain := none } := by
  rw [← (onlyAsks_askAll s (failedChannels failed g) 3).mem]
  rfl

theorem regGet_retrained (s : State) (failed g : Nat) {o : Nat} (h : o ≠ oGovMpRetrain) :
    regGet (retrained s failed g) o = regGet s o :=
  (regGet_regClr_other _ _ h).trans ((onlyAsks_askAll s (failedChannels failed g) 3).regGet o)

/-! ### The events -/

/-- Settles O44: each event by its occasion; a retraining asks for the grades one channel after the other. -/
theorem memoryEventsActOnTheirUnits : Obligations.MemoryEventsActOnTheirUnits := by
  refine ⟨fun s mp c => ⟨fun hx hg hn => ?fatal, fun hx => ?absent⟩, gives_phyUpdateRequest,
    fun s ok key rest h => ?repair, fun s g h => ⟨_, rfl, converted s g, convertDone_converting h, ?converted⟩,
    fun s failed g h => ⟨_, rfl, retrained s failed g, retrainDone_retraining h failed, ?retrained⟩,
    fun s failed h => ⟨_, rfl, retrainDone_idle h failed⟩, fun s => releaseWaiting_none⟩
  case fatal =>
    refine (gives_phyFatalError s mp c).imp fun t ht => ?_
    rw [ht, if_pos hx, askGrade_raised ((gradeDue_unasked hn).trans_lt hg)]
  case absent =>
    refine (gives_phyFatalError s mp c).imp fun t ht => ?_
    rw [ht, if_neg (by simp [hx])]
  case repair =>
    cases ok with
    | true =>
      refine ⟨_, rfl, _, softPprDone_repaired h, rfl, fun _ => ⟨rfl, rfl, rfl, ?_⟩, nofun⟩
      exact (regGet_bump ..).trans (if_pos rfl)
    | false => exact ⟨_, rfl, _, softPprDone_failed h, rfl, nofun, fun _ => ⟨rfl, rfl, rfl, rfl⟩⟩
  case converted =>
    exact ⟨converted_convert s g, converted_lines s g, fun a => zeroGranule_byte _, fun b => zeroGranule_mark _⟩
  case retrained =>
    exact ⟨retrained_mem s failed g, bitOf_regClr _ _ (by decide), fun o => regGet_retrained s failed g,
      fun c hc hf hg => askAll_asks (mem_failedChannels g hc hf) hg⟩

/-! ### Concrete events -/

/-- The state after reset with a row under repair, granule 1 under conversion with a byte, a mark and a line of the cache,
Millpond group 0 under retraining, and a PHY update of Headrace port 2 waiting. -/
def busyMemoryReset : State :=
  { regSet State.reset oGovMpRetrain 0x100 with
    mem := { MemSt.reset with
      scratch := [(2 ^ 28, 1)], scratchPoison := [(2 ^ 22, true)]
      pprRows := [(true, 3, 9)], retrain := some 0, phyUpd := [(false, 2)] }
    hop := { HopSt.reset with lines := [(2 ^ 20, some ⟨0, 1, 1, 0⟩)], convert := [(1, true)] } }

/-- Millpond channel 3 is asked to be Umber, one the block does not have is ignored, and Headrace port 2 waits beside
Millpond port 2. -/
theorem phyEvents_busyMemoryReset :
    Gives (.phyFatalError true 3) busyMemoryReset (fun t => t.fh.gradeNext = [(unitMp 3, 3)]) ∧
      Gives (.phyFatalError true 128) busyMemoryReset (· = busyMemoryReset) ∧
      Gives (.phyUpdateRequest true 2) busyMemoryReset (fun t =>
        (true, 2) ∈ t.mem.phyUpd ∧ (false, 2) ∈ t.mem.phyUpd) := by
  obtain ⟨fatal, updates, -⟩ := memoryEventsActOnTheirUnits
  exact ⟨((fatal busyMemoryReset true 3).1 (by decide) (by decide) (by decide)).imp fun t h => by rw [h]; decide,
    (fatal busyMemoryReset true 128).2 (by decide),
    (updates busyMemoryReset true 2).imp fun t ⟨_, hmem, hothers⟩ => ⟨hmem, (hothers _ (by decide)).2 (by decide)⟩⟩

/-- The row is listed as repaired and kept for the next resets, or listed as not repaired. -/
theorem softPpr_busyMemoryReset :
    Gives (.softPprDone true) busyMemoryReset (fun t =>
        ∃ u, t = releaseWaiting u ∧ u.mem.repaired = [(true, 3, 9)] ∧ u.nor.rows = [(true, 3, 9)] ∧
          regGet u oSpprCnt = 1) ∧
      Gives (.softPprDone false) busyMemoryReset (fun t =>
        ∃ u, t = releaseWaiting u ∧ u.mem.repaired = [] ∧ u.mem.unrepaired = [(true, 3, 9)]) := by
  obtain ⟨-, -, repair, -⟩ := memoryEventsActOnTheirUnits
  exact ⟨(repair busyMemoryReset true _ [] rfl).imp fun t ⟨u, ht, _, hok, _⟩ =>
      have ⟨hrep, _, hrows, hcount⟩ := hok rfl
      ⟨u, ht, hrep, hrows, hcount.trans (by decide)⟩,
    (repair busyMemoryReset false _ [] rfl).imp fun t ⟨u, ht, _, _, hfailed⟩ =>
      have ⟨hrep, hunrep, _, _⟩ := hfailed rfl
      ⟨u, ht, hrep, hunrep⟩⟩

/-- Granule 1 reads zeros, and Millpond channel 5, whose retraining failed, is asked to be Umber; without a retraining
under way the command changes nothing. -/
theorem ends_busyMemoryReset :
    Gives (.granuleConvertDone 1) busyMemoryReset (fun t => ∃ u, t = releaseWaiting u ∧
        mapGet zeroAt u.mem.scratch (2 ^ 28) = 0 ∧ mapGet offAt u.mem.scratchPoison (2 ^ 22) = false) ∧
      Gives (.mpRetrainDone (2 ^ 5)) busyMemoryReset (fun t => ∃ u, t = releaseWaiting u ∧
        u.mem.retrain = none ∧ (unitMp 5, 3) ∈ u.fh.gradeNext) ∧
      Gives (.mpRetrainDone (2 ^ 5)) State.reset (· = State.reset) := by
  obtain ⟨-, -, -, converts, retrains, idle, -⟩ := memoryEventsActOnTheirUnits
  refine ⟨(converts busyMemoryReset 1 (by decide)).imp fun t ⟨u, ht, _, _, hbytes, hmarks⟩ =>
      ⟨u, ht, hbytes _ (by decide), hmarks _ (by decide)⟩,
    (retrains busyMemoryReset (2 ^ 5) 0 rfl).imp fun t ⟨u, ht, hmem, _, _, hasked⟩ =>
      ⟨u, ht, congrArg MemSt.retrain hmem, ?_⟩, idle State.reset _ rfl⟩
  exact (hasked 5 (by decide) (by decide) (by decide)).resolve_right (fun ⟨_, hp, _⟩ => List.not_mem_nil hp)

end Sys2Proof.Spec

/-!
PROOF. Host fences (O46).
-/
namespace Sys2Proof.Spec

open Sys2Proof Sys2Proof.Machine

/-! ### A write to MM_FENCE (R265, R402) -/

/-- A write that its port takes to MM_FENCE: the port exists, no power-fail sequence runs, and the burst keeps the protocol
and addresses the register with Remote = 0. -/
structure ReachesFence (s : State) (r : AxiReq) : Prop where
  burst : axiBroken r = false
  port : portExists s r = true
  powered : s.gov.pfActive = false
  supported : r.unsupported = false
  unremote : (baddrOf r.addr).remote = false
  space : (baddrOf r.addr).space = 2
  off : (baddrOf r.addr).off = 0x2600

/-- The SCOPE field of the word written. -/
def fenceScope (r : AxiReq) : Nat := leAt r.data 0 4 % 4

/-- The numbers of the port's earlier writes and atomics that are still held. -/
def heldWrites (s : State) (r : AxiReq) : List Nat :=
  (s.port.waiting.filter (fun h => h.r.narrow == r.narrow && h.r.port == r.port && h.kind != 0)).map (fun h => h.id)

/-- Whether a SYSTEM fence meets a write of its port lost since the last one (R271). -/
def fenceLost (s : State) (r : AxiReq) : Bool := decide (fenceScope r = 2) && s.port.lost.contains (r.narrow, r.port)

/-- The fence that the word opens. -/
def newFence (s : State) (r : AxiReq) : FenceSt :=
  ⟨r.narrow, r.port, fenceScope r, if fenceScope r = 2 then portTags s r.narrow r.port else [],
    heldWrites s r, fenceLost s r⟩

/-- The state with the fence open; the lost writes it answers for are no longer on record. -/
def fenceOpened (s : State) (r : AxiReq) : State :=
  { s with port := { s.port with
    fences := s.port.fences ++ [newFence s r]
    lost := if fenceLost s r then s.port.lost.filter (fun k => k != (r.narrow, r.port)) else s.port.lost } }

theorem mem_heldWrites {s : State} {r : AxiReq} {i : Nat} : i ∈ heldWrites s r ↔
    ∃ h ∈ s.port.waiting, h.r.narrow = r.narrow ∧ h.r.port = r.port ∧ h.kind ≠ 0 ∧ h.id = i := by
  simp [heldWrites, and_assoc]

theorem fenceOpened_lost_clears {s : State} {r : AxiReq} (h : fenceLost s r = true) :
    (r.narrow, r.port) ∉ (fenceOpened s r).port.lost := by
  simp [fenceOpened, h]

theorem fenceOpened_lost_keeps {s : State} {r : AxiReq} (h : fenceLost s r = false) :
    (fenceOpened s r).port.lost = s.port.lost := by
  simp [fenceOpened, h]

/-- A write that reaches MM_FENCE is judged by its size and strobes, then by its scope. -/
theorem hostFence_of_reaches {s : State} {r : AxiReq} (h : ReachesFence s r) : hostFence s r =
    if r.len ≠ 4 ∨ r.strb.all id = false then respond (bump s oBadAxiCnt) r slverr [] []
    else if fenceScope r = 3 then respond (bump s oMmFenceErrCnt) r slverr [] []
    else fenceOpened s r := by
  rw [hostFence, if_neg (by simp [h.port]), if_neg (by simp [h.supported, h.unremote, h.space, h.off]),
    if_neg (by simp [h.powered])]
  exact if_congr (by simp) rfl rfl

theorem ReachesFence.gives {s t : State} {r : AxiReq} (h : ReachesFence s r) (ht : hostFence s r = t) {P : State → Prop}
    (hP : P t) : Gives (.hostFence r) s P :=
  ⟨t, by rw [← ht]; exact if_neg (by simp [h.burst]), hP⟩

/-! ### The fence's response (R265, R271) -/

/-- The counter of a fence's response. -/
def fenceCounter (f : FenceSt) : Nat := if f.lost then oMmFenceErrCnt else oMmFenceCnt

/-- The state in which a port's fence has responded: closed, counted and answered. -/
def fenceAnswered (s : State) (narrow : Bool) (p : Nat) (f : FenceSt) : State :=
  respond (bump { s with port := { s.port with fences := s.port.fences.erase f } } (fenceCounter f))
    ⟨p, narrow, fenceAddr, 4, [], [], [], 0, false, 0, false⟩ (if f.lost then slverr else okay) [] []

section
variable {s : State} {narrow : Bool} {p : Nat} {f : FenceSt}

theorem fenceRespond_none (h : s.port.fences = []) : fenceRespond s narrow p = s := by
  rw [fenceRespond, h, List.find?_nil]

theorem fenceRespond_waits (h : s.port.fences.find? (fun f => f.narrow == narrow && f.port == p) = some f)
    (hd : fenceDone s f = false) : fenceRespond s narrow p = s := by
  rw [fenceRespond, h]
  simp [hd]

theorem fenceRespond_answers (h : s.port.fences.find? (fun f => f.narrow == narrow && f.port == p) = some f)
    (ho : s.boot.opened = true) (hd : fenceDone s f = true) :
    fenceRespond s narrow p = fenceAnswered s narrow p f := by
  rw [fenceRespond, h]
  cases hl : f.lost <;> simp [ho, hd, hl, fenceAnswered, fenceCounter]

theorem regGet_fenceAnswered (o : Nat) : regGet (fenceAnswered s narrow p f) o =
    if o = fenceCounter f then min (regGet s (fenceCounter f) + 1) 0xFFFFFFFF else regGet s o :=
  regGet_bump { s with port := { s.port with fences := s.port.fences.erase f } } (fenceCounter f) o

end

/-! ### The two commands -/

/-- Settles O46: a write to MM_FENCE by its size, strobes and scope; a response by what its fence waits for. -/
theorem fencesRespondOnceTheirWritesArePerformed : Obligations.FencesRespondOnceTheirWritesArePerformed := by
  refine ⟨fun s r hb hx hp hu hr h2 ho => ?write,
    fun s narrow p f hf ho => ⟨fun hd => ⟨_, rfl, ?answer⟩, fun hd => ⟨_, rfl, fenceRespond_waits hf hd⟩⟩,
    fun s narrow p h => ⟨_, rfl, fenceRespond_none h⟩⟩
  case write =>
    have h : ReachesFence s r := ⟨hb, hx, hp, hu, hr, h2, ho⟩
    have hfence := hostFence_of_reaches h
    refine ⟨fun hpart => ?part, fun hlen hstrb h3 => ?reserved, fun hlen hstrb h3 => ?opens⟩
    case part => exact h.gives (hfence.trans (if_pos hpart)) (onlyResponds_respond_bump ..)
    all_goals rw [if_neg (by simp [hlen, hstrb])] at hfence
    case reserved => exact h.gives (hfence.trans (if_pos h3)) (onlyResponds_respond_bump ..)
    case opens =>
      exact h.gives (hfence.trans (if_neg h3)) ⟨rfl, ⟨heldWrites s r, rfl, fun i => mem_heldWrites⟩,
        fenceOpened_lost_clears, fenceOpened_lost_keeps⟩
  case answer =>
    rw [fenceRespond_answers hf ho hd]
    exact ⟨rfl, respOf_respond .., (regGet_fenceAnswered _).trans (if_pos rfl),
      fun o ho => (regGet_fenceAnswered o).trans (if_neg ho)⟩

/-! ### Concrete fences -/

/-- A write to MM_FENCE through data port 0, of a scope, a size and strobes. -/
def fenceWrite (scope : BitVec 8) (len : Nat) (strb : List Bool) : AxiReq :=
  ⟨0, false, fenceAddr, len, [scope, 0, 0, 0], strb, [], 0, false, 0, false⟩

/-- The open ports with write 3, read 4 and atomic 5 of data port 0 and write 6 of data port 1 held, a write of port 0 to
another chip outstanding under tag 7, a write of port 0 lost, and two fences: of port 0 over writes 3 and 5 and tag 7, and
of port 1 over nothing. -/
def heldReset : State :=
  { openedReset with port := { PortSt.reset with
      waiting := [⟨3, 1, onesBurst⟩, ⟨4, 0, onesBurst⟩, ⟨5, 2, onesBurst⟩, ⟨6, 1, { onesBurst with port := 1 }⟩]
      outst := [⟨7, 1, 0x39, 0, .hostWrite onesBurst⟩], lost := [(false, 0)]
      fences := [⟨false, 0, 2, [7], [3, 5], true⟩, ⟨false, 1, 1, [], [], false⟩] } }

/-- The two fences once everything of port 0 is performed: port 0's answers for a lost write. -/
def performedReset : State :=
  { openedReset with port := { PortSt.reset with fences := heldReset.port.fences } }

theorem baddrOf_fenceAddr : baddrOf fenceAddr = ⟨false, 0, 2, 0x2600⟩ := by decide

/-- Half a word, a word without one of its bytes, and the reserved scope are refused, each with its count. -/
theorem refusedFences_heldReset :
    Gives (.hostFence (fenceWrite 2 2 [])) heldReset (fun t =>
        respOf t false 0 = some ⟨slverr, [], []⟩ ∧ regGet t oBadAxiCnt = 1) ∧
      Gives (.hostFence (fenceWrite 2 4 [true, true, true, false])) heldReset (fun t =>
        respOf t false 0 = some ⟨slverr, [], []⟩ ∧ regGet t oBadAxiCnt = 1) ∧
      Gives (.hostFence (fenceWrite 3 4 [])) heldReset (fun t =>
        respOf t false 0 = some ⟨slverr, [], []⟩ ∧ regGet t oMmFenceErrCnt = 1) := by
  obtain ⟨writes, -⟩ := fencesRespondOnceTheirWritesArePerformed
  have clauses (scope : BitVec 8) (len : Nat) (strb : List Bool) (hb : axiBroken (fenceWrite scope len strb) = false) :=
    writes heldReset (fenceWrite scope len strb) hb rfl rfl rfl (congrArg BAddr.remote baddrOf_fenceAddr)
      (congrArg BAddr.space baddrOf_fenceAddr) (congrArg BAddr.off baddrOf_fenceAddr)
  obtain ⟨size, -⟩ := clauses 2 2 [] rfl
  obtain ⟨strobes, -⟩ := clauses 2 4 [true, true, true, false] rfl
  obtain ⟨-, reserved, -⟩ := clauses 3 4 [] rfl
  exact ⟨(size (.inl (by decide))).imp fun t ⟨hresp, hcount⟩ => ⟨hresp.2.1, hcount.trans (by decide)⟩,
    (strobes (.inr rfl)).imp fun t ⟨hresp, hcount⟩ => ⟨hresp.2.1, hcount.trans (by decide)⟩,
    (reserved rfl rfl rfl).imp fun t ⟨hresp, hcount⟩ => ⟨hresp.2.1, hcount.trans (by decide)⟩⟩

/-- A SYSTEM fence of port 0 covers the held writes 3 and 5 but neither the read nor the other port's write, waits for tag 7
and takes over the lost write; a BLOCK fence waits for no tag and leaves the lost write for the next SYSTEM one. -/
theorem openedFences_heldReset :
    Gives (.hostFence (fenceWrite 2 4 [])) heldReset (fun t => (false, 0) ∉ t.port.lost ∧
        ∃ held, ⟨false, 0, 2, [7], held, true⟩ ∈ t.port.fences ∧ 3 ∈ held ∧ 4 ∉ held ∧ 5 ∈ held ∧ 6 ∉ held) ∧
      Gives (.hostFence (fenceWrite 1 4 [])) heldReset (fun t => t.port.lost = [(false, 0)] ∧
        ∃ held, ⟨false, 0, 1, [], held, false⟩ ∈ t.port.fences) := by
  obtain ⟨writes, -⟩ := fencesRespondOnceTheirWritesArePerformed
  obtain ⟨-, -, system⟩ := writes heldReset (fenceWrite 2 4 []) rfl rfl rfl rfl rfl rfl rfl
  obtain ⟨-, -, block⟩ := writes heldReset (fenceWrite 1 4 []) rfl rfl rfl rfl rfl rfl rfl
  refine ⟨(system rfl rfl (by decide)).imp fun t ⟨_, ⟨held, hfences, hmem⟩, hclears, _⟩ => ⟨hclears rfl, held, ?_⟩,
    (block rfl rfl (by decide)).imp fun t ⟨_, ⟨held, hfences, _⟩, _, hkeeps⟩ => ⟨hkeeps rfl, held, ?_⟩⟩
  · exact ⟨hfences ▸ List.mem_append_right _ List.mem_cons_self, (hmem 3).2 (by decide), mt (hmem 4).1 (by decide),
      (hmem 5).2 (by decide), mt (hmem 6).1 (by decide)⟩
  · exact hfences ▸ List.mem_append_right _ List.mem_cons_self

/-- The fence of port 0 waits for its writes while that of port 1 responds OKAY; with its writes performed it answers SLVERR
for the lost one; without a fence nothing responds. -/
theorem responses_heldReset :
    Gives (.fenceResponse false 0) heldReset (· = heldReset) ∧
      Gives (.fenceResponse false 1) heldReset (fun t =>
        respOf t false 1 = some ⟨okay, [], []⟩ ∧ regGet t oMmFenceCnt = 1 ∧ regGet t oMmFenceErrCnt = 0) ∧
      Gives (.fenceResponse false 0) performedReset (fun t =>
        respOf t false 0 = some ⟨slverr, [], []⟩ ∧ regGet t oMmFenceErrCnt = 1 ∧ regGet t oMmFenceCnt = 0) ∧
      Gives (.fenceResponse false 0) openedReset (· = openedReset) := by
  obtain ⟨-, responds, unfenced⟩ := fencesRespondOnceTheirWritesArePerformed
  obtain ⟨-, waits⟩ := responds heldReset false 0 _ rfl rfl
  obtain ⟨performed, -⟩ := responds heldReset false 1 _ rfl rfl
  obtain ⟨loses, -⟩ := responds performedReset false 0 _ rfl rfl
  exact ⟨waits (by decide),
    (performed (by decide)).imp fun t ⟨_, hresp, hcount, hother⟩ =>
      ⟨hresp, hcount.trans (by decide), (hother _ (by decide)).trans (by decide)⟩,
    (loses (by decide)).imp fun t ⟨_, hresp, hcount, hother⟩ =>
      ⟨hresp, hcount.trans (by decide), (hother _ (by decide)).trans (by decide)⟩,
    unfenced openedReset false 0 rfl⟩

end Sys2Proof.Spec

/-!
PROOF. Leat descriptors (O47).
-/
namespace Sys2Proof.Spec

open Sys2Proof Sys2Proof.Machine

/-! ### Engines and scratch -/

/-- A write of scratch reaches the memories alone. -/
theorem scrWrite_only (s : State) (o : Nat) (bs : List Byte) :
    scrWrite s o bs = { s with mem := (scrWrite s o bs).mem } := by
  unfold scrWrite
  split <;> rfl

/-- Nor do two writes reach more. -/
theorem scrWrite_scrWrite_only (s : State) (o p : Nat) (bs cs : List Byte) :
    scrWrite (scrWrite s o bs) p cs = { s with mem := (scrWrite (scrWrite s o bs) p cs).mem } := by
  refine (scrWrite_only ..).trans ?_
  rw [scrWrite_only s]

@[simp] theorem scrWrite_leat (s : State) (o : Nat) (bs : List Byte) : (scrWrite s o bs).leat = s.leat := by
  rw [scrWrite_only]

@[simp] theorem scrWrite_sl (s : State) (o : Nat) (bs : List Byte) : (scrWrite s o bs).sl = s.sl := by
  rw [scrWrite_only]

@[simp] theorem leatBase_scrWrite (s : State) (o : Nat) (bs : List Byte) (e : Nat) :
    leatBase (scrWrite s o bs) e = leatBase s e := by
  rw [scrWrite_only]
  rfl

theorem leatAt_leatEngMod {s : State} {e : Nat} (h : e < s.leat.length) (f : Leat → Leat) (p : Nat) :
    leatAt (leatEngMod s e f) p = if p = e then f (leatAt s e) else leatAt s p :=
  getD_modAt s.leat e p f Leat.reset h

theorem leatAt_congr {s t : State} (h : t.leat = s.leat) (p : Nat) : leatAt t p = leatAt s p := by
  rw [leatAt, h, leatAt]

/-! ### Taking the next descriptor (R275, R278, R279) -/

/-- A ring with a descriptor to consume belongs to one of the sixteen engines. -/
theorem leatReady_lt {s : State} {e : Nat} (h : leatReady s e = true) : e < 16 := by
  simp only [leatReady, Bool.and_eq_true, decide_eq_true_eq] at h
  obtain ⟨⟨⟨⟨⟨he, -⟩, -⟩, -⟩, -⟩, -⟩ := h
  exact he

theorem exec_leatRow (s : State) (e : Nat) : ∀ x ∈ leatRow e, exec x.1 s = .next (leatStart s e x.2) :=
  List.forall_iff_forall_mem.1 ⟨rfl, rfl, rfl, rfl, rfl, rfl, rfl⟩

theorem leatStart_waits {s : State} {e : Nat} (kind : Nat)
    (h : leatReady s e = false ∨ leatMayStart s e (leatNext s e) = false) : leatStart s e kind = s := by
  rcases h with hready | hmay
  · simp [leatStart, hready]
  · simp [leatStart, hmay]

/-- A descriptor of the row's kind that may start is taken, and then runs, behind its gates when it has some. -/
theorem leatStart_takes {s : State} {e kind : Nat} (hready : leatReady s e = true)
    (hmay : leatMayStart s e (leatNext s e) = true) (hkind : ldKind (leatNext s e) = kind) :
    leatStart s e kind = if kind = 6 then tryGates (leatTaken s e kind) e ((leatAt s e).consumed % 2 ^ 32)
      else leatRun (leatTaken s e kind) e ((leatAt s e).consumed % 2 ^ 32) := by
  rw [leatStart, if_neg (by simp [hready]), if_neg (by simp [hmay, hkind])]
  rfl

/-- The descriptor an engine takes, as it stands when it becomes active. -/
def takenDesc (s : State) (e kind : Nat) : LeatDesc :=
  ⟨(leatAt s e).consumed % 2 ^ 32, leatNext s e, 0, 0, 0, false, [], false, 0, decide (kind = 6) && leatLegal (leatNext s e),
    none, if leatLegal (leatNext s e) then none else some 1, (leatAt s e).sail⟩

theorem leatAt_leatTaken {s : State} {e : Nat} (h : e < s.leat.length) (kind p : Nat) :
    leatAt (leatTaken s e kind) p = if p = e then { leatAt s e with
      consumed := (leatAt s e).consumed % 2 ^ 32 + 1, active := (leatAt s e).active ++ [takenDesc s e kind] }
      else leatAt s p := by
  unfold leatTaken
  rw [leatAt_congr (scrWrite_leat ..), leatAt_leatEngMod h]
  rfl

theorem leatFind_leatTaken {s : State} {e : Nat} (h : e < s.leat.length) (kind : Nat)
    (hnew : ∀ x ∈ (leatAt s e).active, x.n ≠ (leatAt s e).consumed % 2 ^ 32) :
    leatFind (leatTaken s e kind) e ((leatAt s e).consumed % 2 ^ 32) = some (takenDesc s e kind) := by
  have hnone : (leatAt s e).active.find? (fun x => x.n == (leatAt s e).consumed % 2 ^ 32) = none :=
    List.find?_eq_none.2 fun x hx => by simpa using hnew x hx
  rw [leatFind, leatAt_leatTaken h, if_pos rfl]
  exact (List.find?_append ..).trans (by rw [hnone]; simp [takenDesc])

/-! ### Descriptors that do not run -/

/-- A descriptor with a status no longer runs. -/
theorem leatRun_done {s : State} {e n : Nat} {x : LeatDesc} (hx : leatFind s e n = some x) (hdone : x.status.isSome = true) :
    leatRun s e n = s := by
  rw [leatRun, hx]
  show leatGo e n (leatFuel x.d) s = s
  cases leatFuel x.d with
  | zero => rfl
  | succ fuel => simp [leatGo, hx, hdone]

/-- Nor does it read its gates. -/
theorem tryGates_done {s : State} {e n : Nat} {x : LeatDesc} (hx : leatFind s e n = some x) (hdone : x.status.isSome = true) :
    tryGates s e n = s := by
  simp [tryGates, hx, hdone]

/-! ### Gates (R286) -/

/-- What the gates of a descriptor read, the second only behind an open first, and the state that reading leaves. -/
def gatesRead (s : State) (e : Nat) (x : LeatDesc) : Option Bool × State :=
  let g := gateOpen s e x (ldAux0 x.d) (ldAux1 x.d)
  match g.1 with
  | some true => if ldSscale x.d = 0 then (some true, g.2) else gateOpen g.2 e x (ldSscale x.d) (ldDscale x.d)
  | o => (o, g.2)

/-- The words read for a gate are not kept for the next reading. -/
def readDropped (s : State) (e n : Nat) : State := leatMod s e n (fun y => { y with staged := [] })

/-- What becomes of a descriptor by what its gates read: it starts, waits on, or stands as the reading left it. -/
def gatesFound (e n : Nat) (g : Option Bool × State) : State :=
  match g.1 with
  | some true => leatRun (leatMod (readDropped g.2 e n) e n (fun y => { y with waiting := false })) e n
  | some false => readDropped g.2 e n
  | none => g.2

/-- A gated descriptor that waits, neither done nor suspended, on an engine that is not pre-empted. -/
structure AwaitsGates (s : State) (e n : Nat) (x : LeatDesc) : Prop where
  found : leatFind s e n = some x
  running : x.status = none
  unsuspended : x.token = none
  waiting : x.waiting = true
  gated : ldKind x.d = 6
  released : (leatAt s e).preempt = false

theorem tryGates_awaits {s : State} {e n : Nat} {x : LeatDesc} (h : AwaitsGates s e n x) :
    tryGates s e n = gatesFound e n (gatesRead s e x) := by
  rw [tryGates, h.found]
  simp only [h.running, h.unsuspended, h.waiting, h.gated, h.released]
  rfl

theorem gatesRead_shut {s : State} {e : Nat} {x : LeatDesc} (h : (gateOpen s e x (ldAux0 x.d) (ldAux1 x.d)).1 = some false) :
    gatesRead s e x = (some false, (gateOpen s e x (ldAux0 x.d) (ldAux1 x.d)).2) := by
  simp [gatesRead, h]

theorem gatesRead_single {s : State} {e : Nat} {x : LeatDesc} (h : (gateOpen s e x (ldAux0 x.d) (ldAux1 x.d)).1 = some true)
    (h2 : ldSscale x.d = 0) : gatesRead s e x = (some true, (gateOpen s e x (ldAux0 x.d) (ldAux1 x.d)).2) := by
  simp [gatesRead, h, h2]

theorem gatesRead_second {s : State} {e : Nat} {x : LeatDesc} (h : (gateOpen s e x (ldAux0 x.d) (ldAux1 x.d)).1 = some true)
    (h2 : ldSscale x.d ≠ 0) : gatesRead s e x =
      gateOpen (gateOpen s e x (ldAux0 x.d) (ldAux1 x.d)).2 e x (ldSscale x.d) (ldDscale x.d) := by
  simp [gatesRead, h, h2]

/-! ### The limit of a wait (R286, R289) -/

theorem leatTimeout_expired {s : State} {e n : Nat} {x : LeatDesc} (hx : leatFind s e n = some x) (hs : x.status = none)
    (hw : x.waiting = true) (h0 : regGet s oLeatWaitTmo % 2 ^ 16 ≠ 0) (hl : regGet s oLeatWaitTmo % 2 ^ 16 ≤ x.waited) :
    leatTimeout s e n = leatFinish s e n 4 := by
  rw [leatTimeout, hx]
  exact if_pos (by simpa [hs, hw] using ⟨h0, hl⟩)

theorem leatTimeout_unexpired {s : State} {e n : Nat} {x : LeatDesc} (hx : leatFind s e n = some x)
    (h : x.waiting = false ∨ regGet s oLeatWaitTmo % 2 ^ 16 = 0 ∨ x.waited < regGet s oLeatWaitTmo % 2 ^ 16) :
    leatTimeout s e n = s := by
  rw [leatTimeout, hx]
  refine if_neg fun hall => ?_
  simp only [Bool.and_eq_true, decide_eq_true_eq, bne_iff_ne] at hall
  obtain ⟨⟨⟨hw, -⟩, h0⟩, hl⟩ := hall
  rcases h with h | h | h
  · exact Bool.false_ne_true (h.symm.trans hw)
  · exact h0 h
  · omega

/-! ### Completion (R279, R280) -/

/-- The state with a descriptor's completion record written and the completion count of its ring after it. -/
def recordWritten (s : State) (e n st : Nat) (x : LeatDesc) : State :=
  scrWrite (scrWrite s (leatBase s e + 0x21000 + 16 * ((leatAt s e).completed % 1024))
      (leBytes 4 n ++ leBytes 1 st ++ leBytes 1 (x.flags.toNat % 64) ++ zeroBytes 2 ++ leBytes 8 x.bytes))
    (leatBase s e + 0x20080) (leBytes 4 (((leatAt s e).completed + 1) % 2 ^ 32))

/-- A status other than 0x00 and 0x03 is counted in LEAT_ERR_CNT (R300). -/
def errCounted (s : State) (st : Nat) : State := if [1, 2, 4, 5, 6].contains st then bump s oLeatErrCnt else s

/-- The Leat interrupt, raised where the descriptor asks for it. -/
def leatIrq (s : State) (d : List Byte) : State := if bitOf (ldCtl d) 2 = true then irqSet s irqLeat else s

/-- A descriptor leaves its engine, which has completed `c`; its error and its interrupt are noted. -/
def descEnded (s : State) (e n c st : Nat) (d : List Byte) : State :=
  leatIrq (errCounted (leatEngMod s e (fun g => { g with
    completed := c, active := g.active.filter (fun y => y.n != n) })) st) d

theorem recordWritten_only (s : State) (e n st : Nat) (x : LeatDesc) :
    recordWritten s e n st x = { s with mem := (recordWritten s e n st x).mem } :=
  scrWrite_scrWrite_only ..

theorem leatIrq_errCounted_only (s : State) (st : Nat) (d : List Byte) :
    leatIrq (errCounted s st) d = { s with regs := (leatIrq (errCounted s st) d).regs } := by
  unfold leatIrq errCounted
  split <;> split <;> rfl

/-- A frame of registers, memories and engines, read from the values they take. -/
theorem regs_mem_leat_only {s t : State} {regs : Store (BitVec 32)} {mem : MemSt} {leat : List Leat}
    (h : t = { s with regs := regs, mem := mem, leat := leat }) :
    t.mem = mem ∧ t = { s with regs := t.regs, mem := t.mem, leat := t.leat } := by
  subst h
  exact ⟨rfl, rfl⟩

theorem regGet_errCounted (s : State) (st : Nat) : regGet (errCounted s st) oLeatErrCnt =
    if st ∈ [1, 2, 4, 5, 6] then min (regGet s oLeatErrCnt + 1) 0xFFFFFFFF else regGet s oLeatErrCnt := by
  simp only [errCounted, List.contains_iff_mem]
  split
  · exact (regGet_bump ..).trans (if_pos rfl)
  · rfl

theorem bitOf_leatIrq (s : State) {d : List Byte} (h : bitOf (ldCtl d) 2 = true) :
    bitOf (regGet (leatIrq s d) oIrqStatus) irqLeat = true := by
  rw [leatIrq, if_pos h]
  exact bitOf_regOr s oIrqStatus irqLeat (by decide)

theorem regGet_leatIrq (s : State) (d : List Byte) {o : Nat} (h : o ≠ oIrqStatus) :
    regGet (leatIrq s d) o = regGet s o := by
  unfold leatIrq
  split
  · exact (regGet_regOr ..).trans (if_neg h)
  · rfl

section
variable {s u : State} (hrec : u = { s with mem := u.mem })
include hrec

/-- The end of a descriptor whose record is written reaches registers and engines besides. -/
theorem descEnded_only (e n c st : Nat) (d : List Byte) :
    (descEnded u e n c st d).mem = u.mem ∧ descEnded u e n c st d = { s with
      regs := (descEnded u e n c st d).regs, mem := (descEnded u e n c st d).mem
      leat := (descEnded u e n c st d).leat } := by
  obtain ⟨mem, rfl⟩ : ∃ mem, u = { s with mem := mem } := ⟨_, hrec⟩
  exact regs_mem_leat_only (leatIrq_errCounted_only ..)

theorem leatAt_descEnded {e : Nat} (h : e < s.leat.length) (n c st : Nat) (d : List Byte) (p : Nat) :
    leatAt (descEnded u e n c st d) p = if p = e then { leatAt s e with
      completed := c, active := (leatAt s e).active.filter (fun y => y.n != n) } else leatAt s p := by
  have hleat : (descEnded u e n c st d).leat = (leatEngMod s e (fun g => { g with
      completed := c, active := g.active.filter (fun y => y.n != n) })).leat := by
    rw [descEnded, leatIrq_errCounted_only, hrec]
    rfl
  exact (leatAt_congr hleat p).trans (leatAt_leatEngMod h _ p)

theorem regGet_descEnded (e n c st : Nat) (d : List Byte) : regGet (descEnded u e n c st d) oLeatErrCnt =
    if st ∈ [1, 2, 4, 5, 6] then min (regGet s oLeatErrCnt + 1) 0xFFFFFFFF else regGet s oLeatErrCnt := by
  obtain ⟨mem, rfl⟩ : ∃ mem, u = { s with mem := mem } := ⟨_, hrec⟩
  exact (regGet_leatIrq _ _ (by decide)).trans (regGet_errCounted ..)

end

/-- With its writes performed, a descriptor with a status is recorded, then ends. -/
theorem leatComplete_done {s : State} {e n st : Nat} {x : LeatDesc} (hx : leatFind s e n = some x) (hst : x.status = some st)
    (hperformed : ∀ o ∈ s.port.outst, o.sink ≠ .leatWrite e n) :
    leatComplete s e n =
      descEnded (recordWritten s e n st x) e n (((leatAt s e).completed + 1) % 2 ^ 32) st x.d := by
  have hout : s.port.outst.any (fun o => o.sink == .leatWrite e n) = false := by simpa using hperformed
  rw [leatComplete, hx]
  dsimp only
  rw [hst]
  dsimp only
  rw [hout, if_neg Bool.false_ne_true, leatBase_scrWrite, descEnded, leatIrq, errCounted, recordWritten]

/-! ### The commands -/

/-- Settles O47: a start, the gates, the limit of a wait and a completion, each by what its engine and descriptor are. -/
theorem leatDescriptorsStartWaitAndComplete : Obligations.LeatDescriptorsStartWaitAndComplete := by
  refine ⟨fun s e cmd kind hinv hrow => ?start, fun s e n x hx hs ht hw hk hp => ?gates,
    fun s e n x hinv he hx hs => ?limit, fun s e n st x hinv he hx hst hout => ?completes⟩
  case start =>
    obtain ⟨-, -, hshape, -⟩ := hinv
    have hexec := exec_leatRow s e _ hrow
    refine ⟨fun hwait => ⟨_, hexec, leatStart_waits kind hwait⟩, fun hready hmay hkind => ?takes,
      fun hready hmay hkind hbreak hnew => ⟨_, hexec, ?refused⟩⟩
    case takes =>
      have htaken := leatAt_leatTaken (engine_lt hshape (leatReady_lt hready)) kind
      rw [htaken e, if_pos rfl]
      exact ⟨⟨_, hexec, leatStart_takes hready hmay hkind⟩, rfl, fun p hp => (htaken p).trans (if_neg hp),
        takenDesc s e kind, rfl, rfl, rfl, rfl, rfl⟩
    case refused =>
      have hfound := leatFind_leatTaken (engine_lt hshape (leatReady_lt hready)) kind hnew
      have hdone : (takenDesc s e kind).status.isSome = true := by simp [takenDesc, hbreak]
      rw [leatStart_takes hready hmay hkind, tryGates_done hfound hdone, leatRun_done hfound hdone, ite_self]
  case gates =>
    have hfound := tryGates_awaits ⟨hx, hs, ht, hw, hk, hp⟩
    refine ⟨fun hopen hone => ⟨_, rfl, ?single⟩, fun hshut => ⟨_, rfl, ?shut⟩, fun g hopen htwo hg =>
      ⟨fun hopen2 => ⟨_, rfl, ?both⟩, fun hshut2 => ⟨_, rfl, ?second⟩⟩⟩
    case single => rw [hfound, gatesRead_single hopen hone]; rfl
    case shut => rw [hfound, gatesRead_shut hshut]; rfl
    case both => rw [hfound, gatesRead_second hopen htwo, hg, gatesFound, hopen2]; rfl
    case second => rw [hfound, gatesRead_second hopen htwo, hg, gatesFound, hshut2]; rfl
  case limit =>
    obtain ⟨-, -, hshape, -⟩ := hinv
    refine ⟨fun hw h0 hl => ⟨_, rfl, ?expired⟩, fun h => ⟨_, rfl, leatTimeout_unexpired hx h⟩⟩
    have hengine := leatAt_leatEngMod (engine_lt hshape he) (fun g => { g with active := g.active.map (fun y =>
      if y.n = n then { y with status := some 4, waiting := false, asked := false, token := none } else y) })
    rw [leatTimeout_expired hx hs hw h0 hl]
    exact ⟨rfl, fun p hp => (hengine p).trans (if_neg hp), (hengine e).trans (if_pos rfl)⟩
  case completes =>
    obtain ⟨-, -, hshape, -⟩ := hinv
    refine ⟨_, rfl, ?_⟩
    rw [leatComplete_done hx hst hout]
    have hrec := recordWritten_only s e n st x
    have hengine (c : Nat) := leatAt_descEnded hrec (engine_lt hshape he) n c st x.d
    have hframe (c : Nat) := descEnded_only hrec e n c st x.d
    exact ⟨(hengine _ e).trans (if_pos rfl), fun p hp => (hengine _ p).trans (if_neg hp), (hframe _).1,
      regGet_descEnded hrec .., bitOf_leatIrq _, (hframe _).2⟩

/-! ### Concrete descriptors -/

/-- A gated descriptor without bytes to move, in the Governor's context 63, which asks for the interrupt: gate 1 is the
scratch word at 0x40 and opens at `least`, gate 2 the word at `gate2`, if any, and opens at `least2`. -/
def gatedDesc (least gate2 least2 : Nat) : List Byte :=
  [6, 5, 63] ++ zeroBytes 21 ++ leBytes 8 gate2 ++ leBytes 8 least2 ++ zeroBytes 72 ++ leBytes 8 (baddrLocal 1 0x40)
    ++ leBytes 8 least

/-- Descriptor `n`, active without progress. -/
def activeDesc (n : Nat) (d : List Byte) (waited : Nat) (status : Option Nat) : LeatDesc :=
  ⟨n, d, 0, 0, 0, false, [], false, waited, status.isNone, none, status, SailPos.reset⟩

/-- Behind a shut gate, at the limit of LEAT_WAIT_TMO; behind an open one, a Turn before it; behind an open and a shut one;
refused. -/
def shutDesc : LeatDesc := activeDesc 0 (gatedDesc 6 0 0) 4096 none
def openDesc : LeatDesc := activeDesc 1 (gatedDesc 5 0 0) 4095 none
def halfOpenDesc : LeatDesc := activeDesc 2 (gatedDesc 5 (baddrLocal 1 0x40) 6) 0 none
def refusedDesc : LeatDesc := activeDesc 3 (gatedDesc 5 0 1) 0 (some 1)

/-- The state after reset with engine 0 enabled and one descriptor of CLASS 0 in its ring, the word 5 at 0x40, and those four
descriptors active on engine 1. -/
def leatReset : State :=
  { regSet State.reset oLeatEn 1 with
    mem := { MemSt.reset with scratch := [(0, 1), (0x40, 5), (0x20000, 1)] }
    leat := modAt State.reset.leat 1 (fun g => { g with active := [shutDesc, openDesc, halfOpenDesc, refusedDesc] }) }

theorem inv_leatReset : Inv leatReset := ⟨by decide, by decide, by decide, by decide⟩

/-- The descriptor of CLASS 0 is consumed and ends at once with status 1; the engine that is not enabled takes none. -/
theorem starts_leatReset :
    Gives (.leatLinear 0) leatReset (fun t => (leatAt t 0).consumed = 1 ∧
        (leatAt t 0).active.map (fun x => (x.n, x.status)) = [(0, some 1)]) ∧
      Gives (.leatGather 1) leatReset (· = leatReset) := by
  obtain ⟨starts, -⟩ := leatDescriptorsStartWaitAndComplete
  obtain ⟨-, -, refused⟩ := starts leatReset 0 (.leatLinear 0) 1 inv_leatReset (by decide)
  obtain ⟨waits, -⟩ := starts leatReset 1 (.leatGather 1) 3 inv_leatReset (by decide)
  exact ⟨(refused (by decide) (by decide) (by decide) (by decide) (by decide)).imp fun t h => by rw [h]; decide,
    waits (.inl (by decide))⟩

/-- With a gate shut, the first or the second, the copy waits on; with its gate open it starts and, with no bytes to move, is
done. -/
theorem gates_leatReset :
    Gives (.haloGateOpen 1 0) leatReset (fun t => (leatFind t 1 0).map (fun x => (x.waiting, x.status)) = some (true, none)) ∧
      Gives (.haloGateOpen 1 1) leatReset (fun t =>
        (leatFind t 1 1).map (fun x => (x.waiting, x.status)) = some (false, some 0)) ∧
      Gives (.haloGateOpen 1 2) leatReset (fun t =>
        (leatFind t 1 2).map (fun x => (x.waiting, x.status)) = some (true, none)) := by
  obtain ⟨-, gates, -⟩ := leatDescriptorsStartWaitAndComplete
  obtain ⟨-, shut, -⟩ := gates leatReset 1 0 shutDesc rfl rfl rfl rfl rfl rfl
  obtain ⟨single, -⟩ := gates leatReset 1 1 openDesc rfl rfl rfl rfl rfl rfl
  obtain ⟨-, -, second⟩ := gates leatReset 1 2 halfOpenDesc rfl rfl rfl rfl rfl rfl
  obtain ⟨-, secondShut⟩ := second _ (by decide) (by decide) rfl
  exact ⟨(shut (by decide)).imp fun t h => by rw [h]; decide,
    (single (by decide) (by decide)).imp fun t h => by rw [h]; decide,
    (secondShut (by decide)).imp fun t h => by rw [h]; decide⟩

/-- The wait at the limit ends with status 4 and the one before it goes on; the refused descriptor is recorded, counted as an
error and gone, with the interrupt raised. -/
theorem ends_leatReset :
    Gives (.leatWaitTimeout 1 0) leatReset (fun t =>
        (leatFind t 1 0).map (fun x => (x.waiting, x.status)) = some (false, some 4)) ∧
      Gives (.leatWaitTimeout 1 1) leatReset (· = leatReset) ∧
      Gives (.leatComplete 1 3) leatReset (fun t => leatFind t 1 3 = none ∧ (leatAt t 1).completed = 1 ∧
        regGet t oLeatErrCnt = 1 ∧ bitOf (regGet t oIrqStatus) irqLeat = true) := by
  obtain ⟨-, -, limits, completes⟩ := leatDescriptorsStartWaitAndComplete
  obtain ⟨expired, -⟩ := limits leatReset 1 0 shutDesc inv_leatReset (by decide) rfl rfl
  obtain ⟨-, unexpired⟩ := limits leatReset 1 1 openDesc inv_leatReset (by decide) rfl rfl
  refine ⟨(expired rfl (by decide) (by decide)).imp fun t ⟨_, _, hengine⟩ => ?_, unexpired (.inr (.inr (by decide))),
    (completes leatReset 1 3 1 refusedDesc inv_leatReset (by decide) rfl rfl (by decide)).imp
      fun t ⟨hengine, _, _, hcount, hirq, _⟩ =>
        ⟨?_, congrArg Leat.completed hengine, hcount.trans (by decide), hirq (by decide)⟩⟩
  all_goals
    rw [leatFind, hengine]
    decide

end Sys2Proof.Spec

/-!
PROOF. Sluice faults and their resumption (O48).
-/
namespace Sys2Proof.Spec

open Sys2Proof Sys2Proof.Machine

/-! ### An access presented to the Sluice (R297, R298) -/

theorem sluiceFault_ok {s : State} {a : SlAccess} {p : Nat} (h : (sluice s a.ctx a.va a.write).1 = .ok p) :
    sluiceFault s a = s := by
  obtain ⟨u, hz⟩ : ∃ u, sluice s a.ctx a.va a.write = (.ok p, u) := ⟨_, Prod.ext h rfl⟩
  rw [sluiceFault, hz]

theorem sluiceFault_faults {s : State} {a : SlAccess} {ty lv : Nat}
    (h : (sluice s a.ctx a.va a.write).1 = .fault ty lv) :
    sluiceFault s a = suspendFor (sluice s a.ctx a.va a.write).2 a ty lv := by
  obtain ⟨u, hz⟩ : ∃ u, sluice s a.ctx a.va a.write = (.fault ty lv, u) := ⟨_, Prod.ext h rfl⟩
  rw [sluiceFault, hz]

theorem suspendFor_quern {u : State} {a : SlAccess} (ty lv : Nat) (hreq : a.req = 1)
    (hruns : quernRuns u (mapOf u a.u) = true) (hctx : itemCtx u (mapOf u a.u) = a.ctx) :
    suspendFor u a ty lv = suspendQ u (mapOf u a.u) a.va a.write ty lv := by
  rw [suspendFor, hreq]
  exact if_pos (by simp [hruns, hctx])

theorem suspendFor_leat {u : State} {a : SlAccess} {x : LeatDesc} (ty lv : Nat) (hreq : a.req = 0)
    (hx : leatSuspendable u a.u a.ctx = some x) : suspendFor u a ty lv =
      leatMod (raiseFault u a ty lv x.n).2 a.u x.n (fun y => { y with token := some u.sl.nextToken }) := by
  rw [suspendFor, hreq]
  simp only [hx]
  rfl

/-- A suspended work item is entered in the Sluice under the next token, with its fault record (R297). -/
theorem suspendQ_sl {u : State} {q ctx : Nat} (hctx : itemCtx u q = ctx) (va : Nat) (write : Bool) (ty lv : Nat) :
    (suspendQ u q va write ty lv).sl.nextToken = (u.sl.nextToken + 1) % 2 ^ 16 ∧
      (suspendQ u q va write ty lv).sl.susp =
        u.sl.susp ++ [⟨u.sl.nextToken, ⟨1, logicalOf u q, ctx, va, write⟩⟩] ∧
      (suspendQ u q va write ty lv).sl.recs.length = u.sl.recs.length + 1 := by
  subst hctx
  exact ⟨rfl, rfl, List.length_append⟩

/-! ### The fault ring (R297) -/

theorem recordWrite_full {s : State} (h : faultRingRoom s = false) : recordWrite s = s := by
  unfold recordWrite
  split
  · rfl
  · simp [h]

/-- The oldest record of a requester that is not the Governor's is written while the ring has room. -/
theorem recordWrite_room {s : State} {r : List Byte} {rest : List (List Byte)} (hr : s.sl.recs = r :: rest)
    (hroom : faultRingRoom s = true) (hgov : bitOf (leAt r 0xA 1) 7 = false) : recordWrite s =
      bump { scrWrite (scrWrite s (baseOf s oSlFaultBase + s.sl.prod % 1024 * 32) r) (baseOf s oSlFaultBase + 0x8000)
          (leBytes 4 ((s.sl.prod + 1) % 2 ^ 32)) with
        sl := { s.sl with recs := rest, prod := (s.sl.prod + 1) % 2 ^ 32 } } oSlFaultCnt := by
  simp only [recordWrite, hr, hroom, hgov, writeFaultRecord, if_true, Bool.false_eq_true, if_false, scrWrite_sl]

/-- A record written: counted, taken from the queue, and the memories as two writes of scratch leave them. -/
theorem ringWritten_frame (s : State) (o p : Nat) (bs cs : List Byte) (sl : SluiceSt) (off : Nat) :
    let t := bump { scrWrite (scrWrite s o bs) p cs with sl := sl } off
    t = { s with regs := t.regs, mem := t.mem, sl := sl } ∧ t.mem = (scrWrite (scrWrite s o bs) p cs).mem ∧
      regGet t off = min (regGet s off + 1) 0xFFFFFFFF := by
  obtain ⟨mem, hmem⟩ : ∃ mem, scrWrite (scrWrite s o bs) p cs = { s with mem := mem } := ⟨_, scrWrite_scrWrite_only ..⟩
  rw [hmem]
  exact ⟨rfl, rfl, (regGet_bump ..).trans (if_pos rfl)⟩

/-! ### RETRY and DISCARD (R299) -/

/-- A token that suspends nothing is counted, whichever the action. -/
theorem slRetry_unknown {s : State} {token : Nat} (h : s.sl.susp.find? (fun x => x.token == token) = none) :
    slRetry s token = bump s oSlResumeRejCnt := by
  rw [slRetry, h]

theorem slDiscard_unknown {s : State} {token : Nat} (h : s.sl.susp.find? (fun x => x.token == token) = none) :
    slDiscard s token = bump s oSlResumeRejCnt := by
  rw [slDiscard, h]

theorem dropToken_susp (s : State) (token : Nat) : ∀ y ∈ (dropToken s token).sl.susp, y.token ≠ token := by
  intro y hy
  simpa using (List.mem_filter.1 hy).2

/-- The Quern a token suspends is one of the 36. -/
theorem tokenQuern_lt {s : State} {token q : Nat} (h : tokenQuern s token = some q) : q < 36 :=
  List.mem_range.1 (List.mem_of_find?_eq_some h)

section
variable {s : State} {token q : Nat} {x : Susp} (hx : s.sl.susp.find? (fun x => x.token == token) = some x)
  (hreq : x.access.req = 1) (hq : tokenQuern s token = some q) (hstate : (qnAt s q).state = 2)
include hx hreq hq hstate

theorem slRetry_quern : slRetry s token = retryQ (dropToken s token) q := by
  have hq' : tokenQuern (dropToken s token) token = some q := hq
  have hstate' : (qnAt (dropToken s token) q).state = 2 := hstate
  simp [slRetry, hx, hreq, hq', hstate']

theorem slDiscard_quern : slDiscard s token = discardQ (dropToken s token) q := by
  have hq' : tokenQuern (dropToken s token) token = some q := hq
  have hstate' : (qnAt (dropToken s token) q).state = 2 := hstate
  simp [slDiscard, hx, hreq, hq', hstate']

end

/-- Without a transfer under way, RETRY issues the Quern's instruction again. -/
theorem retryQ_noTransfer {u : State} {q : Nat} (h : q < u.qn.q.length) (hxfers : (qnAt u q).xfers = []) :
    retryQ u q = qnMod u q (fun n => { n with state := 1, trap := 0, token := none }) := by
  have hempty := congrArg Quern.xfers (onlyQuern_qnMod h (fun n => { n with state := 1, trap := 0, token := none })).2
  rw [retryQ]
  simp only [hempty, hxfers]
  rfl

/-- DISCARD ends suspensions and begins none. -/
theorem discardQ_susp {u : State} {q : Nat} (hlt : q < u.qn.q.length) (h : (qnAt u q).state = 2) :
    ∀ y ∈ (discardQ u q).sl.susp, y ∈ u.sl.susp := by
  have hsl : (discardQ u q).sl = (suspensionEnded u q).sl := by
    rw [discardQ_halted hlt h, (markFault_only _).1]
    rfl
  rw [hsl, suspensionEnded]
  cases (qnAt u q).token with
  | none => exact fun y hy => hy
  | some token => exact fun y hy => List.mem_of_mem_filter hy

/-! ### The commands -/

/-- Settles O48: an access by what its translation gives, a record by the ring's room, a resumption by its token, and the
progress of an invalidation. -/
theorem translationFaultsSuspendAndResume : Obligations.TranslationFaultsSuspendAndResume := by
  refine ⟨fun s a hinv => ⟨fun p hok => ⟨_, rfl, sluiceFault_ok hok⟩, fun ty lv hfault hreq hruns hctx => ⟨_, rfl, ?quern⟩,
      fun ty lv x hfault hreq hx => ⟨_, rfl, ?leat⟩⟩,
    fun s r rest hr => ⟨fun hroom hgov => ⟨_, rfl, ?record⟩, fun hfull => ⟨_, rfl, recordWrite_full hfull⟩⟩,
    fun s token hx => ⟨⟨_, rfl, ?retryUnknown⟩, ⟨_, rfl, ?discardUnknown⟩⟩,
    fun s token q x hinv hx hreq hq hstate => ?resume,
    fun s ctx => ⟨⟨_, rfl, rfl⟩, ⟨_, rfl, rfl⟩, ⟨_, rfl, rfl⟩⟩⟩
  case quern =>
    rw [sluiceFault_faults hfault, suspendFor_quern ty lv hreq hruns hctx]
    have hsuspended := suspendQ_quern (quernRuns_lt hruns) a.va a.write ty lv
    exact ⟨congrArg Quern.state hsuspended, congrArg Quern.trap hsuspended, congrArg Quern.token hsuspended,
      suspendQ_sl hctx ..⟩
  case leat =>
    rw [sluiceFault_faults hfault, suspendFor_leat ty lv hreq hx]
    exact ⟨rfl, rfl, rfl⟩
  case record =>
    rw [recordWrite_room hr hroom hgov]
    exact ringWritten_frame ..
  case retryUnknown =>
    rw [slRetry_unknown hx]
    exact oneReg_bump s _
  case discardUnknown =>
    rw [slDiscard_unknown hx]
    exact oneReg_bump s _
  case resume =>
    obtain ⟨-, -, hshape, -⟩ := hinv
    have hlt : q < (dropToken s token).qn.q.length := quern_lt hshape (tokenQuern_lt hq)
    refine ⟨fun hxfers => ⟨_, rfl, ?retry⟩, ⟨_, rfl, ?discard⟩⟩
    case retry =>
      rw [slRetry_quern hx hreq hq hstate, retryQ_noTransfer hlt hxfers]
      obtain ⟨⟨-, hothers⟩, hself⟩ := onlyQuern_qnMod hlt (fun n => { n with state := 1, trap := 0, token := none })
      exact ⟨rfl, hothers, hself, dropToken_susp s token⟩
    case discard =>
      rw [slDiscard_quern hx hreq hq hstate]
      exact ⟨rfl, congrArg Quern.item ((qnAt_discardQ hlt hstate q).trans (if_pos rfl)),
        fun y hy => dropToken_susp s token y (discardQ_susp hlt hstate y hy)⟩

/-! ### Concrete faults -/

/-- A write by logical Quern 0 in context 0, which is not enabled, and a read by engine 1 past the 48 bits of an address. -/
def quernAccess : SlAccess := ⟨1, 0, 0, 0x1000, true⟩
def leatAccess : SlAccess := ⟨0, 1, 63, 2 ^ 48, false⟩

/-- The state after reset with the work item of Quern 0 suspended under token 7, its record waiting as the `prod`-th. -/
def suspendedReset (prod : Nat) : State :=
  { itemReset 2 3 false with
    qn := (qnMod (itemReset 2 3 false) 0 (fun n => { n with token := some 7 })).qn
    sl := { SluiceSt.reset with
      recs := [faultRecord State.reset quernAccess 7 6 0 0], susp := [⟨7, quernAccess⟩], prod := prod } }

theorem inv_suspendedReset (prod : Nat) : Inv (suspendedReset prod) := ⟨rfl, rfl, rfl, Nat.two_pow_pos 48⟩

/-- The Quern and the first descriptor of the engine are suspended under token 0, the engine's other descriptors are not; an
access that the Governor's context maps changes nothing. -/
theorem faults_reset :
    Gives (.sluiceFault quernAccess) (itemReset 1 0 false) (fun t =>
        (qnAt t 0).state = 2 ∧ (qnAt t 0).token = some 0 ∧ t.sl.nextToken = 1 ∧ t.sl.susp = [⟨0, quernAccess⟩]) ∧
      Gives (.sluiceFault leatAccess) leatReset (fun t => t.sl.susp = [⟨0, leatAccess⟩] ∧
        (leatAt t 1).active.map (fun x => x.token) = [some 0, none, none, none]) ∧
      Gives (.sluiceFault { leatAccess with va := 0 }) leatReset (· = leatReset) := by
  obtain ⟨accesses, -⟩ := translationFaultsSuspendAndResume
  obtain ⟨-, quern, -⟩ := accesses (itemReset 1 0 false) quernAccess (inv_itemReset ..)
  obtain ⟨-, -, leat⟩ := accesses leatReset leatAccess inv_leatReset
  obtain ⟨ok, -⟩ := accesses leatReset { leatAccess with va := 0 } inv_leatReset
  refine ⟨(quern 6 0 (by decide) rfl (by decide) (by decide)).imp fun t ⟨hstate, _, htoken, hnext, hsusp, _⟩ =>
      ⟨hstate, htoken.trans (by decide), hnext.trans (by decide), hsusp.trans (by decide)⟩,
    (leat 3 1 shutDesc (by decide) rfl (by decide)).imp fun t ⟨hsusp, _, hengine⟩ =>
      ⟨hsusp.trans (by decide), ?_⟩, ok 0 (by decide)⟩
  rw [show leatAt t 1 = _ from hengine]
  decide

/-- The record is written and counted while the ring has room, and waits while its 1024 places are taken. -/
theorem records_suspendedReset :
    Gives .faultRecordWrite (suspendedReset 0) (fun t =>
        t.sl.recs = [] ∧ t.sl.prod = 1 ∧ regGet t oSlFaultCnt = 1) ∧
      Gives .faultRecordWrite (suspendedReset 1024) (· = suspendedReset 1024) := by
  obtain ⟨-, records, -⟩ := translationFaultsSuspendAndResume
  obtain ⟨writes, -⟩ := records (suspendedReset 0) _ _ rfl
  obtain ⟨-, waits⟩ := records (suspendedReset 1024) _ _ rfl
  exact ⟨(writes (by decide) (by decide)).imp fun t ⟨hframe, _, hcount⟩ =>
      have hsl := congrArg State.sl hframe
      ⟨congrArg SluiceSt.recs hsl, congrArg SluiceSt.prod hsl, hcount.trans (by decide)⟩,
    waits (by decide)⟩

/-- RETRY lets the Quern run again, DISCARD ends its work item, and token 8, which suspends nothing, is counted. -/
theorem resumes_suspendedReset :
    Gives (.slRetry 7) (suspendedReset 0) (fun t => (qnAt t 0).state = 1 ∧ ∀ y ∈ t.sl.susp, y.token ≠ 7) ∧
      Gives (.slDiscard 7) (suspendedReset 0) (fun t => (qnAt t 0).item = none ∧ ∀ y ∈ t.sl.susp, y.token ≠ 7) ∧
      Gives (.slRetry 8) (suspendedReset 0) (fun t => regGet t oSlResumeRejCnt = 1) := by
  obtain ⟨-, -, unknown, resumes, -⟩ := translationFaultsSuspendAndResume
  obtain ⟨retries, discards⟩ :=
    resumes (suspendedReset 0) 7 0 ⟨7, quernAccess⟩ (inv_suspendedReset 0) rfl rfl (by decide) rfl
  obtain ⟨counts, -⟩ := unknown (suspendedReset 0) 8 rfl
  exact ⟨(retries rfl).imp fun t ⟨_, _, hquern, hsusp⟩ => ⟨congrArg Quern.state hquern, hsusp⟩,
    discards.imp fun t ⟨_, hitem, hsusp⟩ => ⟨hitem, hsusp⟩,
    counts.imp fun t ⟨_, hcount, _⟩ => hcount.trans (by decide)⟩

end Sys2Proof.Spec

/-!
PROOF. A step's command and the empty queue (O1, O2, O5).
-/
namespace Sys2Proof.Spec

open Sys2Proof Sys2Proof.Machine

/-- Settles O1: the front of the queue selects the first branch of a step. -/
theorem stepRunsTheFrontCommand : Obligations.StepRunsTheFrontCommand := fun _ _ _ => rfl

/-- The step on an empty queue (R17, log 11). -/
theorem step_emptyQueue {s : State} (h : s.pending = []) :
    step s = .next { s with time := { s.time with cycle := min (s.time.cycle + 1) 2047 } } := by
  rw [step, h]

/-- Settles O2: the cycle moves by one, and the minimum holds it at the Turn's last. -/
theorem emptyQueueStepPassesOneCycle : Obligations.EmptyQueueStepPassesOneCycle := fun _ h =>
  ⟨_, step_emptyQueue h, rfl, rfl, fun hlt => Nat.min_eq_left hlt, fun hlast => by rw [hlast]; rfl⟩

/-- Both bounds of the Turn: its first cycle passes to the next, its last stays. -/
theorem step_firstAndLastCycle :
    (∃ t, step State.reset = .next t ∧ t.time.cycle = 1) ∧
      ∃ t, step { State.reset with time := { TimeSt.reset with cycle := 2047 } } = .next t ∧ t.time.cycle = 2047 := by
  obtain ⟨t, ht, -, -, moves, -⟩ := emptyQueueStepPassesOneCycle State.reset rfl
  obtain ⟨u, hu, -, -, -, stays⟩ :=
    emptyQueueStepPassesOneCycle { State.reset with time := { TimeSt.reset with cycle := 2047 } } rfl
  exact ⟨⟨t, ht, moves (by decide)⟩, ⟨u, hu, stays rfl⟩⟩

/-- Settles O5, from the canonical form of the state after reset. -/
theorem resetHasTheCanonicalForm : Obligations.ResetHasTheCanonicalForm := ⟨inv_reset, rfl⟩

end Sys2Proof.Spec

/-!
PROOF. Reset and start-up (O8, O9, O10).
-/
namespace Sys2Proof.Spec

open Sys2Proof Sys2Proof.Machine

/-! ### Stopping (R373) -/

theorem bitOf_bootStop (s : State) (err : Nat) : bitOf (regGet (bootStop s err) oIrqStatus) irqGov = true :=
  bitOf_regOr _ _ _ (by decide)

/-! ### Reset (R369, R398) -/

theorem doReset_found {n : NorFind} (s : State) (hsig : n.signature = true) (hfour : n.fourByte = true) :
    doReset s n = { coldReset s with boot := { State.reset.boot with octal := n.octal } } := by
  rw [doReset, hsig, hfour]
  rfl

theorem doReset_notFound {n : NorFind} (s : State) (h : n.signature = false ∨ n.fourByte = false) :
    doReset s n = bootStop { coldReset s with boot := { State.reset.boot with octal := n.octal } } 5 :=
  if_neg (by rcases h with h | h <;> simp [h])

/-- Settles O8, by what the reset finds in the NOR. -/
theorem resetRestartsEverythingButTheNor : Obligations.ResetRestartsEverythingButTheNor := by
  refine fun s n => ⟨fun hsig hfour => ⟨_, rfl, ?found⟩, fun h => ⟨_, rfl, ?notFound⟩⟩
  case found =>
    rw [doReset_found s hsig hfour]
    rfl
  case notFound =>
    rw [doReset_notFound s h]
    exact ⟨rfl, rfl, rfl, rfl, rfl, rfl, rfl, rfl, rfl, rfl, bitOf_bootStop ..⟩

/-- A reset of a block that runs, with a NOR that answers and with one that has no 4-byte addressing. -/
theorem reset_runningReset :
    let running : State := { State.reset with boot := { BootSt.reset with running := true } }
    Gives (.reset ⟨true, true, true⟩) running (fun t => t.boot.running = false ∧ t.boot.octal = true) ∧
      Gives (.reset ⟨true, false, false⟩) running (fun t => t.boot.err = 5 ∧ t.boot.stopped = true) := by
  intro running
  obtain ⟨restarts, -⟩ := resetRestartsEverythingButTheNor running ⟨true, true, true⟩
  obtain ⟨-, stops⟩ := resetRestartsEverythingButTheNor running ⟨true, false, false⟩
  exact ⟨(restarts rfl rfl).imp fun t ht => by rw [ht]; exact ⟨rfl, rfl⟩,
    (stops (.inr rfl)).imp fun t ⟨hboot, _⟩ => by rw [hboot]; exact ⟨rfl, rfl⟩⟩

/-! ### The image (R372, R373) -/

theorem imageFault_wrongMagic (s : State) {img : List Byte} (h : leAt img 0 4 ≠ 0x4C525831) : imageFault s img = 1 :=
  if_pos (by simp [h])

theorem imageFault_le (s : State) (img : List Byte) : imageFault s img ≤ 8 := by
  unfold imageFault
  extract_lets
  repeat' split
  all_goals decide

theorem imageRead_faulty {s : State} {img : List Byte} (hread : s.boot.imageRead = false) (hstop : s.boot.stopped = false)
    (h : imageFault s img ≠ 0) :
    imageRead s img = bootStop { s with boot := { s.boot with imageRead := true } } (imageFault s img) := by
  unfold imageRead
  rw [hread, hstop, if_neg (by decide)]
  split
  next h0 => exact absurd h0 h
  next => rfl

/-- Settles O9, by the first failing check: an image is read once, and its checks decide between waiting and stopping. -/
theorem anImageIsCheckedBeforeItIsUsed : Obligations.AnImageIsCheckedBeforeItIsUsed := by
  intro s img hread hstop
  refine ⟨fun h => ⟨_, rfl, ?passes⟩, fun h => ⟨_, rfl, ?fails⟩, imageFault_wrongMagic s, imageFault_le s img⟩
  case passes =>
    unfold imageRead
    rw [hread, hstop, h]
    exact ⟨rfl, rfl, rfl, hstop, rfl⟩
  case fails =>
    rw [imageRead_faulty hread hstop h]
    exact ⟨rfl, bitOf_bootStop ..⟩

/-- An empty image has no MAGIC: start-up stops with error 0x01. -/
theorem imageReadDone_empty :
    Gives (.imageReadDone []) State.reset (fun t => t.boot.err = 1 ∧ t.boot.stopped = true) := by
  obtain ⟨-, stops, magic, -⟩ := anImageIsCheckedBeforeItIsUsed State.reset [] rfl rfl
  have hone : imageFault State.reset [] = 1 := magic (by decide)
  exact (stops (by rw [hone]; decide)).imp fun t ⟨hboot, _⟩ => by rw [hboot]; exact ⟨hone, rfl⟩

/-! ### The verdict (R374) -/

theorem secVerdict_awaited {s : State} (h : s.boot.secWait = true) (ok : Bool) :
    secVerdict s true ok = if ok then startUp s else bootStop s 4 := by
  rw [secVerdict, h]
  rfl

/-- A start-up that ends leaves the block running, with no verdict awaited and the sections used up (R375, R376). -/
theorem startUp_boot (s : State) : (startUp s).boot.running = true ∧ (startUp s).boot.secWait = false ∧
    (startUp s).boot.sections = [] := by
  unfold startUp
  extract_lets
  split
  exact ⟨rfl, rfl, rfl⟩

/-- Settles O10, by the two inputs of the verdict. -/
theorem theSecurityVerdictStartsOrStopsTheBlock : Obligations.TheSecurityVerdictStartsOrStopsTheBlock := by
  refine fun s h => ⟨⟨_, rfl, ?starts⟩, ⟨_, rfl, ?stops⟩, fun ok => ⟨_, rfl, ?waits⟩⟩
  case starts =>
    rw [secVerdict_awaited h]
    exact startUp_boot s
  case stops =>
    rw [secVerdict_awaited h]
    exact ⟨rfl, bitOf_bootStop ..⟩
  case waits =>
    rw [secVerdict]
    exact if_pos (by simp)

/-- The three verdicts on a block that waits for one. -/
theorem secVerdict_waitingReset :
    let waiting : State := { State.reset with boot := { BootSt.reset with secWait := true } }
    Gives (.secVerdict true true) waiting (fun t => t.boot.running = true) ∧
      Gives (.secVerdict true false) waiting (fun t => t.boot.err = 4) ∧
      Gives (.secVerdict false true) waiting (· = waiting) := by
  intro waiting
  obtain ⟨starts, stops, waits⟩ := theSecurityVerdictStartsOrStopsTheBlock waiting rfl
  exact ⟨starts.imp fun t ⟨hrun, _⟩ => hrun, stops.imp fun t ⟨hboot, _⟩ => by rw [hboot], waits true⟩

end Sys2Proof.Spec

/-!
PROOF. Temperature replies (O15).
-/
namespace Sys2Proof.Spec

open Sys2Proof Sys2Proof.Machine

/-- The sensor at the front of the queue is asked next (R407). -/
theorem tempNext_eq (s : State) : tempNext s =
    { s with clk := { s.clk with tsReq := s.clk.tsQueue.head?, tsQueue := s.clk.tsQueue.tail } } := by
  unfold tempNext tempAsk
  simp only [List.filter_nil, List.append_nil]
  cases s.clk.tsQueue <;> rfl

@[simp] theorem clusterAt_tempNext (s : State) (c : Nat) : clusterAt (tempNext s) c = clusterAt s c := by
  rw [tempNext_eq]
  rfl

theorem tempReply_cluster {s : State} {a : Nat} (h : s.clk.tsReq = some a) (ha : a < 9) (temp : Nat) :
    tempReply s temp = tempNext (clusterMod s a (fun x => { x with temp := temp % 256 })) := by
  simp [tempReply, h, ha]

theorem tempReply_governor {s : State} {a : Nat} (h : s.clk.tsReq = some a) (ha : 13 ≤ a) (temp : Nat) :
    tempReply s temp = tempNext { s with clk := { s.clk with govTemp := temp % 256 } } := by
  simp [tempReply, h, show ¬ a < 9 by omega, show ¬ a < 13 by omega]

theorem tempTimeout_asked {s : State} {a : Nat} (h : s.clk.tsReq = some a) :
    tempTimeout s = tempNext (event s 0xC (if a < 9 then clusterUnit a else 0) 0 a 0) := by
  rw [tempTimeout, h]

/-- Settles O15: the reading goes to the sensor that was asked, an event touches no reading, and both ask the next. -/
theorem temperatureRepliesAreTheAskedSensors : Obligations.TemperatureRepliesAreTheAskedSensors := by
  intro s a hinv hreq
  obtain ⟨-, -, hshape, -⟩ := hinv
  refine ⟨fun temp ha => ⟨_, rfl, ?cluster⟩, fun temp ha => ⟨_, rfl, ?governor⟩, ⟨_, rfl, ?missing⟩⟩
  case cluster =>
    have hat (c : Nat) := clusterAt_clusterMod s a c (fun x => { x with temp := temp % 256 }) (cluster_lt hshape ha)
    rw [tempReply_cluster hreq ha]
    refine ⟨?_, fun c hc => ?_, ?_, ?_⟩
    · rw [clusterAt_tempNext, hat, if_pos rfl]
    · rw [clusterAt_tempNext, hat, if_neg hc]
    · rw [tempNext_eq]
      rfl
    · rw [tempNext_eq]
      rfl
  case governor =>
    rw [tempReply_governor hreq ha, tempNext_eq]
    exact ⟨rfl, rfl, rfl, rfl, rfl⟩
  case missing =>
    rw [tempTimeout_asked hreq, tempNext_eq, (event_only s ..).clk]
    exact ⟨rfl, rfl, rfl, rfl, rfl⟩

/-- The state after reset with sensor `a` asked and the Governor region's waiting. -/
def sensingReset (a : Nat) : State :=
  { State.reset with clk := { ClockSt.reset with tsReq := some a, tsQueue := [13] } }

theorem inv_sensingReset (a : Nat) : Inv (sensingReset a) := ⟨rfl, rfl, rfl, Nat.two_pow_pos 48⟩

/-- Each clause of O15 applies: cluster 8's reply, the Governor region's, and a reply that stays away. -/
theorem tempReplies_sensingReset :
    Gives (.tempReply 300) (sensingReset 8) (fun t => (clusterAt t 8).temp = 44 ∧ t.clk.tsReq = some 13) ∧
      Gives (.tempReply 70) (sensingReset 13) (fun t => t.clk.govTemp = 70) ∧
      Gives .tempReplyTimeout (sensingReset 8) (fun t =>
        t.clk.clusters = List.replicate 9 Cluster.reset ∧ t.clk.tsReq = some 13) := by
  obtain ⟨cluster, -, missing⟩ := temperatureRepliesAreTheAskedSensors (sensingReset 8) 8 (inv_sensingReset 8) rfl
  obtain ⟨-, governor, -⟩ := temperatureRepliesAreTheAskedSensors (sensingReset 13) 13 (inv_sensingReset 13) rfl
  exact ⟨(cluster 300 (by decide)).imp fun t ⟨htemp, _, hnext, _⟩ => ⟨htemp, hnext⟩,
    (governor 70 (by decide)).imp fun t ⟨htemp, _⟩ => htemp,
    missing.imp fun t ⟨_, hclusters, _, _, hnext⟩ => ⟨hclusters, hnext⟩⟩

end Sys2Proof.Spec

/-!
PROOF. The power-fail warning (O16).
-/
namespace Sys2Proof.Spec

open Sys2Proof Sys2Proof.Machine

/-- The pin of a channel that asserts (R393). -/
def pinUp (s : State) (b : Bool) : State :=
  { s with gov := { s.gov with pfA := s.gov.pfA || !b, pfB := s.gov.pfB || b } }

theorem pfwAssert_first {s : State} (b : Bool) (hdue : s.gov.pfDue = false) (hact : s.gov.pfActive = false)
    (h : s.gov.pfWindow = none) :
    pfwAssert s b = { pinUp s b with gov := { (pinUp s b).gov with pfWindow := some b } } := by
  simp [pfwAssert, pinUp, hdue, hact, h]

theorem pfwAssert_second {s : State} {b : Bool} (hdue : s.gov.pfDue = false) (hact : s.gov.pfActive = false)
    (h : s.gov.pfWindow = some (!b)) :
    pfwAssert s b = { pinUp s b with gov := { (pinUp s b).gov with pfWindow := none, pfDue := true } } := by
  simp [pfwAssert, pinUp, hdue, hact, h]

theorem pfwExpiry_open {s : State} (h : s.gov.pfWindow.isSome = true) :
    pfwExpiry s = irqSet (bump (regOr { s with gov := { s.gov with pfWindow := none, pfDue := true } }
      oGovPfwStatus (2 ^ 29)) oGovPfwDiscCnt) irqGov := by
  obtain ⟨c, hc⟩ := Option.isSome_iff_exists.1 h
  rw [pfwExpiry, hc]

theorem regGet_irqSet_ne (s : State) (b : Nat) {off : Nat} (h : off ≠ oIrqStatus) :
    regGet (irqSet s b) off = regGet s off :=
  (regGet_regOr ..).trans (if_neg h)

theorem pfDone_written {s : State} (hact : s.gov.pfActive = true) (h : s.fh.pend = []) :
    pfDone s = { s with gov := { s.gov with pfDone := true } } := by
  simp [pfDone, hact, h]

/-- Settles O16, by the window's state; the expiry writes three registers, each read back past the others. -/
theorem thePowerFailSequenceNeedsBothChannelsOrTheWindowsEnd :
    Obligations.ThePowerFailSequenceNeedsBothChannelsOrTheWindowsEnd := by
  refine ⟨fun s b hdue hact h => ⟨_, rfl, pfwAssert_first b hdue hact h⟩,
    fun s b hdue hact h => ⟨_, rfl, pfwAssert_second hdue hact h⟩, fun s b => ⟨_, rfl, rfl⟩,
    fun s h => ⟨_, rfl, ?expiry⟩, fun s hact h => ⟨_, rfl, pfDone_written hact h⟩⟩
  rw [pfwExpiry_open h]
  refine ⟨rfl, ?_, bitOf_regOr _ _ _ (by decide), ?_⟩
  · rw [regGet_irqSet_ne _ _ (by decide), regGet_bump, if_neg (by decide)]
    exact bitOf_regOr _ _ _ (by decide)
  · rw [regGet_irqSet_ne _ _ (by decide), regGet_bump, if_pos rfl, regGet_regOr, if_neg (by decide)]
    rfl

/-- A power-fail warning from both channels: channel A opens the window, and channel B within it makes the sequence
due. -/
theorem pfwAssert_reset :
    Gives (.pfwAssert false) State.reset (fun t => t.gov.pfWindow = some false ∧
      Gives (.pfwAssert true) t (fun u => u.gov.pfDue = true) ∧
      Gives .pfwWindowExpiry t (fun u => u.gov.pfDue = true ∧ regGet u oGovPfwDiscCnt = 1)) := by
  obtain ⟨first, second, -, expiry, -⟩ := thePowerFailSequenceNeedsBothChannelsOrTheWindowsEnd
  refine (first State.reset false rfl rfl rfl).imp fun t ht => ?_
  rw [ht]
  exact ⟨rfl, (second _ true rfl rfl rfl).imp fun u hu => by rw [hu],
    (expiry _ rfl).imp fun u ⟨hu, _, _, hcount⟩ => ⟨by rw [hu], hcount.trans (by decide)⟩⟩

end Sys2Proof.Spec

/-!
PROOF. Transactions (O54, O55).
-/
namespace Sys2Proof.Spec

open Sys2Proof Sys2Proof.Machine

/-! ### The change journal (R390) -/

theorem cjWrite_only (s : State) (req kind txn result loader nreg ntbl : Nat) (body : List Byte) :
    ∃ m, cjWrite s req kind txn result loader nreg ntbl body =
      { s with mem := m, gov := { s.gov with cjProd := (s.gov.cjProd + 1) % 2 ^ 32 } } := by
  simp only [cjWrite]
  rw [scrWrite_only]
  exact ⟨_, rfl⟩

theorem cjTxn_only (s : State) (x : Txn) (v : Verdict) :
    ∃ m, cjTxn s x v = { s with mem := m, gov := { s.gov with cjProd := (s.gov.cjProd + 1) % 2 ^ 32 } } :=
  cjWrite_only ..

/-- The result of a transaction writes the status alone. -/
theorem txnResult_only (s : State) (x : Txn) (r : Nat) : ∃ result owner, txnResult s x r =
    { s with gov := { s.gov with result := result, lastOwner := owner } } := by
  unfold txnResult
  split
  next => exact ⟨_, _, rfl⟩
  next => exact ⟨_, _, rfl⟩

theorem txnResult_last {s : State} {x : Txn} (h : x.id = s.gov.lastId) (r : Nat) :
    txnResult s x r = { s with gov := { s.gov with result := r, lastOwner := x.owner } } := if_pos h

@[simp] theorem regGet_txnResult (s : State) (x : Txn) (r off : Nat) : regGet (txnResult s x r) off = regGet s off := by
  obtain ⟨_, _, h⟩ := txnResult_only s x r
  rw [h]
  rfl

@[simp] theorem cjProd_txnResult (s : State) (x : Txn) (r : Nat) : (txnResult s x r).gov.cjProd = s.gov.cjProd := by
  obtain ⟨_, _, h⟩ := txnResult_only s x r
  rw [h]

/-- A dropped transaction writes its entry and, when it is the last closed, its result (R385, R390). -/
theorem txnDropped_only (s : State) (x : Txn) (v : Verdict) : ∃ m owner, txnDropped s x v =
    { s with
      mem := m
      gov := { s.gov with
        result := if x.id = s.gov.lastId then v.result else s.gov.result
        lastOwner := owner
        cjProd := (s.gov.cjProd + 1) % 2 ^ 32 } } := by
  obtain ⟨m, hm⟩ := cjTxn_only (txnResult s x v.result) x v
  rw [txnDropped, hm]
  by_cases h : x.id = s.gov.lastId
  · rw [txnResult_last h, if_pos h]
    exact ⟨m, _, rfl⟩
  · rw [txnResult, if_neg h, if_neg h]
    exact ⟨m, _, rfl⟩

/-- A refusal either writes its entry or counts its drop. -/
theorem journals_txnRefused (u : State) (x : Txn) (v : Verdict) : Journals u (txnRefused u x v) x v := by
  refine ⟨fun h => ?_, fun h => ?_⟩
  · rw [txnRefused, if_pos h]
    refine ⟨rfl, ?_⟩
    rw [regGet_bump, if_pos rfl, regGet_txnResult]
  · rw [txnRefused, if_neg h]
    obtain ⟨m, hm⟩ := cjTxn_only (txnResult u x v.result) x v
    rw [hm, cjProd_txnResult]

/-- A journalled transaction changes nothing of the Governor but the status and the journal's place. -/
theorem Journals.gov_eq {u t : State} {x : Txn} {v : Verdict} (h : Journals u t x v) :
    ∃ n, t.gov = { (txnResult u x v.result).gov with cjProd := n } := by
  obtain ⟨hfull, hfree⟩ := h
  by_cases hc : cjFree (txnResult u x v.result) = 0
  · rw [(hfull hc).1]
    exact ⟨_, rfl⟩
  · rw [hfree hc]
    exact ⟨_, rfl⟩

/-! ### Opening and staging (R380, R381, R384) -/

theorem apbRefuses_apb (s : State) : ApbRefuses s (apb s 0 true) := rfl

theorem txnBegin_refused {s : State} (req : Nat) (h : s.gov.opened.isSome = true ∨ s.fh.sepia = true ∨
    s.gov.pfDue = true ∨ s.gov.pfActive = true ∨ s.boot.running = false) : txnBegin s req = apb s 0 true :=
  if_pos (by simpa [or_assoc] using h)

/-- The seven loads are one command with its code (R381). -/
theorem exec_loadRow {req code : Nat} {cmd : Instr} (h : (cmd, code) ∈ loadRow req) (s : State) :
    exec cmd s = .next (stageLoad s req code) ∧ code ≠ 0 ∧ code < 8 := by
  simp only [loadRow, List.mem_cons, Prod.mk.injEq, List.not_mem_nil, or_false] at h
  rcases h with h | h | h | h | h | h | h <;> obtain ⟨rfl, rfl⟩ := h <;> exact ⟨rfl, by decide, by decide⟩

theorem stageLoad_closed {s : State} (h : s.gov.opened = none) (req code : Nat) : stageLoad s req code = apb s 0 true := by
  rw [stageLoad, h]

theorem stageLoad_refused {s : State} {x : Txn} {req : Nat} (h : s.gov.opened = some x)
    (hx : x.owner ≠ req ∨ 16 ≤ x.loads.length) (code : Nat) : stageLoad s req code = apb s 0 true := by
  rw [stageLoad, h]
  exact if_pos (by rcases hx with hx | hx <;> simp [hx])

/-- The open transaction with one more load (R381). -/
def withLoad (s : State) (x : Txn) (code : Nat) : Txn :=
  { x with loads := x.loads ++ [(code, regGet s oGovTxnTblSrcLo + regGet s oGovTxnTblSrcHi * 2 ^ 32,
    regGet s oGovTxnTblLen, [])] }

theorem stageLoad_staged {s : State} {x : Txn} {code : Nat} (h : s.gov.opened = some x) (hlen : x.loads.length < 16)
    (hcode : code ≠ 0) (hlt : code < 8) :
    stageLoad s x.owner code = apb { s with gov := { s.gov with opened := some (withLoad s x code) } } 0 false := by
  rw [stageLoad, h]
  exact if_neg (by simp [hlen, hcode, hlt])

/-- The state in which the open transaction has been closed with the next id and its write answered (R382, R384). -/
def closed (s : State) (req : Nat) : State :=
  { s with
    gov := { s.gov with opened := none, lastId := (s.gov.lastId + 1) % 2 ^ 16, lastOwner := req }
    port := { s.port with apb := (0, false) } }

theorem txnRollback_owned {s : State} {x : Txn} (h : s.gov.opened = some x) :
    txnRollback s x.owner = txnRefused (closed s x.owner) { x with id := (s.gov.lastId + 1) % 2 ^ 16 } ⟨6, noLoad⟩ := by
  rw [txnRollback, h]
  exact if_neg (by simp)

theorem txnRollback_refused {s : State} {req : Nat} (h : ∀ x, s.gov.opened = some x → x.owner ≠ req) :
    txnRollback s req = apb s 0 true := by
  unfold txnRollback
  split
  next => rfl
  next x hx => exact if_pos (h x hx)

/-- Settles O54, by whether a transaction is open and whose it is. -/
theorem transactionsAreOpenedStagedAndRolledBack : Obligations.TransactionsAreOpenedStagedAndRolledBack := by
  refine ⟨fun s req => ⟨fun h => ⟨_, rfl, ?refused⟩, fun hopen hsepia hdue hact hrun => ⟨_, rfl, ?opens⟩⟩,
    fun s req code cmd hrow => ?stages,
    fun s req => ⟨fun h => ⟨_, rfl, ?closed⟩, fun x h => ⟨fun hown => ⟨_, rfl, ?other⟩, ?owner⟩⟩, fun s => ⟨_, rfl, rfl⟩⟩
  case refused =>
    rw [txnBegin_refused req h]
    exact apbRefuses_apb s
  case opens => exact if_neg (by simp [hopen, hsepia, hdue, hact, hrun])
  case stages =>
    obtain ⟨hexec, hcode, hlt⟩ := exec_loadRow hrow s
    refine ⟨fun h => ⟨_, hexec, ?_⟩, fun x h => ⟨fun hx => ⟨_, hexec, ?_⟩, fun hown hlen => ⟨_, hexec, ?_⟩⟩⟩
    · rw [stageLoad_closed h]
      exact apbRefuses_apb s
    · rw [stageLoad_refused h hx]
      exact apbRefuses_apb s
    · rw [← hown, stageLoad_staged h hlen hcode hlt]
      rfl
  case closed =>
    rw [txnRollback_refused (by simp [h])]
    exact apbRefuses_apb s
  case other =>
    rw [txnRollback_refused (by simpa [h] using hown)]
    exact apbRefuses_apb s
  case owner =>
    rintro rfl
    have hj := journals_txnRefused (closed s x.owner) { x with id := (s.gov.lastId + 1) % 2 ^ 16 } ⟨6, noLoad⟩
    obtain ⟨n, hgov⟩ := hj.gov_eq
    rw [txnResult_last rfl] at hgov
    refine ⟨_, rfl, ?_⟩
    rw [txnRollback_owned h]
    exact ⟨hj, by rw [hgov]; rfl, by rw [hgov]⟩

/-- The state after reset of a block that has started, with requester 3's transaction open. -/
def openTxnReset : State :=
  { State.reset with
    boot := { BootSt.reset with running := true }
    gov := { GovSt.reset with opened := some ⟨0, 3, [], [], 0, 0, 0, 0⟩ } }

/-- One transaction is open at a time; its owner stages a load and rolls it back, another requester does neither. -/
theorem staging_openTxnReset :
    Gives (.txnBegin 3) { openTxnReset with gov := GovSt.reset } (fun t => t.gov.opened = openTxnReset.gov.opened) ∧
      Gives (.txnBegin 4) openTxnReset (ApbRefuses openTxnReset) ∧
      Gives (.loadRouteTable 3) openTxnReset (fun t =>
        t.gov.opened.map (fun x => x.loads) = some [(3, 0, 0, [])]) ∧
      Gives (.loadRouteTable 4) openTxnReset (ApbRefuses openTxnReset) ∧
      Gives (.txnRollback 3) openTxnReset (fun t => t.gov.opened = none ∧ t.gov.result = 6) := by
  obtain ⟨begins, stages, rollbacks, -⟩ := transactionsAreOpenedStagedAndRolledBack
  obtain ⟨-, opens⟩ := begins { openTxnReset with gov := GovSt.reset } 3
  obtain ⟨refused, -⟩ := begins openTxnReset 4
  obtain ⟨-, staged⟩ := stages openTxnReset 3 3 (.loadRouteTable 3) (by simp [loadRow])
  obtain ⟨-, others⟩ := stages openTxnReset 4 3 (.loadRouteTable 4) (by simp [loadRow])
  obtain ⟨-, rolled⟩ := rollbacks openTxnReset 3
  exact ⟨(opens rfl rfl rfl rfl rfl).imp fun t ht => by rw [ht]; rfl, refused (.inl rfl),
    ((staged _ rfl).2 rfl (by decide)).imp fun t ht => by rw [ht]; decide,
    (others _ rfl).1 (.inl (by decide)), ((rolled _ rfl).2 rfl).imp fun t ⟨_, h⟩ => h⟩

/-! ### Committing (R382, R385, R390) -/

theorem txnCommit_refused {s : State} {req wh : Nat} (h : ∀ x, s.gov.opened = some x → x.owner ≠ req ∨ 3 ≤ wh) :
    txnCommit s req wh = apb s 0 true := by
  unfold txnCommit
  split
  next => rfl
  next x hx => exact if_pos (by rcases h x hx with h | h <;> simp [h])

/-- The Turn or step a commit names. -/
def commitDue (s : State) : Nat := regGet s oGovTxnAtLo + regGet s oGovTxnAtHi % 2 ^ 16 * 2 ^ 32

/-- A transaction as COMMIT closes it (R382). -/
def committed (s : State) (x : Txn) (wh : Nat) : Txn :=
  { x with
    id := (s.gov.lastId + 1) % 2 ^ 16
    wh := wh
    at_ := if wh = 0 then 0 else commitDue s
    tag := regGet s oGovTxnTag }

/-- Whether a commit names an application point it cannot keep any more (R382). -/
def tooSoon (s : State) (wh : Nat) : Bool :=
  (wh = 1 && decide (commitDue s < s.time.turn + 64)) || (wh = 2 && stepGone s (commitDue s))

theorem tooSoon_iff (s : State) (wh : Nat) : tooSoon s wh = true ↔
    (wh = 1 ∧ commitDue s < s.time.turn + 64) ∨ (wh = 2 ∧ stepGone s (commitDue s) = true) := by
  simp [tooSoon]

/-- The three refusals of a commit in their order, then its acceptance (R382, R385, R390). -/
theorem txnCommit_owned {s : State} {x : Txn} {wh : Nat} (h : s.gov.opened = some x) (hwh : wh < 3) :
    txnCommit s x.owner wh =
      if tooSoon s wh then txnRefused (closed s x.owner) (committed s x wh) ⟨3, noLoad⟩
      else if 8 ≤ s.gov.pendTx.length + s.gov.checking.length then
        txnRefused (closed s x.owner) (committed s x wh) ⟨4, noLoad⟩
      else if cjFree (closed s x.owner) < cjNeed (closed s x.owner) (committed s x wh) then
        txnRefused (closed s x.owner) (committed s x wh) ⟨8, noLoad⟩
      else txnResult { closed s x.owner with gov := { (closed s x.owner).gov with
        checking := s.gov.checking ++ [{ committed s x wh with reserved := cjNeed (closed s x.owner) (committed s x wh) }] } }
        (committed s x wh) 1 := by
  rw [← List.length_append, txnCommit, h]
  exact if_neg (by simp [hwh])

/-! ### Validation and cancelling (R382, R384) -/

theorem txnValidated_idle {s : State} (h : s.gov.checking = []) : txnValidated s = s := by
  rw [txnValidated, h]

theorem txnValidated_gone {s : State} {x : Txn} {rest : List Txn} (h : s.gov.checking = x :: rest) (hwh : x.wh = 2)
    (hgone : stepGone s x.at_ = true) :
    txnValidated s = txnRefused { s with gov := { s.gov with checking := rest } } x ⟨3, noLoad⟩ := by
  rw [txnValidated, h]
  exact if_pos (by rw [hwh, Bool.and_eq_true]; exact ⟨rfl, hgone⟩)

/-- The loads are copied, and the transaction that results is judged (R382). -/
theorem txnValidated_copies {s : State} {x : Txn} {rest : List Txn} (h : s.gov.checking = x :: rest)
    (hdue : x.wh ≠ 2 ∨ stepGone s x.at_ = false) :
    txnValidated s =
      let c := copyLoads { s with gov := { s.gov with checking := rest } } x
      if !c.1 then txnRefused c.2.2 c.2.1 ⟨2, noLoad⟩
      else if (judge c.2.2 c.2.1).1.result ≠ 0 then txnRefused c.2.2 c.2.1 (judge c.2.2 c.2.1).1
      else { c.2.2 with gov := { c.2.2.gov with pendTx := c.2.2.gov.pendTx ++ [c.2.1] } } := by
  have hgone : ¬(decide (x.wh = 2) && stepGone { s with gov := { s.gov with checking := rest } } x.at_) = true := by
    rw [Bool.and_eq_true, decide_eq_true_eq, not_and_or, Bool.not_eq_true]
    exact hdue
  rw [txnValidated, h]
  exact if_neg hgone

theorem txnCancel_missing {s : State} {id : Nat} (h : s.gov.pendTx.find? (fun t => t.id == id) = none) :
    txnCancel s id = apb s 0 false := by
  unfold txnCancel
  extract_lets u
  rw [show u.gov.pendTx.find? (fun t => t.id == id) = none from h]

theorem txnCancel_found {s : State} {id : Nat} {x : Txn} (h : s.gov.pendTx.find? (fun t => t.id == id) = some x) :
    txnCancel s id = if cancellable s x then
      txnDropped { apb s 0 false with gov := { s.gov with pendTx := s.gov.pendTx.filter (fun y => y.id != id) } } x ⟨7, noLoad⟩
    else apb s 0 false := by
  unfold txnCancel
  extract_lets u
  rw [show u.gov.pendTx.find? (fun t => t.id == id) = some x from h]
  rfl

/-- Settles O55: the refusals of a commit, a validation and a cancelling, each in its order. -/
theorem transactionsAreCommittedValidatedAndCancelled : Obligations.TransactionsAreCommittedValidatedAndCancelled := by
  refine ⟨fun s req wh => ⟨fun h => ⟨_, rfl, ?closed⟩, fun x h => ⟨fun hx => ⟨_, rfl, ?refused⟩, ?commits⟩⟩,
    fun s => ⟨fun h => ⟨_, rfl, txnValidated_idle h⟩, fun x rest h =>
      ⟨fun hwh hgone => ⟨_, rfl, ?gone⟩, fun hdue => ?judged⟩⟩,
    fun s id => ⟨fun h => ⟨_, rfl, txnCancel_missing h⟩, fun x h =>
      ⟨fun hlate => ⟨_, rfl, ?late⟩, fun hcan => ⟨_, rfl, ?withdrawn⟩⟩⟩⟩
  case closed =>
    rw [txnCommit_refused (by simp [h])]
    exact apbRefuses_apb s
  case refused =>
    rw [txnCommit_refused (by simpa [h] using hx)]
    exact apbRefuses_apb s
  case commits =>
    rintro rfl hwh
    have hcommit := txnCommit_owned h hwh
    refine ⟨fun hlate => ⟨_, rfl, ?_⟩, fun hlate hfull => ⟨_, rfl, ?_⟩,
      fun hlate hfull (hspace : cjFree (closed s x.owner) < cjNeed (closed s x.owner) (committed s x wh)) => ⟨_, rfl, ?_⟩,
      fun hlate hfull (hspace : cjNeed (closed s x.owner) (committed s x wh) ≤ cjFree (closed s x.owner)) => ⟨_, rfl, ?_⟩⟩
    · rw [hcommit, if_pos ((tooSoon_iff s wh).2 hlate)]
      exact journals_txnRefused ..
    · rw [hcommit, if_neg (mt (tooSoon_iff s wh).1 hlate), if_pos hfull]
      exact journals_txnRefused ..
    · rw [hcommit, if_neg (mt (tooSoon_iff s wh).1 hlate), if_neg hfull, if_pos hspace]
      exact journals_txnRefused ..
    · rw [hcommit, if_neg (mt (tooSoon_iff s wh).1 hlate), if_neg hfull, if_neg (Nat.not_lt.2 hspace), txnResult_last rfl]
      rfl
  case gone =>
    rw [txnValidated_gone h hwh hgone]
    exact journals_txnRefused ..
  case judged =>
    have hcopies := txnValidated_copies h hdue
    refine ⟨fun hbad => ⟨_, rfl, ?_⟩, fun hok hfault => ⟨_, rfl, ?_⟩, fun hok hgood => ⟨_, rfl, ?_⟩⟩
    · rw [hcopies, if_pos (by simp [hbad])]
      exact journals_txnRefused ..
    · rw [hcopies, if_neg (by simp [hok]), if_pos hfault]
      exact journals_txnRefused ..
    · rw [hcopies, if_neg (by simp [hok]), if_neg (not_not.2 hgood)]
  case late =>
    rw [txnCancel_found h, if_neg (by simp [hlate])]
    rfl
  case withdrawn =>
    rw [txnCancel_found h, if_pos hcan]
    obtain ⟨m, owner, hdrop⟩ := txnDropped_only
      { apb s 0 false with gov := { s.gov with pendTx := s.gov.pendTx.filter (fun y => y.id != id) } } x ⟨7, noLoad⟩
    rw [hdrop]
    exact ⟨rfl, rfl, rfl, fun hlast => if_pos hlast⟩

/-- The state after reset with a step open and one transaction in a list: to be checked for step 0, which is over, or
pending for Turn 100. -/
def closedTxnReset : State :=
  { State.reset with
    step := { StepSt.reset with state := 1, s := 5 }
    gov := { GovSt.reset with
      lastId := 7
      checking := [⟨7, 3, [], [], 2, 0, 0, 1⟩]
      pendTx := [⟨6, 3, [], [], 1, 100, 0, 1⟩] } }

/-- A commit is taken for checking, or refused when it is due within 64 Turns; a transaction whose step is over is refused
with 0x03, and one not about to apply is withdrawn. -/
theorem closing_txnReset :
    Gives (.txnCommit 3 0) openTxnReset (fun t => t.gov.result = 1 ∧ t.gov.checking.map (fun x => x.id) = [1]) ∧
      Gives (.txnCommit 3 1) openTxnReset (fun t => t.gov.result = 3) ∧
      Gives .txnValidated closedTxnReset (fun t => t.gov.result = 3) ∧
      Gives (.txnCancel 6) closedTxnReset (fun t => t.gov.pendTx = []) := by
  obtain ⟨commits, validates, cancels⟩ := transactionsAreCommittedValidatedAndCancelled
  obtain ⟨-, atOnce⟩ := (commits openTxnReset 3 0).2 _ rfl
  obtain ⟨-, -, -, taken⟩ := atOnce rfl (by decide)
  obtain ⟨-, timed⟩ := (commits openTxnReset 3 1).2 _ rfl
  obtain ⟨late, -⟩ := timed rfl (by decide)
  obtain ⟨gone, -⟩ := (validates closedTxnReset).2 _ _ rfl
  obtain ⟨-, withdrawn⟩ := (cancels closedTxnReset 6).2 _ rfl
  refine ⟨(taken (by decide) (by decide) (by decide)).imp fun t ht => by rw [ht]; exact ⟨rfl, rfl⟩,
    (late (by decide)).imp fun t ht => ?_, (gone rfl (by decide)).imp fun t ht => ?_,
    (withdrawn (by decide)).imp fun t ⟨_, hpend, _⟩ => hpend⟩
  all_goals
    obtain ⟨n, hgov⟩ := Journals.gov_eq ht
    rw [txnResult_last rfl] at hgov
    rw [hgov]

end Sys2Proof.Spec

/-!
PROOF. Link flits (O50).
-/
namespace Sys2Proof.Spec

open Sys2Proof Sys2Proof.Machine

/-! ### Flit headers (R320) -/

theorem fieldOf_eq_div_mod (w hi lo : Nat) : fieldOf w hi lo = w / 2 ^ lo % 2 ^ (hi + 1 - lo) := by
  rw [fieldOf, Nat.shiftRight_eq_div_pow]

theorem bitOf_eq_decide (w n : Nat) : bitOf w n = decide (w / 2 ^ n % 2 = 1) := by
  rw [bitOf_eq_testBit, Nat.testBit_eq_decide_div_mod_eq]

/-- The word of fields that fit: the form in which its digits are read. -/
theorem flitHdr_eq {h : FlitHdr} (hfits : FlitHdrFits h) : flitHdr h =
    h.type + h.vc * 2 ^ 4 + b2n h.mc * 2 ^ 7 + h.seq * 2 ^ 8 + h.ack * 2 ^ 20 + h.cvc * 2 ^ 32 + h.ccnt * 2 ^ 35
      + h.dest * 2 ^ 41 + b2n h.eom * 2 ^ 55 + h.hops * 2 ^ 56 + b2n h.late * 2 ^ 59 + b2n h.clate * 2 ^ 60 := by
  obtain ⟨htype, hvc, hseq, hack, hcvc, hccnt, hdest, hhops⟩ := hfits
  rw [flitHdr]
  omega

theorem flitHdr_lt {h : FlitHdr} (hfits : FlitHdrFits h) : flitHdr h < 2 ^ 61 := by
  have hword := flitHdr_eq hfits
  obtain ⟨htype, hvc, hseq, hack, hcvc, hccnt, hdest, hhops⟩ := hfits
  have hmc := b2n_lt h.mc
  have heom := b2n_lt h.eom
  have hlate := b2n_lt h.late
  have hclate := b2n_lt h.clate
  omega

/-- MC, EOM, LATE and CLATE are the word's bits 7, 55, 59 and 60. -/
theorem flagBits_flitHdr {h : FlitHdr} (hfits : FlitHdrFits h) :
    flitHdr h / 2 ^ 7 % 2 = b2n h.mc ∧ flitHdr h / 2 ^ 55 % 2 = b2n h.eom ∧ flitHdr h / 2 ^ 59 % 2 = b2n h.late ∧
      flitHdr h / 2 ^ 60 % 2 = b2n h.clate := by
  have hword := flitHdr_eq hfits
  obtain ⟨htype, hvc, hseq, hack, hcvc, hccnt, hdest, hhops⟩ := hfits
  have hmc := b2n_lt h.mc
  have heom := b2n_lt h.eom
  have hlate := b2n_lt h.late
  have hclate := b2n_lt h.clate
  refine ⟨?_, ?_, ?_, ?_⟩ <;> omega

theorem flitHdrOf_flitHdr {h : FlitHdr} (hfits : FlitHdrFits h) : flitHdrOf (flitHdr h) = h := by
  obtain ⟨hmc, heom, hlate, hclate⟩ := flagBits_flitHdr hfits
  have hword := flitHdr_eq hfits
  obtain ⟨htype, hvc, hseq, hack, hcvc, hccnt, hdest, hhops⟩ := hfits
  rw [flitHdrOf]
  simp only [fieldOf_eq_div_mod, bitOf_eq_decide, hmc, heom, hlate, hclate, decide_b2n]
  generalize flitHdr h = w at *
  cases h
  dsimp only at *
  congr 1 <;> omega

/-! ### A transmitted flit (R320) -/

theorem length_leBytes (n x : Nat) : (leBytes n x).length = n := by
  induction n generalizing x with
  | zero => rfl
  | succ n ih => rw [leBytes, List.length_cons, ih]

theorem leNat_leBytes (n x : Nat) : leNat (leBytes n x) = x % 256 ^ n := by
  induction n generalizing x with
  | zero => rw [Nat.pow_zero, Nat.mod_one]; rfl
  | succ n ih =>
    have hpow : 256 ^ (n + 1) = 256 * 256 ^ n := Nat.pow_succ'
    rw [leBytes, leNat, ih, BitVec.toNat_ofNat, hpow, Nat.mod_mul]

theorem length_padTo (n : Nat) (bs : List Byte) : (padTo n bs).length = n := by
  rw [padTo, List.length_take, List.length_append, zeroBytes, List.length_replicate]
  omega

theorem crc64Bit_lt (c : Nat) : crc64Bit c < 2 ^ 64 := by
  have hshift : (c <<< 1) % 2 ^ 64 < 2 ^ 64 := Nat.mod_lt _ (by decide)
  unfold crc64Bit
  extract_lets d
  split
  · exact Nat.xor_lt_two_pow hshift (by decide)
  · exact hshift

theorem crc64_lt (bs : List Byte) : crc64 bs < 2 ^ 64 := by
  induction bs using List.reverseRecOn with
  | nil => decide
  | append_singleton bs b ih =>
    rw [crc64, List.foldl_append]
    exact crc64Bit_lt _

/-- The body of a flit: its header and its payload. -/
def flitBody (h : FlitHdr) (payload : List Byte) : List Byte := leBytes 8 (flitHdr h) ++ padTo 240 payload

theorem length_flitBody (h : FlitHdr) (payload : List Byte) : (flitBody h payload).length = 248 := by
  rw [flitBody, List.length_append, length_leBytes, length_padTo]

theorem flitBytes_eq (h : FlitHdr) (payload : List Byte) :
    flitBytes h payload = flitBody h payload ++ leBytes 8 (crc64 (flitBody h payload)) := rfl

/-- The header word of a transmitted flit reads back. -/
theorem leAt_flitBytes {h : FlitHdr} (hfits : FlitHdrFits h) (payload : List Byte) :
    leAt (flitBytes h payload) 0 8 = flitHdr h := by
  have hlt := flitHdr_lt hfits
  rw [leAt, flitBytes_eq, flitBody, List.append_assoc, List.drop_zero, List.take_left' (length_leBytes ..), leNat_leBytes]
  omega

theorem payload_flitBytes (h : FlitHdr) {n : Nat} {payload : List Byte} (hlen : payload.length = n) (hn : n ≤ 240) :
    ((flitBytes h payload).drop 8).take n = payload := by
  rw [flitBytes_eq, flitBody, List.append_assoc, List.drop_left' (length_leBytes ..),
    List.take_append_of_le_length (by rwa [length_padTo]), padTo, List.take_take, Nat.min_eq_left hn, List.take_left' hlen]

/-- What is transmitted with a type that is not reserved passes the receiver's checks. -/
theorem flitGood_flitBytes {h : FlitHdr} (hfits : FlitHdrFits h) (htype : h.type ≤ 3) (payload : List Byte) :
    flitGood (flitBytes h payload) = true := by
  have hlen : (flitBytes h payload).length = 256 := by
    rw [flitBytes_eq, List.length_append, length_flitBody, length_leBytes]
  have hbody : (flitBytes h payload).take 248 = flitBody h payload := List.take_left' (length_flitBody ..)
  have hsent : leAt (flitBytes h payload) 248 8 = crc64 (flitBody h payload) := by
    rw [leAt, flitBytes_eq, List.drop_left' (length_flitBody ..), List.take_of_length_le (length_leBytes ..).le,
      leNat_leBytes]
    exact Nat.mod_eq_of_lt (crc64_lt _)
  have hfield : fieldOf (flitHdr h) 3 0 = h.type := congrArg FlitHdr.type (flitHdrOf_flitHdr hfits)
  have hreserved : fieldOf (flitHdr h) 63 61 = 0 := by
    rw [fieldOf_eq_div_mod, Nat.div_eq_of_lt (flitHdr_lt hfits), Nat.zero_mod]
  rw [flitGood, hlen, hbody, hsent, leAt_flitBytes hfits, hfield, hreserved]
  simp [htype]

/-! ### One link -/

theorem linkAt_linkMod {s : State} {l : Nat} (h : l < s.gl.links.length) (f : Link → Link) (p : Nat) :
    linkAt (linkMod s l f) p = if p = l then f (linkAt s l) else linkAt s p :=
  getD_modAt s.gl.links l p f Link.reset h

theorem linkAt_linkMod_same {s : State} {l : Nat} (h : l < s.gl.links.length) (f : Link → Link) :
    linkAt (linkMod s l f) l = f (linkAt s l) :=
  (linkAt_linkMod h f l).trans (if_pos rfl)

/-- An update of one link after a write of registers. -/
theorem onlyLink_linkMod {s u : State} {l : Nat} (hu : u = { s with regs := u.regs }) (h : l < s.gl.links.length)
    (f : Link → Link) : OnlyLink s (linkMod u l f) l ∧ linkAt (linkMod u l f) l = f (linkAt s l) := by
  rw [hu]
  exact ⟨⟨rfl, fun p hp => (linkAt_linkMod h f p).trans (if_neg hp)⟩, linkAt_linkMod_same h f⟩

theorem onlyLink_refl (s : State) (l : Nat) : OnlyLink s s l := ⟨rfl, fun _ _ => rfl⟩

/-! ### Arriving flits (R320, R325) -/

/-- A flit discarded, after a write of registers. -/
theorem discards_discardFlit {s u : State} {l : Nat} (hu : u = { s with regs := u.regs }) (h : l < s.gl.links.length) :
    Discards s (discardFlit u l) l :=
  onlyLink_linkMod hu h _

theorem flitGood_length {bs : List Byte} (h : flitGood bs = true) : bs.length = 256 := by
  simp only [flitGood, Bool.and_eq_true, decide_eq_true_eq] at h
  exact h.1.1.1

theorem flitGood_crcHolds {bs : List Byte} (h : flitGood bs = true) : crcHolds bs = true := by
  simp only [flitGood, Bool.and_eq_true] at h
  exact h.1.1.2

theorem withFlit_notUsed {s : State} {l : Nat} {bs : List Byte} (h : flitLevel s l = false ∨ bs.length ≠ 256) (type : Nat)
    (body : State → FlitHdr → State) : withFlit s l bs type body = s :=
  if_pos (by rcases h with h | h <;> simp [h])

theorem withFlit_badCrc {s : State} {l : Nat} {bs : List Byte} (hup : flitLevel s l = true) (hlen : bs.length = 256)
    (hcrc : crcHolds bs = false) (type : Nat) (body : State → FlitHdr → State) :
    withFlit s l bs type body = badCrc s l := by
  simp [withFlit, hup, hlen, hcrc]

theorem withFlit_good {s : State} {l type : Nat} {bs : List Byte} (hup : flitLevel s l = true)
    (hgood : flitGood bs = true) (htype : (flitHdrOf (leAt bs 0 8)).type = type) (body : State → FlitHdr → State) :
    withFlit s l bs type body = body s (flitHdrOf (leAt bs 0 8)) := by
  simp [withFlit, hup, hgood, flitGood_length hgood, flitGood_crcHolds hgood, htype]

/-- The three rows of flits differ in the type they take and in what they do with it. -/
theorem exec_flit {c : Instr} {l : Nat} {bs : List Byte} (h : c = .dataFlit l bs ∨ c = .idleFlit l bs ∨ c = .nakFlit l bs)
    (s : State) : ∃ type body, exec c s = .next (withFlit s l bs type body) := by
  rcases h with rfl | rfl | rfl <;> exact ⟨_, _, rfl⟩

/-- How far a flit's SEQ is ahead of the one expected. -/
def seqAhead (s : State) (l : Nat) (h : FlitHdr) : Nat := (h.seq + 4096 - (linkAt s l).rxSeq) % 4096

/-- A DATA flit by its place in the sequence (R325). -/
theorem dataFlit_good {s : State} {l : Nat} {bs : List Byte} (hup : flitLevel s l = true) (hgood : flitGood bs = true)
    (htype : (flitHdrOf (leAt bs 0 8)).type = 1) :
    dataFlit s l bs =
      if seqAhead s l (flitHdrOf (leAt bs 0 8)) = 0 then
        acceptFlit (flitFields s l (flitHdrOf (leAt bs 0 8))) l (flitHdrOf (leAt bs 0 8)) ((bs.drop 8).take 240)
      else if 2048 ≤ seqAhead s l (flitHdrOf (leAt bs 0 8)) then flitFields s l (flitHdrOf (leAt bs 0 8))
      else discardFlit s l :=
  withFlit_good hup hgood htype _

/-! ### Resending (R325, R326) -/

/-- A link after one more resend: the limit of resends asks for a retrain, the limit of retrains takes it down. -/
def resent (lim retr : Nat) (k : Link) : Link :=
  let r : Link := { k with resends := k.resends + 1 }
  if k.resends + 1 < lim then r
  else if k.attempts < retr then { r with retrainDue := true } else { r with downDue := some 4 }

/-- The state in which a resend of a link has been counted. -/
def resendCounted (s : State) (l : Nat) : State :=
  regSet s (oGlLreplayCnt + 0x20 * l) (min 0xFFFFFFFF (regGet s (oGlLreplayCnt + 0x20 * l) + 1))

theorem regGet_resendCounted (s : State) (l off : Nat) : regGet (resendCounted s l) off =
    if off = oGlLreplayCnt + 0x20 * l then min (regGet s (oGlLreplayCnt + 0x20 * l) + 1) 0xFFFFFFFF else regGet s off := by
  have hlt : min 0xFFFFFFFF (regGet s (oGlLreplayCnt + 0x20 * l) + 1) < 2 ^ 32 := by omega
  rw [resendCounted, regGet_regSet, Nat.mod_eq_of_lt hlt, Nat.min_comm]

theorem regGet_retry_resendCounted (s : State) (l : Nat) : regGet (resendCounted s l) oGlRetry = regGet s oGlRetry :=
  (regGet_resendCounted ..).trans (if_neg (by unfold oGlRetry oGlLreplayCnt; omega))

theorem resendAll_waiting {s : State} {l : Nat} (h : (linkAt s l).replay ≠ []) (hl : l < s.gl.links.length) :
    OnlyLink s (resendAll s l) l ∧ (∀ off, regGet (resendAll s l) off = regGet (resendCounted s l) off) ∧
      linkAt (resendAll s l) l =
        resent (fieldOf (regGet s oGlRetry) 3 0) (fieldOf (regGet s oGlRetry) 7 4) (linkAt s l) := by
  have hlink (f : Link → Link) := onlyLink_linkMod (u := resendCounted s l) (l := l) rfl hl f
  have hstep : resendAll s l =
      if fieldOf (regGet s oGlRetry) 3 0 ≤ (linkAt s l).resends + 1 then
        if fieldOf (regGet s oGlRetry) 7 4 ≤ (linkAt s l).attempts then
          linkMod (resendCounted s l) l (fun k => { k with resends := (linkAt s l).resends + 1, downDue := some 4 })
        else linkMod (resendCounted s l) l (fun k => { k with resends := (linkAt s l).resends + 1, retrainDue := true })
      else linkMod (resendCounted s l) l (fun k => { k with resends := (linkAt s l).resends + 1 }) := by
    rw [← regGet_retry_resendCounted s l]
    exact if_neg (by simpa using h)
  rw [hstep, resent]
  by_cases hlim : (linkAt s l).resends + 1 < fieldOf (regGet s oGlRetry) 3 0
  · rw [if_neg (Nat.not_le.2 hlim), if_pos hlim]
    exact ⟨(hlink _).1, fun _ => rfl, (hlink _).2⟩
  rw [if_pos (Nat.not_lt.1 hlim), if_neg hlim]
  by_cases hretr : (linkAt s l).attempts < fieldOf (regGet s oGlRetry) 7 4
  · rw [if_neg (Nat.not_le.2 hretr), if_pos hretr]
    exact ⟨(hlink _).1, fun _ => rfl, (hlink _).2⟩
  · rw [if_pos (Nat.not_lt.1 hretr), if_neg hretr]
    exact ⟨(hlink _).1, fun _ => rfl, (hlink _).2⟩

/-- Settles O50: a flit by the level of its link, its CRC, its type and its place in the sequence. -/
theorem linkFlitsAreCheckedOrderedAndReplayed : Obligations.LinkFlitsAreCheckedOrderedAndReplayed := by
  refine ⟨fun h hfits => ⟨flitHdrOf_flitHdr hfits, flitHdr_lt hfits⟩, fun s l bs hinv hl => ?_⟩
  obtain ⟨-, -, hshape, -⟩ := hinv
  have hlinks := link_lt hshape hl
  refine ⟨fun h => ⟨⟨_, rfl, ?data⟩, ⟨_, rfl, ?idles⟩, ⟨_, rfl, ?naks⟩⟩, fun hup hlen hcrc c hc => ?crc,
    fun hup hgood => ⟨fun htype (hd : seqAhead s l (flitHdrOf (leAt bs 0 8)) = 0) => ⟨_, rfl, ?inOrder⟩,
      fun htype (hd : 2048 ≤ seqAhead s l (flitHdrOf (leAt bs 0 8))) => ⟨_, rfl, ?received⟩,
      fun htype (hd0 : 0 < seqAhead s l (flitHdrOf (leAt bs 0 8)))
        (hd : seqAhead s l (flitHdrOf (leAt bs 0 8)) < 2048) => ⟨_, rfl, ?ahead⟩,
      fun htype => ⟨_, rfl, withFlit_good hup hgood htype _⟩, fun htype => ⟨_, rfl, withFlit_good hup hgood htype _⟩⟩,
    fun hstate hreplay => ⟨_, rfl, ?resends⟩, fun hstate => ⟨_, rfl, if_neg hstate⟩⟩
  case data | idles | naks => exact withFlit_notUsed h ..
  case crc =>
    obtain ⟨type, body, hexec⟩ := exec_flit hc s
    refine ⟨_, hexec, ?_⟩
    rw [withFlit_badCrc hup hlen hcrc]
    exact ⟨discards_discardFlit rfl hlinks, (regGet_bump s _ _).trans (if_pos rfl)⟩
  case inOrder => rw [dataFlit_good hup hgood htype, if_pos hd]
  case received => rw [dataFlit_good hup hgood htype, if_neg (by omega), if_pos hd]
  case ahead =>
    rw [dataFlit_good hup hgood htype, if_neg hd0.ne', if_neg (Nat.not_le.2 hd)]
    exact ⟨discards_discardFlit rfl hlinks, rfl⟩
  case resends =>
    obtain ⟨honly, hregs, hlink⟩ := resendAll_waiting hreplay hlinks
    rw [if_pos hstate]
    refine ⟨honly, ?_, hlink⟩
    rw [hregs, regGet_resendCounted, if_pos rfl]

/-- A link between its training and its first flit, one DATA flit unacknowledged and resent as often as the limit allows. -/
def upLink : Link := { Link.reset with state := 2, replay := [⟨0, 0, false, [], 0, true⟩], resends := 15 }

/-- The state after reset with link 0 up. -/
def linkedReset : State :=
  { State.reset with gl := { GenleSt.reset with links := upLink :: List.replicate 95 Link.reset } }

theorem inv_linkedReset : Inv linkedReset := ⟨rfl, rfl, rfl, Nat.two_pow_pos 48⟩

/-- The IDLE flit of a link on which nothing has arrived. -/
def idleHdr : FlitHdr := ⟨0, 0, false, 0, 0, 0, 0, 0, false, 0, false, false⟩

theorem idleHdr_fits : FlitHdrFits idleHdr := by unfold FlitHdrFits; decide

/-- A flit of zeros but for its last byte. -/
def damagedFlit : List Byte := List.replicate 255 0 ++ [1]

theorem crc64_zeros (n : Nat) : crc64 (List.replicate n 0) = 0 := by
  induction n with
  | zero => rfl
  | succ n ih => exact ih

theorem length_damagedFlit : damagedFlit.length = 256 := by
  rw [damagedFlit, List.length_append, List.length_replicate]
  rfl

theorem crcHolds_damagedFlit : crcHolds damagedFlit = false := by
  have hcrc : crc64 (damagedFlit.take 248) = 0 := by
    rw [damagedFlit, List.take_append_of_le_length (by rw [List.length_replicate]; decide), List.take_replicate, crc64_zeros]
  have hsent : leAt damagedFlit 248 8 = 2 ^ 56 := by
    rw [leAt, damagedFlit, List.drop_append_of_le_length (by rw [List.length_replicate]; decide), List.drop_replicate]
    rfl
  rw [crcHolds, hcrc, hsent]
  rfl

/-- The IDLE flit gives its fields; the damaged one owes a NAK; an acknowledgement that stays away at the limit of resends
asks for a retrain. -/
theorem flits_linkedReset :
    Gives (.idleFlit 0 (flitBytes idleHdr [])) linkedReset (· = flitFields linkedReset 0 idleHdr) ∧
      Gives (.idleFlit 0 damagedFlit) linkedReset (fun t => (linkAt t 0).nakOwed = true) ∧
      Gives (.ackTimeout 0) linkedReset (fun t => (linkAt t 0).retrainDue = true) := by
  obtain ⟨-, flits⟩ := linkFlitsAreCheckedOrderedAndReplayed
  obtain ⟨-, -, good, -⟩ := flits linkedReset 0 (flitBytes idleHdr []) inv_linkedReset (by decide)
  obtain ⟨-, bad, -, resends, -⟩ := flits linkedReset 0 damagedFlit inv_linkedReset (by decide)
  rw [leAt_flitBytes idleHdr_fits, flitHdrOf_flitHdr idleHdr_fits] at good
  obtain ⟨-, -, -, idle, -⟩ := good (by decide) (flitGood_flitBytes idleHdr_fits (by decide) [])
  refine ⟨idle rfl, (bad (by decide) length_damagedFlit crcHolds_damagedFlit _ (.inr (.inl rfl))).imp ?_,
    (resends (by decide) (by decide)).imp ?_⟩
  · rintro t ⟨⟨-, hlink⟩, -⟩
    rw [hlink]
    decide
  · rintro t ⟨-, -, hlink⟩
    rw [hlink]
    decide

end Sys2Proof.Spec

/-!
PROOF. Ports and links (O51).
-/
namespace Sys2Proof.Spec

open Sys2Proof Sys2Proof.Machine

/-! ### Updates of some links -/

/-- `t` is `s` but for its links, as many as before. -/
def LinksOnly (s t : State) : Prop :=
  t = { s with gl := { s.gl with links := t.gl.links } } ∧ t.gl.links.length = s.gl.links.length

/-- `t` is `s` with `f` done to the links of `ls`. -/
def LinksUpdated (f : Nat → Link → Link) (s t : State) (ls : List Nat) : Prop :=
  LinksOnly s t ∧ ∀ p, p < s.gl.links.length →
    (p ∈ ls → linkAt t p = f p (linkAt s p)) ∧ (p ∉ ls → linkAt t p = linkAt s p)

theorem LinksOnly.refl (s : State) : LinksOnly s s := ⟨rfl, rfl⟩

theorem LinksOnly.trans {s t u : State} (a : LinksOnly s t) (b : LinksOnly t u) : LinksOnly s u := by
  obtain ⟨ht, hlen⟩ := a
  obtain ⟨hu, hlen'⟩ := b
  refine ⟨?_, hlen'.trans hlen⟩
  rw [hu, ht]

theorem linkMod_length (s : State) (l : Nat) (f : Link → Link) : (linkMod s l f).gl.links.length = s.gl.links.length := by
  simp [linkMod, modAt]

theorem linksUpdated_linkMod {s : State} {l : Nat} (h : l < s.gl.links.length) {f : Nat → Link → Link} {g : Link → Link}
    (hfg : f l (linkAt s l) = g (linkAt s l)) : LinksUpdated f s (linkMod s l g) [l] := by
  refine ⟨⟨rfl, linkMod_length ..⟩, fun p _ => ⟨fun hp => ?_, fun hp => ?_⟩⟩
  · rw [List.mem_singleton.1 hp, linkAt_linkMod_same h, hfg]
  · rw [linkAt_linkMod h, if_neg (mt List.mem_singleton.2 hp)]

theorem linksUpdated_keep {s : State} {l : Nat} {f : Nat → Link → Link} (h : f l (linkAt s l) = linkAt s l) :
    LinksUpdated f s s [l] :=
  ⟨LinksOnly.refl s, fun p _ => ⟨fun hp => by rw [List.mem_singleton.1 hp, h], fun _ => rfl⟩⟩

/-- Links updated one after the other, each step seeing a state that differs from the first in its links alone. -/
theorem linksUpdated_foldl {f : Nat → Link → Link} {step : State → Nat → State} (ls : List Nat) (hls : ls.Nodup) {s : State}
    (h : ∀ u, LinksOnly s u → ∀ l ∈ ls, LinksUpdated f u (step u l) [l]) : LinksUpdated f s (ls.foldl step s) ls := by
  induction ls generalizing s with
  | nil => exact ⟨LinksOnly.refl s, fun p _ => ⟨fun hp => absurd hp List.not_mem_nil, fun _ => rfl⟩⟩
  | cons l ls ih =>
    obtain ⟨hl, hnodup⟩ := List.nodup_cons.1 hls
    obtain ⟨hfirst, hat⟩ := h s (LinksOnly.refl s) l List.mem_cons_self
    obtain ⟨hrest, hat'⟩ := ih hnodup (fun u hu p hp => h u (hfirst.trans hu) p (List.mem_cons_of_mem l hp))
    refine ⟨hfirst.trans hrest, fun p hp => ?_⟩
    obtain ⟨hin, hout⟩ := hat p hp
    obtain ⟨hin', hout'⟩ := hat' p (hp.trans_eq hfirst.2.symm)
    rw [List.foldl_cons]
    by_cases hpl : p = l
    · rw [hout' (hpl ▸ hl), hin (List.mem_singleton.2 hpl)]
      exact ⟨fun _ => rfl, fun hp => absurd (hpl ▸ List.mem_cons_self) hp⟩
    · rw [hout (mt List.mem_singleton.1 hpl)] at hin' hout'
      exact ⟨fun hp => hin' ((List.mem_cons.1 hp).resolve_left hpl), fun hp => hout' (mt (List.mem_cons_of_mem l) hp)⟩

/-! ### The links of a port -/

theorem mem_portLinks {p l : Nat} : l ∈ portLinks p ↔ l / 4 = p := by
  simp only [portLinks, List.mem_cons, List.not_mem_nil, or_false]
  omega

theorem nodup_portLinks (p : Nat) : (portLinks p).Nodup := by
  simp [portLinks]

theorem portAt_portMod {s : State} {p : Nat} (h : p < s.gl.ports.length) (f : GPort → GPort) (q : Nat) :
    portAt (portMod s p f) q = if q = p then f (portAt s p) else portAt s q :=
  getD_modAt s.gl.ports p q f GPort.reset h

theorem LinksOnly.portAt {s t : State} (h : LinksOnly s t) (p : Nat) : portAt t p = portAt s p := by
  rw [h.1]
  rfl

/-- `t` is `s` with one port updated, and `f` done to the links of that port. -/
def PortUpdated (s t : State) (p : Nat) (g : GPort → GPort) (f : Nat → Link → Link) : Prop :=
  t = { s with gl := { s.gl with ports := t.gl.ports, links := t.gl.links } } ∧ portAt t p = g (portAt s p) ∧
    ∀ l, l < 96 → linkAt t l = if l / 4 = p then f l (linkAt s l) else linkAt s l

/-- A port's update with that of its links. -/
theorem portUpdated_foldl {s : State} (hshape : shapeWf s = true) {p : Nat} (hp : p < 24) (g : GPort → GPort)
    {f : Nat → Link → Link} {step : State → Nat → State}
    (h : ∀ u, LinksOnly (portMod s p g) u → ∀ l ∈ portLinks p, LinksUpdated f u (step u l) [l]) :
    PortUpdated s ((portLinks p).foldl step (portMod s p g)) p g f := by
  obtain ⟨honly, hat⟩ := linksUpdated_foldl (portLinks p) (nodup_portLinks p) h
  refine ⟨?_, ?_, fun l hl => ?_⟩
  · rw [honly.1]
    rfl
  · rw [honly.portAt, portAt_portMod (port_lt hshape hp), if_pos rfl]
  · obtain ⟨hin, hout⟩ := hat l (link_lt (s := s) hshape hl)
    by_cases hp : l / 4 = p
    · rw [if_pos hp]
      exact hin (mem_portLinks.2 hp)
    · rw [if_neg hp]
      exact hout (mt mem_portLinks.1 hp)

theorem link_lt_of_port {s u : State} (hshape : shapeWf s = true) {p l : Nat} {g : GPort → GPort} (hp : p < 24)
    (hu : LinksOnly (portMod s p g) u) (hl : l ∈ portLinks p) : l < u.gl.links.length := by
  rw [mem_portLinks] at hl
  rw [hu.2]
  exact link_lt (s := s) hshape (by omega)

/-- One update done to every link of a port. -/
theorem portUpdated_linkMods {s : State} (hshape : shapeWf s = true) {p : Nat} (hp : p < 24) (g : GPort → GPort)
    (f : Link → Link) :
    PortUpdated s ((portLinks p).foldl (fun s l => linkMod s l f) (portMod s p g)) p g (fun _ => f) := by
  exact portUpdated_foldl hshape hp g fun u hu l hl => linksUpdated_linkMod (link_lt_of_port hshape hp hu hl) rfl

/-! ### Ports (R318, R326, R334) -/

theorem ports_le (s : State) : (vnt s).ports ≤ 24 := by
  unfold vnt variantOf
  split <;> decide

/-- A link that starts its training (R334). -/
def training (k : Link) : Link := { k with state := 1, reason := 0, trains := 0 }

theorem startTraining_starts {s : State} {l : Nat} (hex : linkExists s l = true) (htopo : (topoEntry s l).2.2 = true)
    (hgrade : gradeOf s (unitLink l) ≠ 3) (hport : (portAt s (l / 4)).active = true)
    (hstate : (linkAt s l).state = 0 ∨ (linkAt s l).state = 4) : startTraining s l = linkMod s l training :=
  if_pos (by simp [hex, htopo, hgrade, hport, hstate])

theorem startTraining_stays {s : State} {l : Nat} (h : ¬((topoEntry s l).2.2 = true ∧ gradeOf s (unitLink l) ≠ 3 ∧
    ((linkAt s l).state = 0 ∨ (linkAt s l).state = 4))) : startTraining s l = s :=
  if_neg (by simp only [Bool.and_eq_true, Bool.or_eq_true, beq_iff_eq, bne_iff_ne]; tauto)

/-- What an activated port does to its link `l`. -/
def activated (s : State) (l : Nat) (k : Link) : Link :=
  if k.reason = 0 ∧ (topoEntry s l).2.2 = true ∧ gradeOf s (unitLink l) ≠ 3 ∧ (k.state = 0 ∨ k.state = 4) then training k
  else k

theorem portActive_activates {s : State} (hshape : shapeWf s = true) {p : Nat} (hp : p < (vnt s).ports)
    (hrun : s.boot.running = true) (hretr : (portAt s p).retraining = false) (hact : (portAt s p).active = false)
    (habs : (portAt s p).absent = false) (full : Bool) :
    PortUpdated s (portActive s p true full) p (fun x => { x with active := true, half := !full }) (activated s) := by
  have hstep : portActive s p true full = (portLinks p).foldl
      (fun s l => if (linkAt s l).reason = 0 then startTraining s l else s)
      (portMod s p (fun x => { x with active := true, half := !full })) := by
    simp [portActive, hp, hrun, hretr, hact, habs]
  have hp24 := hp.trans_le (ports_le s)
  rw [hstep]
  refine portUpdated_foldl hshape hp24 _ fun u hu l hl => ?_
  have hlen := link_lt_of_port hshape hp24 hu hl
  rw [mem_portLinks] at hl
  have hport : (portAt u (l / 4)).active = true := by
    rw [hu.portAt, hl, portAt_portMod (port_lt hshape hp24), if_pos rfl]
  have hex : linkExists u l = true := by
    rw [hu.1]
    exact decide_eq_true (hl.trans_lt hp)
  have htopo : topoEntry u l = topoEntry s l := by rw [hu.1]; rfl
  have hgrade : gradeOf u (unitLink l) = gradeOf s (unitLink l) := by rw [hu.1]; rfl
  by_cases hreason : (linkAt u l).reason = 0
  · rw [if_pos hreason]
    by_cases hc : (topoEntry u l).2.2 = true ∧ gradeOf u (unitLink l) ≠ 3 ∧
        ((linkAt u l).state = 0 ∨ (linkAt u l).state = 4)
    · obtain ⟨ht, hg, hstate⟩ := hc
      rw [startTraining_starts hex ht hg hport hstate]
      rw [htopo] at ht
      rw [hgrade] at hg
      exact linksUpdated_linkMod hlen (if_pos ⟨hreason, ht, hg, hstate⟩)
    · rw [startTraining_stays hc]
      rw [htopo, hgrade] at hc
      exact linksUpdated_keep (if_neg (mt And.right hc))
  · rw [if_neg hreason]
    exact linksUpdated_keep (if_neg (mt And.left hreason))

theorem portActive_unsupported {s : State} {p : Nat} (hp : p < (vnt s).ports) (hrun : s.boot.running = true) (full : Bool) :
    portActive s p false full = portLost s p true := by
  simp [portActive, hp, hrun]

theorem portActive_back {s : State} {p : Nat} (hp : p < (vnt s).ports) (hrun : s.boot.running = true)
    (hretr : (portAt s p).retraining = true) (full : Bool) : portActive s p true full = portBack s p full := by
  simp [portActive, hp, hrun, hretr]

theorem portActive_known {s : State} {p : Nat} (hretr : (portAt s p).retraining = false)
    (h : (portAt s p).active = true ∨ (portAt s p).absent = true) (full : Bool) : portActive s p true full = s := by
  rcases h with h | h <;> simp [portActive, hretr, h]

/-- A link of a port that is lost (R326). -/
def cutOff (k : Link) : Link := if k.state = 2 ∨ k.state = 3 then { k with downDue := some 4 } else k

/-- A link of a port that is asked to retrain (R326). -/
def held (k : Link) : Link := if k.state = 2 then { k with state := 3 } else k

theorem portUpdated_portLost {s : State} (hshape : shapeWf s = true) {p : Nat} (hp : p < 24) (absent : Bool) :
    PortUpdated s (portLost s p absent) p
      (fun x => { x with active := false, retraining := false, live := false, absent := absent }) (fun _ => cutOff) := by
  unfold portLost
  exact portUpdated_linkMods hshape hp _ cutOff

theorem portUpdated_retrainPort {s : State} (hshape : shapeWf s = true) {p : Nat} (hp : p < 24) (live : Bool) :
    PortUpdated s (retrainPort s p live) p (fun x => { x with retraining := true, live := live }) (fun _ => held) := by
  unfold retrainPort
  exact portUpdated_linkMods hshape hp _ held

/-! ### TRAIN flits (R334) -/

theorem linkMod_linkMod (s : State) (l : Nat) (f g : Link → Link) :
    linkMod (linkMod s l f) l g = linkMod s l (fun k => g (f k)) := by
  simp [linkMod, modAt, List.modify_modify_eq, Function.comp_def]

/-- Equal TRAIN payloads in a row on a link, with this one. -/
def trainRun (k : Link) (p : List Byte) : Nat := if p = k.lastTrain ∧ k.trains ≠ 0 then k.trains + 1 else 1

/-- A link that has taken a TRAIN payload. -/
def seenTrain (p : List Byte) (n : Nat) (k : Link) : Link :=
  { k with trains := n, lastTrain := p, peerChip := leAt p 0 2, peerLink := leAt p 5 1 }

/-- A link that comes up, with its credits at the configured values (R334, R391). -/
def cameUp (cfg : List Nat) (p : List Byte) (n : Nat) (k : Link) : Link :=
  { Link.reset with
    state := 2, peerChip := leAt p 0 2, peerLink := leAt p 5 1, lastTrain := p, trains := n
    cred := cfg, cfg := cfg, retrainTurns := k.retrainTurns }

/-- The three outcomes of a good TRAIN flit (R334). -/
theorem trainFlit_good {s : State} {l : Nat} {bs : List Byte} (hex : linkExists s l = true) (hpf : s.gov.pfDone = false)
    (hstate : (linkAt s l).state = 1 ∨ (linkAt s l).state = 5) (hgood : flitGood bs = true)
    (htype : (flitHdrOf (leAt bs 0 8)).type = 3) {p : List Byte} (hp : p = (bs.drop 8).take 20) {n : Nat}
    (hn : n = trainRun (linkAt s l) p) :
    trainFlit s l bs =
      if n < 3 then linkMod s l (seenTrain p n)
      else if trainFault s l p = 0 then linkMod s l (cameUp (configuredCredits s) p n)
      else linkMod (bump s oGlTopoMismatchCnt) l (fun k =>
        { seenTrain p n k with state := 0, reason := trainFault s l p, trains := 0 }) := by
  subst hp
  have hn : n = if ((bs.drop 8).take 20 = (linkAt s l).lastTrain && (linkAt s l).trains != 0) = true
      then (linkAt s l).trains + 1 else 1 := by
    simpa [trainRun] using hn
  have hup : ¬(!linkExists s l || !((linkAt s l).state == 1 || (linkAt s l).state == 5) || bs.length ≠ 256
      || s.gov.pfDone) = true := by
    rcases hstate with h | h <;> simp [hex, hpf, flitGood_length hgood, h]
  unfold trainFlit
  extract_lets k h p m u
  rw [if_neg hup, if_neg (by simp [flitGood_crcHolds hgood]), if_neg (by simp [h, hgood, htype])]
  have hu : u = linkMod s l (seenTrain p n) := by rw [hn]; rfl
  have hm : m = n := hn.symm
  rw [hm]
  split
  next => exact hu
  rw [hu, show trainFault (linkMod s l (seenTrain p n)) l p = trainFault s l p from rfl]
  split
  next hagrees =>
    rw [if_pos hagrees]
    exact linkMod_linkMod ..
  next hdiffers =>
    rw [if_neg hdiffers]
    exact linkMod_linkMod (bump s oGlTopoMismatchCnt) ..

/-! ### Commands (R335) -/

theorem liveRetrain_active {s : State} {l : Nat} (hex : linkExists s l = true) (hact : (portAt s (l / 4)).active = true)
    (hretr : (portAt s (l / 4)).retraining = false) : liveRetrain s l = retrainPort s (l / 4) true :=
  if_pos (by simp [hex, hact, hretr])

/-- The registers of an absent link ignore its commands (R415). -/
theorem linkCommands_absent {s : State} {l : Nat} (hex : linkExists s l = false) :
    disableLink s l = s ∧ startTraining s l = s ∧ liveRetrain s l = s :=
  ⟨if_neg (by simp [hex]), if_neg (by simp [hex]), if_neg (by simp [hex])⟩

/-- Settles O51: ports by what an activation finds, TRAIN flits by the number of equal payloads and by what disagrees. -/
theorem portsAndLinksTrainAndRetrain : Obligations.PortsAndLinksTrainAndRetrain := by
  refine ⟨fun s p supported full hinv hp hrun => ?activation, fun s p hinv hp => ?timeout,
    fun s l bs hinv hl hex hpf hstate hgood htype => ?train, fun s l hinv hl => ?commands⟩
  all_goals obtain ⟨-, -, hshape, -⟩ := hinv
  case activation =>
    refine ⟨?_, ?_, ?_, ?_⟩
    · rintro rfl
      exact ⟨_, rfl, portActive_unsupported hp hrun full⟩
    · rintro rfl hretr
      exact ⟨_, rfl, portActive_back hp hrun hretr full⟩
    · rintro rfl hretr h
      exact ⟨_, rfl, portActive_known hretr h full⟩
    · rintro rfl hretr hact habs
      obtain ⟨honly, hport, hlinks⟩ := portActive_activates hshape hp hrun hretr hact habs full
      refine ⟨_, rfl, honly, hport, fun l hl => ?_⟩
      rw [hlinks l hl]
      by_cases hlp : l / 4 = p
      · simp [hlp, activated, training]
      · simp [hlp]
  case timeout =>
    refine ⟨fun hretr => ⟨_, rfl, ?_⟩, fun hretr => ⟨_, rfl, if_neg (by simp [hretr])⟩⟩
    rw [retrainTimeout, if_pos hretr]
    obtain ⟨honly, hport, hlinks⟩ := portUpdated_portLost hshape hp false
    refine ⟨honly, hport, fun l hl => ?_⟩
    rw [hlinks l hl]
    by_cases hlp : l / 4 = p
    · simp [hlp, cutOff]
    · simp [hlp]
  case train =>
    have hlinks := link_lt hshape hl
    have htrain := trainFlit_good hex hpf hstate hgood htype rfl rfl
    intro p k n seen
    refine ⟨fun (hn : trainRun k p < 3) => ⟨_, rfl, ?_⟩, fun (hn : 3 ≤ trainRun k p) hagrees => ⟨_, rfl, ?_⟩,
      fun (hn : 3 ≤ trainRun k p) hdiffers => ⟨_, rfl, ?_⟩⟩
    · rw [htrain, if_pos hn]
      obtain ⟨honly, hlink⟩ := onlyLink_linkMod (u := s) rfl hlinks (seenTrain p (trainRun k p))
      exact ⟨honly, rfl, hlink⟩
    · rw [htrain, if_neg (Nat.not_lt.2 hn), if_pos hagrees]
      obtain ⟨honly, hlink⟩ := onlyLink_linkMod (u := s) rfl hlinks (cameUp (configuredCredits s) p (trainRun k p))
      exact ⟨honly, rfl, hlink⟩
    · rw [htrain, if_neg (Nat.not_lt.2 hn), if_neg hdiffers]
      obtain ⟨honly, hlink⟩ := onlyLink_linkMod (u := bump s oGlTopoMismatchCnt) rfl hlinks
        (fun k' => { seenTrain p (trainRun k p) k' with state := 0, reason := trainFault s l p, trains := 0 })
      exact ⟨honly, hlink, (regGet_bump s _ _).trans (if_pos rfl)⟩
  case commands =>
    have hlinks := link_lt hshape hl
    refine ⟨fun hex => ⟨_, rfl, ?disable⟩, fun hex htopo hgrade hport hstate => ⟨_, rfl, ?enable⟩,
      fun hex hact hretr => ⟨_, rfl, ?retrain⟩, fun hex => ?absent⟩
    case disable =>
      rw [disableLink, if_pos hex]
      obtain ⟨honly, hlink⟩ := onlyLink_linkMod (u := s) rfl hlinks (fun k => { k with downDue := some 5 })
      exact ⟨honly, rfl, hlink⟩
    case enable =>
      rw [startTraining_starts hex htopo hgrade hport hstate]
      obtain ⟨honly, hlink⟩ := onlyLink_linkMod (u := s) rfl hlinks training
      exact ⟨honly, rfl, hlink⟩
    case retrain =>
      rw [liveRetrain_active hex hact hretr]
      obtain ⟨honly, hport, hall⟩ := portUpdated_retrainPort hshape (by omega : l / 4 < 24) true
      refine ⟨honly, hport, fun k hk => ?_⟩
      rw [hall k hk]
      by_cases hkp : k / 4 = l / 4
      · simp [hkp, held]
      · simp [hkp]
    case absent =>
      obtain ⟨hdisable, henable, hretrain⟩ := linkCommands_absent hex
      exact ⟨⟨_, rfl, hdisable⟩, ⟨_, rfl, henable⟩, ⟨_, rfl, hretrain⟩⟩

/-- The state after reset of a block that has started, the topology naming chip 0's link 0 as the peer of link 0, and link 1
training: two payloads of zeros have come on it. -/
def trainingReset : State :=
  { State.reset with
    boot := { BootSt.reset with running := true, topo := [2 ^ 31] }
    gl := { GenleSt.reset with links :=
      [Link.reset, { Link.reset with state := 1, trains := 2, lastTrain := zeroBytes 20 }] ++ List.replicate 94 Link.reset } }

theorem inv_trainingReset : Inv trainingReset := ⟨rfl, rfl, rfl, Nat.two_pow_pos 48⟩

/-- The header of a TRAIN flit. -/
def trainHdr : FlitHdr := { idleHdr with type := 3 }

theorem trainHdr_fits : FlitHdrFits trainHdr := by unfold FlitHdrFits; decide

/-- The port's activation starts the training of link 0; the third equal payload on link 1 disagrees with the version of
this chip, so the link stays down with reason 2; a link disabled goes down at the next boundary. -/
theorem training_trainingReset :
    Gives (.portActive 0 true true) trainingReset (fun t => (linkAt t 0).state = 1) ∧
      Gives (.trainFlit 1 (flitBytes trainHdr (zeroBytes 20))) trainingReset (fun t => (linkAt t 1).state = 0 ∧ (linkAt t 1).reason = 2) ∧
      Gives (.glLcmdDisable 1) trainingReset (fun t => (linkAt t 1).downDue = some 5) := by
  obtain ⟨ports, -, trains, commands⟩ := portsAndLinksTrainAndRetrain
  obtain ⟨-, -, -, activates⟩ := ports trainingReset 0 true true inv_trainingReset (by decide) rfl
  obtain ⟨-, -, differs⟩ := trains trainingReset 1 (flitBytes trainHdr (zeroBytes 20)) inv_trainingReset (by decide)
    (by decide) rfl (.inl rfl) (flitGood_flitBytes trainHdr_fits (by decide) _)
    (by rw [leAt_flitBytes trainHdr_fits, flitHdrOf_flitHdr trainHdr_fits]; rfl)
  rw [show ((flitBytes trainHdr (zeroBytes 20)).drop 8).take 20 = zeroBytes 20 from
    payload_flitBytes trainHdr rfl (by decide)] at differs
  obtain ⟨disables, -⟩ := commands trainingReset 1 inv_trainingReset (by decide)
  refine ⟨(activates rfl rfl rfl rfl).imp ?_, (differs (by decide) (by decide)).imp ?_, (disables (by decide)).imp ?_⟩
  · rintro t ⟨-, -, hlinks⟩
    rw [hlinks 0 (by decide)]
    decide
  · rintro t ⟨-, hlink, -⟩
    rw [hlink]
    decide
  · rintro t ⟨-, -, hlink⟩
    rw [hlink]

end Sys2Proof.Spec

/-!
PROOF. Discovery and group formation (O52).
-/
namespace Sys2Proof.Spec

open Sys2Proof Sys2Proof.Machine

/-! ### The decision root's commands (R378, R379) -/

theorem discoveryStart_root {s : State} (hroot : rootChip s = s.gl.chip) (hover : trainingOver s = true)
    (hdisc : s.boot.discTurn = none) : discoveryStart s =
      multicast { s with boot := { s.boot with discTurn := some s.time.turn, replies := [s.gl.chip] } } 255
        ⟨0x10, false, s.gl.chip, 0, 0, 0, 0, 0, 0, 0, []⟩ :=
  if_neg (by simp [hroot, hover, hdisc])

theorem discoveryStart_stays {s : State}
    (h : rootChip s ≠ s.gl.chip ∨ trainingOver s = false ∨ s.boot.discTurn ≠ none) : discoveryStart s = s :=
  if_pos (by rcases h with h | h | h <;> simp [h, ← Option.ne_none_iff_isSome])

theorem discoverTimeout_root {s : State} {t0 : Nat} (hroot : rootChip s = s.gl.chip) (hdisc : s.boot.discTurn = some t0)
    (hdue : t0 + 24415 ≤ s.time.turn) (hnone : s.boot.missing = []) :
    discoverTimeout s = { s with boot := { s.boot with missing := silentChips s } } := by
  rw [discoverTimeout, hdisc]
  exact if_pos (by simp [hroot, hdue, hnone, ms50])

theorem discoverTimeout_notRoot {s : State} (hroot : rootChip s ≠ s.gl.chip) : discoverTimeout s = s := by
  unfold discoverTimeout
  split
  next => exact if_neg (by simp [hroot])
  next => rfl

/-- The silent chips are those of the training set that have not replied. -/
theorem mem_silentChips {s : State} {c : Nat} : c ∈ silentChips s ↔ c ∈ trainingSet s ∧ c ∉ s.boot.replies := by
  simp [silentChips]

theorem groupFormation_root {s : State} (hroot : rootChip s = s.gl.chip) (hdisc : s.boot.discTurn ≠ none)
    (hdone : s.boot.groupDone = false) (hsilent : silentChips s = s.boot.missing) : groupFormation s =
      multicast s 255 ⟨0x10, false, s.gl.chip, 0, 0, 0, 0, 1, 0, 0, chipMap 2048 s.boot.missing⟩ :=
  if_neg (by simp [hroot, hdisc, hdone, hsilent])

theorem groupFormation_notRoot {s : State} (hroot : rootChip s ≠ s.gl.chip) : groupFormation s = s :=
  if_pos (by simp [hroot])

/-! ### The time-out of group formation (R378) -/

/-- Group formation has waited too long: 100 ms since the wave, or 400 ms since this chip's training without one. -/
def FormationLate (s : State) : Prop :=
  (∃ t0, s.boot.discTurn = some t0 ∧ t0 + 48829 ≤ s.time.turn) ∨
    (s.boot.discTurn = none ∧ ∃ t0, s.boot.trainEnd = some t0 ∧ t0 + 195313 ≤ s.time.turn)

theorem groupTimeout_late {s : State} (hdone : s.boot.groupDone = false) (h : FormationLate s) :
    groupTimeout s = { s with boot := { s.boot with groupDone := true } } := by
  rcases h with ⟨t0, hdisc, hdue⟩ | ⟨hdisc, t0, hend, hdue⟩
  · simp [groupTimeout, hdone, hdisc, hdue, ms100]
  · simp [groupTimeout, hdone, hdisc, hend, hdue, ms400]

theorem groupTimeout_notStarted {s : State} (hdisc : s.boot.discTurn = none) (hend : s.boot.trainEnd = none) :
    groupTimeout s = s := by
  simp [groupTimeout, hdisc, hend]

/-! ### DISCOVER, DISCOVER_REP and LINK_STATUS (R331, R336) -/

theorem takeDiscover_ready {s : State} {m : Msg} (h : Ready s m 0x10) (hover : trainingOver s = true) :
    takeDiscover s m =
      let u := forwardDiscover s m
      if bitOf m.aux 0 then { u with boot := { u.boot with
        groupOk := u.boot.groupOk || (!u.boot.groupDone && !groupMissing u m), groupDone := true } }
      else
        let v : State := { u with boot := { u.boot with
          discTurn := if u.boot.discTurn.isSome then u.boot.discTurn else some u.time.turn } }
        sendTo v (rootChip v) ⟨0x11, false, v.gl.chip, 0, 0, 0, 0, deadRoutes v, 0, 0, upMap v⟩ :=
  if_neg (by simp [h.1, h.2, hover])

/-- The state in which the reply of chip `c` has been noted. -/
def noteReply (u : State) (c : Nat) : State :=
  if u.boot.replies.contains c then u else { u with boot := { u.boot with replies := u.boot.replies ++ [c] } }

theorem noteReply_only (u : State) (c : Nat) :
    noteReply u c = { u with boot := { u.boot with replies := (noteReply u c).boot.replies } } := by
  unfold noteReply
  split <;> rfl

theorem mem_noteReply {u : State} {c d : Nat} : d ∈ (noteReply u c).boot.replies ↔ d = c ∨ d ∈ u.boot.replies := by
  unfold noteReply
  split
  next h =>
    have hc : c ∈ u.boot.replies := by simpa using h
    exact ⟨.inr, fun hd => hd.elim (fun e => e ▸ hc) id⟩
  next => simp [or_comm]

theorem trainingSet_noteReply (u : State) (c : Nat) : trainingSet (noteReply u c) = trainingSet u := by
  rw [noteReply_only]
  rfl

theorem takeDiscoverRep_ready {s : State} {m : Msg} (h : Ready s m 0x11) :
    takeDiscoverRep s m =
      if rootChip (consumeMsg s m) ≠ (consumeMsg s m).gl.chip then consumeMsg s m
      else if (silentChips (noteReply (consumeMsg s m) m.src)).isEmpty then
        { noteReply (consumeMsg s m) m.src with boot := { (noteReply (consumeMsg s m) m.src).boot with discDone := true } }
      else noteReply (consumeMsg s m) m.src :=
  if_neg (by simp [h.1, h.2])

/-- What a reply does at the root, whether or not it is the last (R336). -/
theorem takeDiscoverRep_root {s : State} {m : Msg} (h : Ready s m 0x11) {u : State} (hu : u = consumeMsg s m)
    (hroot : rootChip u = u.gl.chip) :
    let t := takeDiscoverRep s m
    t = { u with boot := { u.boot with replies := t.boot.replies, discDone := t.boot.discDone } } ∧
      (∀ c, c ∈ t.boot.replies ↔ c = m.src ∨ c ∈ u.boot.replies) ∧
      ((∀ c ∈ trainingSet u, c = m.src ∨ c ∈ u.boot.replies) → t.boot.discDone = true) := by
  subst hu
  have hall : (silentChips (noteReply (consumeMsg s m) m.src)).isEmpty = true ↔
      ∀ c ∈ trainingSet (consumeMsg s m), c = m.src ∨ c ∈ (consumeMsg s m).boot.replies := by
    simp only [List.isEmpty_iff, List.eq_nil_iff_forall_not_mem, mem_silentChips, trainingSet_noteReply, mem_noteReply]
    exact forall_congr' fun c => not_and_not_right
  intro t
  have ht : t = _ := takeDiscoverRep_ready h
  rw [if_neg (not_not.2 hroot)] at ht
  have honly := noteReply_only (consumeMsg s m) m.src
  split at ht
  next =>
    rw [ht]
    refine ⟨?_, fun c => mem_noteReply, fun _ => rfl⟩
    rw [honly]
  next hleft =>
    rw [ht]
    refine ⟨?_, fun c => mem_noteReply, fun h => absurd (hall.2 h) hleft⟩
    rw [honly]

theorem takeLinkStatus_healthy {s : State} {m : Msg} (h : Ready s m 0x12) (hbit : bitOf m.aux 0 = false) :
    takeLinkStatus s m = consumeMsg s m := by
  rw [takeLinkStatus, if_neg (by simp [h.1, h.2])]
  split
  next => rfl
  next => exact if_neg (by simp [hbit])

theorem takeLinkStatus_sepia {s : State} {m : Msg} (h : Ready s m 0x12) (hbit : bitOf m.aux 0 = true) {r : RxMsg}
    (hr : s.gl.rx.find? (fun r => r.m == m) = some r) : takeLinkStatus s m =
      linkMod (consumeMsg s m) r.link (fun k => if k.state = 5 then k else { k with sepiaDue := true }) := by
  rw [takeLinkStatus, if_neg (by simp [h.1, h.2]), hr]
  exact if_pos hbit

/-- A message that is not at the front of its pool waits. -/
theorem discovery_notReady {s : State} {m : Msg} (h : msgReady s m = false) :
    takeDiscover s m = s ∧ takeDiscoverRep s m = s ∧ takeLinkStatus s m = s :=
  ⟨if_pos (by simp [h]), if_pos (by simp [h]), if_pos (by simp [h])⟩

/-- Settles O52: the root's commands by their conditions, the messages by their kind and AUX. -/
theorem discoveryFormsTheGroup : Obligations.DiscoveryFormsTheGroup := by
  refine ⟨fun s hroot => ⟨fun hover hdisc => ⟨_, rfl, discoveryStart_root hroot hover hdisc⟩,
      fun h => ⟨_, rfl, discoveryStart_stays (.inr h)⟩, fun t0 hdisc hdue hnone => ⟨_, rfl, ?missing⟩,
      fun hdisc hdone hsilent => ⟨_, rfl, groupFormation_root hroot hdisc hdone hsilent⟩⟩,
    fun s hroot => ⟨⟨_, rfl, discoveryStart_stays (.inl hroot)⟩, ⟨_, rfl, groupFormation_notRoot hroot⟩,
      ⟨_, rfl, discoverTimeout_notRoot hroot⟩⟩,
    fun s hdone => ⟨fun h => ⟨_, rfl, groupTimeout_late hdone h⟩,
      fun hdisc hend => ⟨_, rfl, groupTimeout_notStarted hdisc hend⟩⟩,
    fun s m => ⟨fun h hover => ⟨fun hbit => ⟨_, rfl, ?formed⟩, fun hbit => ⟨_, rfl, ?discovered⟩⟩,
      fun h => ⟨fun hroot => ⟨_, rfl, ?passed⟩, fun hroot => ⟨_, rfl, takeDiscoverRep_root h rfl hroot⟩⟩,
      fun h => ⟨fun hbit => ⟨_, rfl, takeLinkStatus_healthy h hbit⟩, fun hbit r hr hstate hlt => ⟨_, rfl, ?sepia⟩⟩,
      fun h => ?waits⟩⟩
  case missing =>
    rw [discoverTimeout_root hroot hdisc hdue hnone]
    exact ⟨rfl, fun c => mem_silentChips⟩
  case formed =>
    rw [takeDiscover_ready h hover]
    exact if_pos hbit
  case discovered =>
    rw [takeDiscover_ready h hover]
    refine ⟨_, rfl, ?_, if_neg (by simp [hbit])⟩
    dsimp only
    split
    next hsome => exact hsome
    next => rfl
  case passed =>
    rw [takeDiscoverRep_ready h]
    exact if_pos hroot
  case sepia =>
    rw [takeLinkStatus_sepia h hbit hr]
    obtain ⟨honly, hlink⟩ := onlyLink_linkMod (u := consumeMsg s m) rfl hlt
      (fun k => if k.state = 5 then k else { k with sepiaDue := true })
    exact ⟨honly, rfl, hlink.trans (if_neg hstate)⟩
  case waits =>
    obtain ⟨hdiscover, hrep, hstatus⟩ := discovery_notReady h
    exact ⟨⟨_, rfl, hdiscover⟩, ⟨_, rfl, hrep⟩, ⟨_, rfl, hstatus⟩⟩

/-- The reply of chip 1 to the discovery wave. -/
def replyMsg : Msg := ⟨0x11, false, 1, 0, 0, 0, 0, 0, 0, 0, []⟩

/-- The state after reset of a started block, the root of two chips: 50000 Turns after its wave chip 1's reply waits. -/
def discoveringReset : State :=
  { State.reset with
    boot := { BootSt.reset with running := true, topoChips := 2, discTurn := some 0, replies := [0] }
    time := { TimeSt.reset with turn := 50000 }
    gl := { GenleSt.reset with self := [replyMsg] } }

/-- The wave starts once; the silent chip is recorded as missing; its reply ends the discovery; the time-out ends group
formation without GROUP_OK. -/
theorem discovery_discoveringReset :
    Gives .discoveryStart discoveringReset (· = discoveringReset) ∧
      Gives .discoverTimeout discoveringReset (fun t => 1 ∈ t.boot.missing) ∧
      Gives (.msgDiscoverRep replyMsg) discoveringReset (fun t => 1 ∈ t.boot.replies ∧ t.boot.discDone = true) ∧
      Gives .groupFormationTimeout discoveringReset (fun t => t.boot.groupDone = true ∧ t.boot.groupOk = false) := by
  obtain ⟨root, -, timeouts, messages⟩ := discoveryFormsTheGroup
  obtain ⟨-, started, missing, -⟩ := root discoveringReset (by decide)
  obtain ⟨late, -⟩ := timeouts discoveringReset rfl
  obtain ⟨-, replies, -⟩ := messages discoveringReset replyMsg
  obtain ⟨-, replied⟩ := replies ⟨rfl, by decide⟩
  refine ⟨started (.inr (by decide)), (missing 0 rfl (by decide) rfl).imp ?_, (replied (by decide)).imp ?_,
    (late (.inl ⟨0, rfl, by decide⟩)).imp ?_⟩
  · rintro t ⟨-, hmissing⟩
    exact (hmissing 1).2 (by decide)
  · rintro t ⟨-, hreplies, hall⟩
    exact ⟨(hreplies 1).2 (by decide), hall (by decide)⟩
  · rintro t rfl
    exact ⟨rfl, rfl⟩

end Sys2Proof.Spec

/-!
PROOF. Health: grades, tests, verdicts, journal and Sepia mode (O53).
-/
namespace Sys2Proof.Spec

open Sys2Proof Sys2Proof.Machine

/-! ### A unit's record -/

theorem gradedOf_u (s : State) (u : Nat) : (gradedOf s u).u = u := by
  unfold gradedOf
  cases h : s.fh.units.find? (fun g => g.u == u) with
  | none => rfl
  | some g => simpa using List.find?_some h

theorem gradedOf_congr {s t : State} (h : t.fh.units = s.fh.units) (u : Nat) : gradedOf t u = gradedOf s u := by
  rw [gradedOf, h]
  rfl

/-- A record put in place reads back, listed or not. -/
theorem find_putGraded (l : List Graded) (g : Graded) :
    ((putGraded l g).find? (fun x => x.u == g.u)).getD (gradedNew g.u) = g := by
  have hrest : ∀ x ∈ l.filter (fun x => x.u != g.u), ¬(x.u == g.u) = true := fun x hx => by
    simpa using (List.mem_filter.1 hx).2
  unfold putGraded
  extract_lets rest
  split
  next hnew => rw [List.find?_eq_none.2 hrest, Option.getD_none, ← hnew]
  next =>
    have hbefore : (rest.filter (fun x => decide (x.u < g.u))).find? (fun x => x.u == g.u) = none :=
      List.find?_eq_none.2 fun x hx => hrest x (List.mem_of_mem_filter hx)
    rw [List.append_assoc, List.find?_append, hbefore]
    simp

theorem gradedOf_putGraded {s t : State} {g : Graded} (h : t.fh.units = putGraded s.fh.units g) : gradedOf t g.u = g := by
  rw [gradedOf, h, find_putGraded]

theorem gradedOf_gradedMod (s : State) {u : Nat} {f : Graded → Graded} (hf : ∀ g, (f g).u = g.u) :
    gradedOf (gradedMod s u f) u = f (gradedOf s u) := by
  have hu : (f (gradedOf s u)).u = u := (hf _).trans (gradedOf_u s u)
  have h := gradedOf_putGraded (s := s) (t := gradedMod s u f) (g := f (gradedOf s u)) rfl
  rwa [hu] at h

/-! ### Events and the Foreman's Hand -/

theorem ringAdd_fh (s : State) (e : Ev) : (ringAdd s e).fh = s.fh := by
  unfold ringAdd
  extract_lets prod
  split
  · rfl
  · rw [regSet_fh, scrWrite_only]

theorem irqSet_fh (s : State) (b : Nat) : (irqSet s b).fh = s.fh := rfl

/-- Of the Foreman's Hand an event changes the count, the records waiting and its unit's record. -/
theorem recordEv_fh (s : State) (cls u op detail verdict gb ga : Nat) :
    ∃ pend, (recordEv s cls u op detail verdict gb ga).fh = { s.fh with
      seq := (s.fh.seq + 1) % 2 ^ 32
      pend := pend
      writing := true
      units := putGraded s.fh.units { gradedOf s u with last := cls, bad := true } } := by
  unfold recordEv
  split
  next k v hv =>
    extract_lets e a b c
    have hv' : v.fh = s.fh := (congrArg (fun p => p.2.fh) hv).symm
    have hb : b = ringAdd a e := rfl
    have ha : a.fh = v.fh := bump_fh v _
    clear_value e a b
    have hc : c.fh = s.fh := by
      have hb' : b.fh = s.fh := by rw [hb, ringAdd_fh, ha, hv']
      subst c
      split
      · exact (irqSet_fh b irqHealth).trans hb'
      · exact hb'
    have hunits : gradedOf c u = gradedOf s u := gradedOf_congr (congrArg HealthSt.units hc) u
    clear_value c
    refine ⟨journalAdd c.fh.writing c.fh.pend e, ?_⟩
    change ({ c.fh with
      seq := (c.fh.seq + 1) % 2 ^ 32
      pend := journalAdd c.fh.writing c.fh.pend e
      writing := true
      units := putGraded c.fh.units { gradedOf c u with last := cls, bad := true } } : HealthSt) = _
    rw [hunits, hc]

theorem event_fh (s : State) (cls u op detail verdict : Nat) : ∃ pend, (event s cls u op detail verdict).fh = { s.fh with
    seq := (s.fh.seq + 1) % 2 ^ 32
    pend := pend
    writing := true
    units := putGraded s.fh.units { gradedOf s u with last := cls, bad := true } } :=
  recordEv_fh ..

/-- An event that leaves the mark of events as it was changes only the class of its unit's last event. -/
theorem gradedOf_quietEv (s : State) (cls u detail verdict gb ga : Nat) :
    gradedOf (quietEv s cls u detail verdict gb ga) u = { gradedOf s u with last := cls } := by
  obtain ⟨pend, hfh⟩ := recordEv_fh s cls u 0 detail verdict gb ga
  have h := gradedOf_putGraded (s := s) (g := { gradedOf s u with last := cls, bad := true }) (congrArg HealthSt.units hfh)
  rw [show ({ gradedOf s u with last := cls, bad := true } : Graded).u = u from gradedOf_u s u] at h
  rw [quietEv, gradedOf_gradedMod (f := fun g => { g with bad := (gradedOf s u).bad }) _ (fun _ => rfl), h]

theorem quietEv_tests (s : State) (cls u detail verdict gb ga : Nat) :
    (quietEv s cls u detail verdict gb ga).fh.tests = s.fh.tests := by
  obtain ⟨pend, hfh⟩ := recordEv_fh s cls u 0 detail verdict gb ga
  exact (congrArg HealthSt.tests hfh :)

/-! ### Buckets (R344) -/

/-- A unit's record once its bucket has leaked, when its period ends this Turn. -/
def leaked (s : State) (g : Graded) : Graded :=
  let leak := regGet s (oFhBktCtl + 4 * (g.u / 0x1000)) / 2 ^ 16
  if leak != 0 && s.time.turn % leak == 0 then { g with bucket := g.bucket - 1 } else g

theorem leaked_u (s : State) (g : Graded) : (leaked s g).u = g.u := by
  unfold leaked
  extract_lets leak
  split <;> rfl

theorem leaked_new (s : State) (u : Nat) : leaked s (gradedNew u) = gradedNew u := by
  unfold leaked
  extract_lets leak
  split <;> rfl

/-- The listed record of a unit after an update of each record that drops those with nothing recorded. -/
theorem find_filterMap_listed {f : Graded → Graded} (hu : ∀ g, (f g).u = g.u) (hnew : ∀ u, f (gradedNew u) = gradedNew u)
    (u : Nat) (l : List Graded) (hl : (l.map (fun g => g.u)).Nodup) :
    ((l.filterMap (fun g => if f g = gradedNew g.u then none else some (f g))).find? (fun g => g.u == u)).getD (gradedNew u)
      = f ((l.find? (fun g => g.u == u)).getD (gradedNew u)) := by
  induction l with
  | nil => exact (hnew u).symm
  | cons g l ih =>
    obtain ⟨hg, hl'⟩ := List.nodup_cons.1 hl
    have ih := ih hl'
    by_cases hgu : g.u = u
    · have hother : l.find? (fun g => g.u == u) = none := List.find?_eq_none.2 fun x hx hxu =>
        hg (List.mem_map.2 ⟨x, hx, (by simpa using hxu : x.u = u).trans hgu.symm⟩)
      rw [List.find?_cons_of_pos (by simpa using hgu), Option.getD_some]
      by_cases hdrop : f g = gradedNew g.u
      · rw [List.filterMap_cons, if_pos hdrop, ih, hother, Option.getD_none, hnew, hdrop, hgu]
      · rw [List.filterMap_cons, if_neg hdrop, List.find?_cons_of_pos (by simpa [hu] using hgu), Option.getD_some]
    · rw [List.find?_cons_of_neg (by simpa using hgu)]
      by_cases hdrop : f g = gradedNew g.u
      · rw [List.filterMap_cons, if_pos hdrop, ih]
      · rw [List.filterMap_cons, if_neg hdrop, List.find?_cons_of_neg (by simpa [hu] using hgu), ih]

theorem gradedOf_bucketLeak {s : State} (h : (s.fh.units.map (fun g => g.u)).Nodup) (u : Nat) :
    gradedOf (bucketLeak s) u = leaked s (gradedOf s u) :=
  find_filterMap_listed (leaked_u s) (leaked_new s) u s.fh.units h

theorem leaked_gradedOf (s : State) (u : Nat) : leaked s (gradedOf s u) =
    (let leak := regGet s (oFhBktCtl + 4 * (u / 0x1000)) / 2 ^ 16
    if leak ≠ 0 ∧ s.time.turn % leak = 0 then { gradedOf s u with bucket := (gradedOf s u).bucket - 1 } else gradedOf s u) := by
  simp [leaked, gradedOf_u]

/-! ### Verdicts (R349, R351) -/

/-- The events of a plausibility verdict leave the other units held. -/
theorem plaus_foldl_event (cls u op detail : Nat) (verdict : Nat → Nat) (l : List Nat) (s : State) :
    (l.foldl (fun s b => event s cls u op detail (verdict b)) s).fh.plaus = s.fh.plaus := by
  induction l generalizing s with
  | nil => rfl
  | cons b l ih =>
    obtain ⟨pend, hfh⟩ := event_fh s cls u op detail (verdict b)
    exact (ih _).trans (congrArg HealthSt.plaus hfh :)

/-- A verdict on a held unit is recorded by events, and then judged (R349). -/
theorem plausDone_held {s : State} {h : PlausHold} {rest : List PlausHold} (hs : s.fh.plaus = h :: rest) (differs : Bool) :
    ∃ u, EventOnly { s with fh := { s.fh with plaus := rest } } u ∧ u.fh.plaus = rest ∧
      plausDone s differs = if differs then suspectQuern u h.quern
        else if bitOf h.failed 2 then markFault (suspectQuern u h.quern) else markOverflow u := by
  unfold plausDone
  rw [hs]
  exact ⟨_, EventOnly.foldl _ (fun _ _ => event_only ..) _ _, plaus_foldl_event .., rfl⟩

/-- The Querns whose CRC is not the one two of four agree on (R351). -/
def disagreeing (s : State) (h : CheckHold) (q3 c3 crc : Nat) : List Nat :=
  ([(primaryOf s h.logical, h.primary), (checkerOf s h.logical, h.checker), (q3, c3)].filter (fun x => x.2 != crc)).map
    (fun x => x.1)

theorem mem_disagreeing {s : State} {h : CheckHold} {q3 c3 crc q : Nat} : q ∈ disagreeing s h q3 c3 crc ↔
    (q = primaryOf s h.logical ∧ h.primary ≠ crc) ∨ (q = checkerOf s h.logical ∧ h.checker ≠ crc) ∨ (q = q3 ∧ c3 ≠ crc) := by
  simp only [disagreeing, List.mem_map, List.mem_filter, List.mem_cons, List.not_mem_nil, or_false, bne_iff_ne]
  constructor
  · rintro ⟨x, ⟨rfl | rfl | rfl, hx⟩, rfl⟩
    · exact .inl ⟨rfl, hx⟩
    · exact .inr (.inl ⟨rfl, hx⟩)
    · exact .inr (.inr ⟨rfl, hx⟩)
  · rintro (⟨rfl, hx⟩ | ⟨rfl, hx⟩ | ⟨rfl, hx⟩)
    · exact ⟨_, ⟨.inl rfl, hx⟩, rfl⟩
    · exact ⟨_, ⟨.inr (.inl rfl), hx⟩, rfl⟩
    · exact ⟨_, ⟨.inr (.inr rfl), hx⟩, rfl⟩

/-- The third Quern's CRC agrees with the primary's, with the checker's, or with neither (R351). -/
theorem checkDone_third {s : State} {h : CheckHold} {rest : List CheckHold} (hs : s.fh.check = h :: rest)
    (hnone : h.third = none) (crc : Nat) :
    checkDone s crc =
      if crc = h.primary then
        if checkerOf (checkVerdict s h.logical 1 []) h.logical < 36
        then gradeMinor (checkVerdict s h.logical 1 []) (unitQuern (checkerOf (checkVerdict s h.logical 1 []) h.logical))
        else checkVerdict s h.logical 1 []
      else if crc = h.checker then checkVerdict s h.logical 2 [primaryOf s h.logical]
      else { s with fh := { s.fh with check := { h with third := some ((freeSpare s).getD 0xFF, crc) } :: rest } } := by
  unfold checkDone
  rw [hs]
  dsimp only
  rw [hnone]

/-- The fourth CRC agrees with one of the three, or all four differ (R351). -/
theorem checkDone_fourth {s : State} {h : CheckHold} {rest : List CheckHold} (hs : s.fh.check = h :: rest) {q3 c3 : Nat}
    (hthird : h.third = some (q3, c3)) (crc : Nat) :
    checkDone s crc =
      if crc ≠ h.primary ∧ crc ≠ h.checker ∧ crc ≠ c3 then markFault (checkVerdict s h.logical 4 [])
      else checkVerdict s h.logical 3 (disagreeing s h q3 c3 crc) := by
  unfold checkDone
  rw [hs]
  dsimp only
  rw [hthird]
  rfl

/-! ### In-field tests (R357 to R359) -/

theorem fieldTestDue_stays {s : State} {u : Nat} (h : testDue s u = false ∨ s.fh.sepia = true ∨ s.gov.pfActive = true) :
    fieldTestDue s u = s :=
  if_pos (by rcases h with h | h | h <;> simp [h])

theorem fieldTestDue_due {s : State} {u : Nat} (hdue : testDue s u = true) (hsepia : s.fh.sepia = false)
    (hpf : s.gov.pfActive = false) :
    fieldTestDue s u =
      if u < 36 then
        if (restState s u = 5 && (qnAt s u).item.isNone && (qnAt s u).state == 5) then startTest s u
        else gradedMod s u (fun g => { g with pendTest := true })
      else { s with fh := { s.fh with tests := s.fh.tests ++ [(u, 0)] } } :=
  if_neg (by simp [hdue, hsepia, hpf])

/-- A test without stress starts at once (R358). -/
theorem startTest_nominal {s : State} {q : Nat} (h : bitOf (regGet s oFhTestCtl) 30 = false) :
    startTest s q = qnMod (gradedMod { s with fh := { s.fh with tests := s.fh.tests ++ [(q, 0)] } } q
      (fun g => { g with pendTest := false })) q (fun n => { n with state := 7 }) := by
  simp [startTest, nextCondition, h]

theorem fieldTestResult_noTest {s : State} {u : Nat} (h : s.fh.tests.find? (fun t => t.1 == u) = none) (pass : Bool) :
    fieldTestResult s u pass = s := by
  rw [fieldTestResult, h]

theorem fieldTestResult_waits {s : State} {u : Nat} (h : s.fh.testWait.any (fun x => x.1 == u) = true) (pass : Bool) :
    fieldTestResult s u pass = s := by
  unfold fieldTestResult
  split
  next => rfl
  next => exact if_pos h

/-- A unit's record after a test (R357). -/
def tested (s : State) (u : Nat) (ok : Bool) (g : Graded) : Graded :=
  { g with
    passes := if ok then (if g.bad then 1 else min 255 (g.passes + 1)) else 0
    fails := if ok then g.fails else min 15 (g.fails + 1)
    lastTest := s.time.turn
    bad := false
    scrub := scrubPasses s u }

/-- A test's end releases the unit and its Quern; of the Foreman's Hand it changes only the lists of tests. -/
theorem releaseTest_fh (s : State) (u cond : Nat) : (releaseTest s u cond).fh = { s.fh with
    tests := s.fh.tests.filter (fun t => t.1 != u)
    testWait := s.fh.testWait.filter (fun x => x.1 != u) } := by
  unfold releaseTest
  extract_lets waits v w
  split
  · rfl
  · split <;> rfl

theorem releaseTest_time (s : State) (u cond : Nat) : (releaseTest s u cond).time = s.time := by
  unfold releaseTest
  extract_lets waits v w
  split
  · rfl
  · split <;> rfl

theorem onlyAsks_setGrade (s : State) (u g : Nat) : OnlyAsks s (setGrade s u g) := rfl

theorem onlyAsks_gradeMajor (s : State) (u : Nat) (again : Bool) : OnlyAsks s (gradeMajor s u again) := by
  unfold gradeMajor
  extract_lets g
  split
  · exact onlyAsks_askGrade ..
  · split
    · exact onlyAsks_askGrade ..
    · exact OnlyAsks.refl s

theorem OnlyAsks.gradedOf {s t : State} (h : OnlyAsks s t) (u : Nat) :
    Machine.gradedOf t u = Machine.gradedOf s u :=
  gradedOf_congr (by rw [h]) u

theorem OnlyAsks.tests {s t : State} (h : OnlyAsks s t) : t.fh.tests = s.fh.tests := by rw [h]

/-- The end of a test: the unit is released, its record takes the outcome, and an event and grades follow (R354, R357). -/
theorem fieldTestResult_ends {s : State} {u cond : Nat} (h : s.fh.tests.find? (fun t => t.1 == u) = some (u, cond))
    (hwait : s.fh.testWait.any (fun x => x.1 == u) = false) (pass : Bool) :
    ∃ detail verdict gb ga, OnlyAsks (quietEv (gradedMod (releaseTest s u cond) u
      (tested (releaseTest s u cond) u (testPass s u pass))) 0xD u detail verdict gb ga) (fieldTestResult s u pass) := by
  unfold fieldTestResult
  rw [h]
  dsimp -zeta only
  rw [if_neg (by simp [hwait])]
  extract_lets ok v w g x
  refine ⟨g.passes + g.fails * 2 ^ 8, cond + 8 * b2n ok, g.grade, g.grade, ?_⟩
  change OnlyAsks x _
  split
  · exact onlyAsks_gradeMajor ..
  · split
    · exact onlyAsks_setGrade ..
    · split
      · exact onlyAsks_setGrade ..
      · exact OnlyAsks.refl x

/-- What the end of a test leaves of the unit's record and of the tests that run. -/
theorem fieldTestResult_record {s : State} {u cond : Nat} (h : s.fh.tests.find? (fun t => t.1 == u) = some (u, cond))
    (hwait : s.fh.testWait.any (fun x => x.1 == u) = false) (pass : Bool) :
    gradedOf (fieldTestResult s u pass) u =
        { tested (releaseTest s u cond) u (testPass s u pass) (gradedOf s u) with last := 0xD } ∧
      (fieldTestResult s u pass).fh.tests = s.fh.tests.filter (fun t => t.1 != u) := by
  obtain ⟨detail, verdict, gb, ga, hasks⟩ := fieldTestResult_ends h hwait pass
  have hfh := releaseTest_fh s u cond
  have hgraded : gradedOf (releaseTest s u cond) u = gradedOf s u := gradedOf_congr (congrArg HealthSt.units hfh :) u
  refine ⟨?_, ?_⟩
  · rw [hasks.gradedOf, gradedOf_quietEv, gradedOf_gradedMod (f := tested _ u _) _ (fun _ => rfl), hgraded]
  · exact hasks.tests.trans <| (quietEv_tests ..).trans (congrArg HealthSt.tests hfh :)

/-! ### Sepia mode and the grade command (R345, R365, R366) -/

theorem enterSepia_fresh {s : State} (h : s.fh.sepia = false) (reason : Nat) :
    enterSepia s reason = sendLinkStatus (dropTraffic (flushCache (abandonStep (stopUnits (event
      { s with fh := { s.fh with sepia := true, sepiaReason := reason, sepiaDue := 0 } } 0xE 0 0 0 reason))))) :=
  if_neg (by simp [h])

theorem enterSepia_again {s : State} (h : s.fh.sepia = true) (reason : Nat) : enterSepia s reason = s :=
  if_pos h

theorem gradeSet_full {s : State} (h : cjFree s = 0) (req w : Nat) : gradeSet s req w = apb s 0 true :=
  if_pos h

/-- A grade command with a journal entry free is written to the journal, and asks for the grade of a unit there is (R345). -/
theorem gradeSet_journalled {s : State} (h : cjFree s ≠ 0) (req w : Nat) : gradeSet s req w =
    if unitExists (apb (cjWrite s req 2 0 0 0 0 0 (leBytes 4 w)) 0 false) (w % 2 ^ 16)
    then setGrade (apb (cjWrite s req 2 0 0 0 0 0 (leBytes 4 w)) 0 false) (w % 2 ^ 16) (fieldOf w 17 16)
    else apb (cjWrite s req 2 0 0 0 0 0 (leBytes 4 w)) 0 false :=
  if_neg h

/-! ### In-field tests that start -/

/-- A test without stress starts on an idle spare (R357, R358). -/
theorem fieldTestDue_idle {s : State} {u : Nat} (hinv : Inv s) (hdue : testDue s u = true) (hsepia : s.fh.sepia = false)
    (hpf : s.gov.pfActive = false) (hu : u < 36) (hstate : (qnAt s u).state = 5) (hitem : (qnAt s u).item = none)
    (hrest : restState s u = 5) (hctl : bitOf (regGet s oFhTestCtl) 30 = false) :
    (qnAt (fieldTestDue s u) u).state = 7 ∧ (∀ p, p ≠ u → qnAt (fieldTestDue s u) p = qnAt s p) ∧
      (fieldTestDue s u).fh.tests = s.fh.tests ++ [(u, 0)] ∧
      gradedOf (fieldTestDue s u) u = { gradedOf s u with pendTest := false } := by
  obtain ⟨-, -, hshape, -⟩ := hinv
  rw [fieldTestDue_due hdue hsepia hpf, if_pos hu, if_pos (by simp [hstate, hitem, hrest]), startTest_nominal hctl]
  have hqn := onlyQuern_qnMod (s := gradedMod { s with fh := { s.fh with tests := s.fh.tests ++ [(u, 0)] } } u
    (fun g => { g with pendTest := false })) (q := u) (quern_lt hshape hu) (fun n => { n with state := 7 })
  obtain ⟨⟨-, hothers⟩, hself⟩ := hqn
  refine ⟨congrArg Quern.state hself, hothers, rfl, ?_⟩
  exact gradedOf_gradedMod { s with fh := { s.fh with tests := s.fh.tests ++ [(u, 0)] } }
    (f := fun g => { g with pendTest := false }) (fun _ => rfl)

/-- A Quern that is not idle takes its test at the next change of its work (R358). -/
theorem fieldTestDue_busy {s : State} {u : Nat} (hdue : testDue s u = true) (hsepia : s.fh.sepia = false)
    (hpf : s.gov.pfActive = false) (hu : u < 36) (hstate : (qnAt s u).state ≠ 5) :
    fieldTestDue s u = gradedMod s u (fun g => { g with pendTest := true }) := by
  rw [fieldTestDue_due hdue hsepia hpf, if_pos hu, if_neg (by simp [hstate])]

/-! ### The journal (R356, R360) -/

theorem activeSlot_putSlot (s : State) (l : List (List Byte)) : activeSlot (putSlot s s.fh.slot l) = l := by
  unfold activeSlot putSlot
  by_cases h : s.fh.slot = 0
  · simp [h]
  · simp [h]

theorem putSlot_only (s : State) (k : Nat) (l : List (List Byte)) :
    putSlot s k l = { s with nor := { s.nor with slot0 := (putSlot s k l).nor.slot0, slot1 := (putSlot s k l).nor.slot1 } } := by
  unfold putSlot
  split <;> rfl

/-- Compaction changes the two slots and which of them is in use. -/
theorem compact_only (s : State) : compact s = { s with
    nor := { s.nor with slot0 := (compact s).nor.slot0, slot1 := (compact s).nor.slot1 }
    fh := { s.fh with slot := (compact s).fh.slot, generation := (compact s).fh.generation } } := by
  unfold compact
  extract_lets used gen k grades streaks
  split
  · rfl
  · rw [putSlot_only]

theorem cperAdd_fh (s : State) (e : Ev) : (cperAdd s e).fh = s.fh := by
  unfold cperAdd
  extract_lets prod
  split
  · rfl
  · rw [regSet_fh, scrWrite_only]

theorem cperAdd_nor (s : State) (e : Ev) : (cperAdd s e).nor = s.nor := by
  unfold cperAdd
  extract_lets prod
  split
  · rfl
  · rw [regSet_nor, scrWrite_only]

theorem regGet_cperAdd_full {s : State} (h : (regGet s oFhCperProd + 2 ^ 32 - regGet s oFhCperCons) % 2 ^ 32 = 256) (e : Ev) :
    regGet (cperAdd s e) oFhCperDropCnt = min (regGet s oFhCperDropCnt + 1) 0xFFFFFFFF := by
  rw [cperAdd, if_pos h, regGet_bump, if_pos rfl]

theorem regGet_cperAdd_free {s : State} (h : ¬(regGet s oFhCperProd + 2 ^ 32 - regGet s oFhCperCons) % 2 ^ 32 = 256) (e : Ev) :
    regGet (cperAdd s e) oFhCperProd = (regGet s oFhCperProd + 1) % 2 ^ 32 := by
  rw [cperAdd, if_neg h, regGet_regSet, if_pos rfl, Nat.mod_mod]

/-- The state between the journal's record and the CPER ring's: the record is in the slot in use and no longer waits. -/
def journalled (s : State) (e : Ev) (rest : List Ev) : State :=
  let u := putSlot s s.fh.slot (activeSlot s ++ [evRecord e])
  { u with fh := { u.fh with pend := rest, writing := !rest.isEmpty } }

theorem journalDone_cons {s : State} {e : Ev} {rest : List Ev} (hp : s.fh.pend = e :: rest) (hslot : s.nor.slotBytes ≠ 0) :
    journalDone s = compact (cperAdd (journalled s e rest) e) := by
  rw [journalDone, hp]
  exact if_neg hslot

theorem journalled_only (s : State) (e : Ev) (rest : List Ev) : journalled s e rest =
    { s with
      nor := { s.nor with slot0 := (journalled s e rest).nor.slot0, slot1 := (journalled s e rest).nor.slot1 }
      fh := { s.fh with pend := rest, writing := !rest.isEmpty } } := by
  unfold journalled
  rw [putSlot_only]

theorem activeSlot_journalled (s : State) (e : Ev) (rest : List Ev) :
    activeSlot (journalled s e rest) = activeSlot s ++ [evRecord e] := by
  have h := activeSlot_putSlot s (activeSlot s ++ [evRecord e])
  exact h

theorem compact_roomy {s : State} (h : s.nor.slotBytes ≤ 8 * (s.nor.slotBytes - 64 * (activeSlot s).length)) :
    compact s = s :=
  if_pos h

theorem regGet_compact (s : State) (off : Nat) : regGet (compact s) off = regGet s off := by
  rw [compact_only]
  rfl

theorem regGet_journalled (s : State) (e : Ev) (rest : List Ev) (off : Nat) :
    regGet (journalled s e rest) off = regGet s off := by
  rw [journalled_only]
  rfl

theorem activeSlot_cperAdd (s : State) (e : Ev) : activeSlot (cperAdd s e) = activeSlot s := by
  rw [activeSlot, activeSlot, cperAdd_fh, cperAdd_nor]

theorem compact_pend (s : State) : (compact s).fh.pend = s.fh.pend ∧ (compact s).fh.writing = s.fh.writing := by
  rw [compact_only]
  exact ⟨rfl, rfl⟩

theorem journalled_pend (s : State) (e : Ev) (rest : List Ev) :
    (journalled s e rest).fh.pend = rest ∧ (journalled s e rest).fh.writing = !rest.isEmpty :=
  ⟨rfl, rfl⟩

/-- The record written no longer waits. -/
theorem journalDone_pend {s : State} {e : Ev} {rest : List Ev} (hp : s.fh.pend = e :: rest) (hslot : s.nor.slotBytes ≠ 0) :
    (journalDone s).fh.pend = rest ∧ (journalDone s).fh.writing = !rest.isEmpty := by
  obtain ⟨hpend, hwriting⟩ := compact_pend (cperAdd (journalled s e rest) e)
  obtain ⟨hpend', hwriting'⟩ := journalled_pend s e rest
  rw [journalDone_cons hp hslot, hpend, hwriting, cperAdd_fh, hpend', hwriting']
  exact ⟨rfl, rfl⟩

/-- With an eighth of the slot left after it, the record is appended to the slot in use. -/
theorem journalDone_appends {s : State} {e : Ev} {rest : List Ev} (hp : s.fh.pend = e :: rest) (hslot : s.nor.slotBytes ≠ 0)
    (hroom : s.nor.slotBytes ≤ 8 * (s.nor.slotBytes - 64 * ((activeSlot s).length + 1))) :
    (journalDone s).fh.slot = s.fh.slot ∧ activeSlot (journalDone s) = activeSlot s ++ [evRecord e] := by
  have hact : activeSlot (cperAdd (journalled s e rest) e) = activeSlot s ++ [evRecord e] := by
    rw [activeSlot_cperAdd, activeSlot_journalled]
  have hbytes : (cperAdd (journalled s e rest) e).nor.slotBytes = s.nor.slotBytes := by
    rw [cperAdd_nor, journalled_only]
  rw [journalDone_cons hp hslot, compact_roomy (by rw [hact, hbytes, List.length_append]; exact hroom), cperAdd_fh,
    journalled_only]
  exact ⟨rfl, journalled_only s e rest ▸ hact⟩

/-- A full CPER ring counts one record lost. -/
theorem journalDone_cper_full {s : State} {e : Ev} {rest : List Ev} (hp : s.fh.pend = e :: rest)
    (hslot : s.nor.slotBytes ≠ 0) (hfull : (regGet s oFhCperProd + 2 ^ 32 - regGet s oFhCperCons) % 2 ^ 32 = 256) :
    regGet (journalDone s) oFhCperDropCnt = min (regGet s oFhCperDropCnt + 1) 0xFFFFFFFF := by
  have hreg := regGet_journalled s e rest
  rw [journalDone_cons hp hslot, regGet_compact, regGet_cperAdd_full (by rwa [hreg, hreg]), hreg]

theorem journalDone_cper_free {s : State} {e : Ev} {rest : List Ev} (hp : s.fh.pend = e :: rest)
    (hslot : s.nor.slotBytes ≠ 0) (hfree : ¬(regGet s oFhCperProd + 2 ^ 32 - regGet s oFhCperCons) % 2 ^ 32 = 256) :
    regGet (journalDone s) oFhCperProd = (regGet s oFhCperProd + 1) % 2 ^ 32 := by
  have hreg := regGet_journalled s e rest
  rw [journalDone_cons hp hslot, regGet_compact, regGet_cperAdd_free (by rwa [hreg, hreg]), hreg]

/-! ### The obligation -/

theorem gives_bucketLeak {s : State} (h : (s.fh.units.map (fun g => g.u)).Nodup) : Gives .bucketLeak s (fun t =>
    t = { s with fh := { s.fh with units := t.fh.units } } ∧
    ∀ u, gradedOf t u = (let leak := regGet s (oFhBktCtl + 4 * (u / 0x1000)) / 2 ^ 16
      if leak ≠ 0 ∧ s.time.turn % leak = 0 then { gradedOf s u with bucket := (gradedOf s u).bucket - 1 }
      else gradedOf s u)) :=
  ⟨_, rfl, rfl, fun u => (gradedOf_bucketLeak h u).trans (leaked_gradedOf s u)⟩

theorem gives_sepiaEnter {s : State} :
    (s.fh.sepia = false → Gives .sepiaEnter s (fun t => t = { s with fh := { s.fh with sepiaDue := 2 } })) ∧
      (s.fh.sepia = true → Gives .sepiaEnter s (· = s)) :=
  ⟨fun h => ⟨_, rfl, if_neg (by simp [h])⟩, fun h => ⟨_, rfl, if_pos h⟩⟩

theorem gives_governorStall {s : State} :
    (s.fh.sepia = true ∨ s.time.stall < 16 → Gives .governorStall s (· = s)) ∧
      (16 ≤ s.time.stall → Gives .governorStall s (· = enterSepia s 1)) := by
  refine ⟨fun h => ⟨_, rfl, ?_⟩, fun h => ⟨_, rfl, if_pos h⟩⟩
  rcases h with h | h
  · rw [enterSepia_again h, ite_self]
  · exact if_neg (Nat.not_le.2 h)

theorem gives_plausibilityReplayDone (s : State) (differs : Bool) :
    (s.fh.plaus = [] → Gives (.plausibilityReplayDone differs) s (· = s)) ∧
    ∀ h rest, s.fh.plaus = h :: rest → Gives (.plausibilityReplayDone differs) s (fun t => ∃ u,
      u = { s with regs := u.regs, mem := { s.mem with scratch := u.mem.scratch }, fh := u.fh, free := u.free } ∧
      u.fh.plaus = rest ∧ t = if differs then suspectQuern u h.quern
        else if bitOf h.failed 2 then markFault (suspectQuern u h.quern) else markOverflow u) := by
  refine ⟨fun h => ⟨_, rfl, by rw [plausDone, h]⟩, fun h rest hs => ⟨_, rfl, ?_⟩⟩
  obtain ⟨u, honly, hplaus, hdone⟩ := plausDone_held hs differs
  exact ⟨u, honly, hplaus, hdone⟩

/-- A CRC of the third Quern gives a verdict when it agrees with the primary's or the checker's, and is kept when it does
not. -/
theorem gives_checkerRecomputeDone_third {s : State} {h : CheckHold} {rest : List CheckHold} (hs : s.fh.check = h :: rest)
    (hnone : h.third = none) (crc : Nat) :
    (crc = h.primary → Gives (.checkerRecomputeDone crc) s (fun t => ∃ u, u = checkVerdict s h.logical 1 [] ∧
        t = if checkerOf u h.logical < 36 then gradeMinor u (unitQuern (checkerOf u h.logical)) else u)) ∧
      (crc ≠ h.primary → crc = h.checker → Gives (.checkerRecomputeDone crc) s (fun t =>
        t = checkVerdict s h.logical 2 [primaryOf s h.logical])) ∧
      (crc ≠ h.primary → crc ≠ h.checker → Gives (.checkerRecomputeDone crc) s (fun t =>
        t = { s with fh := { s.fh with check := { h with third := some ((freeSpare s).getD 0xFF, crc) } :: rest } })) := by
  have hdone := checkDone_third hs hnone crc
  refine ⟨fun hp => ⟨_, rfl, _, rfl, ?_⟩, fun hp hc => ⟨_, rfl, ?_⟩, fun hp hc => ⟨_, rfl, ?_⟩⟩
  · rw [hdone, if_pos hp]
  · rw [hdone, if_neg hp, if_pos hc]
  · rw [hdone, if_neg hp, if_neg hc]

/-- A CRC of the fourth Quern gives a verdict on those that disagree, or on all four. -/
theorem gives_checkerRecomputeDone_fourth {s : State} {h : CheckHold} {rest : List CheckHold} (hs : s.fh.check = h :: rest)
    {q3 c3 : Nat} (hthird : h.third = some (q3, c3)) (crc : Nat) :
    (crc ≠ h.primary → crc ≠ h.checker → crc ≠ c3 → Gives (.checkerRecomputeDone crc) s (fun t =>
        t = markFault (checkVerdict s h.logical 4 []))) ∧
      (crc = h.primary ∨ crc = h.checker ∨ crc = c3 → Gives (.checkerRecomputeDone crc) s (fun t =>
        ∃ bad, t = checkVerdict s h.logical 3 bad ∧
          ∀ q, q ∈ bad ↔ (q = primaryOf s h.logical ∧ h.primary ≠ crc) ∨ (q = checkerOf s h.logical ∧ h.checker ≠ crc) ∨
            (q = q3 ∧ c3 ≠ crc))) := by
  have hdone := checkDone_fourth hs hthird crc
  refine ⟨fun hp hc h3 => ⟨_, rfl, ?_⟩, fun hone => ⟨_, rfl, disagreeing s h q3 c3 crc, ?_, fun q => mem_disagreeing⟩⟩
  · rw [hdone, if_pos ⟨hp, hc, h3⟩]
  · rw [hdone, if_neg (by tauto)]

theorem gives_fhGradeSet (s : State) (req w : Nat) :
    (cjFree s = 0 → Gives (.fhGradeSet req w) s (fun t => t = { s with port := { s.port with apb := (0, true) } })) ∧
    (cjFree s ≠ 0 →
      let u := apb (cjWrite s req 2 0 0 0 0 0 (leBytes 4 w)) 0 false
      let n := w % 2 ^ 16
      (unitExists u n = false → Gives (.fhGradeSet req w) s (· = u)) ∧
      (unitExists u n = true → Gives (.fhGradeSet req w) s (fun t => t = { u with fh := { u.fh with
        gradeNext := u.fh.gradeNext.filter (fun p => p.1 != n) ++ [(n, fieldOf w 17 16)] } }))) := by
  refine ⟨fun h => ⟨_, rfl, gradeSet_full h req w⟩, fun h => ⟨fun hno => ⟨_, rfl, ?_⟩, fun hyes => ⟨_, rfl, ?_⟩⟩⟩
  · rw [gradeSet_journalled h, if_neg (Bool.eq_false_iff.1 hno)]
  · rw [gradeSet_journalled h, if_pos hyes, setGrade]

theorem gives_fieldTestDue {s : State} (u : Nat) (hinv : Inv s) :
    (testDue s u = false ∨ s.fh.sepia = true ∨ s.gov.pfActive = true → Gives (.fieldTestDue u) s (· = s)) ∧
    (testDue s u = true → s.fh.sepia = false → s.gov.pfActive = false →
      (36 ≤ u → Gives (.fieldTestDue u) s (fun t => t = { s with fh := { s.fh with tests := s.fh.tests ++ [(u, 0)] } })) ∧
      (u < 36 → (qnAt s u).state = 5 → (qnAt s u).item = none → restState s u = 5 →
        bitOf (regGet s oFhTestCtl) 30 = false → Gives (.fieldTestDue u) s (fun t =>
          (qnAt t u).state = 7 ∧ (∀ p, p ≠ u → qnAt t p = qnAt s p) ∧ t.fh.tests = s.fh.tests ++ [(u, 0)] ∧
          gradedOf t u = { gradedOf s u with pendTest := false })) ∧
      (u < 36 → (qnAt s u).state ≠ 5 → Gives (.fieldTestDue u) s (fun t =>
        t = { s with fh := { s.fh with units := t.fh.units } } ∧
        gradedOf t u = { gradedOf s u with pendTest := true }))) := by
  refine ⟨fun h => ⟨_, rfl, fieldTestDue_stays h⟩, fun hdue hsepia hpf => ⟨fun hu => ⟨_, rfl, ?_⟩,
    fun hu hstate hitem hrest hctl => ⟨_, rfl, fieldTestDue_idle hinv hdue hsepia hpf hu hstate hitem hrest hctl⟩,
    fun hu hstate => ⟨_, rfl, ?_⟩⟩⟩
  · rw [fieldTestDue_due hdue hsepia hpf, if_neg (Nat.not_lt.2 hu)]
  · rw [fieldTestDue_busy hdue hsepia hpf hu hstate]
    exact ⟨rfl, gradedOf_gradedMod (f := fun g => { g with pendTest := true }) s (fun _ => rfl)⟩

theorem gives_fieldTestResult {s : State} {u cond : Nat} (h : s.fh.tests.find? (fun t => t.1 == u) = some (u, cond))
    (hwait : s.fh.testWait.any (fun x => x.1 == u) = false) (pass : Bool) :
    Gives (.fieldTestResult u pass) s (fun t =>
      let g := gradedOf s u
      let ok := testPass s u pass
      (∀ x ∈ t.fh.tests, x.1 ≠ u) ∧
      (gradedOf t u).passes = (if ok then (if g.bad then 1 else min 255 (g.passes + 1)) else 0) ∧
      (gradedOf t u).fails = (if ok then g.fails else min 15 (g.fails + 1)) ∧
      (gradedOf t u).lastTest = s.time.turn ∧ (gradedOf t u).bad = false) := by
  obtain ⟨hrecord, htests⟩ := fieldTestResult_record h hwait pass
  refine ⟨_, rfl, fun x hx => ?_, ?_⟩
  · rw [htests] at hx
    simpa using (List.mem_filter.1 hx).2
  · rw [hrecord]
    exact ⟨rfl, rfl, congrArg TimeSt.turn (releaseTest_time s u cond), rfl⟩

theorem gives_journalWriteDone (s : State) :
    (s.fh.pend = [] → Gives .journalWriteDone s (fun t => t = { s with fh := { s.fh with writing := false } })) ∧
    ∀ e rest, s.fh.pend = e :: rest → s.nor.slotBytes ≠ 0 → Gives .journalWriteDone s (fun t =>
      t.fh.pend = rest ∧ t.fh.writing = !rest.isEmpty ∧
      (s.nor.slotBytes ≤ 8 * (s.nor.slotBytes - 64 * ((activeSlot s).length + 1)) →
        t.fh.slot = s.fh.slot ∧ activeSlot t = activeSlot s ++ [evRecord e]) ∧
      (let full := (regGet s oFhCperProd + 2 ^ 32 - regGet s oFhCperCons) % 2 ^ 32 = 256
       (full → regGet t oFhCperDropCnt = min (regGet s oFhCperDropCnt + 1) 0xFFFFFFFF) ∧
       (¬ full → regGet t oFhCperProd = (regGet s oFhCperProd + 1) % 2 ^ 32))) := by
  refine ⟨fun h => ⟨_, rfl, by rw [journalDone, h]⟩, fun e rest hp hslot => ?_⟩
  obtain ⟨hpend, hwriting⟩ := journalDone_pend hp hslot
  exact ⟨_, rfl, hpend, hwriting, journalDone_appends hp hslot, journalDone_cper_full hp hslot,
    journalDone_cper_free hp hslot⟩

/-- Settles O53, command by command: what each does to its unit's record (a record put in place reads back), to the verdicts
held, to the tests and to the journal. -/
theorem healthCommandsChangeGradesTestsAndJournals : Obligations.HealthCommandsChangeGradesTestsAndJournals := by
  unfold Obligations.HealthCommandsChangeGradesTestsAndJournals
  refine ⟨fun s h => gives_bucketLeak h, fun s => ?sepia, gives_plausibilityReplayDone, fun s crc => ⟨?noCheck, ?check⟩,
    gives_fhGradeSet, fun s u => gives_fieldTestDue u, fun s u pass => ?result, gives_journalWriteDone⟩
  case sepia =>
    obtain ⟨enters, again⟩ := gives_sepiaEnter (s := s)
    obtain ⟨stays, stalls⟩ := gives_governorStall (s := s)
    refine ⟨⟨_, rfl, rfl⟩, ⟨_, rfl, rfl⟩, ⟨_, rfl, rfl⟩, ⟨_, rfl, rfl⟩, enters, fun h => ⟨again h, stays (.inl h)⟩,
      fun h => stays (.inr h), fun hstall h => (stalls hstall).imp fun t ht => ?_⟩
    rw [ht, enterSepia_fresh h]
  case noCheck => exact fun h => ⟨_, rfl, by rw [checkDone, h]⟩
  case check =>
    intro h rest hs
    refine ⟨fun hnone hp _ => ?_, fun hnone => ?_, fun hnone => ?_, fun q3 c3 hthird =>
      gives_checkerRecomputeDone_fourth hs hthird crc⟩
    · obtain ⟨primary, -, -⟩ := gives_checkerRecomputeDone_third hs hnone crc
      exact primary hp
    · obtain ⟨-, checker, -⟩ := gives_checkerRecomputeDone_third hs hnone crc
      exact checker
    · obtain ⟨-, -, neither⟩ := gives_checkerRecomputeDone_third hs hnone crc
      exact neither
  case result =>
    exact ⟨fun h => ⟨_, rfl, fieldTestResult_noTest h pass⟩, fun h => ⟨_, rfl, fieldTestResult_waits h pass⟩,
      fun cond h hwait => gives_fieldTestResult h hwait pass⟩

/-- A unit's record with three events in its bucket. -/
def strained (u : Nat) : Graded := { gradedNew u with bucket := 3 }

/-- An event of Quern 4 that waits for the journal. -/
def waitingEv : Ev := ⟨0, 0, 4, 0xD, 0, 0, 1, 0, 0, 0, 0, 0, 0⟩

/-- The state after reset with Quern 4 under test, its bucket filled, a check that waits for its third CRC, a record that
waits for the journal and a Governor that has stalled for 16 Turns. -/
def healthReset : State :=
  { State.reset with
    nor := { NorSt.reset with slotBytes := 65536 }
    time := { TimeSt.reset with stall := 16 }
    fh := { HealthSt.reset with
      units := [strained 4], pend := [waitingEv], check := [⟨0, 7, 8, none⟩], tests := [(4, 0)] } }

/-- The bucket leaks, the third CRC is kept, the test passes, the record is written, and the stall leads to Sepia mode. -/
theorem health_healthReset :
    Gives .bucketLeak healthReset (fun t => (gradedOf t 4).bucket = 2) ∧
      Gives (.checkerRecomputeDone 9) healthReset (fun t => t.fh.check = [⟨0, 7, 8, some (32, 9)⟩]) ∧
      Gives (.fieldTestResult 4 true) healthReset (fun t => (gradedOf t 4).passes = 1) ∧
      Gives .journalWriteDone healthReset (fun t => t.fh.pend = [] ∧ activeSlot t = [evRecord waitingEv] ∧
        regGet t oFhCperProd = 1) ∧
      Gives .governorStall healthReset (fun t => ∃ u : State, u.fh.sepia = true ∧
        t = sendLinkStatus (dropTraffic (flushCache (abandonStep (stopUnits (event u 0xE 0 0 0 1)))))) := by
  obtain ⟨leaks, sepia, -, check, -, -, result, journal⟩ := healthCommandsChangeGradesTestsAndJournals
  obtain ⟨-, -, -, -, -, -, -, stalls⟩ := sepia healthReset
  obtain ⟨-, check⟩ := check healthReset 9
  obtain ⟨-, -, neither, -⟩ := check ⟨0, 7, 8, none⟩ [] rfl
  obtain ⟨-, -, ends⟩ := result healthReset 4 true
  obtain ⟨-, writes⟩ := journal healthReset
  refine ⟨(leaks healthReset (by decide)).imp ?leaked, (neither rfl (by decide) (by decide)).imp ?kept,
    (ends 0 rfl rfl).imp ?passed, (writes waitingEv [] rfl (by decide)).imp ?written,
    (stalls (by decide) rfl).imp ?sepia⟩
  case leaked =>
    rintro t ⟨-, hgraded⟩
    rw [hgraded]
    decide
  case kept =>
    rintro t rfl
    decide
  case passed =>
    rintro t ⟨-, hpasses, -⟩
    rw [hpasses]
    decide
  case written =>
    rintro t ⟨hpend, -, hroom, hcper⟩
    obtain ⟨-, hact⟩ := hroom (by decide)
    obtain ⟨-, hprod⟩ := hcper
    exact ⟨hpend, hact, (hprod (by decide)).trans (by decide)⟩
  case sepia =>
    rintro t rfl
    exact ⟨_, rfl, rfl⟩

end Sys2Proof.Spec
